-- ==== Sys2Proof/Word.lean ====
section
/-! DEFINITION. The machine's words and the plainest arithmetic on them. -/

namespace Sys2Proof

/-- One byte. -/
abbrev Byte := BitVec 8

/-- A scalar register, an instruction word (R15, R106). -/
abbrev Word := BitVec 64

/-- A vector register (R106). -/
abbrev Vec := BitVec 512

/-- A register field (R40). -/
abbrev Reg := BitVec 5

/-- All ones, what `p0` reads (R35). -/
def Word.ones : Word := BitVec.allOnes 64

/-- The field of width `w` that starts at bit `lo` (R35: `x[hi:lo]`). -/
def bits {n : Nat} (x : BitVec n) (lo w : Nat) : BitVec w := x.extractLsb' lo w

/-- The same field as a number. -/
def field {n : Nat} (x : BitVec n) (lo w : Nat) : Nat := (x.extractLsb' lo w).toNat

/-- `x` with the field of width `w` at bit `lo` replaced by `v`. -/
def setBits {n : Nat} (x : BitVec n) (lo w : Nat) (v : BitVec w) : BitVec n :=
  (x &&& ~~~((BitVec.allOnes w).zeroExtend n <<< lo)) ||| (v.zeroExtend n <<< lo)

/-- A truth value as a word. -/
def Word.ofBool (b : Bool) : Word := if b then 1 else 0

/-- All ones or all zeros (R129, R200). -/
def Word.mask (b : Bool) : Word := if b then Word.ones else 0

/-- Reading a list of pairs by key. -/
def lookupKey {κ α : Type} [DecidableEq κ] (k : κ) : List (κ × α) → Option α
  | [] => none
  | (k', a) :: rest => if k' = k then some a else lookupKey k rest

/-- Writing a list of pairs at a key: the pair is replaced where it stands, or added at the end. -/
def putKey {κ α : Type} [DecidableEq κ] (k : κ) (a : α) : List (κ × α) → List (κ × α)
  | [] => [(k, a)]
  | (k', a') :: rest => if k' = k then (k, a) :: rest else (k', a') :: putKey k a rest

/-- Removing a key. -/
def dropKey {κ α : Type} [DecidableEq κ] (k : κ) : List (κ × α) → List (κ × α)
  | [] => []
  | (k', a') :: rest => if k' = k then dropKey k rest else (k', a') :: dropKey k rest

end Sys2Proof
end

