-- ==== Sys2Proof/Config.lean ====
section
/-! DEFINITION. What an implementation fixes, and the free values: constants with no body, of which no proof
can see a value. -/

namespace Sys2Proof

/-- Which of several free numbers, slots, barriers or records the n-th open allotment takes (R438); the
allotment uses it modulo the number of free ones. Free value: log entry 2. -/
opaque Config.choice : Nat → Nat

/-- A free word, for results the manual leaves open. Free value: log entry 3. -/
opaque Config.freeWord : Nat → Word

/-- The public key in the hub dies, fixed at manufacture: root and seed of XMSS, 32 bytes each (R431). Free value: log entry 10. -/
opaque Config.firmwareKey : BitVec 256 × BitVec 256

/-- The signature of a firmware image, whose place the manual does not give (R431, R432). Free value: log entry 10. -/
opaque Config.imageSignature : List Byte → List Byte

/-- The version number in a firmware image's header, whose place the manual does not give (R431). Free
value: log entry 10. -/
opaque Config.imageVersion : List Byte → Nat

/-- Whether the signature of the module configuration in flash verifies (R424). Free value: log entry 10. -/
opaque Config.configVerifies : Bool

/-- The bytes of the stored repair map, whose form the manual does not give (R434). Free value: log entry 10. -/
opaque Config.repairMapBytes : List (Nat × Nat) → List Byte

/-- The public seed of the device's XMSS^MT key (R433). Free value: log entry 10. -/
opaque Config.attestSeed : BitVec 256

/-- The secret of that key from which the randomness of a signature comes (R433). Free value: log entry 10. -/
opaque Config.attestRandom : BitVec 256

/-- The secret start of a WOTS+ chain of that key: layer, tree, leaf and chain (R433). Free value: log entry 10. -/
opaque Config.attestSecret : Nat → Nat → Nat → Nat → BitVec 256

/-- The packet class of an access of a context (0), a peer (1) or a stream (2) at a memory slice, which no rule gives (R245). Free
value: log entry 107. -/
opaque Config.accessClass : Nat → Fin 3

/-- The slack field of such an access where its class has one (R245). Free value: log entry 107. -/
opaque Config.accessSlack : Nat → Fin 65536

/-- Which Dyfold circuit the graph of an image joins to a port, and the SLOTS of the channel less 1: image, row and column,
whether the port is the channel's sink, endpoint (R417, R418). Free value: log entry 56. -/
opaque Config.dyfold : Nat → Nat → Nat → Bool → Nat → Option (Fin 64 × Fin 15)

/-- The state after reset of the host list in the signed module configuration (R423): choice, log entry 9. -/
def Config.hostList : List (BitVec 12) := [1]

/-- The package's own Dyfold node: choice, log entry 9. -/
def Config.node : BitVec 12 := 0

end Sys2Proof
end

