-- ==== Sys2Proof/Syntax.lean ====
section
/-! DEFINITION. The instructions, one constructor for each row of spec/opcode_table.json: the instructions of R50
with their fields, the happenings of the part and the commands of the host with their arguments. -/

namespace Sys2Proof

/-- Element types (R61). -/
inductive Ty where
  | i8 | i16 | i32 | i64 | i4 | fp8a | fp8b | bf16 | fp16 | fp32
  deriving DecidableEq, Repr

/-- Width in bits (R61). -/
def Ty.width : Ty → Nat
  | .i8 => 8 | .i16 => 16 | .i32 => 32 | .i64 => 64 | .i4 => 4
  | .fp8a => 8 | .fp8b => 8 | .bf16 => 16 | .fp16 => 16 | .fp32 => 32

/-- Whether the type is an integer type (R61). -/
def Ty.isInt : Ty → Bool
  | .i8 | .i16 | .i32 | .i64 | .i4 => true
  | _ => false

/-- The TY code (R61). -/
def Ty.code : Ty → BitVec 4
  | .i8 => 0 | .i16 => 1 | .i32 => 2 | .i64 => 3 | .i4 => 4
  | .fp8a => 5 | .fp8b => 6 | .bf16 => 7 | .fp16 => 8 | .fp32 => 9

/-- The type of a TY code; 10 to 15 name none (R61). -/
def Ty.ofCode (c : BitVec 4) : Option Ty :=
  match c.toNat with
  | 0 => some .i8 | 1 => some .i16 | 2 => some .i32 | 3 => some .i64 | 4 => some .i4
  | 5 => some .fp8a | 6 => some .fp8b | 7 => some .bf16 | 8 => some .fp16 | 9 => some .fp32
  | _ => none

/-- Rounding modes (R72). -/
inductive RM where
  | rne | rtz | rdn | rup
  deriving DecidableEq, Repr

/-- The code of a rounding mode (R72). -/
def RM.code : RM → BitVec 2
  | .rne => 0 | .rtz => 1 | .rdn => 2 | .rup => 3

/-- The rounding mode of a code (R72). -/
def RM.ofCode (c : BitVec 2) : RM :=
  match c.toNat with
  | 0 => .rne | 1 => .rtz | 2 => .rdn | _ => .rup

/-- Scopes (R308). -/
inductive Scope where
  | tile | die | pkg | fab
  deriving DecidableEq, Repr

/-- The code of a scope (R308). -/
def Scope.code : Scope → BitVec 2
  | .tile => 0 | .die => 1 | .pkg => 2 | .fab => 3

/-- The scope of a code (R308). -/
def Scope.ofCode (c : BitVec 2) : Scope :=
  match c.toNat with
  | 0 => .tile | 1 => .die | 2 => .pkg | _ => .fab

/-- The guard of every instruction word (R37): predicate register and inversion. -/
structure Guard where
  g : BitVec 3
  n : Bool
  deriving DecidableEq, Repr

/-- The fields of format A (R40). -/
structure FmtA where
  d : Reg
  s1 : Reg
  s2 : Reg
  s3 : Reg
  ty : Ty
  rm : RM
  sat : Bool
  u : Bool
  sub : BitVec 2
  deriving DecidableEq, Repr

/-- The fields of format B (R41); MOD4 is the TY value or zero in every instruction. -/
structure FmtB where
  d : Reg
  s1 : Reg
  mod4 : Ty
  imm : BitVec 32
  deriving DecidableEq, Repr

/-- The fields of format C (R42). -/
structure FmtC where
  s1 : Reg
  s2 : Reg
  off : BitVec 32
  deriving DecidableEq, Repr

/-- The fields of format M (R43). -/
structure FmtM where
  d : Reg
  b : Reg
  x : Reg
  ord : BitVec 2
  sco : Scope
  ty : Ty
  sub : BitVec 3
  off : BitVec 20
  deriving DecidableEq, Repr

/-- The fields of format Q (R44). -/
structure FmtQ where
  d : Reg
  s1 : Reg
  s2 : Reg
  port : BitVec 4
  tok : BitVec 4
  m7 : BitVec 7
  imm : BitVec 16
  deriving DecidableEq, Repr

/-- The fields of format S (R45); SREG is CODE in `trap` and `ebrk` and the block size in `tlbinv` (R386, R398). -/
structure FmtS where
  d : Reg
  s1 : Reg
  sreg : BitVec 16
  deriving DecidableEq, Repr

/-- A tile's absolute coordinate (R2). -/
structure TileId where
  die : Nat
  row : Nat
  col : Nat
  deriving DecidableEq, Repr

/-- A register that a write may be outstanding on (R109). -/
inductive RegRef where
  | s (i : Fin 32)
  | v (i : Fin 16)
  | p (i : Fin 8)
  deriving DecidableEq, Repr

/-- A global access: the access `id` of a context's global queue, the n-th request taken in from a peer, or an element of a stream
by the number it was issued under. -/
inductive AccRef where
  | ctx (t : TileId) (c : Fin 4) (id : Nat)
  | inbound (n : Nat)
  | stream (t : TileId) (g : Fin 4) (n : Nat)
  deriving DecidableEq, Repr

/-- A destination's answer to a SEAL (R371), or its loss. -/
inductive BaleAnswer where
  | ready
  | refuse (cause : Nat)
  | lost
  deriving DecidableEq, Repr

/-- What a peer's DATA flit asks for (R414-R416, R369-R372, R419). The manual gives the payload no format:
the argument stands for it. -/
inductive PeerRequest where
  | read (tag va n : Nat)
  | write (tag va n : Nat) (data : BitVec 512)
  | atomic (tag va : Nat) (fn : BitVec 4) (ty : Ty) (operand compare : Word)
  | call (tag va : Nat) (prog : BitVec 2) (operand : Word)
  | baleStore (handle : Word) (va n : Nat) (data : BitVec 512)
  | seal (handle : Word) (count : Nat)
  | decision (handle : Word) (commit : Bool)
  | purge (region : BitVec 11) (gen : BitVec 8)
  deriving DecidableEq, Repr

/-- A peer's answer to a remote request (R296, R415, R416): the value, the cause of its failure with its REASON, or, for
POISON, with the byte offset of the lowest poisoned word, or that a read is to come again. -/
inductive RemoteAnswer where
  | value (data : BitVec 512)
  | fail (cause : BitVec 8) (reason : Nat)
  | retry
  deriving DecidableEq, Repr

/-- What the packet network's check finds in a packet that it delivers (R399): nothing, data that fail their parity, or a header
with an uncorrectable error. -/
inductive PacketFault where
  | clean | data | header
  deriving DecidableEq, Repr

/-- An access served at its slice or atomic unit, and what the check finds in its packet (R245, R399). -/
structure Served where
  acc : AccRef
  fault : PacketFault
  deriving DecidableEq, Repr

/-- The counter whose beacon arrives, and what the check finds in its packet (R240, R399). -/
structure BeaconRef where
  g : Fin 16
  fault : PacketFault
  deriving DecidableEq, Repr

/-- The die whose barrier pool takes what has come first, and what the check finds in its packet (R324, R399). -/
structure PoolTurn where
  die : Fin 8
  fault : PacketFault
  deriving DecidableEq, Repr

/-- A packet of a transfer, or a tagged store on its way to the loft, that is delivered: its index among those under way, and what the
check finds. -/
structure Landing where
  index : Nat
  fault : PacketFault
  deriving DecidableEq, Repr

/-- A host's command (R419): sending node, TAG and the seven arguments. -/
structure Cmd where
  node : BitVec 12
  tag : BitVec 32
  a : Vector Word 7
  deriving DecidableEq, Repr

/-- The instructions: one constructor for each row of the opcode table. -/
inductive Instr where
  | br (g : Guard) (o : FmtC)
  | beq (g : Guard) (o : FmtC)
  | bne (g : Guard) (o : FmtC)
  | blt (g : Guard) (o : FmtC)
  | bge (g : Guard) (o : FmtC)
  | bltu (g : Guard) (o : FmtC)
  | bgeu (g : Guard) (o : FmtC)
  | bp (g : Guard) (o : FmtC)
  | bnp (g : Guard) (o : FmtC)
  | jal (g : Guard) (o : FmtB)
  | jalr (g : Guard) (o : FmtB)
  | yield (g : Guard) (o : FmtB)
  | park (g : Guard) (o : FmtB)
  | nop (g : Guard) (o : FmtB)
  | add (g : Guard) (o : FmtA)
  | sub (g : Guard) (o : FmtA)
  | mul (g : Guard) (o : FmtA)
  | mulh (g : Guard) (o : FmtA)
  | mulhu (g : Guard) (o : FmtA)
  | div (g : Guard) (o : FmtA)
  | divu (g : Guard) (o : FmtA)
  | rem (g : Guard) (o : FmtA)
  | remu (g : Guard) (o : FmtA)
  | and (g : Guard) (o : FmtA)
  | or (g : Guard) (o : FmtA)
  | xor (g : Guard) (o : FmtA)
  | andn (g : Guard) (o : FmtA)
  | sll (g : Guard) (o : FmtA)
  | srl (g : Guard) (o : FmtA)
  | sra (g : Guard) (o : FmtA)
  | rol (g : Guard) (o : FmtA)
  | min (g : Guard) (o : FmtA)
  | max (g : Guard) (o : FmtA)
  | minu (g : Guard) (o : FmtA)
  | maxu (g : Guard) (o : FmtA)
  | slt (g : Guard) (o : FmtA)
  | sltu (g : Guard) (o : FmtA)
  | sel (g : Guard) (o : FmtA)
  | clz (g : Guard) (o : FmtA)
  | ctz (g : Guard) (o : FmtA)
  | popc (g : Guard) (o : FmtA)
  | brev (g : Guard) (o : FmtA)
  | addi (g : Guard) (o : FmtB)
  | andi (g : Guard) (o : FmtB)
  | ori (g : Guard) (o : FmtB)
  | xori (g : Guard) (o : FmtB)
  | slli (g : Guard) (o : FmtB)
  | srli (g : Guard) (o : FmtB)
  | srai (g : Guard) (o : FmtB)
  | slti (g : Guard) (o : FmtB)
  | sltiu (g : Guard) (o : FmtB)
  | li (g : Guard) (o : FmtB)
  | lhi (g : Guard) (o : FmtB)
  | pand (g : Guard) (o : FmtA)
  | por (g : Guard) (o : FmtA)
  | pxor (g : Guard) (o : FmtA)
  | pandn (g : Guard) (o : FmtA)
  | pnot (g : Guard) (o : FmtA)
  | pfrom (g : Guard) (o : FmtA)
  | pto (g : Guard) (o : FmtA)
  | icmp (g : Guard) (o : FmtA)
  | lea (g : Guard) (o : FmtA)
  | sbank (g : Guard) (o : FmtA)
  | clamp (g : Guard) (o : FmtA)
  | fadd (g : Guard) (o : FmtA)
  | fsub (g : Guard) (o : FmtA)
  | fmul (g : Guard) (o : FmtA)
  | fma (g : Guard) (o : FmtA)
  | fdiv (g : Guard) (o : FmtA)
  | fsqrt (g : Guard) (o : FmtA)
  | fmin (g : Guard) (o : FmtA)
  | fmax (g : Guard) (o : FmtA)
  | fcmp (g : Guard) (o : FmtA)
  | fcvt (g : Guard) (o : FmtA)
  | fclass (g : Guard) (o : FmtA)
  | fsgnj (g : Guard) (o : FmtA)
  | vadd (g : Guard) (o : FmtA)
  | vsub (g : Guard) (o : FmtA)
  | vmul (g : Guard) (o : FmtA)
  | vmulh (g : Guard) (o : FmtA)
  | vmin (g : Guard) (o : FmtA)
  | vmax (g : Guard) (o : FmtA)
  | vabs (g : Guard) (o : FmtA)
  | vand (g : Guard) (o : FmtA)
  | vor (g : Guard) (o : FmtA)
  | vxor (g : Guard) (o : FmtA)
  | vsll (g : Guard) (o : FmtA)
  | vsrl (g : Guard) (o : FmtA)
  | vsra (g : Guard) (o : FmtA)
  | vfadd (g : Guard) (o : FmtA)
  | vfsub (g : Guard) (o : FmtA)
  | vfmul (g : Guard) (o : FmtA)
  | vfma (g : Guard) (o : FmtA)
  | vfmin (g : Guard) (o : FmtA)
  | vfmax (g : Guard) (o : FmtA)
  | vfabs (g : Guard) (o : FmtA)
  | vfneg (g : Guard) (o : FmtA)
  | vfrcp (g : Guard) (o : FmtA)
  | vfrsq (g : Guard) (o : FmtA)
  | vfexp2 (g : Guard) (o : FmtA)
  | vflog2 (g : Guard) (o : FmtA)
  | vcmp (g : Guard) (o : FmtA)
  | vfcmp (g : Guard) (o : FmtA)
  | vcvt (g : Guard) (o : FmtA)
  | vscale (g : Guard) (o : FmtA)
  | vbcast (g : Guard) (o : FmtA)
  | vext (g : Guard) (o : FmtA)
  | vins (g : Guard) (o : FmtA)
  | vperm (g : Guard) (o : FmtA)
  | vslide (g : Guard) (o : FmtA)
  | vzip (g : Guard) (o : FmtA)
  | vunzip (g : Guard) (o : FmtA)
  | vsel (g : Guard) (o : FmtA)
  | vcompress (g : Guard) (o : FmtA)
  | vexpand (g : Guard) (o : FmtA)
  | vmov (g : Guard) (o : FmtA)
  | vredadd (g : Guard) (o : FmtA)
  | vredmax (g : Guard) (o : FmtA)
  | vredmin (g : Guard) (o : FmtA)
  | vredfadd (g : Guard) (o : FmtA)
  | vdot (g : Guard) (o : FmtA)
  | mma (g : Guard) (o : FmtQ)
  | mmav (g : Guard) (o : FmtQ)
  | mzero (g : Guard) (o : FmtQ)
  | mswap (g : Guard) (o : FmtQ)
  | mrd (g : Guard) (o : FmtQ)
  | mwr (g : Guard) (o : FmtQ)
  | mdrain (g : Guard) (o : FmtQ)
  | mcfg (g : Guard) (o : FmtQ)
  | mcfgGive (g : Guard) (o : FmtQ)
  | nred (g : Guard) (o : FmtQ)
  | nres (g : Guard) (o : FmtQ)
  | nclr (g : Guard) (o : FmtQ)
  | ld (g : Guard) (o : FmtM)
  | st (g : Guard) (o : FmtM)
  | vld (g : Guard) (o : FmtM)
  | vst (g : Guard) (o : FmtM)
  | vldx (g : Guard) (o : FmtM)
  | vstx (g : Guard) (o : FmtM)
  | vlds (g : Guard) (o : FmtM)
  | vsts (g : Guard) (o : FmtM)
  | gld (g : Guard) (o : FmtM)
  | gst (g : Guard) (o : FmtM)
  | gvld (g : Guard) (o : FmtM)
  | gvst (g : Guard) (o : FmtM)
  | gldw (g : Guard) (o : FmtM)
  | gstw (g : Guard) (o : FmtM)
  | gprf (g : Guard) (o : FmtM)
  | pclr (g : Guard) (o : FmtM)
  | amoadd (g : Guard) (o : FmtM)
  | amofadd (g : Guard) (o : FmtM)
  | amomin (g : Guard) (o : FmtM)
  | amomax (g : Guard) (o : FmtM)
  | amominu (g : Guard) (o : FmtM)
  | amomaxu (g : Guard) (o : FmtM)
  | amoand (g : Guard) (o : FmtM)
  | amoor (g : Guard) (o : FmtM)
  | amoxor (g : Guard) (o : FmtM)
  | amoswap (g : Guard) (o : FmtM)
  | amocas (g : Guard) (o : FmtM)
  | amocall (g : Guard) (o : FmtM)
  | fence (g : Guard) (o : FmtM)
  | fencex (g : Guard) (o : FmtM)
  | send (g : Guard) (o : FmtQ)
  | vsend (g : Guard) (o : FmtQ)
  | recv (g : Guard) (o : FmtQ)
  | vrecv (g : Guard) (o : FmtQ)
  | tsend (g : Guard) (o : FmtQ)
  | tpeek (g : Guard) (o : FmtQ)
  | trecv (g : Guard) (o : FmtQ)
  | chk (g : Guard) (o : FmtQ)
  | bind (g : Guard) (o : FmtQ)
  | unbind (g : Guard) (o : FmtQ)
  | agrun (g : Guard) (o : FmtQ)
  | agstop (g : Guard) (o : FmtQ)
  | agstat (g : Guard) (o : FmtQ)
  | gadv (g : Guard) (o : FmtQ)
  | gset (g : Guard) (o : FmtQ)
  | gget (g : Guard) (o : FmtQ)
  | gwait (g : Guard) (o : FmtQ)
  | grate (g : Guard) (o : FmtQ)
  | glate (g : Guard) (o : FmtQ)
  | glatePop (g : Guard) (o : FmtQ)
  | xfer (g : Guard) (o : FmtQ)
  | xvia (g : Guard) (o : FmtQ)
  | xgath (g : Guard) (o : FmtQ)
  | xscat (g : Guard) (o : FmtQ)
  | xcancel (g : Guard) (o : FmtQ)
  | xstat (g : Guard) (o : FmtQ)
  | baralloc (g : Guard) (o : FmtQ)
  | barfree (g : Guard) (o : FmtQ)
  | barref (g : Guard) (o : FmtQ)
  | barinit (g : Guard) (o : FmtQ)
  | barrive (g : Guard) (o : FmtQ)
  | barexp (g : Guard) (o : FmtQ)
  | barwait (g : Guard) (o : FmtQ)
  | bartest (g : Guard) (o : FmtQ)
  | blopen (g : Guard) (o : FmtQ)
  | blseal (g : Guard) (o : FmtQ)
  | blcommit (g : Guard) (o : FmtQ)
  | blabort (g : Guard) (o : FmtQ)
  | blwait (g : Guard) (o : FmtQ)
  | blstat (g : Guard) (o : FmtQ)
  | blst (g : Guard) (o : FmtM)
  | blvst (g : Guard) (o : FmtM)
  | scroll (g : Guard) (o : FmtQ)
  | scrollQ (g : Guard) (o : FmtQ)
  | stsave (g : Guard) (o : FmtQ)
  | stload (g : Guard) (o : FmtQ)
  | cfgw (g : Guard) (o : FmtQ)
  | cfgswap (g : Guard) (o : FmtQ)
  | sysrd (g : Guard) (o : FmtS)
  | syswr (g : Guard) (o : FmtS)
  | horizonWrite (g : Guard) (o : FmtS)
  | evpendWrite (g : Guard) (o : FmtS)
  | trap (g : Guard) (o : FmtS)
  | eret (g : Guard) (o : FmtS)
  | ebrk (g : Guard) (o : FmtS)
  | wfe (g : Guard) (o : FmtS)
  | tlbinv (g : Guard) (o : FmtS)
  | chalt (g : Guard) (o : FmtS)
  | cresume (g : Guard) (o : FmtS)
  | lateTrap
  | illegalWord (w : Word)
  | dispatch (t : TileId) (c : Fin 4)
  | unitFree (t : TileId) (isFloat : Bool)
  | registerWriteLand (t : TileId) (c : Fin 4) (r : RegRef)
  | storeQueuePerform (t : TileId) (c : Fin 4)
  | headRecordExamine (q : Nat)
  | placementPass (d : Fin 8)
  | install (r : Nat)
  | sourceStart (r : Nat) (k : Nat)
  | governorWindow (t : TileId)
  | regionComplete (r : Nat)
  | channelEntryArrive (t : TileId) (k : Fin 64) (parityFail : Bool)
  | creditReturn (t : TileId) (e : Nat)
  | typedJoinConvert (t : TileId) (k : Fin 64)
  | cfgApply (t : TileId) (k : Fin 64)
  | steerFire (t : TileId) (o : Fin 8)
  | mergeFire (t : TileId) (o : Fin 8)
  | carryFire (t : TileId) (o : Fin 8)
  | forkFire (t : TileId) (o : Fin 8)
  | readStreamElement (t : TileId) (g : Fin 4)
  | writeStreamElement (t : TileId) (g : Fin 4)
  | matrixFire (t : TileId)
  | matrixSwapToken (t : TileId)
  | matrixTokenPair (t : TileId)
  | mmavDone (t : TileId)
  | drainEntry (t : TileId)
  | spindlePartialArrive (t : TileId) (k : Fin 4) (parityFail : Bool)
  | spindleRoundComplete (t : TileId) (k : Fin 4)
  | spindleCreditArrive (t : TileId) (k : Fin 4)
  | endWindow (t : TileId) (g : Fin 16)
  | beaconTimeout (t : TileId) (g : Fin 16)
  | beaconArrive (d : Fin 8) (e : Fin 64) (t : TileId) (b : BeaconRef)
  | enginePacketIssue (d : Fin 8) (e : Fin 64)
  | packetArbiterGrant (a : Nat)
  | holdReevaluate (d : Fin 8) (e : Fin 64)
  | watchRegister (id : Word)
  | watchRetry (id : Word)
  | transferPacketLand (id : Word) (l : Landing)
  | transferDone (id : Word)
  | completionEntryAppend (id : Word)
  | transferError (id : Word)
  | walkComplete (d : Fin 8) (asid : BitVec 16) (page : Nat)
  | slicePerform (a : Served)
  | atomicPerform (a : Served)
  | retryResend (a : AccRef)
  | invalidationComplete (k : Nat)
  | barrierOperation (p : PoolTurn)
  | transferArrival (p : PoolTurn)
  | loftStoreArrive (l : Landing)
  | sealSend (h : Word)
  | sealArrive (k : Nat)
  | baleReply (h : Word) (node : BitVec 12) (r : BaleAnswer)
  | baleCommitDecision (h : Word)
  | baleDecisionApply (k : Nat)
  | baleDoneReply (h : Word) (node : BitVec 12)
  | feederLoad (r : Nat) (slot : Nat)
  | feederTrainAppend (r : Nat)
  | forwardReady (t : TileId)
  | reelSwap (t : TileId)
  | stateSave (t : TileId)
  | stateRestore (t : TileId)
  | tileSnapshot (t : TileId)
  | snapshotComplete (r : Nat)
  | regionRestore (r : Nat)
  | flitReceive (p : Fin 32) (flit : BitVec 512)
  | nakReplay (p : Fin 32)
  | streamOpen (p : Fin 32)
  | streamClose (p : Fin 32)
  | dataFlit (p : Fin 32) (q : PeerRequest)
  | hello (p : Fin 32) (node : BitVec 12) (incarnation : BitVec 16)
  | creditFlit (p : Fin 32) (circuit : Fin 64) (n : Nat)
  | circFlit (p : Fin 32) (circuit : Fin 64)
  | hold (rid : Nat)
  | remoteResponse (rid : Nat) (a : RemoteAnswer)
  | remoteTimeoutExpiry (rid : Nat)
  | bridgeReplay (b : Nat)
  | qconfig (c : Cmd)
  | doorbell (c : Cmd)
  | qread (c : Cmd)
  | rootbase (c : Cmd)
  | inval (c : Cmd)
  | pageinit (c : Cmd)
  | access (c : Cmd)
  | timeout (c : Cmd)
  | nodeport (c : Cmd)
  | linkup (c : Cmd)
  | routever (c : Cmd)
  | diestate (c : Cmd)
  | kill (c : Cmd)
  | pause (c : Cmd)
  | evict (c : Cmd)
  | resume (c : Cmd)
  | halt (c : Cmd)
  | release (c : Cmd)
  | ctxrd (c : Cmd)
  | ctxwr (c : Cmd)
  | faultq (c : Cmd)
  | stale (c : Cmd)
  | resolve (c : Cmd)
  | circuit (c : Cmd)
  | clockstep (c : Cmd)
  | ratio (c : Cmd)
  | repair (c : Cmd)
  | thermal (c : Cmd)
  | attest (c : Cmd)
  | fwstage (c : Cmd)
  | hostlist (c : Cmd)
  | powerUp
  | thermalTrip (d : Nat)
  | repairEnd (d : Fin 8)
  | ack (p : Fin 32)
  | clockstepResume (d : Fin 8)
  | modulePowerOff
  deriving DecidableEq, Repr

end Sys2Proof
end

