-- ==== Sys2Proof/Machine/State.lean ====
section
/-! DEFINITION. The state of one Treleo 8D package, as plain data: everything the spec gives the machine, and the
model's own agenda of moves. Collections that the part has in large numbers are lists of what differs from the
cleared state; the accessors of Ops give the cleared state for what is not listed. -/

namespace Sys2Proof.Machine

/-- What stops the machine. -/
inductive Fault where
  /-- A move other than POWER_UP is to be taken in a module without power (R11, R429). Raised by `step`. Safe: the
  hardware does nothing there. -/
  | noPower
  deriving DecidableEq, Repr

/-- What the model gives no meaning. -/
inductive Refusal where
  /-- An instruction with no meaning yet, by its mnemonic. Raised by `exec`. Safe: nothing is proved of it. -/
  | notModelled (mnemonic : String)
  deriving DecidableEq, Repr

/-- Bytes by address, in one canonical form: addresses rising, no byte equal to what an unlisted address
reads as. -/
abbrev Memory := List Host.Cell

/-- User or supervisor mode (R378). -/
inductive Mode where
  | user | supervisor
  deriving DecidableEq, Repr

/-- State of a context (R107); HALTED keeps whether it left RUNNING (R395). -/
inductive RunState where
  | disabled | parked | running
  | halted (wasRunning : Bool)
  deriving DecidableEq, Repr

/-- Binding of a port (R119, R173). -/
inductive Binding where
  | unbound
  | input (sink : Nat)
  | output (src : Nat)
  | stream (g : Nat)
  deriving DecidableEq, Repr

/-- How an entry came to its queue: by a channel, with a credit (R170); out of a converter, its inputs' credits returned
(R179); or beside any channel: start words, completion entries, words of a stream (R96, R208, R255). -/
inductive Origin where
  | channel | joined | direct
  deriving DecidableEq, Repr

/-- One word of a channel with its token kind (R167). -/
structure Entry where
  word : BitVec 256
  kind : BitVec 4
  origin : Origin
  deriving DecidableEq, Repr

/-- Entry of a task table (R112). -/
structure Task where
  valid : Bool
  entry : BitVec 11
  pend : Bool
  resume : BitVec 11
  deriving DecidableEq, Repr

/-- Where a byte of global memory lies (R275). -/
inductive Target where
  | hbm (pa : Nat)
  | lpddr (pa : Nat)
  | remote (node : BitVec 12) (va : Nat)
  deriving DecidableEq, Repr

/-- The addresses of a page, the first and the last, through whose translation something goes (R284). -/
abbrev Span := Nat × Nat

/-- A leaf of a page table (R278, R279): page of 2^size bytes at `vbase`, its target base and its rights. -/
structure Leaf where
  vbase : Nat
  size : Nat
  base : Target
  u : Bool
  wo : Bool
  a : Bool
  w : Bool
  rd : Bool
  deriving DecidableEq, Repr

/-- What a global access does (R291, R298, R301, R369). -/
inductive GKind where
  | load (n : Nat) (zx : Bool)
  | loadV
  | loadOnce
  | store (n : Nat)
  | storeV
  | storeOnce
  | clear (len : Nat)
  | atomic (fn : BitVec 4) (ty : Ty) (nr : Bool)
  | call (prog : BitVec 2) (nr : Bool)
  | tagged (handle : Word) (n : Nat)
  deriving DecidableEq, Repr

/-- How far an access of a global queue has come (R286, R287, R294, R296, R311). -/
inductive GStage where
  | queued
  | walking
  | ready (t : Target)
  | deferred (t : Target)
  | retry (t : Target) (since : Nat)
  | sent (t : Target) (rid : Nat)
  deriving DecidableEq, Repr

/-- An access of a context's global queue (R286); once it is ready, its order of arrival at its slice (R245), the page through
which it was translated (R284) and the routing version with which it was stamped (R409). -/
structure GAccess where
  id : Nat
  kind : GKind
  dst : Reg
  va : Nat
  data : BitVec 512
  compare : Word
  ord : BitVec 2
  sco : Scope
  index : BitVec 11
  user : Bool
  stage : GStage
  order : Nat
  span : Span
  ver : Bool
  deriving DecidableEq, Repr

/-- A pending store fault (R289), with the einfo its trap writes. -/
structure StoreFault where
  cause : BitVec 8
  va : Word
  info : Word
  deriving DecidableEq, Repr

/-- A watch that a `gwait` covers and that has been removed: whether the `gwait` made it late, the cycles from its issue to
the transfer's end, and whether the transfer failed (R258, R265). -/
structure Covered where
  mark : BitVec 48
  id : Word
  late : Bool
  cycles : Nat
  failed : Bool
  deriving DecidableEq, Repr

/-- What a context that has issued an instruction still waits for; a `stsave` or `stload` with the pieces it has still to copy
(scratch address, virtual address, length), the transfer under way and the bytes written (R357). -/
inductive Wait where
  | none
  | access (id : Nat)
  | pool
  | gwait (g : Fin 16) (seen : List Covered) (since : Nat)
  | inval (k : Nat)
  | bale (d : Reg) (h : Word)
  | commit (d : Reg) (h : Word)
  | copy (d : Reg) (save : Bool) (todo : List (Nat × Nat × Nat)) (cur : Option Word) (done : Nat)
  deriving DecidableEq, Repr

/-- An entry of the event record (R259). -/
structure EventEntry where
  w0 : Word
  w1 : Word
  w2 : Word
  w3 : Word
  deriving DecidableEq, Repr

/-- A queued scratch store: bytes by physical scratch place (R159). -/
abbrev ScratchStore := List Host.Cell

/-- A context (R106, R393). `viaPorts` are the ports that an outstanding via transfer holds (R252), `busyUntil` is the
cycle before which it is not eligible because a scratch load still reads its rows (R159), `covered` are bytes of bad words
that performed stores of its queue have covered while the rest of the queue covers the others (R161), `haltDue` is the node and
TAG of a HALT that waits for the instruction boundary (R395), `slotReq` the engine of which its next instruction has asked a
slot, with the order of the request (R247). -/
structure Ctx where
  s : Vector Word 32
  v : Vector Vec 16
  p : Vector Word 8
  pc : BitVec 11
  mode : Mode
  run : RunState
  last : BitVec 4
  tasks : Vector Task 16
  ports : Vector Binding 16
  startPorts : BitVec 16
  viaPorts : BitVec 16
  startQ : Vector (List Entry) 16
  banks : BitVec 96
  trapped : Bool
  pmode : Mode
  cause : BitVec 8
  epc : BitVec 11
  eva : Word
  einfo : Word
  hvec : BitVec 11
  evmask : Bool
  evLate : Bool
  dbgStep : Bool
  brkHalt : Bool
  hcause : BitVec 8
  hidx : BitVec 11
  retired : Word
  events : List EventEntry
  lost : BitVec 8
  psf : Option StoreFault
  gq : List GAccess
  nextAcc : Nat
  utlb : List Leaf
  stq : List ScratchStore
  wait : Wait
  landing : List (RegRef × Nat)
  stepDue : Option (BitVec 11)
  busyUntil : Nat
  covered : List Nat
  haltDue : Option (BitVec 12 × BitVec 32)
  slotReq : Option (Fin 64 × Nat)
  deriving DecidableEq, Repr

/-- A context as install leaves it before any TILECFG frame (R94, R106). -/
def Ctx.cleared : Ctx where
  s := Vector.replicate 32 0
  v := Vector.replicate 16 0
  p := Vector.replicate 8 0
  pc := 0
  mode := .user
  run := .disabled
  last := 15
  tasks := Vector.replicate 16 ⟨false, 0, false, 0⟩
  ports := Vector.replicate 16 .unbound
  startPorts := 0
  viaPorts := 0
  startQ := Vector.replicate 16 []
  banks := 0
  trapped := false
  pmode := .user
  cause := 0
  epc := 0
  eva := 0
  einfo := 0
  hvec := 0
  evmask := false
  evLate := false
  dbgStep := false
  brkHalt := false
  hcause := 0
  hidx := 0
  retired := 0
  events := []
  lost := 0
  psf := none
  gq := []
  nextAcc := 0
  utlb := []
  stq := []
  wait := .none
  landing := []
  stepDue := none
  busyUntil := 0
  covered := []
  haltDue := none
  slotReq := none

/-- TILECFG section 0 of one context (R117). -/
structure CtxCfg where
  enable : Bool
  start : BitVec 16
  hvec : BitVec 11
  banks : BitVec 96
  deriving DecidableEq, Repr

/-- Settings of a sink (R191). -/
structure SinkCfg where
  valid : Bool
  lanes : Nat
  slots : Nat
  srcTy : Option Ty
  dstTy : Option Ty
  rm : RM
  scale : BitVec 32
  deriving DecidableEq, Repr

/-- Switch entry (R190). -/
structure SwitchCfg where
  valid : Bool
  inDir : Nat
  inLane : Nat
  outDir : Nat
  outLane : Nat
  width : Nat
  inEp : Nat
  outEp : Nat
  deriving DecidableEq, Repr

/-- Kinds of router operator (R192). -/
inductive OpKind where
  | none | steer | merge | carry | fork
  deriving DecidableEq, Repr

/-- Operator entry (R192). -/
structure OpCfg where
  valid : Bool
  kind : OpKind
  depth0 : Nat
  depth1 : Nat
  depth2 : Nat
  nout : Nat
  deriving DecidableEq, Repr

/-- Spindle set entry (R229); the parent direction is 0 none, 1 north, 2 east, 3 south, 4 west. -/
structure SpinCfg where
  valid : Bool
  root : Bool
  parent : Nat
  pset : Nat
  nchild : Nat
  nlocal : Nat
  deriving DecidableEq, Repr

/-- Descriptor of an address generator (R205, R206); the port word is 8, 16 or 32 bytes; `parts` tells which of its two
halves a frame has written, in bits 1:0 ever, in bits 3:2 since both were last written. -/
structure AgenCfg where
  parts : BitVec 4
  eot : Bool
  eodMask : BitVec 4
  dims : Nat
  mode : Nat
  ty : Ty
  word : Nat
  base : Nat
  count : Vector Nat 4
  stride : Vector Int 4
  deriving DecidableEq, Repr

/-- One copy of a tile's settings: TILECFG (R116-R120, R238), ROUTE (R189-R192, R229), AGEN (R205). -/
structure Settings where
  ctxs : Vector CtxCfg 4
  tasks : Vector (Vector Task 16) 4
  binds : Vector (Vector Binding 16) 4
  counterOwner : Vector (Option (Fin 4)) 16
  matrixOwner : Option (Fin 4)
  beacon : Vector (BitVec 14) 16
  switch : Vector SwitchCfg 32
  sinks : Vector SinkCfg 64
  ops : Vector OpCfg 8
  spin : Vector SpinCfg 4
  agen : Vector AgenCfg 4
  deriving DecidableEq, Repr

/-- Settings that no frame has written (R94, R121). -/
def Settings.cleared : Settings where
  ctxs := Vector.replicate 4 ⟨false, 0, 0, 0⟩
  tasks := Vector.replicate 4 (Vector.replicate 16 ⟨false, 0, false, 0⟩)
  binds := Vector.replicate 4 (Vector.replicate 16 .unbound)
  counterOwner := Vector.replicate 16 none
  matrixOwner := none
  beacon := Vector.replicate 16 0
  switch := Vector.replicate 32 ⟨false, 0, 0, 0, 0, 1, 0, 0⟩
  sinks := Vector.replicate 64 ⟨false, 1, 0, none, none, .rne, 0⟩
  ops := Vector.replicate 8 ⟨false, .none, 0, 0, 0, 0⟩
  spin := Vector.replicate 4 ⟨false, false, 0, 0, 0, 0⟩
  agen := Vector.replicate 4 ⟨0, false, 0, 1, 0, .i64, 8, 0, Vector.replicate 4 1, Vector.replicate 4 0⟩

/-- A sink (R168, R170, R178, R347): entries in flight on its circuit, at its converter with the elements of the head
already converted, the partly packed word with its element count, the scale in force, the queue a port or operator
sees, the entries held at and behind a SEAM, the CFG group being collected, whether an entry has been asked for by a
rendezvous (R171), and whether MARK has arrived in a pre-emption (R391); `sent` are the orders of the last entries in flight that
travel as packets and have not been granted yet (R245, R340). -/
structure Sink where
  inflight : List Entry
  sent : List Nat
  convIn : List Entry
  convPos : Nat
  acc : BitVec 256
  accN : Nat
  scale : BitVec 32
  queue : List Entry
  held : List Entry
  cfg : List Entry
  asked : Bool
  marked : Bool
  deriving DecidableEq, Repr

/-- An empty sink. -/
def Sink.empty : Sink := ⟨[], [], [], 0, 0, 0, 0, [], [], [], false, false⟩

/-- A source endpoint or operator output: credits at hand and credits on their way back (R170, R172). -/
structure Source where
  credits : Nat
  returning : Nat
  deriving DecidableEq, Repr

/-- States of an address generator (R212). -/
inductive AgenState where
  | idle | running | done | fault
  deriving DecidableEq, Repr

/-- How far an element access of a global stream has come (R296, R316): it may perform; its slice defers it, or has told it to
come again; another package has been asked, where the low half of a byte is stored for the byte's old value first; it has
performed. -/
inductive ElemStage where
  | ready
  | deferred
  | retry (since : Nat)
  | asked (rid : Nat) (old : Bool)
  | done
  deriving DecidableEq, Repr

/-- A piece of an element in one page: target, offset in the element, length, and whether the page is write-once. -/
abbrev Part := Target × Nat × Nat × Bool

/-- An element access that a stream has issued: its number, which is its order of arrival as well (R245), address, the pieces still
to be accessed, the pages through which they were translated, the value (of a read, as
far as it has come), the fault that it met, whether it belongs to the present run, whether later elements wait for it, whether
`data` holds the other half of an I4's byte already, the context that started its run, and its routing version (R409). -/
structure Elem where
  n : Nat
  addr : Nat
  parts : List Part
  spans : List Span
  stage : ElemStage
  data : Nat
  fails : Option (BitVec 8)
  own : Bool
  serial : Bool
  merged : Bool
  user : Fin 4
  ver : Bool
  deriving DecidableEq, Repr

/-- A running address generator (R205-R212). `pos` is the next element to be issued, `parts` the pieces of it that have been translated
and `spans` the pages of these, `flight` the elements under way, `completed` those completed; `out` are entries that wait for room in
the port's `queue`; `taken` are words that a write stream has still to store, `accN` the elements of the first that have been issued. -/
structure Agen where
  st : AgenState
  cause : BitVec 8
  completed : Nat
  pos : Nat
  base : Nat
  leaf : Option Leaf
  walking : Bool
  parts : List Part
  spans : List Span
  flight : List Elem
  acc : BitVec 256
  accN : Nat
  queue : List Entry
  out : List Entry
  taken : List Entry
  user : Fin 4
  deriving DecidableEq, Repr

/-- A generator as install leaves it (R212). -/
def Agen.idle : Agen := ⟨.idle, 0, 0, 0, 0, none, false, [], [], [], 0, 0, [], [], [], 0⟩

/-- The matrix array (R213-R227). -/
structure Matrix where
  owner : Option (Fin 4)
  config : BitVec 32
  cvalid : Bool
  run : Bool
  remaining : Option Nat
  fired : BitVec 16
  drain : Bool
  drainPort : BitVec 4
  drainTok : BitVec 4
  drainZero : Bool
  drainPos : Nat
  swapWait : Option (BitVec 256 × BitVec 256)
  act : Bool
  busy : Bool
  cause : BitVec 8
  faultWord : Word
  m0 : Vector Vec 16
  m1 : Vector Vec 16
  deriving DecidableEq, Repr

/-- The array as install leaves it, without an owner (R214, R215). -/
def Matrix.cleared : Matrix where
  owner := none
  config := 0
  cvalid := false
  run := false
  remaining := none
  fired := 0
  drain := false
  drainPort := 0
  drainTok := 0
  drainZero := false
  drainPos := 0
  swapWait := none
  act := false
  busy := false
  cause := 0
  faultWord := 0
  m0 := Vector.replicate 16 0
  m1 := Vector.replicate 16 0

/-- An EXA value (R79). -/
structure Exa where
  v : BitVec 320
  f : BitVec 3
  deriving DecidableEq, Repr

/-- A bank of a spindle set (R228); `kids` are the children whose partials it holds. -/
structure SpinBank where
  lanes : Vector Exa 16
  nlocal : Nat
  nchild : Nat
  ovf : BitVec 16
  pois : Bool
  kids : List (TileId × Fin 4)
  deriving DecidableEq, Repr

/-- An empty bank. -/
def SpinBank.empty : SpinBank := ⟨Vector.replicate 16 ⟨0, 0⟩, 0, 0, 0, false, []⟩

/-- A partial on its way to a parent (R231): EXA values in the 48 bytes of R79. -/
structure Partial where
  lanes : Vector (BitVec 384) 16
  ovf : BitVec 16
  pois : Bool
  parity : Bool
  child : TileId × Fin 4
  deriving DecidableEq, Repr

/-- A spindle set (R228), with the partials and credits on their way to it. -/
structure SpinSet where
  even : SpinBank
  odd : SpinBank
  n : Nat
  credits : Nat
  result : Option SpinBank
  partials : List Partial
  creditsIn : Nat
  deriving DecidableEq, Repr

/-- A set as install leaves it (R228). -/
def SpinSet.cleared : SpinSet := ⟨.empty, .empty, 0, 2, none, [], 0⟩

/-- A progress counter (R237); `dirty` is the cycle at which VALUE changed since the last beacon, `windows` counts the
windows of R239 that have ended. -/
structure Counter where
  value : BitVec 48
  est : BitVec 32
  decl : BitVec 32
  acc : BitVec 48
  subs : List (Fin 8 × Fin 64)
  dirty : Option Nat
  windows : Nat
  deriving DecidableEq, Repr

/-- A counter as install leaves it without a declared rate: EST at the floor of 2^-10 (R237). -/
def Counter.cleared : Counter := ⟨0, 64, 0, 0, [], none, 0⟩

/-- A watch (R254, R256, R258): whether it is late, whether a `gwait` that has not ended made it so, and whether its
transfer FAILED. -/
structure Watch where
  g : Fin 16
  mark : BitVec 48
  id : Word
  late : Bool
  byWait : Bool
  failed : Bool
  deriving DecidableEq, Repr

/-- A copy of a declared range or a segment that a feeder or a context still has to ask for: scratch address, virtual
address, length. -/
abbrev Piece := Nat × Nat × Nat

/-- A band tile after `scroll` (R339, R345-R350): slot and place in it, the half now active, the active stage and its declared
ranges, what the feeder loads next (none: nothing under way; some none: the empty configuration), whether its frames have
been applied, segments still to be asked for, whether the state has still to be restored and the pieces of that, the loading
stage's declared ranges, transfers of the load, forward-ready, the sources that still owe a SEAM, swaps since `scroll`, the
cycle from which it has been held ready, the context and mark of a scroll-rate LATE whose CYCLES are still to be written, the
pieces of a save still to be asked for, the save's transfers, and the order of a slot that the feeder has asked for it (R247). -/
structure TileReel where
  slot : Nat
  row : Nat
  col : Nat
  half : Bool
  stage : Option Nat
  ranges : List (Nat × Nat)
  loading : Option (Option Nat)
  framesDone : Bool
  segments : List Piece
  restoreDue : Bool
  restores : List Piece
  nextRanges : List (Nat × Nat)
  loads : List Word
  forwardReady : Bool
  seamsOwed : List Nat
  swaps : Nat
  heldSince : Option Nat
  lateBy : Option (Fin 4 × BitVec 48)
  toSave : List Piece
  saves : List Word
  slotReq : Option Nat
  deriving DecidableEq, Repr

/-- A tile. `storeBad` are the instruction words with an uncorrectable error: an index of the active store, or 2048 plus an index of the
shadow store; `stopping` says that a MARK has reached the tile, which issues no more and waits for its snapshot, `snapped` that the
snapshot has been taken (R391, R392); `born` is the clock of its die when sys.cycle was 0. -/
structure Tile where
  awake : Bool
  region : Option Nat
  ctxs : Vector Ctx 4
  k : Fin 4
  cycle : Word
  discard : Word
  store : List (Nat × Word)
  storeShadow : List (Nat × Word)
  storeBad : List Nat
  cfg : Settings
  cfgShadow : Settings
  sinks : List (Nat × Sink)
  sources : List (Nat × Source)
  loops : Vector Bool 8
  agens : Vector Agen 4
  matrix : Matrix
  spins : Vector SpinSet 4
  counters : Vector Counter 16
  watches : List Watch
  scratch : Memory
  scratchBad : List Nat
  divUntil : Nat
  fdivUntil : Nat
  admitted : Nat
  windows : Nat
  reel : Option TileReel
  stopping : Bool
  snapped : Bool
  born : Int
  deriving DecidableEq, Repr

/-- A tile that belongs to no region, and one that install has just cleared (R94): the same data but for `awake`. -/
def Tile.cleared : Tile where
  awake := false
  region := none
  ctxs := Vector.replicate 4 .cleared
  k := 0
  cycle := 0
  discard := 0
  store := []
  storeShadow := []
  storeBad := []
  cfg := .cleared
  cfgShadow := .cleared
  sinks := []
  sources := []
  loops := Vector.replicate 8 false
  agens := Vector.replicate 4 .idle
  matrix := .cleared
  spins := Vector.replicate 4 .cleared
  counters := Vector.replicate 16 .cleared
  watches := []
  scratch := []
  scratchBad := []
  divUntil := 0
  fdivUntil := 0
  admitted := 0
  windows := 0
  reel := none
  stopping := false
  snapped := false
  born := 0

/-- A barrier (R321). -/
structure Barrier where
  held : Option Nat
  gen : BitVec 8
  ref : BitVec 16
  phase : BitVec 32
  expect : BitVec 16
  arrived : BitVec 16
  bytes : Int
  err : BitVec 8
  errId : Word
  deriving DecidableEq, Repr

/-- A free barrier of generation 1 (R319). -/
def Barrier.free : Barrier := ⟨none, 1, 0, 0, 0, 0, 0, 0, 0⟩

/-- Operations on barriers (R328). -/
inductive BarKind where
  | alloc (d : Reg) (p : Reg)
  | free | ref
  | init (n : Word)
  | arrive (d : Reg) (n : BitVec 16)
  | exp (n : Word)
  | wait (phase : BitVec 32)
  | test (d : Reg) (phase : BitVec 32)
  deriving DecidableEq, Repr

/-- An operation on its way to a pool, with the context that waits for the reply (R324), its region and generation (R102), its order
of arrival at the network and whether an arbiter has granted it: one from the pool's own die needs none. `reached` is its order of
arrival at the pool, among operations and arrivals of transfers (R324). -/
structure BarOp where
  tile : TileId
  ctx : Fin 4
  region : Nat
  gen : BitVec 8
  kind : BarKind
  handle : Word
  order : Nat
  granted : Bool
  reached : Nat
  deriving DecidableEq, Repr

/-- A transfer's arrival at a barrier (R326), with its region and generation (R102), its engine, its order of acceptance if it is
ordered (R257), its order of arrival at the network, whether an arbiter has granted it, and its order of arrival at the pool (R245, R324). -/
structure Arrival where
  handle : Word
  bytes : Nat
  cause : BitVec 8
  id : Word
  region : Nat
  gen : BitVec 8
  engine : Fin 8 × Fin 64
  ordered : Option Nat
  order : Nat
  granted : Bool
  reached : Nat
  deriving DecidableEq, Repr

/-- Who waits on a page walk (R283), or for an answer of another package: a context, its prefetch, a stream, a transfer's
place; or the hub, a region scheduler or a reel feeder that reads a 64-byte line or writes one, on behalf of an owner: 256
times a region's number plus its generation, or 2^20 and more for a work queue's record. -/
inductive Walker where
  | ctx (t : TileId) (c : Fin 4)
  | prefetch (t : TileId) (c : Fin 4)
  | stream (t : TileId) (g : Fin 4)
  | place (id : Word)
  | hub (owner : Nat) (line : Nat)
  deriving DecidableEq, Repr

/-- A queued page walk: ASID, va[55:16], and its requesters (R283). -/
structure Walk where
  asid : BitVec 16
  page : Nat
  who : List Walker
  deriving DecidableEq, Repr

/-- A beacon: counter value, rate in use, clock step of the counter's die (R240); its order of arrival at the network, and
whether an arbiter has granted it (R245); in an engine, its age in the engine's cycles. -/
structure Beacon where
  die : Fin 8
  engine : Fin 64
  tile : TileId
  g : Fin 16
  value : BitVec 48
  rate : BitVec 32
  step : BitVec 4
  age : Nat
  order : Nat
  granted : Bool
  deriving DecidableEq, Repr

/-- States of a compute die (R101). -/
inductive DieState where
  | run | hold | off
  deriving DecidableEq, Repr

/-- An entry of a die's node cache (R283): the node that a pointer entry of a level (4 root, 3, 2) leads to, for the
addresses of a prefix. -/
structure NodeEntry where
  asid : BitVec 16
  level : Nat
  pref : Nat
  node : Target
  deriving DecidableEq, Repr

/-- A compute die. `clock` counts its cycles: as far as a tile of it has come, or its engine 0 (R416; log entry 29). Region generations,
barriers and slot uses are listed where they differ from their first value. -/
structure Die where
  st : DieState
  step : BitVec 4
  clockStopped : Option (BitVec 4)
  ratio : Vector (BitVec 16) 16
  stale : Nat
  walks : List Walk
  nodeCache : List NodeEntry
  failed : List Nat
  spares : Nat
  repairing : Option (Nat × Nat × BitVec 12 × BitVec 32)
  gens : List (Nat × BitVec 8)
  barriers : List (Nat × Barrier)
  poolQ : List BarOp
  poolWaits : List BarOp
  arrivals : List Arrival
  slotUse : List ((Nat × Nat) × Nat)
  passDue : Bool
  temp : BitVec 16
  clock : Nat
  deriving DecidableEq, Repr

/-- A die after reset (R423). -/
def Die.reset : Die where
  st := .off
  step := 0
  clockStopped := none
  ratio := Vector.replicate 16 0
  stale := 0
  walks := []
  nodeCache := []
  failed := []
  spares := 0
  repairing := none
  gens := []
  barriers := []
  poolQ := []
  poolWaits := []
  arrivals := []
  slotUse := []
  passDue := false
  temp := 0
  clock := 0

/-- A place of a transfer descriptor (R249). -/
inductive Place where
  | global (va : Nat)
  | tile (row col : Nat) (half : Bool) (off : Nat)
  deriving DecidableEq, Repr

/-- A transfer descriptor (R249). -/
structure Desc where
  src : Place
  dst : Place
  count0 : Nat
  count1 : Nat
  count2 : Nat
  sstr0 : Int
  sstr1 : Int
  sstr2 : Int
  dstr0 : Int
  dstr1 : Int
  dstr2 : Int
  mark : BitVec 48
  crow : Nat
  ccol : Nat
  cg : Fin 16
  ckind : Nat
  ctarget : BitVec 23
  srcTy : Ty
  dstTy : Ty
  rm : RM
  ordered : Bool
  vvalid : Bool
  vin : Nat
  vret : Nat
  vcons : Nat
  vprod : Nat
  deriving DecidableEq, Repr

/-- States of a transfer (R272). -/
inductive XState where
  | held | active | done | error | cancelled
  deriving DecidableEq, Repr

/-- Which instruction or unit issued a transfer (R252, R253, R345, R350, R357). -/
inductive XKind where
  | plain | via | gather | scatter
  | load | save | copy
  deriving DecidableEq, Repr

/-- Where a transfer's watch stands (R254). -/
inductive WatchSt where
  | none | wanted | refused | registered
  deriving DecidableEq, Repr

/-- What a packet of an engine does: it asks for source bytes, brings them back, or writes destination bytes (R244). -/
inductive PacketKind where
  | read | response | write
  deriving DecidableEq, Repr

/-- A packet of a transfer under way (R244, R245, R251): the place it goes to, for a global place the base of its page there with WO,
and the page's addresses (R284); for a read the offset or address of its first byte, its number of bytes, and their position in the
transfer's stream of source bytes; for a response the bytes by position; for a write the bytes by offset from the base or by scratch
address, and how many input units of it the governor has admitted already (R98); slack field, order of arrival, whether an arbiter has
granted it, whether its slice defers it, the cycle of its die before which a read told to come again does not (R296), and its routing
version (R409). -/
structure Packet where
  kind : PacketKind
  place : Place
  target : Option Target
  wo : Bool
  span : Span
  start : Nat
  len : Nat
  first : Nat
  cells : List Host.Cell
  inside : Nat
  slack : Nat
  order : Nat
  granted : Bool
  deferred : Bool
  again : Nat
  ver : Bool
  deriving DecidableEq, Repr

/-- A transfer (R247-R260). `seq` is its order of acceptance. Source bytes, in the order of R251, are asked for up to `asked`,
come back in `got`, are taken in order into `src` up to `taken`, and make units; `pos` counts the units made, or the bytes of a
via transfer's return; `out` are destination bytes that wait for a packet, by address, `landed` those landed. `remote` are reads
that another package has still to answer. `failing` is the fault that will end it, `action` the completion entry waiting for room;
for a via transfer `viaEot` says whether the EOT has been sent, and `viaBack` whether the return's EOT has come. `slot` is none
while it waits in the restore queue (R260), and after its slot has been taken again while packets of it still fly (R271). -/
structure Transfer where
  id : Word
  die : Fin 8
  engine : Fin 64
  slot : Option Nat
  tile : TileId
  ctx : Fin 4
  region : Nat
  gen : BitVec 8
  kind : XKind
  desc : Desc
  offsets : List Word
  st : XState
  cause : BitVec 8
  seq : Nat
  asked : Nat
  got : List Host.Cell
  taken : Nat
  src : List Byte
  pos : Nat
  out : List (Int × Byte)
  packets : List Packet
  remote : List Packet
  landed : Nat
  watch : WatchSt
  srcLeaf : Option Leaf
  dstLeaf : Option Leaf
  walking : Bool
  failing : Option (BitVec 8)
  action : Option Entry
  viaEot : Bool
  viaBack : Bool
  deriving DecidableEq, Repr

/-- The fields of a launch record (R87). -/
structure Launch where
  image : Nat
  frames : Nat
  segments : Nat
  tenant : BitVec 12
  asid : BitVec 16
  cls : Nat
  argw : Nat
  affinity : BitVec 8
  cols : Nat
  rows : Nat
  winlog : Nat
  words : Nat
  doneKind : Nat
  doneVa : Nat
  deps : List (Nat × Word)
  args : Vector Word 7
  deriving DecidableEq, Repr

/-- An entry of a region fault queue (R389). -/
structure FaultEntry where
  cause : BitVec 8
  kind : BitVec 8
  place : BitVec 32
  info : Word
  loc : Word
  cycle : Word
  deriving DecidableEq, Repr

/-- Life of a region (R93-R103, R390-R394). A region that has been killed, or has met R99, is `closing` until what it has
under way has performed, its completion record is written (`wrote`: the write has begun) and its tiles are gated. -/
inductive Phase where
  | placed | installed | running
  | pausing (evict : Option Nat) (node : BitVec 12) (tag : BitVec 32)
  | paused | evicted
  | restoring (save : Nat) (placed : Bool) (node : BitVec 12) (tag : BitVec 32)
  | closing (outcome : BitVec 8) (wrote : Bool)
  | ended
  deriving DecidableEq, Repr

/-- An arc of a reel (R343). -/
structure Arc where
  slots : Nat
  dist : Int
  srow : Nat
  scol : Nat
  drow : Nat
  dcol : Nat
  deriving DecidableEq, Repr

/-- A reel in service (R337-R350): the descriptor's address, whether the feeder has read it and laid the reel, its fields, the shape,
the place and context of the `scroll` with the number of its next access (R356), the swaps of slots for which a tile has been held
ready, and the train position: train, bytes appended, and what comes next: 0 a word, 1 an EOI, 2 the SEAM. -/
structure Reel where
  descriptor : Nat
  laid : Bool
  skeins : Nat
  stateBase : Nat
  trainVa : Nat
  tstride : Int
  stages : Nat
  tstate : Nat
  trainBytes : Nat
  waveBytes : Nat
  engine : Fin 64
  actr : Fin 16
  arcs : List Arc
  b : Nat
  h : Nat
  w : Nat
  trains : Nat
  issuer : (Nat × Nat) × Fin 4 × Nat
  heldSwap : List (Nat × Nat)
  train : Nat
  trainPos : Nat
  trainTail : Nat
  entryCredits : Nat
  deriving DecidableEq, Repr

/-- A region (R93-R104): number and generation, launch, place and shape in package coordinates, horizon, faults, of which `first` is the
one that the DONE record shows (R389), start ports still to be served, reel, snapshot of an evicted region by region-relative coordinate
with its save area, the ends of Dyfold circuits that it held: circuit, whether a sink, coordinate, endpoint; and a PAUSE or EVICT that
waits for the region to run: save area, node and TAG (R390, R422). -/
structure Region where
  number : Nat
  gen : BitVec 8
  phase : Phase
  launch : Launch
  queue : Nat
  seq : BitVec 32
  epoch : Nat
  top : Nat
  left : Nat
  horizon : BitVec 32
  faults : List FaultEntry
  first : Option FaultEntry
  overrun : BitVec 8
  outcome : BitVec 8
  starts : List (TileId × Fin 4 × Fin 16)
  reel : Option Reel
  saved : List ((Nat × Nat) × Tile)
  saveArea : Nat
  ends : List (Nat × Bool × (Nat × Nat) × Nat)
  waited : Nat
  preemptDue : Option (Option Nat × BitVec 12 × BitVec 32)
  deriving DecidableEq, Repr

/-- State of a work queue (R83). -/
inductive QState where
  | disabled | enabled | error
  deriving DecidableEq, Repr

/-- A work queue (R83-R91): HEAD, TAIL and C count records; `ended` are sequence numbers beyond C that have
ended; `waited` is W of the head record, `met` which of its dependences have been met, `cand` the record once it is a
candidate; `reads` counts the QCONFIGs, which tells the reads of the queue apart. -/
structure WorkQueue where
  base : Nat
  k : Nat
  tenant : BitVec 12
  asid : BitVec 16
  st : QState
  head : Nat
  tail : Nat
  c : Nat
  ended : List Nat
  epoch : Nat
  waited : Nat
  met : List Nat
  cand : Option Launch
  reads : Nat
  deriving DecidableEq, Repr

/-- A queue after reset (R83). The exponent is 0, for which no QCONFIG has been made: the queue is DISABLED and has no ring
(log entry 5). -/
def WorkQueue.reset : WorkQueue := ⟨0, 0, 0, 0, .disabled, 0, 0, 0, [], 0, 0, [], none, 0⟩

/-- An owner program at a slice (R303). -/
structure Program where
  slice : Nat
  tenant : BitVec 12
  prog : BitVec 2
  region : Nat
  k0 : BitVec 32
  k1 : BitVec 32
  steps : List (BitVec 16)
  deriving DecidableEq, Repr

/-- What an invalidation or a ROUTEVER waits for: an access of a context or of a peer, a packet, beacon or operation of a pool
by its order of arrival, a request to another package, a flit of its number, a message for the loft by its number, a bale in the
loft. -/
inductive InvalWait where
  | access (a : AccRef)
  | packet (order : Nat)
  | remote (rid : Nat)
  | flit (rid : Nat)
  | loft (n : Nat)
  | bale (coord : BitVec 12) (handle : Word)
  deriving DecidableEq, Repr

/-- An invalidation in progress (R284): range, the accesses it waits for, and who asked. -/
structure Inval where
  k : Nat
  asid : BitVec 16
  lo : Nat
  hi : Nat
  waits : List InvalWait
  cmd : Option (BitVec 12 × BitVec 32)
  deriving DecidableEq, Repr

/-- States of a bale (R365). -/
inductive BaleState where
  | opened | sealed | committing | aborting | committed | aborted | peerLost
  deriving DecidableEq, Repr

/-- A bale record (R364), free while `st` is none; `lost` are destinations lost while it was OPEN (R367). -/
structure Bale where
  gen : BitVec 8
  st : Option BaleState
  region : Nat
  rgen : BitVec 8
  counts : List (BitVec 12 × Nat)
  doom : Bool
  acause : BitVec 4
  rnode : BitVec 12
  sealsSent : Bool
  ready : List (BitVec 12)
  done : List (BitVec 12)
  lost : List (BitVec 12)
  commitAsked : Bool
  freeAtEnd : Bool
  deriving DecidableEq, Repr

/-- A free record of generation 1 (R363). -/
def Bale.free : Bale := ⟨1, none, 0, 0, [], false, 0, 0, false, [], [], [], false, false⟩

/-- A bale at this package's loft (R366, R371): its stores in arrival order, each with whether its data came with an error (R399), the
mark that refuses it, whether it is prepared, and the ASIDs and pages through which its stores have been translated (R284). -/
structure LoftBale where
  coord : BitVec 12
  handle : Word
  stores : List (Target × Nat × BitVec 512 × Bool)
  mark : Option Nat
  prepared : Bool
  pages : List (BitVec 16 × Span)
  deriving DecidableEq, Repr

/-- A message on its way to this package's loft, a store with the ASID and the page through which it was translated; those of peers come
from the requests numbered as they are let in. -/
inductive LoftMsg where
  | store (coord : BitVec 12) (handle : Word) (sender : TileId × Fin 4) (tgt : Target) (n : Nat) (data : BitVec 512)
      (refuse : Option Nat) (page : Option (BitVec 16 × Span))
  | seal (coord : BitVec 12) (handle : Word) (count : Nat)
  | decision (coord : BitVec 12) (handle : Word) (commit : Bool)
  deriving DecidableEq, Repr

/-- A stream entry of a port (R407). -/
structure StreamRec where
  srcNode : BitVec 12
  incarn : BitVec 16
  tenant : BitVec 12
  asid : BitVec 16
  region : BitVec 11
  gen : BitVec 8
  ctx : BitVec 2
  dstNode : BitVec 12
  ver : Bool
  deriving DecidableEq, Repr

/-- A flit's place in what leaves the package: the node of its stream, none where it belongs to the port itself (a hello, a
circuit's flits), the routing version it is stamped with, the request that it carries or the number of a tagged store, the ASID and
page of such a store, and the bale that it belongs to (R284, R408, R409, R411). -/
structure OutFlit where
  node : Option (BitVec 12)
  ver : Bool
  rid : Option Nat
  page : Option (BitVec 16 × Span)
  bale : Option (BitVec 12 × Word)
  deriving DecidableEq, Repr

/-- A Dyfold port (R405-R411): flits sent and not acknowledged with the count of their replays, and what they carry, flits that wait for
room in the replay buffer, accepted flits not yet acted on, bytes of commands that their CTRL flits have brought in so far by stream
(R419), ACKs and NAKs sent. -/
structure Port where
  up : Bool
  streams : List (Nat × StreamRec)
  txSeq : BitVec 12
  rxSeq : BitVec 12
  replay : List (BitVec 12 × Nat)
  carried : List (BitVec 12 × OutFlit)
  unsent : List OutFlit
  rx : List (BitVec 512)
  ctrl : List (Nat × List Byte)
  drops : Nat
  answers : List (BitVec 4 × BitVec 12)
  deriving DecidableEq, Repr

/-- A port with its link up and nothing on it. -/
def Port.reset : Port := ⟨true, [], 0, 0, [], [], [], [], [], 0, []⟩

/-- Where a request to another package stands (R408-R411): it waits for the requests of the old routing version, no port is
listed for its node, it waits for room in a port's replay buffer, or it has been sent on a port. -/
inductive ReqPlace where
  | held
  | nowhere
  | queued (p : Fin 32)
  | sent (p : Fin 32)
  deriving DecidableEq, Repr

/-- A request to another package that has not been answered (R311, R416): node, where it stands, the routing version it is
stamped with, who asked, for which access, whether it writes, in which region and generation, the cycle of the asking tile,
whether HOLD stopped its timeout, and the ASID and page through which it was translated (R284). -/
structure RemoteReq where
  rid : Nat
  node : BitVec 12
  place : ReqPlace
  ver : Bool
  who : Walker
  acc : Nat
  writes : Bool
  region : Option (Nat × BitVec 8)
  since : Nat
  held : Bool
  page : Option (BitVec 16 × Span)
  deriving DecidableEq, Repr

/-- A request from a peer, admitted and not yet performed (R414, R416), with the region and generation that asked, its order of arrival
at its slice and its class (R245, R406), and the page through which it was translated (R284); or one whose walk a bale holds back, which
has no target yet (R374). -/
structure InReq where
  n : Nat
  node : BitVec 12
  region : BitVec 11
  gen : BitVec 8
  asid : BitVec 16
  tenant : BitVec 12
  req : PeerRequest
  tgt : Target
  wo : Bool
  deferred : Bool
  order : Nat
  span : Span
  cls : Nat
  unwalked : Bool
  deriving DecidableEq, Repr

/-- An entry of the ingress access table (R414). -/
structure AccessEntry where
  v : Bool
  srcNode : BitVec 12
  srcTenant : BitVec 12
  locTenant : BitVec 12
  locAsid : BitVec 16
  base : Nat
  pages : Nat
  rd : Bool
  w : Bool
  a : Bool
  b : Bool
  deriving DecidableEq, Repr

/-- A Dyfold circuit bound to lanes of a port (R418): its ends in this package, the die of the last sink that a killed or
ended region left, the channel's capacity, once a source has joined (R417; log entry 56), and, while the region of an end is evicted, the
entries that have come for the sink and the credits that have come for the source (R391). -/
structure Circuit where
  port : Fin 32
  lane : Nat
  lanes : Nat
  node : BitVec 12
  peer : Nat
  sink : Option (TileId × Nat)
  source : Option (TileId × Nat)
  lastDie : Option (Fin 8)
  cap : Option Nat
  heldEntries : List Entry
  heldCredits : Nat
  deriving DecidableEq, Repr

/-- What the part sends to a host (R419, R421): a response or a notification (TAG 0). -/
structure HostMsg where
  node : BitVec 12
  op : Nat
  status : Nat
  tag : BitVec 32
  r : List Word
  deriving DecidableEq, Repr

/-- A message the part sends to a peer: an answer to its request, or a bale message (R371, R372, R416). -/
inductive PeerMsg where
  | answer (node : BitVec 12) (tag : Nat) (a : RemoteAnswer)
  | hold (node : BitVec 12) (tag : Nat)
  | baleAnswer (node : BitVec 12) (handle : Word) (a : BaleAnswer)
  | baleDone (node : BitVec 12) (handle : Word)
  | request (node : BitVec 12) (q : PeerRequest)
  | store (node : BitVec 12) (handle : Word) (va n : Nat) (data : BitVec 512)
  | seal (node : BitVec 12) (handle : Word) (count : Nat)
  | decision (node : BitVec 12) (handle : Word) (commit : Bool)
  | hello (port : Fin 32) (node : BitVec 12) (incarnation : BitVec 16)
  | credits (circuit : Nat) (n : Nat)
  | circ (circuit : Nat) (e : Entry)
  deriving DecidableEq, Repr

/-- A record of a command as its CTRL flits brought it (R419): the sending node, the 64 bytes, the number of the first
request of a peer that came after it (R422), and whether the host list named the node when it arrived, and named it first (R425). -/
structure CmdIn where
  node : BitVec 12
  record : BitVec 512
  before : Nat
  listed : Bool
  first : Bool
  deriving DecidableEq, Repr

/-- A completion record under way (R100): the request that carries it to another package, none while it waits for lines that
a bale holds; its place, queue and bytes, whether the host is notified after the write, and the region that it ends. -/
structure DoneOut where
  rid : Option Nat
  target : Target
  queue : Nat
  record : Nat
  notify : Bool
  region : Option (Nat × BitVec 8)
  deriving DecidableEq, Repr

/-- A command's write that waits for lines that a bale holds (R374): the presence bits of a page, or a report. -/
inductive HubWrite where
  | clear (t : Target) (len : Nat) (node : BitVec 12) (tag : BitVec 32)
  | report (pa : Nat) (bytes : List Byte) (node : BitVec 12) (tag : BitVec 32)
  deriving DecidableEq, Repr

/-- A command that has not been answered yet (R422): what it asks for, and what a ROUTEVER waits for. -/
structure WaitingCmd where
  op : Nat
  node : BitVec 12
  tag : BitVec 32
  arg : Nat
  waits : List InvalWait
  deriving DecidableEq, Repr

/-- Flash and monotonic counter block (R412, R423-R434): what survives loss of power. -/
structure Nvm where
  image : List Byte
  minVersion : Nat
  repairMap : List (Nat × Nat)
  hostList : List (BitVec 12)
  incarnation : BitVec 16
  sigIndex : Nat
  trips : Nat
  deriving DecidableEq, Repr

/-- Power of the module (R11, R423, R424, R429). -/
inductive Power where
  | on | recovery | off
  deriving DecidableEq, Repr

/-- A move of the model: one cycle of a tile (R108), or a happening or command of the opcode table. -/
inductive Move where
  | cycle (t : TileId)
  | happen (i : Instr)
  deriving DecidableEq, Repr

/-- Memory, translation and the atomic units of the package. -/
structure Global where
  hbm : Memory
  lpddr : Memory
  hbmBad : List Nat
  lpddrBad : List Nat
  present : List Nat
  programs : List Program
  rootBase : Nat
  rootLpddr : Bool
  invals : List Inval
  nextInval : Nat
  deriving DecidableEq, Repr

/-- The hub dies. `fetched` are the lines of other packages read for an owner, with a cause where the read failed, `retries` those that
were told to come again, with the cycle before which they do not (R296); `doneOut`
the completion records under way, `writes` other writes of the hub that wait for a bale's lines; `streamPort` is the port that
each node stream has taken, with the routing version it took it under, `outHeld` the flits that wait for a stream's requests of
another version; `cmdsIn` are commands that have come in and have not been performed; `toHost` and `toPeer` what has been given
to the node streams, by node, in order; `firmware` is the image that runs; `bridges` counts the replays of the flit at hand on
a bridge; `baleVia` are the ports that have carried traffic of a bale: its coordinator and handle, the other node, the port, and
`unrouted` the bales of which a flit has found no port to a node since the last move (R409, R411). -/
structure Hub where
  queues : List (Nat × WorkQueue)
  bales : List (Nat × Bale)
  loft : List LoftBale
  loftIn : List (Nat × LoftMsg)
  baleAnswers : List (Word × BaleAnswer)
  baleDones : List Word
  node : BitVec 12
  peers : List (BitVec 12 × BitVec 16)
  access : List (Nat × AccessEntry)
  rtimeout : Nat
  version : Bool
  nodePorts : List ((Bool × BitVec 12) × BitVec 32)
  ports : Vector Port 32
  fetched : List ((Nat × Nat) × (BitVec 8 × BitVec 512))
  retries : List ((Nat × Nat) × Nat)
  doneOut : List DoneOut
  writes : List HubWrite
  streamPort : List (BitVec 12 × (Bool × Fin 32))
  outHeld : List OutFlit
  remote : List RemoteReq
  nextRid : Nat
  inbound : List InReq
  nextIn : Nat
  circuits : List (Nat × Circuit)
  hosts : List (BitVec 12)
  cmdsIn : List CmdIn
  waiting : List WaitingCmd
  toHost : List (BitVec 12 × BitVec 512)
  toPeer : List PeerMsg
  nvm : Nvm
  firmware : List Byte
  hubTemps : Vector (BitVec 16) 2
  bridges : List (Nat × Nat)
  baleVia : List ((BitVec 12 × Word) × (BitVec 12 × Fin 32))
  unrouted : List ((BitVec 12 × Word) × BitVec 12)
  deriving DecidableEq, Repr

/-- The state of the machine. -/
structure State where
  agenda : List Move
  here : TileId
  ctx : Fin 4
  stalled : Bool
  picks : Nat
  frees : Nat
  power : Power
  tiles : List (TileId × Tile)
  regions : List Region
  dies : Vector Die 8
  xfers : List Transfer
  nextSeq : Nat
  beacons : List Beacon
  beaconsOut : List Beacon
  passed : List ((Nat × Nat) × Nat)
  mem : Global
  hub : Hub
  deriving DecidableEq, Repr

/-- Global memory after reset: nothing listed. -/
def Global.reset : Global := ⟨[], [], [], [], [], [], 0, false, [], 0⟩

/-- The hub dies after bring-up (R416, R423): RTIMEOUT 2^26, routing version 0, queues DISABLED, the host list of the
signed module configuration. -/
def Hub.reset : Hub where
  queues := []
  bales := []
  loft := []
  loftIn := []
  baleAnswers := []
  baleDones := []
  node := Config.node
  peers := []
  access := []
  rtimeout := 2 ^ 26
  version := false
  nodePorts := []
  ports := Vector.replicate 32 .reset
  fetched := []
  retries := []
  doneOut := []
  writes := []
  streamPort := []
  outHeld := []
  remote := []
  nextRid := 0
  inbound := []
  nextIn := 0
  circuits := []
  hosts := Config.hostList
  cmdsIn := []
  waiting := []
  toHost := []
  toPeer := []
  nvm := ⟨[], 0, [], Config.hostList, 1, 0, 0⟩
  firmware := []
  hubTemps := Vector.replicate 2 0
  bridges := []
  baleVia := []
  unrouted := []

/-- The machine right after reset, at the end of bring-up (R423): every die OFF at clock step 0, no region, memory with
nothing listed. -/
def State.reset : State where
  agenda := []
  here := ⟨0, 0, 0⟩
  ctx := 0
  stalled := false
  picks := 0
  frees := 0
  power := .on
  tiles := []
  regions := []
  dies := Vector.replicate 8 .reset
  xfers := []
  nextSeq := 0
  beacons := []
  beaconsOut := []
  passed := []
  mem := .reset
  hub := .reset

end Sys2Proof.Machine
end

