-- ==== Sys2Proof/Machine/Memory.lean ====
section
/-! DEFINITION. Bytes by address, the three memories of a package and the poisoned words in them, and the walk of a
page table with its checks (R275-R282). -/

namespace Sys2Proof.Machine

/-- What a byte of global memory or scratch that nothing has written reads as. Scratch: R94. Global memory: the manual
gives no contents at power-on. DESIGN CHOICE, log entry 7. -/
def Memory.default : Byte := 0

/-- The byte at an address. -/
def Memory.read (m : Memory) (a : Nat) : Byte :=
  match m with
  | [] => Memory.default
  | (k, b) :: rest => if k = a then b else Memory.read rest a

/-- A byte stored, in canonical form. -/
def Memory.write (m : Memory) (a : Nat) (b : Byte) : Memory :=
  match m with
  | [] => if b = Memory.default then [] else [(a, b)]
  | (k, c) :: rest =>
    if a < k then (if b = Memory.default then (k, c) :: rest else (a, b) :: (k, c) :: rest)
    else if a = k then (if b = Memory.default then rest else (a, b) :: rest)
    else (k, c) :: Memory.write rest a b

/-- Canonical form: every address above `lo`, addresses rising, no default byte. -/
def Memory.wfFrom (lo : Nat) : Memory → Bool
  | [] => true
  | (k, b) :: rest => decide (lo ≤ k) && b != Memory.default && Memory.wfFrom (k + 1) rest

/-- Canonical form. -/
def Memory.wf (m : Memory) : Bool := Memory.wfFrom 0 m

/-- `n` bytes from `a`, little-endian (R15), as a number. -/
def Memory.readN (m : Memory) (a : Nat) : Nat → Nat
  | 0 => 0
  | n + 1 => (m.read a).toNat + 256 * Memory.readN m (a + 1) n

/-- Byte `i` of a number. -/
def byteOf (v i : Nat) : Byte := BitVec.ofNat 8 (v / 256 ^ i)

/-- The low `n` bytes of `v` stored from `a`, little-endian (R15). -/
def Memory.writeN (m : Memory) (a : Nat) : Nat → Nat → Memory
  | 0, _ => m
  | n + 1, v => Memory.writeN (m.write a (BitVec.ofNat 8 v)) (a + 1) n (v / 256)

/-- A list of bytes stored, first to last. -/
def Memory.writeCells (m : Memory) : List Host.Cell → Memory
  | [] => m
  | (a, b) :: rest => Memory.writeCells (m.write a b) rest

/-- The bytes `v` has from `a` on, as cells. -/
def cellsOf (a n v : Nat) : List Host.Cell := (List.range n).map fun i => (a + i, byteOf v i)

/-- The number that bytes make, little-endian. -/
def ofBytes : List Byte → Nat
  | [] => 0
  | b :: rest => b.toNat + 256 * ofBytes rest

/-- The aligned 8-byte words that bytes `a` to `a + n - 1` touch. -/
def wordsOf (a n : Nat) : List Nat := if n = 0 then [] else (List.range ((a + n - 1) / 8 - a / 8 + 1)).map (a / 8 + ·)

/-- The aligned words wholly inside the bytes. -/
def wholeWordsOf (a n : Nat) : List Nat := (wordsOf a n).filter fun w => decide (a ≤ 8 * w ∧ 8 * w + 8 ≤ a + n)

/-! The package's memories. -/

/-- The target `off` bytes further on. -/
def Target.plus (t : Target) (off : Nat) : Target :=
  match t with
  | .hbm pa => .hbm (pa + off)
  | .lpddr pa => .lpddr (pa + off)
  | .remote node va => .remote node (va + off)

/-- Whether the target lies in another package. -/
def Target.isRemote : Target → Bool
  | .remote _ _ => true
  | _ => false

/-- Slice of a target (R276); all accesses to one other package count as one slice (R287). -/
def Target.slice : Target → Nat
  | .hbm pa => 64 * (pa / 2 ^ 36 % 16) + pa / 256 % 64
  | .lpddr pa => 1024 + pa / 256 % 64
  | .remote node _ => 2048 + node.toNat

/-- `n` bytes of local memory. -/
def Global.readAt (g : Global) (t : Target) (n : Nat) : Nat :=
  match t with
  | .hbm pa => g.hbm.readN pa n
  | .lpddr pa => g.lpddr.readN pa n
  | .remote _ _ => 0

/-- Words with an uncorrectable error among the bytes read, as byte offsets from the target, lowest first (R277). -/
def Global.poisonAt (g : Global) (t : Target) (n : Nat) : List Nat :=
  match t with
  | .hbm pa => ((wordsOf pa n).filter g.hbmBad.contains).map fun w => max (8 * w) pa - pa
  | .lpddr pa => ((wordsOf pa n).filter g.lpddrBad.contains).map fun w => max (8 * w) pa - pa
  | .remote _ _ => []

/-- `n` bytes stored; whole words lose an uncorrectable error (R277). -/
def Global.writeAt (g : Global) (t : Target) (n v : Nat) : Global :=
  match t with
  | .hbm pa => { g with hbm := g.hbm.writeN pa n v
                        hbmBad := g.hbmBad.filter fun w => !(wholeWordsOf pa n).contains w }
  | .lpddr pa => { g with lpddr := g.lpddr.writeN pa n v
                          lpddrBad := g.lpddrBad.filter fun w => !(wholeWordsOf pa n).contains w }
  | .remote _ _ => g

/-- Presence of the write-once word at a target (R294); write-once pages lie in HBM4E (R280). -/
def Global.presentAt (g : Global) (t : Target) : Bool :=
  match t with
  | .hbm pa => g.present.contains (pa / 8)
  | _ => false

/-- Presence of every write-once word that some bytes touch. -/
def Global.allPresent (g : Global) (t : Target) (n : Nat) : Bool :=
  match t with
  | .hbm pa => (wordsOf pa n).all g.present.contains
  | _ => false

/-- Insertion into a rising list without repeats. -/
def insertNat (x : Nat) : List Nat → List Nat
  | [] => [x]
  | y :: rest => if x < y then x :: y :: rest else if x = y then y :: rest else y :: insertNat x rest

/-- The word made present (R294). -/
def Global.setPresent (g : Global) (t : Target) : Global :=
  match t with
  | .hbm pa => { g with present := insertNat (pa / 8) g.present }
  | _ => g

/-- Presence cleared for the words from a target on (R295). -/
def Global.clearPresent (g : Global) (t : Target) (len : Nat) : Global :=
  match t with
  | .hbm pa => { g with present := g.present.filter fun w => !(decide (pa / 8 ≤ w ∧ 8 * w < pa + len)) }
  | _ => g

/-- Bytes stored at offsets from a local target, all at once (R251). On a write-once page they must make whole aligned
words, none of them present, and make them present (R294). -/
def Global.landCells (g : Global) (t : Target) (wo : Bool) (cells : List Host.Cell) : Except (BitVec 8) Global :=
  let land := fun (pa : Nat) (m : Memory) (bad : List Nat) =>
    let at' := cells.map fun c => (pa + c.1, c.2)
    let whole := fun w => (List.range 8).all fun i => (lookupKey (8 * w + i) at').isSome
    (m.writeCells at', bad.filter fun w => !whole w, (at'.map fun c => c.1 / 8).dedup, whole)
  match t with
  | .hbm pa =>
    let (m, bad, words, whole) := land pa g.hbm g.hbmBad
    if wo && !words.all whole then .error 0x07
    else if wo && words.any g.present.contains then .error 0x08
    else
      let g := { g with hbm := m, hbmBad := bad }
      .ok (if wo then words.foldl (fun g w => g.setPresent (.hbm (8 * w))) g else g)
  | .lpddr pa =>
    let (m, bad, _, _) := land pa g.lpddr g.lpddrBad
    .ok { g with lpddr := m, lpddrBad := bad }
  | .remote _ _ => .ok g

/-- Words that bytes at offsets from a local target touch, with an uncorrectable error from now on (R399). -/
def Global.poisonCells (g : Global) (t : Target) (cells : List Host.Cell) : Global :=
  match t with
  | .hbm pa => { g with hbmBad := ((cells.map fun c => (pa + c.1) / 8) ++ g.hbmBad).dedup }
  | .lpddr pa => { g with lpddrBad := ((cells.map fun c => (pa + c.1) / 8) ++ g.lpddrBad).dedup }
  | .remote _ _ => g

/-! Translation. -/

/-- How a walk or a check fails: POISON in the read of an entry of a LEVEL, or a REASON and LEVEL of R281. -/
inductive WalkFail where
  | poison (level : Nat)
  | xlate (reason level : Nat)
  deriving DecidableEq, Repr

/-- ADDR of a page-table entry as an address (R279). -/
def pteAddr (e : Word) : Nat := field e 9 43 * 2 ^ 13

/-- Whether `n` bytes from a physical address lie in the memory of TGT (R276). -/
def inRange (tgt pa n : Nat) : Bool := if tgt = 0 then pa + n ≤ 2 ^ 40 else pa + n ≤ 2 ^ 42

/-- A local target by TGT (R279). -/
def localTarget (tgt pa : Nat) : Target := if tgt = 0 then .hbm pa else .lpddr pa

/-- What an entry read at a level says: the next node, or a leaf of 2^size bytes (R278-R280). Level 4 is the root. The bits that R279 says
are ignored in a pointer count in none of R280's rules there (DEDUCED, log entry 126), and an entry that is malformed and out of range
reports 1 (R281; DESIGN CHOICE, log entry 127). -/
def readEntry (e : Word) (va level : Nat) : Except WalkFail (Target ⊕ Leaf) :=
  let tgt := field e 7 2
  let size := 16 + 10 * level
  if !e.getLsbD 0 then .error (.xlate 0 level)
  else if e.getLsbD 1 then
    if 3 ≤ level then .error (.xlate 1 level)
    else if tgt = 3 then .error (.xlate 1 level)
    else if pteAddr e % 2 ^ size ≠ 0 then .error (.xlate 1 level)
    else if e.getLsbD 5 && tgt ≠ 0 then .error (.xlate 1 level)
    else if field e 52 12 ≠ 0 && tgt ≠ 2 then .error (.xlate 1 level)
    else if tgt ≠ 2 && !inRange tgt (pteAddr e) (2 ^ size) then .error (.xlate 3 level)
    else .ok (.inr {
      vbase := va / 2 ^ size * 2 ^ size
      size := size
      base := if tgt = 2 then .remote (bits e 52 12) (pteAddr e) else localTarget tgt (pteAddr e)
      u := e.getLsbD 6, wo := e.getLsbD 5, a := e.getLsbD 4, w := e.getLsbD 3, rd := e.getLsbD 2 })
  else if level = 0 then .error (.xlate 1 level)
  else if 2 ≤ tgt then .error (.xlate 1 level)
  else if !inRange tgt (pteAddr e) (2 ^ 13) then .error (.xlate 3 level)
  else .ok (.inl (localTarget tgt (pteAddr e)))

/-- One entry of a node read (R278); `level` is that of the node's entries. -/
def walkStep (g : Global) (va : Nat) (node : Target) (level : Nat) : Except WalkFail (Target ⊕ Leaf) :=
  let t := node.plus (8 * (va / 2 ^ (16 + 10 * level) % 1024))
  if g.poisonAt t 8 ≠ [] then .error (.poison level) else readEntry (BitVec.ofNat 64 (g.readAt t 8)) va level

/-- The walk from a node of a level down (R278). -/
def walkFrom (g : Global) (va : Nat) (node : Target) : Nat → Except WalkFail Leaf
  | 0 => match walkStep g va node 0 with
    | .error f => .error f
    | .ok (.inr leaf) => .ok leaf
    | .ok (.inl _) => .error (.xlate 1 0)
  | l + 1 => match walkStep g va node (l + 1) with
    | .error f => .error f
    | .ok (.inr leaf) => .ok leaf
    | .ok (.inl next) => walkFrom g va next l

/-- The entry of the ASID root table (R278). -/
def rootTarget (g : Global) (asid : BitVec 16) : Target :=
  (if g.rootLpddr then Target.lpddr else Target.hbm) (g.rootBase + 8 * asid.toNat)

/-- The node of level 3 that the root entry points to (R278). -/
def walkRoot (g : Global) (asid : BitVec 16) : Except WalkFail Target :=
  let t := rootTarget g asid
  if g.poisonAt t 8 ≠ [] then .error (.poison 4)
  else match readEntry (BitVec.ofNat 64 (g.readAt t 8)) 0 4 with
    | .error f => .error f
    | .ok (.inr _) => .error (.xlate 1 4)
    | .ok (.inl next) => .ok next

/-- The walk of `va` under an ASID (R278). -/
def walk (g : Global) (asid : BitVec 16) (va : Nat) : Except WalkFail Leaf :=
  match walkRoot g asid with
  | .error f => .error f
  | .ok node => walkFrom g va node 3

/-- The entries that a walk reads from a node of a level down. -/
def walkReadsFrom (g : Global) (va : Nat) (node : Target) : Nat → List Target
  | 0 => [node.plus (8 * (va / 2 ^ 16 % 1024))]
  | l + 1 => node.plus (8 * (va / 2 ^ (16 + 10 * (l + 1)) % 1024)) :: match walkStep g va node (l + 1) with
    | .ok (.inl next) => walkReadsFrom g va next l
    | _ => []

/-- The entries that the walk of `va` under an ASID reads (R278). -/
def walkReads (g : Global) (asid : BitVec 16) (va : Nat) : List Target :=
  rootTarget g asid :: match walkRoot g asid with
    | .ok node => walkReadsFrom g va node 3
    | .error _ => []

/-- Whether a leaf covers an address. -/
def Leaf.covers (l : Leaf) (va : Nat) : Bool := decide (l.vbase ≤ va ∧ va < l.vbase + 2 ^ l.size)

/-- The leaf's addresses, the first and the last. -/
def Leaf.span (l : Leaf) : Span := (l.vbase, l.vbase + 2 ^ l.size - 1)

/-- Where an address of the leaf lies. -/
def Leaf.target (l : Leaf) (va : Nat) : Target := l.base.plus (va - l.vbase)

/-- Kinds of access that R280 tells apart; `unit` is an engine or a stream. -/
inductive Access where
  | read | write | atomic | readOnce | writeOnce | unitRead | unitWrite
  deriving DecidableEq, Repr

/-- REASON of R281 for an access that the leaf does not permit, the first in the order of R281; `user` counts for engines
and streams as well (R280). -/
def Leaf.refuses (l : Leaf) (k : Access) (user : Bool) : Option Nat :=
  let needRd := k == .read || k == .readOnce || k == .atomic || k == .unitRead
  let needW := k == .write || k == .writeOnce || k == .atomic || k == .unitWrite
  let badWo := match k with
    | .readOnce | .writeOnce => !l.wo
    | .unitRead | .unitWrite => false
    | _ => l.wo
  if user && !l.u then some 7
  else if badWo then some 8
  else if needRd && !l.rd then some 4
  else if needW && !l.w then some 5
  else if k == .atomic && !l.a then some 6
  else none

/-- A micro-TLB of 16 entries, most recently used first (R282): the leaf that covers an address, moved to the front. -/
def tlbFind (tlb : List Leaf) (va : Nat) : Option (Leaf × List Leaf) :=
  match tlb.find? (·.covers va) with
  | none => none
  | some l => some (l, l :: tlb.erase l)

/-- A leaf entered; the least recently used entry goes when 16 are held (R282). -/
def tlbFill (tlb : List Leaf) (l : Leaf) : List Leaf := l :: (tlb.erase l).take 15

end Sys2Proof.Machine
end

