-- ==== Sys2Proof/Machine/Numbers.lean ====
section
/-! DEFINITION. Numbers: the values of the element types (R61-R71), the exact reals that instructions compute with
(R34), rounding (R72-R75), EXA values (R79, R80) and the normaliser (R81). -/

namespace Sys2Proof

/-- Mantissa bits M of a float type (R65). -/
def Ty.mantBits : Ty → Nat
  | .fp32 => 23 | .fp16 => 10 | .bf16 => 7 | .fp8a => 3 | .fp8b => 2 | _ => 0

/-- Bias of a float type (R65). -/
def Ty.bias : Ty → Nat
  | .fp32 => 127 | .fp16 => 15 | .bf16 => 127 | .fp8a => 7 | .fp8b => 15 | _ => 0

/-- Whether the type is FP8A or FP8B (R67). -/
def Ty.isFp8 : Ty → Bool
  | .fp8a | .fp8b => true
  | _ => false

/-- Canonical NaN of a float type (R68). -/
def Ty.nanCode : Ty → Nat
  | .fp32 => 0x7FC00000 | .fp16 => 0x7E00 | .bf16 => 0x7FC0 | .fp8a => 0x80 | .fp8b => 0x80 | _ => 0

/-- Code of +∞ of FP32, FP16 and BF16 (R68). -/
def Ty.infCode : Ty → Nat
  | .fp32 => 0x7F800000 | .fp16 => 0x7C00 | .bf16 => 0x7F80 | _ => 0

/-- Code of the largest finite value (R68). -/
def Ty.maxCode : Ty → Nat
  | .fp32 => 0x7F7FFFFF | .fp16 => 0x7BFF | .bf16 => 0x7F7F | .fp8a => 0x7F | .fp8b => 0x7F | _ => 0

/-- A code with its sign bit. -/
def Ty.signed (ty : Ty) (neg : Bool) (code : Nat) : Nat := if neg then code + 2 ^ (ty.width - 1) else code

end Sys2Proof

namespace Sys2Proof.Machine

/-- An exact value: NaN, an infinity, or (-1)^neg · n · 2^e, where `sticky` says that the magnitude lies strictly
between n · 2^e and (n + 1) · 2^e. A sticky value has more bits of n than any type's mantissa, so that rounding it is
rounding the exact value. -/
inductive XReal where
  | nan
  | inf (neg : Bool)
  | fin (neg : Bool) (n : Nat) (e : Int) (sticky : Bool)
  deriving DecidableEq, Repr

/-- The integer `z` as an exact value. -/
def XReal.ofInt (z : Int) : XReal := .fin (decide (z < 0)) z.natAbs 0 false

/-- The dyadic `z · 2^e`; zero takes the sign `zneg`. -/
def XReal.ofDyadic (z : Int) (e : Int) (zneg : Bool) : XReal :=
  .fin (if z = 0 then zneg else decide (z < 0)) z.natAbs e false

/-- The value that a code of an integer type stands for (R63). -/
def intOf (w : Nat) (unsigned : Bool) (x : Nat) : Int :=
  let x := x % 2 ^ w
  if unsigned || x < 2 ^ (w - 1) then (x : Int) else (x : Int) - 2 ^ w

/-- The low `w` bits of an integer (R64). -/
def wrapTo (w : Nat) (z : Int) : Nat := (z % 2 ^ w).toNat

/-- The range of R63. -/
def intMin (w : Nat) (unsigned : Bool) : Int := if unsigned then 0 else -(2 ^ (w - 1))
/-- The range of R63. -/
def intMax (w : Nat) (unsigned : Bool) : Int := if unsigned then 2 ^ w - 1 else 2 ^ (w - 1) - 1

/-- An integer clamped to the range of R63. -/
def clampTo (w : Nat) (unsigned : Bool) (z : Int) : Int := max (intMin w unsigned) (min (intMax w unsigned) z)

/-- An exact integer fitted to `w` bits: clamped or wrapped (R64). -/
def fit (w : Nat) (unsigned sat : Bool) (z : Int) : Nat := wrapTo w (if sat then clampTo w unsigned z else z)

/-- The value of a float code (R65-R67). -/
def floatOf (ty : Ty) (code : Nat) : XReal :=
  let w := ty.width
  let m := ty.mantBits
  let x := code % 2 ^ w
  let neg := decide (x / 2 ^ (w - 1) = 1)
  let ef := x / 2 ^ m % 2 ^ (w - 1 - m)
  let mf := x % 2 ^ m
  if ty.isFp8 && x == 0x80 then .nan
  else if !ty.isFp8 && ef == 2 ^ (w - 1 - m) - 1 then (if mf == 0 then .inf neg else .nan)
  else if ef == 0 then .fin neg mf (1 - (ty.bias : Int) - m) false
  else .fin neg (mf + 2 ^ m) ((ef : Int) - ty.bias - m) false

/-- The value of an element of any type; integers are read signed or unsigned (R63, R65). -/
def valueOf (ty : Ty) (unsigned : Bool) (code : Nat) : XReal :=
  if ty.isInt then XReal.ofInt (intOf ty.width unsigned code) else floatOf ty code

/-- How many units of 2^q the magnitude n · 2^e rounds to (R72). -/
def roundUnits (neg : Bool) (n : Nat) (e q : Int) (sticky : Bool) (rm : RM) : Nat :=
  if q ≤ e then
    let hi := n * 2 ^ (e - q).toNat
    if sticky && ((rm == .rdn && neg) || (rm == .rup && !neg)) then hi + 1 else hi
  else
    let k := (q - e).toNat
    if Nat.log2 n + 1 < k then
      if (decide (n ≠ 0) || sticky) && ((rm == .rdn && neg) || (rm == .rup && !neg)) then 1 else 0
    else
    let hi := n / 2 ^ k
    let lo := n % 2 ^ k
    let half := 2 ^ (k - 1)
    let inexact := decide (lo ≠ 0) || sticky
    let up := match rm with
      | .rne => decide (half < lo) || (lo == half && (sticky || hi % 2 == 1))
      | .rtz => false
      | .rdn => neg && inexact
      | .rup => !neg && inexact
    if up then hi + 1 else hi

/-- The value of a finite result that overflows (R73). -/
def overflowCode (ty : Ty) (neg : Bool) (rm : RM) (sat : Bool) : Nat :=
  let toMax := sat || ty.isFp8 || (match rm with
    | .rne => false | .rtz => true | .rdn => !neg | .rup => neg)
  ty.signed neg (if toMax then ty.maxCode else ty.infCode)

/-- A finite exact value rounded to a float type (R72-R75). -/
def roundFinite (ty : Ty) (neg : Bool) (n : Nat) (e : Int) (sticky : Bool) (rm : RM) (sat : Bool) : Nat :=
  let m := ty.mantBits
  let emin : Int := 1 - (ty.bias : Int) - m
  let q := if n = 0 then emin else max (e + Nat.log2 n - m) emin
  let u := roundUnits neg n e q sticky rm
  let carry := decide (u = 2 ^ (m + 1))
  let u := if carry then 2 ^ m else u
  let q := if carry then q + 1 else q
  let code := if u < 2 ^ m then u else ((q - emin).toNat + 1) * 2 ^ m + (u - 2 ^ m)
  if ty.maxCode < code then overflowCode ty neg rm sat
  else if code = 0 && ty.isFp8 then 0
  else ty.signed neg code

/-- An exact value rounded to a float type, with the saturation slot of R73 (R75). -/
def roundFloat (ty : Ty) (x : XReal) (rm : RM) (sat : Bool) : Nat :=
  match x with
  | .nan => ty.nanCode
  | .inf neg => ty.signed neg (if ty.isFp8 then ty.maxCode else ty.infCode)
  | .fin neg n e sticky => roundFinite ty neg n e sticky rm sat

/-- An exact value rounded to an integer type, saturating (R75). -/
def roundInt (w : Nat) (unsigned : Bool) (x : XReal) (rm : RM) : Int :=
  match x with
  | .nan => 0
  | .inf neg => if neg then intMin w unsigned else intMax w unsigned
  | .fin neg n e sticky =>
    let u : Int := roundUnits neg n e 0 sticky rm
    clampTo w unsigned (if neg then -u else u)

/-- `Round(ty, x, rm)` of R75 as a code of `ty.width` bits. -/
def roundTo (ty : Ty) (unsigned : Bool) (x : XReal) (rm : RM) (sat : Bool := false) : Nat :=
  if ty.isInt then wrapTo ty.width (roundInt ty.width unsigned x rm) else roundFloat ty x rm sat

/-- The sign of a value (NaN counts as positive). -/
def XReal.isNeg : XReal → Bool
  | .nan => false
  | .inf neg => neg
  | .fin neg _ _ _ => neg

/-- The value with its sign inverted. -/
def XReal.negate : XReal → XReal
  | .nan => .nan
  | .inf neg => .inf (!neg)
  | .fin neg n e s => .fin (!neg) n e s

/-- The magnitude. -/
def XReal.abs : XReal → XReal
  | .nan => .nan
  | .inf _ => .inf false
  | .fin _ n e s => .fin false n e s

/-- The signed numerator of a finite value over 2^e. -/
def scaledTo (neg : Bool) (n : Nat) (e target : Int) : Int :=
  let m : Int := n * 2 ^ (e - target).toNat
  if neg then -m else m

/-- Exact sum. An exact zero of opposite signs is +0, and −0 under RDN (R74); ∞ − ∞ is NaN (R132). -/
def XReal.add (a b : XReal) (rm : RM) : XReal :=
  match a, b with
  | .nan, _ => .nan
  | _, .nan => .nan
  | .inf x, .inf y => if x = y then .inf x else .nan
  | .inf x, _ => .inf x
  | _, .inf y => .inf y
  | .fin na n ea _, .fin nb m eb _ =>
    let e := min ea eb
    .ofDyadic (scaledTo na n ea e + scaledTo nb m eb e) e (if na = nb then na else rm == .rdn)

/-- Exact product; ∞ × 0 is NaN (R132). -/
def XReal.mul (a b : XReal) : XReal :=
  match a, b with
  | .nan, _ => .nan
  | _, .nan => .nan
  | .inf x, .inf y => .inf (x ^^ y)
  | .inf x, .fin y n _ _ => if n = 0 then .nan else .inf (x ^^ y)
  | .fin x n _ _, .inf y => if n = 0 then .nan else .inf (x ^^ y)
  | .fin x n e _, .fin y m f _ => .fin (x ^^ y) (n * m) (e + f) false

/-- Quotient, to 2^64 units of the divisor's numerator with a sticky remainder; 0/0 and ∞/∞ are NaN, x/0 is ±∞ (R132). -/
def XReal.div (a b : XReal) : XReal :=
  match a, b with
  | .nan, _ => .nan
  | _, .nan => .nan
  | .inf _, .inf _ => .nan
  | .inf x, .fin y _ _ _ => .inf (x ^^ y)
  | .fin x _ _ _, .inf y => .fin (x ^^ y) 0 0 false
  | .fin x n e _, .fin y m f _ =>
    if m = 0 then (if n = 0 then .nan else .inf (x ^^ y))
    else .fin (x ^^ y) (n * 2 ^ 96 / m) (e - f - 96) (decide (n * 2 ^ 96 % m ≠ 0))

/-- The largest r with r · r ≤ n, from `r` upward by bits k−1 … 0. -/
def isqrtBits (n : Nat) : Nat → Nat → Nat
  | 0, r => r
  | k + 1, r => isqrtBits n k (if (r + 2 ^ k) * (r + 2 ^ k) ≤ n then r + 2 ^ k else r)

/-- Square root, with a sticky remainder; negative values other than −0 give NaN (R132). -/
def XReal.sqrt (a : XReal) : XReal :=
  match a with
  | .nan => .nan
  | .inf neg => if neg then .nan else .inf false
  | .fin neg n e _ =>
    if n = 0 then .fin neg 0 0 false
    else if neg then .nan
    else
      let odd := e % 2 = 1
      let x := (if odd then 2 * n else n) * 2 ^ 128
      let e := if odd then e - 1 else e
      let r := isqrtBits x (Nat.log2 x / 2 + 1) 0
      .fin false r (e / 2 - 64) (decide (r * r ≠ x))

/-- 1 / √a with a sticky remainder; ±0 gives ±∞, a negative value NaN (R145). -/
def XReal.rsqrt (a : XReal) : XReal :=
  match a with
  | .nan => .nan
  | .inf neg => if neg then .nan else .fin false 0 0 false
  | .fin neg n e _ =>
    if n = 0 then .inf neg
    else if neg then .nan
    else
      let odd := e % 2 = 1
      let m := if odd then 2 * n else n
      let e := if odd then e - 1 else e
      let r := isqrtBits (2 ^ 256 / m) 129 0
      .fin false r (-(e / 2) - 128) (decide (r * r * m ≠ 2 ^ 256))

/-- Σ over k of z^(2k+1) / (2k+1) at scale 2^p, where `t` is z^(2k+1), `z2` is z², both at that scale; each term is short
by less than two units. -/
def atanhSeries (p z2 : Nat) : Nat → Nat → Nat → Nat
  | 0, _, _ => 0
  | fuel + 1, k, t => t / (2 * k + 1) + atanhSeries p z2 fuel (k + 1) (t * z2 / 2 ^ p)

/-- ln(num/den) at scale 2^p for 1 ≤ num/den ≤ 2: 2 · atanh((num − den)/(num + den)). -/
def lnFixed (p num den : Nat) : Nat :=
  let z := (num - den) * 2 ^ p / (num + den)
  2 * atanhSeries p (z * z / 2 ^ p) (p / 3 + 2) 0 z

/-- Σ over k of x^k / k! at scale 2^p, where `t` is x^k / k!. -/
def expSeries (p x : Nat) : Nat → Nat → Nat → Nat
  | 0, _, _ => 0
  | fuel + 1, k, t => t + expSeries p x fuel (k + 1) (t * x / 2 ^ p / (k + 1))

/-- A value known to lie within 2^16 units of `v` at scale 2^-p, as a sticky value of p − 32 places; none where the bounds
do not yet agree. -/
def bracket (v : Int) (p : Nat) : Option XReal :=
  let m := v.natAbs
  let lo := (m - 2 ^ 16) / 2 ^ 32
  let hi := (m + 2 ^ 16) / 2 ^ 32
  if lo = hi then some (.fin (decide (v < 0)) lo (32 - (p : Int)) true) else none

/-- 2^(num/2^m) for 0 < num < 2^m, an irrational value in (1, 2), at growing precision. -/
def exp2Frac (num m : Nat) : Nat → Nat → XReal
  | 0, p => .fin false (2 ^ p) (-(p : Int)) true
  | fuel + 1, p =>
    let x := num * lnFixed p 2 1 / 2 ^ m
    match bracket (expSeries p x p 0 (2 ^ p)) p with
    | some r => r
    | none => exp2Frac num m fuel (2 * p)

/-- 2^a, exactly or with sticky bits below (R145). -/
def XReal.exp2 (a : XReal) : XReal :=
  match a with
  | .nan => .nan
  | .inf neg => if neg then .fin false 0 0 false else .inf false
  | .fin neg n e _ =>
    if 0 ≤ e then .fin false 1 (scaledTo neg n e 0) false
    else
      let m := e.natAbs
      let z : Int := if neg then -(n : Int) else n
      let i := z / 2 ^ m
      let f := (z % 2 ^ m).toNat
      if f = 0 then .fin false 1 i false
      else match exp2Frac f m 4 (2 * m + 384) with
        | .fin _ n e s => .fin false n (e + i) s
        | r => r

/-- x + log2(num/2^m) for 2^m < num < 2^(m+1), an irrational value, at growing precision. -/
def log2Frac (x : Int) (num m : Nat) : Nat → Nat → XReal
  | 0, p => .fin (decide (x < 0)) x.natAbs 0 (p == 0)
  | fuel + 1, p =>
    let l := lnFixed p num (2 ^ m) * 2 ^ p / lnFixed p 2 1
    match bracket (x * 2 ^ p + l) p with
    | some r => r
    | none => log2Frac x num m fuel (2 * p)

/-- log2 a, exactly or with sticky bits below (R145). -/
def XReal.log2 (a : XReal) : XReal :=
  match a with
  | .nan => .nan
  | .inf neg => if neg then .nan else .inf false
  | .fin neg n e _ =>
    if n = 0 then .inf true
    else if neg then .nan
    else
      let m := Nat.log2 n
      if n = 2 ^ m then .ofInt (e + m) else log2Frac (e + m) n m 4 320

/-- Whether a < b, for values that are not NaN; −0 equals +0. -/
def XReal.lt (a b : XReal) : Bool :=
  match a, b with
  | .nan, _ => false
  | _, .nan => false
  | .inf x, .inf y => x && !y
  | .inf x, _ => x
  | _, .inf y => !y
  | .fin na n ea _, .fin nb m eb _ =>
    let e := min ea eb
    decide (scaledTo na n ea e < scaledTo nb m eb e)

/-- Whether a = b, for values that are not NaN; −0 equals +0. -/
def XReal.eq (a b : XReal) : Bool := a != .nan && b != .nan && !a.lt b && !b.lt a

/-! EXA values. -/

/-- An EXA sum in full: exact V, and F (R79). -/
def Exa.toInt (x : Exa) : Int := x.v.toInt

/-- `Exa(x)` of R80; a finite value of a type of R61 is a multiple of 2^-149. -/
def Exa.ofReal (x : XReal) : Exa :=
  match x with
  | .nan => ⟨0, 1⟩
  | .inf neg => ⟨0, if neg then 4 else 2⟩
  | .fin neg n e _ => ⟨BitVec.ofInt 320 (scaledTo neg n e (-149)), 0⟩

/-- EXA addition (R80), and whether the exact sum leaves the range of R79. -/
def Exa.add (x y : Exa) : Exa × Bool :=
  (⟨x.v + y.v, x.f ||| y.f⟩, decide ((x.v + y.v).toInt ≠ x.v.toInt + y.v.toInt))

/-- The value that the normaliser rounds (R81). -/
def Exa.value (x : Exa) : XReal :=
  if x.f.getLsbD 0 || (x.f.getLsbD 1 && x.f.getLsbD 2) then .nan
  else if x.f.getLsbD 1 then .inf false
  else if x.f.getLsbD 2 then .inf true
  else .ofDyadic x.v.toInt (-149) false

/-- The normaliser (R81); integer types are signed. -/
def normalise (ty : Ty) (x : Exa) (rm : RM) : Nat := roundTo ty false x.value rm

/-- The 48 bytes of an EXA value in scratch or on a channel (R79), as a number. -/
def Exa.toBits (x : Exa) : BitVec 384 := x.f.zeroExtend 384 <<< 320 ||| x.v.zeroExtend 384

/-- The EXA value of 48 bytes, and whether bits [63:3] of its flag word are zero (R79). -/
def Exa.ofBits (x : BitVec 384) : Exa × Bool := (⟨bits x 0 320, bits x 320 3⟩, bits x 323 61 == 0)

end Sys2Proof.Machine
end

