-- ==== Sys2Proof/Machine/Ops.lean ====
section
/-! DEFINITION. The named operations on the state: tiles, contexts and registers; what an instruction of R50 does
before its own effect (R53, R55); messages to hosts and peers; region faults and kills (R102, R389); trap entry
and return (R381-R383, R387). -/

namespace Sys2Proof

/-- The die a tile lies on. -/
def TileId.dieIx (t : TileId) : Fin 8 := ⟨t.die % 8, Nat.mod_lt _ (by decide)⟩

/-- Package row and column of a tile (R89). -/
def TileId.prow (t : TileId) : Nat := 40 * (t.die / 4) + t.row

/-- Package row and column of a tile (R89). -/
def TileId.pcol (t : TileId) : Nat := 80 * (t.die % 4) + t.col

end Sys2Proof

namespace Sys2Proof.Machine

/-- What a meaning answers. -/
abbrev Result := Host.Outcome State Fault Refusal

/-! Tiles, contexts, dies and regions. -/

/-- The tile at a coordinate. -/
def State.tile (s : State) (t : TileId) : Tile := (lookupKey t s.tiles).getD Tile.cleared

/-- The state with a tile replaced. -/
def State.setTile (s : State) (t : TileId) (x : Tile) : State := { s with tiles := putKey t x s.tiles }

/-- A tile changed. -/
def State.modTile (s : State) (t : TileId) (f : Tile → Tile) : State := s.setTile t (f (s.tile t))

/-- A context of a tile replaced. -/
def Tile.setCtx (x : Tile) (c : Fin 4) (y : Ctx) : Tile := { x with ctxs := x.ctxs.set c y }

/-- A context of a tile. -/
def State.ctxAt (s : State) (t : TileId) (c : Fin 4) : Ctx := (s.tile t).ctxs[c]

/-- A context changed. -/
def State.modCtx (s : State) (t : TileId) (c : Fin 4) (f : Ctx → Ctx) : State :=
  s.modTile t fun x => x.setCtx c (f x.ctxs[c])

/-- The context that issues. -/
def State.cur (s : State) : Ctx := s.ctxAt s.here s.ctx

/-- The tile that issues. -/
def State.curTile (s : State) : Tile := s.tile s.here

/-- The issuing context changed. -/
def State.modCur (s : State) (f : Ctx → Ctx) : State := s.modCtx s.here s.ctx f

/-- The issuing tile changed. -/
def State.modCurTile (s : State) (f : Tile → Tile) : State := s.modTile s.here f

/-- A die of a number; numbers count modulo 8. -/
def dieOf (d : Nat) : Fin 8 := ⟨d % 8, Nat.mod_lt _ (by decide)⟩

/-- A die changed. -/
def State.modDie (s : State) (d : Fin 8) (f : Die → Die) : State := { s with dies := s.dies.set d (f s.dies[d]) }

/-- Whether a region is in service: it has neither ended nor been killed (R99, R102). -/
def Region.inService (r : Region) : Bool :=
  match r.phase with
  | .ended | .closing _ _ => false
  | _ => true

/-- The region in service under a number; the record of one that has ended stays for its fault queue (R389). -/
def State.region (s : State) (r : Nat) : Option Region := s.regions.find? fun x => x.number == r && x.inService

/-- A region changed. -/
def State.modRegion (s : State) (r : Nat) (f : Region → Region) : State :=
  { s with regions := s.regions.map fun x => if x.number = r && x.inService then f x else x }

/-- The record of a region, whether in service or not, by its number and generation, changed. -/
def State.modRecord (s : State) (r : Nat) (gen : BitVec 8) (f : Region → Region) : State :=
  { s with regions := s.regions.map fun x => if x.number = r && x.gen = gen then f x else x }

/-- The region of a tile. -/
def State.regionOf (s : State) (t : TileId) : Option Region :=
  match (s.tile t).region with
  | none => none
  | some r => s.region r

/-- ASID of a tile's region; 0 outside a region. -/
def State.asidOf (s : State) (t : TileId) : BitVec 16 := ((s.regionOf t).map (·.launch.asid)).getD 0

/-- Tenant of a tile's region; 0 outside a region. -/
def State.tenantOf (s : State) (t : TileId) : BitVec 12 := ((s.regionOf t).map (·.launch.tenant)).getD 0

/-- The tile at package coordinates (R89). -/
def tileAt (prow pcol : Nat) : TileId := ⟨4 * (prow / 40) + pcol / 80, prow % 40, pcol % 80⟩

/-- The tile at region-relative coordinates. -/
def Region.tileAt (r : Region) (row col : Nat) : TileId := Machine.tileAt (r.top + row) (r.left + col)

/-- Region-relative coordinates of a tile. -/
def Region.relative (r : Region) (t : TileId) : Nat × Nat := (t.prow - r.top, t.pcol - r.left)

/-- The tiles of a region, in row-major order. -/
def Region.tiles (r : Region) : List TileId :=
  (List.range r.launch.rows).flatMap fun row => (List.range r.launch.cols).map fun col => r.tileAt row col

/-- A sink of a tile. -/
def Tile.sink (x : Tile) (k : Nat) : Sink := (lookupKey k x.sinks).getD Sink.empty

/-- A sink changed. -/
def Tile.modSink (x : Tile) (k : Nat) (f : Sink → Sink) : Tile := { x with sinks := putKey k (f (x.sink k)) x.sinks }

/-- Whether a tile's units have stopped for its snapshot (R392). -/
def Tile.frozen (x : Tile) : Bool := x.stopping || x.snapped

/-- A source of a tile. -/
def Tile.source (x : Tile) (k : Nat) : Source := (lookupKey k x.sources).getD ⟨0, 0⟩

/-- A source changed. -/
def Tile.modSource (x : Tile) (k : Nat) (f : Source → Source) : Tile :=
  { x with sources := putKey k (f (x.source k)) x.sources }

/-! Registers. -/

/-- S(i) (R35). -/
def Ctx.getS (c : Ctx) (i : Reg) : Word := if i = 0 then 0 else c.s[i.toNat]'i.isLt

/-- S(i) := v (R35). -/
def Ctx.setS (c : Ctx) (i : Reg) (v : Word) : Ctx := if i = 0 then c else { c with s := c.s.set i.toNat v i.isLt }

/-- V(i) (R35); a decoded field is below 16 (R48). -/
def Ctx.getV (c : Ctx) (i : Reg) : Vec := c.v[i.toNat % 16]'(Nat.mod_lt _ (by decide))

/-- V(i) := v (R35). -/
def Ctx.setV (c : Ctx) (i : Reg) (x : Vec) : Ctx := { c with v := c.v.set (i.toNat % 16) x (Nat.mod_lt _ (by decide)) }

/-- P(i) (R35); a decoded field is below 8 (R48). -/
def Ctx.getP (c : Ctx) (i : Nat) : Word := if i % 8 = 0 then Word.ones else c.p[i % 8]'(Nat.mod_lt _ (by decide))

/-- P(i) := v (R35). -/
def Ctx.setP (c : Ctx) (i : Nat) (v : Word) : Ctx :=
  if i % 8 = 0 then c else { c with p := c.p.set (i % 8) v (Nat.mod_lt _ (by decide)) }

/-- S(i) of the issuing context. -/
def State.getS (s : State) (i : Reg) : Word := s.cur.getS i
/-- V(i) of the issuing context. -/
def State.getV (s : State) (i : Reg) : Vec := s.cur.getV i
/-- P(i) of the issuing context. -/
def State.getP (s : State) (i : Reg) : Word := s.cur.getP i.toNat

/-- Vector element `k` of width `w` (R35). -/
def laneOf (v : Vec) (w k : Nat) : Nat := field v (k * w) w

/-- The vector whose element k of width w is `f k`. -/
def vecOf (w n : Nat) (f : Nat → Nat) : Vec :=
  BitVec.ofNat 512 ((List.range n).foldr (fun k acc => f k % 2 ^ w + 2 ^ w * acc) 0)

/-! Open allotments and free values. -/

/-- The n-th open allotment's choice among `n` (R438), and the state after it. -/
def State.pick (s : State) (n : Nat) : Nat × State := (Config.choice s.picks % n, { s with picks := s.picks + 1 })

/-- A free word, and the state after it. -/
def State.freeWord (s : State) : Word × State := (Config.freeWord s.frees, { s with frees := s.frees + 1 })

/-! Messages. -/

/-- Whether a port has lanes that no circuit binds, which carry its flits (R405, R418). -/
def Hub.flitLanes (h : Hub) (p : Fin 32) : Bool :=
  (List.range 8).any fun l => !h.circuits.any fun c => c.2.port == p && decide (c.2.lane ≤ l ∧ l < c.2.lane + c.2.lanes)

/-- The port that a version of the node-to-port table gives for a node, the lowest of those listed that can carry its flits
(R408; which of several the sender picks is open, log entry 15). -/
def Hub.portFor (h : Hub) (ver : Bool) (node : BitVec 12) : Option (Fin 32) :=
  let mask := (lookupKey (ver, node) h.nodePorts).getD 0
  (List.finRange 32).find? fun p => mask.getLsbD p.val && (h.ports[p]).up && h.flitLanes p

/-- The port of a node stream: the one that it has taken under the version, as long as the port carries packets, or else one that the
table gives, which it then keeps (R405, R408). -/
def Hub.streamTo (h : Hub) (ver : Bool) (node : BitVec 12) : Option (Fin 32) × Hub :=
  let fresh := match h.portFor ver node with
    | some p => (some p, { h with streamPort := putKey node (ver, p) h.streamPort })
    | none => (none, h)
  match lookupKey node h.streamPort with
  | some (v, p) => if v = ver && h.flitLanes p then (some p, h) else fresh
  | none => fresh

/-- Whether a port's replay buffer has room for a flit, and none waits before it (R410). -/
def Port.roomToSend (p : Port) : Bool := p.unsent.isEmpty && decide (p.replay.length < 512)

/-- A flit put on a port: it enters the replay buffer, or waits while that holds 512 (R410). -/
def Port.send (p : Port) (f : OutFlit) : Port :=
  if p.roomToSend then
    { p with replay := p.replay ++ [(p.txSeq, 0)], carried := p.carried ++ [(p.txSeq, f)], txSeq := p.txSeq + 1 }
  else { p with unsent := p.unsent ++ [f] }

/-- A port changed. -/
def Hub.modPort (h : Hub) (p : Fin 32) (f : Port → Port) : Hub := { h with ports := h.ports.set p (f h.ports[p]) }

/-- Where the request of a flit stands now. -/
def Hub.setPlace (h : Hub) (f : OutFlit) (x : ReqPlace) : Hub :=
  { h with remote := h.remote.map fun r => if f.rid = some r.rid then { r with place := x } else r }

/-- Traffic of a bale has gone over a port, to or from a node (R411). -/
def Hub.noteBale (h : Hub) (bale : Option (BitVec 12 × Word)) (node : BitVec 12) (p : Fin 32) : Hub :=
  match bale with
  | none => h
  | some b => if h.baleVia.contains (b, (node, p)) then h else { h with baleVia := h.baleVia ++ [(b, (node, p))] }

/-- A flit of a node stream on its way to a port that carries it. -/
def Hub.sendOn (h : Hub) (node : BitVec 12) (p : Fin 32) (f : OutFlit) : Hub :=
  let room := (h.ports[p]).roomToSend
  let h := (h.setPlace f (if room then .sent p else .queued p)).modPort p (·.send f)
  if room then h.noteBale f.bale node p else h

/-- A flit of a node stream on its way to the stream's port; a request for whose node no port is listed stands nowhere, and a bale whose
traffic finds none has lost the node (R409, R411). -/
def Hub.route (h : Hub) (node : BitVec 12) (f : OutFlit) : Hub :=
  match h.streamTo f.ver node with
  | (some p, h) => h.sendOn node p f
  | (none, h) =>
    let h := h.setPlace f .nowhere
    { h with unrouted := h.unrouted ++ f.bale.toList.map fun b => (b, node) }

/-- Whether a flit of a node stream has to wait: earlier flits of the stream wait, requests of it that are stamped with another
version have not completed, or flits of it so stamped have not left, or carry a bale's traffic that has not been acknowledged
(R409; log entry 105). -/
def Hub.mustHold (h : Hub) (node : BitVec 12) (ver : Bool) : Bool :=
  let other := fun (f : OutFlit) => f.node == some node && f.ver != ver
  (h.outHeld.any fun g => g.node == some node) || (h.remote.any fun r => r.node == node && r.ver != ver && r.place != .held) ||
    h.ports.toList.any fun p => p.unsent.any other || p.carried.any fun c => other c.2 && c.2.bale.isSome

/-- A flit given to its node stream (R408, R409). -/
def Hub.giveFlit (h : Hub) (f : OutFlit) : Hub :=
  match f.node with
  | none => h
  | some node => if h.mustHold node f.ver then { h with outHeld := h.outHeld ++ [f] } else h.route node f

/-- The flits that waited for another version looked at again, in order (R409). -/
def Hub.releaseHeld (h : Hub) : Hub := h.outHeld.foldl Hub.giveFlit { h with outHeld := [] }

/-- A message to a node, counted as one flit of its node stream (log entry 28): what the hub sends itself is stamped with the current
version, another packet has been stamped where it was injected (R409). -/
def Hub.sendTo (h : Hub) (node : BitVec 12) (rid : Option Nat) (page : Option (BitVec 16 × Span) := none)
    (bale : Option (BitVec 12 × Word) := none) (ver : Bool := h.version) : Hub :=
  h.giveFlit ⟨some node, ver, rid, page, bale⟩

/-- The 64 bytes of a response or notification (R419, R421): OP, STATUS, TAG and the words from byte 8 on. -/
def HostMsg.record (m : HostMsg) : BitVec 512 :=
  BitVec.ofNat 512 (m.op % 2 ^ 16 + m.status % 2 ^ 8 * 2 ^ 16 + m.tag.toNat * 2 ^ 32 +
    (m.r.foldr (fun w acc => w.toNat + 2 ^ 64 * acc) 0) * 2 ^ 64)

/-- A record given to the node stream of a host. -/
def State.toNode (s : State) (m : HostMsg) : State :=
  { s with hub := Hub.sendTo { s.hub with toHost := s.hub.toHost ++ [(m.node, m.record)] } m.node none }

/-- A notification to the first node of the host list (R421). -/
def State.notify (s : State) (op : Nat) (args : List Word) : State := s.toNode ⟨s.hub.hosts.headD 0, op, 0, 0, args⟩

/-- A response to a command (R419). -/
def State.respond (s : State) (node : BitVec 12) (tag : BitVec 32) (op status : Nat) (r : List Word) : State :=
  s.toNode ⟨node, op, status, tag, r⟩

/-- A flit of a port itself, which belongs to no node stream, on lanes that carry packets. -/
def Hub.sendPort (h : Hub) (p : Fin 32) : Hub :=
  if (h.ports[p]).up && h.flitLanes p then h.modPort p (·.send ⟨none, h.version, none, none, none⟩) else h

/-- A flit of a circuit itself, on the lanes bound to it (R418). -/
def Hub.sendCirc (h : Hub) (p : Fin 32) : Hub :=
  if (h.ports[p]).up then h.modPort p (·.send ⟨none, h.version, none, none, none⟩) else h

/-- The flit of a message to a peer: a hello leaves on its own port, a circuit's entries on the lanes of the circuit, its credits on
the packet lanes of that port, or in the peer's node stream where it has none (log entry 106), all others in the node stream
(R408, R412, R417, R418). A tagged store has a number and the page through which it was translated. -/
def Hub.sendMsg (h : Hub) (m : PeerMsg) (rid : Option Nat) (page : Option (BitVec 16 × Span)) (ver : Bool := h.version) : Hub :=
  match m with
  | .hello p _ _ => h.sendPort p
  | .circ k _ => match lookupKey k h.circuits with
    | some c => h.sendCirc c.port
    | none => h
  | .credits k _ => match lookupKey k h.circuits with
    | some c => if h.flitLanes c.port then h.sendPort c.port else h.sendTo c.node none
    | none => h
  | .request n q => h.sendTo n (match q with
    | .read rid _ _ | .write rid _ _ _ | .atomic rid _ _ _ _ _ | .call rid _ _ _ => some rid
    | _ => none) none none ver
  | .answer n _ _ | .hold n _ => h.sendTo n none
  | .baleDone n _ => h.sendTo n none
  | .baleAnswer n g _ => h.sendTo n none none (some (n, g))
  | .store n g _ _ _ => h.sendTo n rid page (some (h.node, g))
  | .seal n g _ | .decision n g _ => h.sendTo n none none (some (h.node, g))

/-- A message to a peer. -/
def State.tell (s : State) (m : PeerMsg) (ver : Bool := s.hub.version) : State :=
  { s with hub := Hub.sendMsg { s.hub with toPeer := s.hub.toPeer ++ [m] } m none none ver }

/-- A tagged store sent to another package, translated through a page (R284, R370). -/
def State.tellStore (s : State) (node : BitVec 12) (h : Word) (va n : Nat) (data : BitVec 512) (page : BitVec 16 × Span) : State :=
  let m : PeerMsg := .store node h va n data
  let rid := s.hub.nextRid
  { s with hub := Hub.sendMsg { s.hub with toPeer := s.hub.toPeer ++ [m], nextRid := rid + 1 } m (some rid) (some page) }

/-- The region and generation on whose behalf a requester asks. -/
def State.regionFor (s : State) (w : Walker) : Option (Nat × BitVec 8) :=
  match w with
  | .ctx t _ | .prefetch t _ | .stream t _ => (s.regionOf t).map fun r => (r.number, r.gen)
  | .place id => (s.xfers.find? fun x => x.id == id).map fun x => (x.region, x.gen)
  | .hub owner _ => if owner < 2 ^ 20 then some (owner / 256, BitVec.ofNat 8 owner) else none

/-- The clock of the die that asks: of the tile, of the engine, of the region's anchor, or for the hub that of die 0 (log
entry 29). -/
def State.clockOf (s : State) (w : Walker) : Nat :=
  let d : Fin 8 := match w with
    | .ctx t _ | .prefetch t _ | .stream t _ => t.dieIx
    | .place id => ((s.xfers.find? fun x => x.id == id).map (·.die)).getD 0
    | .hub owner _ => if owner < 2 ^ 20 then dieOf (owner / 256 / 256) else 0
  s.dies[d].clock

/-- A die's clock pushed on to where a tile of it has come. -/
def Die.tick (d : Die) (n : Int) : Die := { d with clock := max d.clock n.toNat }

/-- The bale that a request of a peer belongs to: its coordinator, which sends it or is the peer, and its handle (R363, R371). -/
def baleOf (node : BitVec 12) : PeerRequest → Option (BitVec 12 × Word)
  | .baleStore h _ _ _ | .seal h _ | .decision h _ => some (node, h)
  | _ => none

/-- Whether a request writes at its target. -/
def requestWrites : PeerRequest → Bool
  | .read _ _ _ => false
  | _ => true

/-- A request, translated through a page, that enters the node stream of another package, stamped with a routing version, and waits there
for its answer (R284, R311, R409, R416). -/
def State.askRemote (s : State) (node : BitVec 12) (who : Walker) (acc : Nat) (page : BitVec 16 × Span) (ver : Bool)
    (q : Nat → PeerRequest) : State :=
  let rid := s.hub.nextRid
  let r : RemoteReq :=
    { rid := rid, node := node, place := .held, ver := ver, who := who, acc := acc, writes := requestWrites (q rid)
      region := s.regionFor who, since := s.clockOf who, held := false, page := some page }
  { s with hub := { s.hub with remote := s.hub.remote ++ [r], nextRid := rid + 1 } }.tell (.request node (q rid)) ver

/-- A message for this package's loft, in the place of its number among those that are under way. -/
def State.loftInsert (s : State) (n : Nat) (m : LoftMsg) : State :=
  { s with hub := { s.hub with
    loftIn := s.hub.loftIn.filter (fun e => decide (e.1 < n)) ++ (n, m) :: s.hub.loftIn.filter fun e => !decide (e.1 < n) } }

/-- Messages for this package's loft, numbered with the requests of peers. -/
def State.loftPut (s : State) (m : LoftMsg) : State :=
  { s with hub := { s.hub with loftIn := s.hub.loftIn ++ [(s.hub.nextIn, m)], nextIn := s.hub.nextIn + 1 } }

/-- A message for this package's loft under a number, or under the next one. -/
def State.loftAt (s : State) (n : Option Nat) (m : LoftMsg) : State :=
  match n with
  | none => s.loftPut m
  | some n => s.loftInsert n m

/-- One more stale reply counted at a die (R102). -/
def State.stale (s : State) (d : Fin 8) : State := s.modDie d fun x => { x with stale := x.stale + 1 }

/-- The generation that a region number has now (R93). -/
def State.generation (s : State) (n : Nat) : BitVec 8 := (lookupKey (n % 256) s.dies[dieOf (n / 256)].gens).getD 0

/-- A reply for a region that is gone: dropped, and counted at a die if it carries an older generation (R102). -/
def State.lateReply (s : State) (d : Fin 8) (n : Nat) (gen : BitVec 8) : State := if s.generation n = gen then s else s.stale d

/-- A list in which what has been granted stands before what has not, with one more that has been. -/
def joinGranted {α : Type} (granted : α → Bool) (x : α) (l : List α) : List α := l.filter granted ++ x :: l.filter fun y => !granted y

/-- Nothing happens: the instruction would block, or what the move describes cannot happen now. -/
def State.stall (s : State) : State := { s with stalled := true }

/-! Barriers and bales, so far as a kill and an instruction share them. -/

/-- A barrier freed: GEN counts on, 255 being followed by 1 (R319, R323). -/
def Barrier.freed (b : Barrier) : Barrier := { Barrier.free with gen := if b.gen = 255 then 1 else b.gen + 1 }

/-- The barriers of one die that a region holds, freed (R323). -/
def Die.freeBarriers (d : Die) (r : Nat) : Die :=
  { d with barriers := d.barriers.map fun p => if p.2.held = some r then (p.1, p.2.freed) else p }

/-- A handle of a bale: node of the coordinator, index and generation (R363). -/
def baleHandle (node : BitVec 12) (k : Nat) (gen : BitVec 8) : Word :=
  BitVec.ofNat 64 (node.toNat * 2 ^ 16 + k * 2 ^ 8 + gen.toNat)

/-- The bale record of a number. -/
def Hub.bale (h : Hub) (k : Nat) : Bale := (lookupKey k h.bales).getD Bale.free

/-- A bale record changed. -/
def Hub.modBale (h : Hub) (k : Nat) (f : Bale → Bale) : Hub := { h with bales := putKey k (f (h.bale k)) h.bales }

/-- Whether a bale counts as outstanding (R365). -/
def BaleState.outstanding : BaleState → Bool
  | .opened | .sealed | .committing | .aborting => true
  | _ => false

/-- A bale record freed (R363). -/
def Bale.freed (b : Bale) : Bale := { Bale.free with gen := if b.gen = 255 then 1 else b.gen + 1 }

/-- The final state of a record whose destinations have all completed or been lost (R365). -/
def Bale.settle (b : Bale) : Bale :=
  let lost := b.st == some .committing && b.acause == 6
  if (b.st == some .committing || b.st == some .aborting) && b.counts.all fun p => b.done.contains p.1 then
    let b := { b with st := some (if b.st == some BaleState.aborting then BaleState.aborted else if lost then .peerLost else .committed) }
    if b.freeAtEnd then b.freed else b
  else b

/-- The first cause that a record met is kept (R373). -/
def Bale.blame (b : Bale) (cause : Nat) (node : BitVec 12) : Bale :=
  if b.acause = 0 then { b with acause := BitVec.ofNat 4 cause, rnode := node } else b

/-- The decision sent to every destination (R372). -/
def State.sendDecision (s : State) (k : Nat) (commit : Bool) : State :=
  let b := s.hub.bale k
  let h := baleHandle s.hub.node k b.gen
  b.counts.foldl (fun s p =>
    if p.1 = s.hub.node then s.loftPut (.decision s.hub.node h commit)
    else if b.done.contains p.1 then s
    else s.tell (.decision p.1 h commit)) s

/-- The abort of a bale that is not yet decided (R372); destinations lost while it was OPEN count as lost (R365, R367). -/
def State.abortBale (s : State) (k : Nat) (cause : Nat) (node : BitVec 12) : State :=
  let s := { s with hub := s.hub.modBale k fun b => { b.blame cause node with st := some .aborting, done := b.done ++ b.lost } }
  let s := s.sendDecision k false
  { s with hub := s.hub.modBale k Bale.settle }

/-- What a region's end, however it comes, does to its bales: those not decided abort with cause KILL, final ones are
freed, and the rest are freed when they complete (R365, R372). -/
def State.endBales (s : State) (r : Region) : State :=
  s.hub.bales.foldl (fun s p =>
    let b := p.2
    if b.region ≠ r.number || b.rgen ≠ r.gen then s
    else match b.st with
      | none => s
      | some .opened | some .sealed =>
        let s := { s with hub := s.hub.modBale p.1 fun b => { b with freeAtEnd := true } }
        s.abortBale p.1 9 0
      | some .committing | some .aborting =>
        { s with hub := s.hub.modBale p.1 fun b => { b with freeAtEnd := true } }
      | _ => { s with hub := s.hub.modBale p.1 Bale.freed }) s

/-- The 64-byte lines that bytes of local memory touch, told apart by their memory (R374). -/
def Target.lines (t : Target) (n : Nat) : List (Bool × Nat) :=
  match t with
  | .hbm pa => (List.range ((pa + n - 1) / 64 - pa / 64 + 1)).map fun i => (false, pa / 64 + i)
  | .lpddr pa => (List.range ((pa + n - 1) / 64 - pa / 64 + 1)).map fun i => (true, pa / 64 + i)
  | .remote _ _ => []

/-- The lines of a bale's stores. -/
def LoftBale.lines (b : LoftBale) : List (Bool × Nat) := b.stores.flatMap fun p => p.1.lines p.2.1

/-- Whether a prepared bale holds back accesses to some of the bytes (R374). -/
def State.lineHeld (s : State) (t : Target) (n : Nat) : Bool :=
  s.hub.loft.any fun b => b.prepared && (t.lines n).any b.lines.contains

/-- Whether a prepared bale holds back the read of an entry of a walk (R374). -/
def State.walkHeld (s : State) (asid : BitVec 16) (va : Nat) : Bool := (walkReads s.mem asid va).any fun t => s.lineHeld t 8

/-! Region faults and kills. -/

/-- The first entries of the region's queue, or one more overrun (R389); the first of all supplies the DONE record, whether or not
the host takes it from the queue before. -/
def Region.addFault (r : Region) (f : FaultEntry) : Region :=
  let r := { r with first := some (r.first.getD f) }
  if r.faults.length < 16 then { r with faults := r.faults ++ [f] }
  else { r with overrun := if r.overrun = 255 then 255 else r.overrun + 1 }

/-- Whether a requester of a walk lies in a tile of the list, or is a transfer of the list. -/
def Walker.within (w : Walker) (tiles : List TileId) (ids : List Word) : Bool :=
  match w with
  | .ctx t _ | .prefetch t _ | .stream t _ => tiles.contains t
  | .place id => ids.contains id
  | .hub _ _ => false

/-- Requesters removed from a die's walks; a queued walk that nobody waits for goes, one of the 64 that run finishes (R285). -/
def Die.dropWalkers (d : Die) (tiles : List TileId) (ids : List Word) : Die :=
  let left := d.walks.map fun w => { w with who := w.who.filter fun x => !x.within tiles ids }
  { d with walks := left.take 64 ++ (left.drop 64).filter fun w => !w.who.isEmpty }

/-- C counted on over the sequence numbers that have ended (R86). -/
def countEnded (ended : List Nat) (c : Nat) : Nat → Nat
  | 0 => c
  | fuel + 1 => if ended.contains ((c + 1) % 2 ^ 32) then countEnded ended ((c + 1) % 2 ^ 32) fuel else c

/-- A launch of a queue has ended (R86); a launch of an earlier numbering changes nothing (R84). -/
def WorkQueue.launchEnded (q : WorkQueue) (seq epoch : Nat) : WorkQueue :=
  if q.epoch ≠ epoch then q
  else
    let ended := q.ended ++ [seq]
    let c := countEnded ended q.c ended.length
    { q with c := c, ended := ended.filter fun n => decide (2 ^ 31 ≤ (c + 2 ^ 32 - n) % 2 ^ 32) }

/-- A work queue (R83). -/
def Hub.queue (h : Hub) (q : Nat) : WorkQueue := (lookupKey q h.queues).getD WorkQueue.reset

/-- A work queue changed. -/
def Hub.modQueue (h : Hub) (q : Nat) (f : WorkQueue → WorkQueue) : Hub := { h with queues := putKey q (f (h.queue q)) h.queues }

/-- The 16 bytes of a DONE record (R100). -/
def doneRecord (seq outcome cause info : Nat) : Nat := seq + outcome * 2 ^ 32 + cause * 2 ^ 40 + info * 2 ^ 64

/-- The owner of what a work queue reads and writes for the record of a sequence number; reads made under earlier settings of
the queue have another owner (R84). -/
def queueOwner (reads queue seq : Nat) : Nat := 2 ^ 20 + (reads * 2 ^ 14 + queue) * 2 ^ 32 + seq

/-- The DONE notification of a completion record (R100, R421). -/
def State.noteDone (s : State) (queue record : Nat) : State :=
  s.notify 0x80 [BitVec.ofNat 64 queue, BitVec.ofNat 64 record, BitVec.ofNat 64 (record / 2 ^ 64)]

/-- A completion record that is to be written has been written, or has failed: it is under way no more, and the host is notified
(R100). -/
def State.doneWritten (s : State) (d : DoneOut) (failed : Bool) : State :=
  let s := { s with hub := { s.hub with doneOut := s.hub.doneOut.erase d } }
  if failed || d.notify then s.noteDone d.queue d.record else s

/-- A completion record written to local memory, once no bale holds its lines (R100, R374). -/
def State.writeDone (s : State) (d : DoneOut) : State :=
  if s.lineHeld d.target 16 then s else { s with mem := s.mem.writeAt d.target 16 d.record }.doneWritten d false

/-- The completion action of a launch (R100), written with U = 1, W = 1 and WO = 0 (R88): a write that faults is reported to
the host by the DONE notification (log entry 25); one to another package is sent there, and what follows it waits for the
answer; one to lines that a bale holds waits for them. -/
def State.doneAction (s : State) (l : Launch) (queue seq outcome cause info : Nat) (region : Option (Nat × BitVec 8)) : State :=
  let record := doneRecord seq outcome cause info
  if l.doneKind = 0 then s
  else match walk s.mem l.asid l.doneVa with
    | .error _ => s.noteDone queue record
    | .ok leaf =>
      if (leaf.refuses .write true).isSome then s.noteDone queue record
      else
        let tgt := leaf.target l.doneVa
        let d : DoneOut := ⟨if tgt.isRemote then some s.hub.nextRid else none, tgt, queue, record, l.doneKind == 2, region⟩
        let s := { s with hub := { s.hub with doneOut := s.hub.doneOut ++ [d] } }
        match tgt with
        | .remote node rva =>
          s.askRemote node (.hub (queueOwner 0 queue seq) (l.doneVa / 64)) 0 (l.asid, leaf.span) s.hub.version fun rid => .write rid rva 16 (BitVec.ofNat 512 record)
        | _ => s.writeDone d

/-- Dies that a rectangle of package coordinates touches. -/
def diesOf (top left rows cols : Nat) : List Nat :=
  (List.range 8).filter fun d =>
    decide (top < 40 * (d / 4) + 40 ∧ 40 * (d / 4) < top + rows ∧ left < 80 * (d % 4) + 80 ∧ 80 * (d % 4) < left + cols)

/-- Dies that a region touches. -/
def Region.dies (r : Region) : List Nat := diesOf r.top r.left r.launch.rows r.launch.cols

/-- A placement pass is due on some dies (R91). Further triggers before the pass is taken leave it one pass, in which W rises once
(log entry 96). -/
def State.passOn (s : State) (ds : List Nat) : State := ds.foldl (fun s d => s.modDie (dieOf d) fun x => { x with passDue := true }) s

/-- The number's generation incremented (R93). -/
def State.nextGeneration (s : State) (r : Region) : State :=
  s.modDie (dieOf (r.number / 256)) fun x => { x with gens := putKey (r.number % 256) (r.gen + 1) x.gens }

/-- The tiles of a region whose completion record has been written are power-gated, and its number is freed (R99), under
the next generation where the region has ended OK (R93); the record stays for its fault queue (R389). -/
def State.freeRegion (s : State) (r : Region) : State :=
  let s := { s with tiles := s.tiles.filter fun p => p.2.region != some r.number }
  let s := if r.outcome = 0 then s.nextGeneration r else s
  (s.modRecord r.number r.gen fun x => match x.phase with
    | .closing outcome _ => { x with phase := .ended, outcome := outcome }
    | _ => x).passOn r.dies

/-- Whether what a closing region has under way has performed at fabric scope: reads and writes of its transfers, accesses to other
packages, and the stores of its bales that have been decided to commit (R99, R100, R318). A response is no access. -/
def State.allPerformed (s : State) (r : Region) : Bool :=
  !(s.xfers.any fun x => x.region == r.number && x.gen == r.gen && x.packets.any fun p => p.kind != .response) &&
  !(s.hub.remote.any fun q => q.region == some (r.number, r.gen) && match q.who with
    | .hub _ _ => false
    | _ => true) &&
  !(s.hub.bales.any fun p => p.2.region == r.number && p.2.rgen == r.gen && p.2.st == some .committing)

/-- One closing region looked at: once everything of it has performed, the queue's completion count and the DONE action, then
the power-gating and the freeing of the number (R99, R102). -/
def State.closeOne (s : State) (r : Region) : State :=
  match r.phase with
  | .closing outcome wrote =>
    let s :=
      if wrote || !s.allPerformed r || (r.launch.doneKind != 0 && s.walkHeld r.launch.asid r.launch.doneVa) then s
      else
        let s := s.modRecord r.number r.gen fun x => match x.phase with
          | .closing o _ => { x with phase := .closing o true }
          | _ => x
        State.doneAction { s with hub := s.hub.modQueue r.queue (·.launchEnded r.seq.toNat r.epoch) } r.launch r.queue r.seq.toNat
          outcome.toNat ((r.first.map (·.cause.toNat)).getD 0) ((r.first.map (·.info.toNat)).getD 0) (some (r.number, r.gen))
    let begun := s.regions.any fun x => x.number == r.number && x.gen == r.gen && x.phase == Phase.closing outcome true
    if begun && !(s.hub.doneOut.any fun d => d.region == some (r.number, r.gen)) then s.freeRegion r else s
  | _ => s

/-- Every closing region looked at. -/
def State.settleClosing (s : State) : State := s.regions.foldl State.closeOne s

/-- A region begins to close with an outcome (R99, R102): its tiles' state is discarded, operations on their way to a pool, owner programs,
circuits, lines read for it and a command that waited for it go. -/
def State.beginClose (s : State) (r : Region) (tiles : List TileId) (outcome : BitVec 8) : State :=
  -- a command that still waited for the region is answered REFUSED (log entry 26)
  let s := match r.phase with
    | .pausing ev node tag => s.respond node tag (if ev.isSome then 0x32 else 0x31) 2 []
    | .restoring _ _ node tag => s.respond node tag 0x33 2 []
    | _ => s
  let s := match r.preemptDue with
    | some (ev, node, tag) => s.respond node tag (if ev.isSome then 0x32 else 0x31) 2 []
    | none => s
  let halts := tiles.flatMap fun t => (s.tile t).ctxs.toList.filterMap (·.haltDue)
  let s := halts.foldl (fun s (h : BitVec 12 × BitVec 32) => s.respond h.1 h.2 0x34 2 []) s
  let theirs := fun (o : BarOp) => o.region == r.number && o.gen == r.gen
  -- what has been held back for an evicted region goes, its circuits' entries counted (R102, R418)
  let sinks := r.ends.filter (·.2.1)
  let s := sinks.foldl (fun s e => match lookupKey e.1 s.hub.circuits with
    | some c => match c.lastDie with
      | some d => s.modDie d fun x => { x with stale := x.stale + c.heldEntries.length }
      | none => s
    | none => s) s
  let away := fun (k : Nat) (sink : Bool) => r.ends.any fun e => e.1 == k && e.2.1 == sink
  let s := { s with
    tiles := s.tiles.filter fun p => !tiles.contains p.1
    dies := s.dies.map fun (d : Die) => { d with
      poolQ := d.poolQ.filter fun o => !theirs o, poolWaits := d.poolWaits.filter fun o => !theirs o }
    mem := { s.mem with programs := s.mem.programs.filter fun p => p.region ≠ r.number }
    hub := { s.hub with
      fetched := s.hub.fetched.filter fun f => f.1.1 ≠ r.number * 256 + r.gen.toNat
      retries := s.hub.retries.filter fun f => f.1.1 ≠ r.number * 256 + r.gen.toNat
      circuits := s.hub.circuits.map fun (c : Nat × Circuit) => (c.1, { c.2 with
      lastDie := match c.2.sink with
        | some e => if tiles.contains e.1 then some e.1.dieIx else c.2.lastDie
        | none => c.2.lastDie
      sink := c.2.sink.filter fun e => !tiles.contains e.1
      source := c.2.source.filter fun e => !tiles.contains e.1
      heldEntries := if away c.1 true then [] else c.2.heldEntries
      heldCredits := if away c.1 false then 0 else c.2.heldCredits }) } }
  let s := tiles.foldl (fun s t => s.setTile t { Tile.cleared with awake := true, region := some r.number }) s
  s.modRecord r.number r.gen fun x =>
    { x with phase := .closing outcome false, outcome := outcome, starts := [], reel := none, saved := [], ends := [], preemptDue := none }

/-- Whether a transfer has ended (R247). -/
def Transfer.ended (x : Transfer) : Bool := x.st == .done || x.st == .error || x.st == .cancelled

/-- Whether a transfer still holds its slot, or waits for one: it has not ended, or its completion entry waits for room
(R255). -/
def Transfer.live (x : Transfer) : Bool := !x.ended || x.action.isSome

/-- Whether a packet of a killed region goes on: an access that a slice of this package has accepted performs, and a response comes
back, to be dropped on arrival; all others are discarded, deferred reads with them (R102, R296, R318). -/
def Packet.outlives (p : Packet) : Bool :=
  p.kind == .response || (p.granted && !p.deferred && (p.target.map fun t => !t.isRemote).getD false)

/-- A transfer of a killed region (R102, R318). -/
def Transfer.killed (x : Transfer) : Transfer :=
  { x with st := if x.ended then x.st else .cancelled, action := none, packets := x.packets.filter Packet.outlives }

/-- Whether a region holds tiles (R390, R394). -/
def Region.holdsTiles (r : Region) : Bool :=
  match r.phase with
  | .ended | .evicted => false
  | .restoring _ placed _ _ => placed
  | _ => true

/-- What a kill, or a pre-emption, asks other packages to discard: the reads that they defer for a region (R296). The requests
complete no more. -/
def State.purgePeers (s : State) (r : Region) : State :=
  let waits := fun (q : RemoteReq) => q.region == some (r.number, r.gen) && q.held && !q.writes
  let nodes := ((s.hub.remote.filter waits).map (·.node)).dedup
  let s := { s with hub := { s.hub with remote := s.hub.remote.filter fun q => !waits q } }
  nodes.foldl (fun s node => s.tell (.request node (.purge (BitVec.ofNat 11 r.number) r.gen))) s

/-! What R99 looks at. -/

/-- Entries that stand in a port's own queue, head first (R96, R173). -/
def Tile.portQueue (x : Tile) (c : Fin 4) (k : Fin 16) : List Entry :=
  match x.ctxs[c].ports[k] with
  | .input e => (x.sink e).queue
  | .stream g => if g < 4 then ((x.agens[g % 4]'(Nat.mod_lt _ (by decide))).queue) else []
  | .output _ => []
  | .unbound => x.ctxs[c].startQ[k]

/-- Whether a task may be dispatched (R113). -/
def Tile.taskReady (x : Tile) (c : Fin 4) (k : Fin 16) : Bool :=
  let e := x.ctxs[c].tasks[k]
  e.valid && (e.pend || !(x.portQueue c k).isEmpty)

/-- Whether the completion action of a transfer is still on its way to a barrier (R255). -/
def State.arriving (s : State) (x : Transfer) : Bool :=
  s.dies.toList.any fun d => d.arrivals.any fun a => a.id == x.id && a.region == x.region && a.gen == x.gen

/-- Whether a transfer holds its slot: it has not ended, or its completion action has not been taken (R255). -/
def State.holdsSlot (s : State) (x : Transfer) : Bool := x.live || s.arriving x

/-- Nothing stands in a sink. -/
def Sink.isClear (k : Sink) : Bool :=
  k.inflight.isEmpty && k.convIn.isEmpty && k.accN == 0 && k.queue.isEmpty && k.held.isEmpty && k.cfg.isEmpty

/-- A context is parked or disabled, with nothing outstanding and no task that could start. -/
def Tile.ctxIdle (x : Tile) (k : Fin 4) : Bool :=
  let c := x.ctxs[k]
  (c.run == .parked || c.run == .disabled) && c.gq.isEmpty && c.stq.isEmpty && c.startQ.toList.all List.isEmpty &&
    (c.run == .disabled || (List.finRange 16).all fun i => !x.taskReady k i)

/-- A tile meets R99. -/
def Tile.idle (x : Tile) : Bool :=
  (List.finRange 4).all x.ctxIdle && x.sinks.all (fun p => p.2.isClear) &&
  x.agens.toList.all (fun a => a.st != .running && a.queue.isEmpty && a.out.isEmpty && a.taken.isEmpty && a.flight.isEmpty) &&
  !x.matrix.busy && !x.matrix.drain && x.spins.toList.all (fun p => p.partials.isEmpty) &&
  (match x.reel with
    | none => true
    | some b => b.toSave.isEmpty && b.restores.isEmpty && b.segments.isEmpty && b.loading.isNone)

/-- Swaps that a tile of a slot makes in all, the last to the empty configuration (R338, R345). -/
def Reel.swapsOf (f : Reel) (slot : Nat) : Nat := f.trains * ((f.stages - 1 - slot) / f.b + 1) + 1

/-- A reel's feeder has no work left: it has sent every train, and every tile of every slot has swapped to its empty configuration
(R361). -/
def State.fed (s : State) (r : Region) (f : Reel) : Bool :=
  f.laid && decide (f.trains ≤ f.train) && r.tiles.all fun t => match (s.tile t).reel with
    | none => true
    | some b => decide (f.swapsOf b.slot ≤ b.swaps)

/-- A region meets R99. -/
def State.regionIdle (s : State) (r : Region) : Bool :=
  let tiles := r.tiles
  let mine := fun (o : Option (Nat × BitVec 8)) => o == some (r.number, r.gen)
  r.starts.isEmpty && tiles.all (fun t => (s.tile t).idle) &&
  !(s.xfers.any fun x => x.region == r.number && x.gen == r.gen && s.holdsSlot x) &&
  !(s.hub.remote.any fun q => mine q.region) &&
  !(s.hub.bales.any fun p => p.2.region == r.number && p.2.rgen == r.gen && (p.2.st.map BaleState.outstanding).getD false) &&
  (r.reel.map (s.fed r)).getD true

/-- Whether a region has met R99. -/
def State.ending (s : State) (r : Region) : Bool := r.phase == .running && s.regionIdle r

/-- The kill of a region (R102): everything of it at once, then, once what it has issued has performed, the completion action,
the power-gating and the freeing of the number. -/
def State.killRegion (s : State) (n : Nat) (outcome : BitVec 8) : State :=
  match s.region n with
  | none => s
  | some r =>
    let tiles := if r.holdsTiles then r.tiles else []
    let mine := fun (x : Transfer) => x.region == n && x.gen == r.gen
    let ids := (s.xfers.filter mine).map (·.id)
    let s := { s with
      xfers := (s.xfers.map fun x => if mine x then x.killed else x).filter fun x => !(mine x && x.slot.isNone && x.packets.isEmpty)
      beacons := s.beacons.filter fun b => !tiles.contains b.tile
      beaconsOut := s.beaconsOut.filter fun b => !tiles.contains b.tile }
    -- queued walk requests and pool operations go, completions under way count as stale, barriers are freed
    let s := (List.finRange 8).foldl (fun s d => s.modDie d fun x =>
      let x := (x.dropWalkers tiles ids).freeBarriers n
      let late := x.arrivals.filter fun a => a.region == n && a.gen == r.gen
      { x with arrivals := x.arrivals.filter fun a => !(a.region == n && a.gen == r.gen)
               stale := x.stale + late.length }) s
    (((((s.endBales r).nextGeneration r).purgePeers r).beginClose r tiles outcome)).settleClosing

/-- The region under a number until its number is freed: in service, or closing. -/
def State.standing (s : State) (n : Nat) : Option Region := s.regions.find? fun x => x.number == n && x.phase != .ended

/-- An unrecoverable region fault (R389): the entry, the notification and the kill; a load fault before any source
has started ends the region LOADFAULT, every other one FAULT. One that arrives while the region already closes, or after it has met R99,
is appended and notified and ends nothing (R103; DEDUCED, log entry 122). -/
def State.regionFault (s : State) (n : Nat) (f : FaultEntry) : State :=
  match s.standing n with
  | none => s
  | some r =>
    let early := match r.phase with
      | .placed | .installed => true
      | _ => false
    let s := s.modRecord n r.gen (·.addFault f)
    let s := s.notify 0x81 [BitVec.ofNat 64 n, r.gen.zeroExtend 64]
    if s.ending r then s else s.killRegion n (if f.kind = 0 && early then 2 else 1)

/-- PLACE of a fault entry: row and column relative to the region, context, operator (R389). -/
def placeWord (row col c o : Nat) : BitVec 32 := BitVec.ofNat 32 (row * 2 ^ 25 + col * 2 ^ 16 + c * 2 ^ 14 + o * 2 ^ 11)

/-- A region fault that a tile reports. -/
def State.tileFault (s : State) (t : TileId) (cause kind : BitVec 8) (c o : Nat) (info loc : Word) : State :=
  match s.regionOf t with
  | none => s
  | some r =>
    let (row, col) := r.relative t
    s.regionFault r.number ⟨cause, kind, placeWord row col c o, info, loc, (s.tile t).cycle⟩

/-! Causes (R382). -/

/-- ILL. -/
def Cause.ill : BitVec 8 := 0x01
/-- ZERO. -/
def Cause.zero : BitVec 8 := 0x02
/-- PRIV. -/
def Cause.priv : BitVec 8 := 0x03
/-- ALIGN. -/
def Cause.align : BitVec 8 := 0x04
/-- SCRATCH. -/
def Cause.scratch : BitVec 8 := 0x05
/-- XLATE. -/
def Cause.xlate : BitVec 8 := 0x06
/-- PERM. -/
def Cause.perm : BitVec 8 := 0x07
/-- WOTWICE. -/
def Cause.wotwice : BitVec 8 := 0x08
/-- POISON. -/
def Cause.poison : BitVec 8 := 0x09
/-- CHAN. -/
def Cause.chan : BitVec 8 := 0x0A
/-- BAROVF. -/
def Cause.barovf : BitVec 8 := 0x0B
/-- BARGEN. -/
def Cause.bargen : BitVec 8 := 0x0C
/-- BALE. -/
def Cause.bale : BitVec 8 := 0x0D
/-- SPOVF. -/
def Cause.spovf : BitVec 8 := 0x0E
/-- TRAP. -/
def Cause.trap : BitVec 8 := 0x10
/-- EBRK. -/
def Cause.ebrk : BitVec 8 := 0x11
/-- LATE. -/
def Cause.late : BitVec 8 := 0x12
/-- FABRIC. -/
def Cause.fabric : BitVec 8 := 0x13
/-- XFER. -/
def Cause.xfer : BitVec 8 := 0x14

/-- A packet whose header has an uncorrectable error: it is lost, and its region ends (R399). -/
def State.headerFault (s : State) (region : Option Nat) : State :=
  match region with
  | none => s
  | some n => s.regionFault n ⟨Cause.poison, 5, 0, 0, 0, 0⟩

/-! Trap entry and return. -/

/-- The registers that trap entry writes (R381). -/
def Ctx.trapEntry (c : Ctx) (cause : BitVec 8) (epc : BitVec 11) (eva einfo : Word) : Ctx :=
  { c with cause := cause, epc := epc, eva := eva, einfo := einfo
           pmode := c.mode, mode := .supervisor, trapped := true, pc := c.hvec, wait := .none }

/-- TrapEntry of R381 in a given context: the handler, or the region fault of a double trap with the values that entry
would have written (R387). -/
def State.trapIn (s : State) (t : TileId) (k : Fin 4) (cause : BitVec 8) (epc : BitVec 11) (eva einfo : Word) : State :=
  if (s.ctxAt t k).trapped then s.tileFault t cause 2 k.val 0 einfo (epc.zeroExtend 64)
  else s.modCtx t k fun c => c.trapEntry cause epc eva einfo

/-- Trap(cause, info) in the issuing context with sys.epc its own index and sys.eva given. -/
def State.trapAt (s : State) (eva : Word) (cause : BitVec 8) (info : Word) : State :=
  s.trapIn s.here s.ctx cause s.cur.pc eva info

/-- Trap(cause, info) in the issuing context with sys.epc its own index. -/
def State.trap (s : State) (cause : BitVec 8) (info : Word) : State := s.trapAt 0 cause info

/-- Trap(cause) where the raising rule gives no info: sys.einfo is a free value (log entry 3). -/
def State.trapOpen (s : State) (cause : BitVec 8) : State :=
  let (w, s) := s.freeWord
  s.trap cause w

/-- The return of `eret` (R383). -/
def Ctx.trapReturn (c : Ctx) : Ctx := { c with pc := c.epc, mode := c.pmode, trapped := false }

/-! Issue. -/

/-- The instruction word at the program counter. -/
def State.curWord (s : State) : Word := (lookupKey s.cur.pc.toNat s.curTile.store).getD 0

/-- Trap(ILL, w). -/
def State.trapIll (s : State) : State := s.trap Cause.ill s.curWord

/-- The instruction retires and the context goes on at the next index (R38, R122). -/
def Ctx.retire (c : Ctx) : Ctx := { c with pc := c.pc + 1, retired := c.retired + 1 }

/-- The issuing context retires its instruction. -/
def State.retire (s : State) : State := s.modCur Ctx.retire

/-- The guard value (R38). -/
def Ctx.guardOn (c : Ctx) (g : Guard) : Bool := (c.getP g.g.toNat).getLsbD 0 ^^ g.n

/-- The lane mask (R39, R53). -/
def Ctx.laneMask (c : Ctx) (g : Guard) : Word := if g.n then ~~~(c.getP g.g.toNat) else c.getP g.g.toNat

/-- An instruction that goes on at the next index: the check of R55, then the guard (R38), then its effect. -/
def State.issue (s : State) (g : Guard) (effect : State → State) : State :=
  if s.cur.pc = 2047 then s.trapIll else if s.cur.guardOn g then effect s else s.retire

/-- An instruction that names its own next index: guarded off it goes on at its own index + 1 (R55). -/
def State.issueJump (s : State) (g : Guard) (effect : State → State) : State :=
  if s.cur.guardOn g then effect s else if s.cur.pc = 2047 then s.trapIll else s.retire

/-- A vector instruction: the guard is its lane mask (R39). -/
def State.issueLanes (s : State) (g : Guard) (effect : Word → State → State) : State :=
  if s.cur.pc = 2047 then s.trapIll else effect (s.cur.laneMask g) s

/-- The check of privilege that precedes the guard (R53). -/
def State.supervised (s : State) (effect : State → State) : State :=
  if s.cur.mode = .user then s.trap Cause.priv s.curWord else effect s

/-- S(D) := v, and the instruction retires. -/
def State.writeS (s : State) (d : Reg) (v : Word) : State := s.modCur fun c => (c.setS d v).retire
/-- V(D) := x, and the instruction retires. -/
def State.writeV (s : State) (d : Reg) (x : Vec) : State := s.modCur fun c => (c.setV d x).retire
/-- P(D) := v, and the instruction retires. -/
def State.writeP (s : State) (d : Reg) (v : Word) : State := s.modCur fun c => (c.setP d.toNat v).retire

/-- A pending store fault taken as a trap in place of the instruction's effect, if one is held (R289). -/
def State.afterStoreFault (s : State) (effect : State → State) : State :=
  match s.cur.psf with
  | none => effect s
  | some f => (s.modCur fun c => { c with psf := none }).trapAt f.va f.cause f.info

/-! Ports and tasks. -/

/-- The ports in the order in which a context scans for a task: LAST + 1, LAST + 2, … (R113). -/
def Ctx.scanOrder (c : Ctx) : List (Fin 16) :=
  (List.range 16).map fun i => ⟨(c.last.toNat + 1 + i) % 16, Nat.mod_lt _ (by decide)⟩

/-- Dispatch(k) (R113). -/
def Ctx.dispatch (c : Ctx) (k : Fin 16) : Ctx :=
  let e := c.tasks[k]
  let c := if e.pend then { c with pc := e.resume, tasks := c.tasks.set k { e with pend := false } }
           else { c with pc := e.entry }
  { c with last := BitVec.ofNat 4 k.val, run := .running }

/-- The dispatch of a PARKED context, if a task is eligible (R113). -/
def Tile.dispatch (x : Tile) (c : Fin 4) : Tile :=
  if x.ctxs[c].run = .parked then
    match x.ctxs[c].scanOrder.find? (x.taskReady c) with
    | none => x
    | some k => x.setCtx c (x.ctxs[c].dispatch k)
  else x

/-- Halting (R395): the state left, HIDX and HCAUSE. -/
def Ctx.halt (c : Ctx) (cause : BitVec 8) (idx : BitVec 11) : Ctx :=
  { c with run := .halted (c.run == .running), hcause := cause, hidx := idx }

/-- Whether a wait leaves its instruction unissued: a `blwait` and a `blcommit` are not eligible until the bale has come so far (R377). -/
def Wait.unissued : Wait → Bool
  | .bale _ _ | .commit _ _ => true
  | _ => false

/-- Whether a LATE waits that the context takes before its next instruction (R384). -/
def Ctx.latePending (c : Ctx) : Bool := c.evLate && c.evmask && !c.trapped

/-- A context that waited for a bale goes on behind its instruction; under STEP it then halts (R377, R395). -/
def Ctx.woken (c : Ctx) : Ctx := { c.retire with wait := .none, stepDue := if c.dbgStep then some c.pc else c.stepDue }

/-- Whether a context stands at an instruction boundary with every register write landed (R395). -/
def Ctx.settledAt (c : Ctx) (now : Nat) : Bool :=
  (c.wait == .none || c.wait.unissued) && c.landing.all (fun p => decide (p.2 ≤ now)) && (c.run == .running || c.run == .parked)

/-- A HALT that waits takes effect, and is answered, once the context stands at an instruction boundary; a context that has
halted otherwise is halted (R395, R422). -/
def State.serveHalt (s : State) (t : TileId) (k : Fin 4) (now : Nat) : State :=
  let c := s.ctxAt t k
  match c.haltDue with
  | none => s
  | some (node, tag) =>
    if c.stepDue = none && c.settledAt now then
      (s.modCtx t k fun y => { y.halt 4 y.pc with landing := [], haltDue := none, wait := .none }).respond node tag 0x34 0 []
    else match c.run with
      | .halted _ | .disabled => (s.modCtx t k fun y => { y with haltDue := none }).respond node tag 0x34 0 []
      | _ => s

/-- The return from HALTED to the state left (R397). -/
def Ctx.resume (c : Ctx) : Ctx :=
  match c.run with
  | .halted was => { c with run := if was then .running else .parked }
  | _ => c

end Sys2Proof.Machine
end

