-- ==== Sys2Proof/WellFormed.lean ====
section
/-! DEFINITION. Which field values an instruction of R50 may have: R48, R49 and each chapter's own list of what
raises ILL. A happening or a command is well-formed whatever its arguments: what it does with them is its meaning. -/

namespace Sys2Proof

/-- I8, I16, I32, I64. -/
def Ty.ints : List Ty := [.i8, .i16, .i32, .i64]
/-- The integer types with I4. -/
def Ty.intsI4 : List Ty := [.i8, .i16, .i32, .i64, .i4]
/-- BF16, FP16, FP32. -/
def Ty.floats : List Ty := [.bf16, .fp16, .fp32]
/-- All float types. -/
def Ty.allFloats : List Ty := [.fp8a, .fp8b, .bf16, .fp16, .fp32]
/-- Every type. -/
def Ty.all : List Ty := [.i8, .i16, .i32, .i64, .i4, .fp8a, .fp8b, .bf16, .fp16, .fp32]
/-- Every type but I4. -/
def Ty.noI4 : List Ty := [.i8, .i16, .i32, .i64, .fp8a, .fp8b, .bf16, .fp16, .fp32]

/-- What a register field names (R48): nothing (then it is zero, R49), a scalar register or code, a vector
register or progress counter (below 16), a predicate (below 8). -/
inductive Fld where
  | zero | s | v | p
  deriving DecidableEq, Repr

/-- The limits of R48. -/
def Fld.ok (k : Fld) (r : Reg) : Bool :=
  match k with
  | .zero => r == 0
  | .s => true
  | .v => r.toNat < 16
  | .p => r.toNat < 8

/-- Format A (R40, R49, R141): the fields it names, the types it accepts (none: TY is zero), the rounding,
saturation and unsigned slots it takes, and the largest sub-operation. -/
def FmtA.ok (o : FmtA) (d s1 s2 s3 : Fld) (tys : List Ty) (rm sat u : Bool) (sub : Nat) : Bool :=
  d.ok o.d && s1.ok o.s1 && s2.ok o.s2 && s3.ok o.s3 &&
  (if tys.isEmpty then o.ty == .i8 else tys.contains o.ty) &&
  (rm || o.rm == .rne) && (sat || !o.sat) && ((u && o.ty.isInt) || !o.u) && o.sub.toNat ≤ sub

/-- The source type of `fcvt` and `vcvt`, in S3[3:0] (R136, R147). -/
def FmtA.srcTy (o : FmtA) : Option Ty := Ty.ofCode (o.s3.extractLsb' 0 4)

/-- Whether the source is an unsigned integer, S3[4] (R136, R147). -/
def FmtA.srcU (o : FmtA) : Bool := o.s3.getLsbD 4

/-- `fcvt` (R136): the source is no I4, S3[4] only with an integer source, not both types integers. -/
def FmtA.fcvtOk (o : FmtA) : Bool :=
  match o.srcTy with
  | none => false
  | some src => src != .i4 && (!o.srcU || src.isInt) && !(src.isInt && o.ty.isInt)

/-- Lanes of a vector register (R138). -/
def Ty.lanes (ty : Ty) : Nat := 512 / ty.width

/-- `vcvt` (R147): S3[4] only with an integer source, lane ratio at most 4, part below the ratio. -/
def FmtA.vcvtOk (o : FmtA) : Bool :=
  match o.srcTy with
  | none => false
  | some src =>
    let r := max src.lanes o.ty.lanes / min src.lanes o.ty.lanes
    (!o.srcU || src.isInt) && r ≤ 4 && o.sub.toNat < r

/-- Format M (R43): the fields D and X, the types, the ORD values. -/
def FmtM.ok (o : FmtM) (d x : Fld) (tys : List Ty) (ords : List Nat) : Bool :=
  d.ok o.d && x.ok o.x && tys.contains o.ty && ords.contains o.ord.toNat

/-- SUB of an atomic (R300): only bit 0, and that with D = 0. -/
def FmtM.nrOk (o : FmtM) : Bool := o.sub.toNat < 2 && (o.sub == 0 || o.d == 0)

/-- Format Q (R44): the fields D, S1, S2 and whether PORT is used. -/
def FmtQ.ok (o : FmtQ) (d s1 s2 : Fld) (port : Bool) : Bool :=
  d.ok o.d && s1.ok o.s1 && s2.ok o.s2 && (port || o.port == 0)

/-- The TY code in MOD7[6:3] (R44). -/
def FmtQ.tyCode (o : FmtQ) : Nat := o.m7.toNat / 8

/-- ORD in MOD7[6:5], instruction bits [22:21] (R44). -/
def FmtQ.ord (o : FmtQ) : BitVec 2 := o.m7.extractLsb' 5 2

/-- SCO in MOD7[4:3], instruction bits [20:19] (R44). -/
def FmtQ.sco (o : FmtQ) : Scope := Scope.ofCode (o.m7.extractLsb' 3 2)

/-- ORD among the accepted values. -/
def FmtQ.ordIn (o : FmtQ) (ords : List Nat) : Bool := ords.contains o.ord.toNat

/-- The system registers of R379. -/
def sregListed (r : BitVec 16) : Bool :=
  [0x0000, 0x0001, 0x0002, 0x0003, 0x0004, 0x0005, 0x0010, 0x0011, 0x0012, 0x0013, 0x0014, 0x0015, 0x0016,
   0x0017, 0x0020, 0x0021, 0x0022, 0x0023, 0x0024, 0x0025, 0x0030, 0x0040].contains r.toNat

/-- The instruction keeps the field limits and reserved bits of R48, R49 and its chapter. -/
def Instr.wf (i : Instr) : Bool :=
  match i with
  | .br _ o => o.s1 == 0 && o.s2 == 0
  | .beq _ _ => true
  | .bne _ _ => true
  | .blt _ _ => true
  | .bge _ _ => true
  | .bltu _ _ => true
  | .bgeu _ _ => true
  | .bp _ o => o.s1.toNat < 8 && o.s2 == 0
  | .bnp _ o => o.s1.toNat < 8 && o.s2 == 0
  | .jal _ o => o.s1 == 0 && o.mod4 == .i8
  | .jalr _ o => o.mod4 == .i8
  | .yield _ o => o.d == 0 && o.s1 == 0 && o.mod4 == .i8 && o.imm == 0
  | .park _ o => o.d == 0 && o.s1 == 0 && o.mod4 == .i8 && o.imm == 0
  | .nop _ o => o.d == 0 && o.s1 == 0 && o.mod4 == .i8 && o.imm == 0
  | .add _ o => o.ok .s .s .s .zero Ty.ints false true true 0
  | .sub _ o => o.ok .s .s .s .zero Ty.ints false true true 0
  | .mul _ o => o.ok .s .s .s .zero Ty.ints false true true 0
  | .mulh _ o => o.ok .s .s .s .zero Ty.ints false false false 0
  | .mulhu _ o => o.ok .s .s .s .zero Ty.ints false false false 0
  | .div _ o => o.ok .s .s .s .zero Ty.ints false false false 0
  | .divu _ o => o.ok .s .s .s .zero Ty.ints false false false 0
  | .rem _ o => o.ok .s .s .s .zero Ty.ints false false false 0
  | .remu _ o => o.ok .s .s .s .zero Ty.ints false false false 0
  | .and _ o => o.ok .s .s .s .zero Ty.ints false false true 0
  | .or _ o => o.ok .s .s .s .zero Ty.ints false false true 0
  | .xor _ o => o.ok .s .s .s .zero Ty.ints false false true 0
  | .andn _ o => o.ok .s .s .s .zero Ty.ints false false true 0
  | .sll _ o => o.ok .s .s .s .zero Ty.ints false false true 0
  | .srl _ o => o.ok .s .s .s .zero Ty.ints false false false 0
  | .sra _ o => o.ok .s .s .s .zero Ty.ints false false false 0
  | .rol _ o => o.ok .s .s .s .zero Ty.ints false false true 0
  | .min _ o => o.ok .s .s .s .zero Ty.ints false false false 0
  | .max _ o => o.ok .s .s .s .zero Ty.ints false false false 0
  | .minu _ o => o.ok .s .s .s .zero Ty.ints false false false 0
  | .maxu _ o => o.ok .s .s .s .zero Ty.ints false false false 0
  | .slt _ o => o.ok .s .s .s .zero Ty.ints false false false 0
  | .sltu _ o => o.ok .s .s .s .zero Ty.ints false false false 0
  | .sel _ o => o.ok .s .s .s .s Ty.ints false false true 0
  | .clz _ o => o.ok .s .s .zero .zero Ty.ints false false true 0
  | .ctz _ o => o.ok .s .s .zero .zero Ty.ints false false true 0
  | .popc _ o => o.ok .s .s .zero .zero Ty.ints false false true 0
  | .brev _ o => o.ok .s .s .zero .zero Ty.ints false false true 0
  | .addi _ o => Ty.ints.contains o.mod4
  | .andi _ o => Ty.ints.contains o.mod4
  | .ori _ o => Ty.ints.contains o.mod4
  | .xori _ o => Ty.ints.contains o.mod4
  | .slli _ o => Ty.ints.contains o.mod4 && o.imm.toNat < o.mod4.width
  | .srli _ o => Ty.ints.contains o.mod4 && o.imm.toNat < o.mod4.width
  | .srai _ o => Ty.ints.contains o.mod4 && o.imm.toNat < o.mod4.width
  | .slti _ o => Ty.ints.contains o.mod4
  | .sltiu _ o => Ty.ints.contains o.mod4
  | .li _ o => o.s1 == 0 && o.mod4 == .i8
  | .lhi _ o => o.mod4 == .i8
  | .pand _ o => o.ok .p .p .p .zero [] false false false 0
  | .por _ o => o.ok .p .p .p .zero [] false false false 0
  | .pxor _ o => o.ok .p .p .p .zero [] false false false 0
  | .pandn _ o => o.ok .p .p .p .zero [] false false false 0
  | .pnot _ o => o.ok .p .p .zero .zero [] false false false 0
  | .pfrom _ o => o.ok .p .s .zero .zero [] false false false 0
  | .pto _ o => o.ok .s .p .zero .zero [] false false false 0
  | .icmp _ o => o.ok .p .s .s .zero Ty.ints false false true 3
  | .lea _ o => o.ok .s .s .s .zero [] false false false 3
  | .sbank _ o => o.ok .s .s .s .zero [] false false false 0
  | .clamp _ o => o.ok .s .s .s .s Ty.ints false false true 0
  | .fadd _ o => o.ok .s .s .s .zero Ty.floats true true false 0
  | .fsub _ o => o.ok .s .s .s .zero Ty.floats true true false 0
  | .fmul _ o => o.ok .s .s .s .zero Ty.floats true true false 0
  | .fma _ o => o.ok .s .s .s .s Ty.floats true true false 0
  | .fdiv _ o => o.ok .s .s .s .zero Ty.floats true true false 0
  | .fsqrt _ o => o.ok .s .s .zero .zero Ty.floats true true false 0
  | .fmin _ o => o.ok .s .s .s .zero Ty.floats false false false 0
  | .fmax _ o => o.ok .s .s .s .zero Ty.floats false false false 0
  | .fcmp _ o => o.ok .s .s .s .zero Ty.floats false false false 3
  | .fcvt _ o => o.ok .s .s .zero .s Ty.noI4 true true true 0 && o.fcvtOk
  | .fclass _ o => o.ok .s .s .zero .zero Ty.allFloats false false false 0
  | .fsgnj _ o => o.ok .s .s .s .zero Ty.floats false false false 2
  | .vadd _ o => o.ok .v .v .v .zero Ty.intsI4 false true true 0
  | .vsub _ o => o.ok .v .v .v .zero Ty.intsI4 false true true 0
  | .vmul _ o => o.ok .v .v .v .zero Ty.intsI4 false true true 0
  | .vmulh _ o => o.ok .v .v .v .zero Ty.ints false false true 0
  | .vmin _ o => o.ok .v .v .v .zero Ty.intsI4 false false true 0
  | .vmax _ o => o.ok .v .v .v .zero Ty.intsI4 false false true 0
  | .vabs _ o => o.ok .v .v .zero .zero Ty.intsI4 false true false 0
  | .vand _ o => o.ok .v .v .v .zero Ty.intsI4 false false false 0
  | .vor _ o => o.ok .v .v .v .zero Ty.intsI4 false false false 0
  | .vxor _ o => o.ok .v .v .v .zero Ty.intsI4 false false false 0
  | .vsll _ o => o.ok .v .v .v .zero Ty.intsI4 false false false 0
  | .vsrl _ o => o.ok .v .v .v .zero Ty.intsI4 false false false 0
  | .vsra _ o => o.ok .v .v .v .zero Ty.intsI4 false false false 0
  | .vfadd _ o => o.ok .v .v .v .zero Ty.floats true true false 0
  | .vfsub _ o => o.ok .v .v .v .zero Ty.floats true true false 0
  | .vfmul _ o => o.ok .v .v .v .zero Ty.floats true true false 0
  | .vfma _ o => o.ok .v .v .v .v Ty.floats true true false 0
  | .vfmin _ o => o.ok .v .v .v .zero Ty.floats false false false 0
  | .vfmax _ o => o.ok .v .v .v .zero Ty.floats false false false 0
  | .vfabs _ o => o.ok .v .v .zero .zero Ty.floats false false false 0
  | .vfneg _ o => o.ok .v .v .zero .zero Ty.floats false false false 0
  | .vfrcp _ o => o.ok .v .v .zero .zero Ty.floats true true false 0
  | .vfrsq _ o => o.ok .v .v .zero .zero Ty.floats true true false 0
  | .vfexp2 _ o => o.ok .v .v .zero .zero Ty.floats true true false 0
  | .vflog2 _ o => o.ok .v .v .zero .zero Ty.floats true true false 0
  | .vcmp _ o => o.ok .p .v .v .zero Ty.ints false false true 3
  | .vfcmp _ o => o.ok .p .v .v .zero Ty.floats false false false 3
  | .vcvt _ o => o.ok .v .v .zero .s Ty.all true true true 3 && o.vcvtOk
  | .vscale _ o => o.ok .v .v .s .zero Ty.noI4 true true true 0
  | .vbcast _ o => o.ok .v .s .zero .zero Ty.all false false false 0
  | .vext _ o => o.ok .s .v .s .zero Ty.all false false true 0
  | .vins _ o => o.ok .v .s .s .zero Ty.all false false false 0
  | .vperm _ o => o.ok .v .v .v .zero Ty.noI4 false false false 0
  | .vslide _ o => o.ok .v .v .s .zero Ty.noI4 false false false 0
  | .vzip _ o => o.ok .v .v .v .zero Ty.noI4 false false false 1
  | .vunzip _ o => o.ok .v .v .v .zero Ty.noI4 false false false 1
  | .vsel _ o => o.ok .v .v .v .p Ty.all false false false 0
  | .vcompress _ o => o.ok .v .v .zero .zero Ty.noI4 false false false 0
  | .vexpand _ o => o.ok .v .v .zero .zero Ty.noI4 false false false 0
  | .vmov _ o => o.ok .v .v .zero .zero Ty.all false false false 0
  | .vredadd _ o => o.ok .s .v .zero .zero Ty.intsI4 false true true 0
  | .vredmax _ o => o.ok .s .v .zero .zero (Ty.intsI4 ++ Ty.floats) false false true 0
  | .vredmin _ o => o.ok .s .v .zero .zero (Ty.intsI4 ++ Ty.floats) false false true 0
  | .vredfadd _ o => o.ok .s .v .zero .zero Ty.floats true true false 0
  | .vdot _ o => o.ok .s .v .v .zero (Ty.intsI4 ++ Ty.floats) true true true 0
  | .mma _ o => o.ok .zero .s .zero false && o.tok == 0 && o.m7 == 0 && o.imm == 0
  | .mmav _ o => o.ok .zero .v .v false && o.tok == 0 && o.m7 == 0 && o.imm == 0
  | .mzero _ o => o.ok .zero .zero .zero false && o.tok == 0 && o.m7 == 0 && o.imm.toNat < 2
  | .mswap _ o => o.ok .zero .zero .zero false && o.tok == 0 && o.m7 == 0 && o.imm == 0
  | .mrd _ o => o.ok .v .s .zero false && o.tok == 0 && o.m7 == 0 && o.imm.toNat < 2
  | .mwr _ o => o.ok .zero .s .v false && o.tok == 0 && o.m7 == 0 && o.imm.toNat < 2
  | .mdrain _ o => o.ok .zero .zero .zero true && o.tok.toNat < 7 && o.m7.toNat < 2 && o.imm == 0
  | .mcfg _ o => o.ok .zero .s .zero false && o.tok == 0 && o.m7 == 0 && o.imm == 0
  | .mcfgGive _ o => o.ok .zero .s .zero false && o.tok == 0 && o.m7 == 1 && o.imm == 0
  | .nred _ o => o.ok .zero .v .zero false && o.tok == 0 && [1, 2, 7, 8, 9].contains o.tyCode && o.m7.toNat % 8 == 0 && o.imm.toNat < 4
  | .nres _ o => o.ok .v .zero .zero false && o.tok == 0 && [1, 2, 7, 8, 9].contains o.tyCode && o.imm.toNat < 4
  | .nclr _ o => o.ok .zero .zero .zero false && o.tok == 0 && o.m7 == 0 && o.imm.toNat < 4
  | .ld _ o => o.ok .s .s Ty.ints [0, 1] && o.sco == .tile && (o.sub == 0 || (o.sub == 1 && o.ty != .i64))
  | .st _ o => o.ok .s .s Ty.ints [0, 2] && o.sco == .tile && o.sub == 0
  | .vld _ o => o.ok .v .s [.i64] [0, 1] && o.sco == .tile && o.sub == 0
  | .vst _ o => o.ok .v .s [.i64] [0, 2] && o.sco == .tile && o.sub == 0
  | .vldx _ o => o.ok .v .v Ty.ints [0, 1] && o.sco == .tile && o.sub == 0
  | .vstx _ o => o.ok .v .v Ty.ints [0, 2] && o.sco == .tile && o.sub == 0
  | .vlds _ o => o.ok .v .s Ty.ints [0, 1] && o.sco == .tile && o.sub == 0
  | .vsts _ o => o.ok .v .s Ty.ints [0, 2] && o.sco == .tile && o.sub == 0
  | .gld _ o => o.ok .s .s Ty.ints [0, 1] && (o.sub == 0 || (o.sub == 1 && o.ty != .i64))
  | .gst _ o => o.ok .s .s Ty.ints [0, 2] && o.sub == 0
  | .gvld _ o => o.ok .v .s [.i64] [0, 1] && o.sub == 0
  | .gvst _ o => o.ok .v .s [.i64] [0, 2] && o.sub == 0
  | .gldw _ o => o.ok .s .s [.i64] [0, 1] && o.sub == 0
  | .gstw _ o => o.ok .s .s [.i64] [0, 2] && o.sub == 0
  | .gprf _ o => o.ok .zero .zero [.i64] [0] && o.sco == .tile && o.sub == 0
  | .pclr _ o => o.ok .zero .s [.i64] [0, 2] && o.sub == 0
  | .amoadd _ o => o.ok .s .s [.i32, .i64] [0, 1, 2, 3] && o.nrOk
  | .amofadd _ o => o.ok .s .s Ty.floats [0, 1, 2, 3] && o.nrOk
  | .amomin _ o => o.ok .s .s [.i32, .i64] [0, 1, 2, 3] && o.nrOk
  | .amomax _ o => o.ok .s .s [.i32, .i64] [0, 1, 2, 3] && o.nrOk
  | .amominu _ o => o.ok .s .s [.i32, .i64] [0, 1, 2, 3] && o.nrOk
  | .amomaxu _ o => o.ok .s .s [.i32, .i64] [0, 1, 2, 3] && o.nrOk
  | .amoand _ o => o.ok .s .s [.i32, .i64] [0, 1, 2, 3] && o.nrOk
  | .amoor _ o => o.ok .s .s [.i32, .i64] [0, 1, 2, 3] && o.nrOk
  | .amoxor _ o => o.ok .s .s [.i32, .i64] [0, 1, 2, 3] && o.nrOk
  | .amoswap _ o => o.ok .s .s [.i32, .i64] [0, 1, 2, 3] && o.nrOk
  | .amocas _ o => o.ok .s .s [.i32, .i64] [0, 1, 2, 3] && o.sub == 0
  | .amocall _ o => o.ok .s .s [.i64] [0, 1, 2, 3] && (o.sub.toNat % 2 == 0 || o.d == 0)
  | .fence _ o => o.d == 0 && o.b == 0 && o.x == 0 && o.ord == 0 && o.ty == .i8 && o.sub == 0 && o.off == 0
  | .fencex _ o => o.d == 0 && o.b == 0 && o.x == 0 && o.ord == 0 && o.ty == .i8 && o.sub == 0 && o.off == 0
  | .send _ o => o.ok .zero .s .zero true && o.tok == 0 && o.ordIn [0, 2] && o.m7.toNat % 8 == 0 && o.imm == 0
  | .vsend _ o => o.ok .zero .v .zero true && o.tok == 0 && o.ordIn [0, 2] && o.m7.toNat % 8 == 0 && o.imm == 0
  | .recv _ o => o.ok .s .zero .zero true && o.tok == 0 && o.ordIn [0, 1] && o.m7.toNat % 8 == 0 && o.imm == 0
  | .vrecv _ o => o.ok .v .zero .zero true && o.tok == 0 && o.ordIn [0, 1] && o.m7.toNat % 8 == 0 && o.imm == 0
  | .tsend _ o => o.ok .zero .s .zero true && [1, 2, 3, 4, 5, 6, 8, 10].contains o.tok.toNat && o.ordIn [0, 2] && o.m7.toNat % 8 == 0 && o.imm == 0
  | .tpeek _ o => o.ok .s .zero .zero true && o.tok == 0 && o.m7 == 0 && o.imm == 0
  | .trecv _ o => o.ok .s .zero .zero true && o.tok == 0 && o.ordIn [0, 1] && o.m7.toNat % 8 == 0 && o.imm == 0
  | .chk _ o => o.ok .p .zero .zero true && o.tok.toNat < 13 && o.m7 == 0 && o.imm == 0
  | .bind _ o => o.ok .zero .zero .zero true && o.tok == 0 && o.m7.toNat != 0 && o.m7.toNat < 4 && o.imm.toNat < 4096
  | .unbind _ o => o.ok .zero .zero .zero true && o.tok == 0 && o.m7 == 0 && o.imm == 0
  | .agrun _ o => o.ok .zero .s .zero false && o.tok == 0 && o.m7 == 0 && o.imm.toNat < 4
  | .agstop _ o => o.ok .zero .zero .zero false && o.tok == 0 && o.m7 == 0 && o.imm.toNat < 4
  | .agstat _ o => o.ok .s .zero .zero false && o.tok == 0 && o.m7 == 0 && o.imm.toNat < 4
  | .gadv _ o => o.ok .zero .s .v false && o.tok == 0 && o.m7 == 0
  | .gset _ o => o.ok .zero .s .v false && o.tok == 0 && o.m7 == 0 && o.imm == 0
  | .gget _ o => o.ok .s .zero .v false && o.tok == 0 && o.m7.toNat < 3 && o.imm == 0
  | .gwait _ o => o.ok .zero .s .v false && o.tok == 0 && o.m7 == 0
  | .grate _ o => o.ok .zero .s .v false && o.tok == 0 && o.m7 == 0 && o.imm == 0
  | .glate _ o => o.ok .s .zero .zero false && o.tok == 0 && o.m7 == 0 && o.imm.toNat < 4
  | .glatePop _ o => o.ok .s .zero .zero false && o.tok == 0 && o.m7 == 1 && o.imm == 0
  | .xfer _ o => o.ok .s .s .zero false && o.tok == 0 && o.ordIn [0, 2] && o.m7.toNat % 8 < 2 && o.imm.toNat < 64
  | .xvia _ o => o.ok .s .s .zero false && o.tok == 0 && o.ordIn [0, 2] && o.m7.toNat % 8 < 2 && o.imm.toNat < 64
  | .xgath _ o => o.ok .s .s .s false && o.tok == 0 && o.ordIn [0, 2] && o.m7.toNat % 8 < 2 && o.imm.toNat < 64
  | .xscat _ o => o.ok .s .s .s false && o.tok == 0 && o.ordIn [0, 2] && o.m7.toNat % 8 < 2 && o.imm.toNat < 64
  | .xcancel _ o => o.ok .zero .s .zero false && o.tok == 0 && o.m7 == 0 && o.imm == 0
  | .xstat _ o => o.ok .s .s .zero false && o.tok == 0 && o.m7 == 0 && o.imm == 0
  | .baralloc _ o => o.ok .s .zero .p false && o.tok == 0 && o.m7 == 0 && o.imm == 0
  | .barfree _ o => o.ok .zero .s .zero false && o.tok == 0 && o.m7 == 0 && o.imm == 0
  | .barref _ o => o.ok .zero .s .zero false && o.tok == 0 && o.m7 == 0 && o.imm == 0
  | .barinit _ o => o.ok .zero .s .s false && o.tok == 0 && o.m7 == 0 && o.imm == 0
  | .barrive _ o => o.ok .s .s .zero false && o.tok == 0 && o.ordIn [0, 2] && o.m7.toNat % 8 == 0 && o.imm != 0
  | .barexp _ o => o.ok .zero .s .s false && o.tok == 0 && o.m7 == 0 && o.imm == 0
  | .barwait _ o => o.ok .zero .s .s false && o.tok == 0 && o.ordIn [0, 1] && o.m7.toNat % 8 == 0 && o.imm == 0
  | .bartest _ o => o.ok .s .s .s false && o.tok == 0 && o.ordIn [0, 1] && o.m7.toNat % 8 == 0 && o.imm == 0
  | .blopen _ o => o.ok .s .zero .p false && o.tok == 0 && o.m7 == 0 && o.imm == 0
  | .blseal _ o => o.ok .zero .s .zero false && o.tok == 0 && o.m7 == 0 && o.imm == 0
  | .blcommit _ o => o.ok .s .s .zero false && o.tok == 0 && o.m7 == 0 && o.imm == 0
  | .blabort _ o => o.ok .zero .s .zero false && o.tok == 0 && o.m7 == 0 && o.imm == 0
  | .blwait _ o => o.ok .s .s .zero false && o.tok == 0 && o.m7 == 0 && o.imm == 0
  | .blstat _ o => o.ok .s .s .zero false && o.tok == 0 && o.m7 == 0 && o.imm == 0
  | .blst _ o => o.ok .s .s Ty.ints [0] && o.sco == .tile && o.sub == 0
  | .blvst _ o => o.ok .v .s [.i64] [0] && o.sco == .tile && o.sub == 0
  | .scroll _ o => o.ok .zero .s .s false && o.tok == 0 && o.m7 == 0 && o.imm == 0
  | .scrollQ _ o => o.ok .s .zero .zero false && o.tok == 0 && o.m7 == 1 && o.imm == 0
  | .stsave _ o => o.ok .s .zero .zero false && o.tok == 0 && o.m7 == 0 && o.imm == 0
  | .stload _ o => o.ok .s .zero .zero false && o.tok == 0 && o.m7 == 0 && o.imm == 0
  | .cfgw _ o => o.ok .zero .s .zero true && o.tok == 0 && o.m7 == 0 && o.imm == 0
  | .cfgswap _ o => o.ok .zero .zero .zero false && o.tok == 0 && o.m7 == 0 && o.imm == 0
  | .sysrd _ o => o.s1 == 0 && sregListed o.sreg
  | .syswr _ o => o.d == 0 && sregListed o.sreg && o.sreg != 0x24 && o.sreg != 0x23
  | .horizonWrite _ o => o.d == 0 && o.sreg == 0x24
  | .evpendWrite _ o => o.d == 0 && o.sreg == 0x23
  | .trap _ o => o.d == 0 && o.s1 == 0
  | .eret _ o => o.d == 0 && o.s1 == 0 && o.sreg == 0
  | .ebrk _ o => o.d == 0 && o.s1 == 0
  | .wfe _ o => o.d == 0 && o.sreg == 0
  | .tlbinv _ o => o.d == 0 && o.sreg.toNat < 4
  | .chalt _ o => o.d == 0 && o.s1 == 0 && o.sreg == 0
  | .cresume _ o => o.d == 0 && o.sreg == 0
  | .lateTrap => true
  | .dispatch _ _ => true
  | .unitFree _ _ => true
  | .registerWriteLand _ _ _ => true
  | .storeQueuePerform _ _ => true
  | .headRecordExamine _ => true
  | .placementPass _ => true
  | .install _ => true
  | .sourceStart _ _ => true
  | .governorWindow _ => true
  | .regionComplete _ => true
  | .channelEntryArrive _ _ _ => true
  | .creditReturn _ _ => true
  | .typedJoinConvert _ _ => true
  | .cfgApply _ _ => true
  | .steerFire _ _ => true
  | .mergeFire _ _ => true
  | .carryFire _ _ => true
  | .forkFire _ _ => true
  | .readStreamElement _ _ => true
  | .writeStreamElement _ _ => true
  | .matrixFire _ => true
  | .matrixSwapToken _ => true
  | .matrixTokenPair _ => true
  | .mmavDone _ => true
  | .drainEntry _ => true
  | .spindlePartialArrive _ _ _ => true
  | .spindleRoundComplete _ _ => true
  | .spindleCreditArrive _ _ => true
  | .endWindow _ _ => true
  | .beaconTimeout _ _ => true
  | .beaconArrive _ _ _ _ => true
  | .enginePacketIssue _ _ => true
  | .packetArbiterGrant _ => true
  | .holdReevaluate _ _ => true
  | .watchRegister _ => true
  | .watchRetry _ => true
  | .transferPacketLand _ _ => true
  | .transferDone _ => true
  | .completionEntryAppend _ => true
  | .transferError _ => true
  | .walkComplete _ _ _ => true
  | .slicePerform _ => true
  | .atomicPerform _ => true
  | .retryResend _ => true
  | .invalidationComplete _ => true
  | .barrierOperation _ => true
  | .transferArrival _ => true
  | .loftStoreArrive _ => true
  | .sealSend _ => true
  | .sealArrive _ => true
  | .baleReply _ _ _ => true
  | .baleCommitDecision _ => true
  | .baleDecisionApply _ => true
  | .baleDoneReply _ _ => true
  | .feederLoad _ _ => true
  | .feederTrainAppend _ => true
  | .forwardReady _ => true
  | .reelSwap _ => true
  | .stateSave _ => true
  | .stateRestore _ => true
  | .tileSnapshot _ => true
  | .snapshotComplete _ => true
  | .regionRestore _ => true
  | .flitReceive _ _ => true
  | .nakReplay _ => true
  | .streamOpen _ => true
  | .streamClose _ => true
  | .dataFlit _ _ => true
  | .hello _ _ _ => true
  | .creditFlit _ _ _ => true
  | .circFlit _ _ => true
  | .hold _ => true
  | .remoteResponse _ _ => true
  | .remoteTimeoutExpiry _ => true
  | .bridgeReplay _ => true
  | .qconfig _ => true
  | .doorbell _ => true
  | .qread _ => true
  | .rootbase _ => true
  | .inval _ => true
  | .pageinit _ => true
  | .access _ => true
  | .timeout _ => true
  | .nodeport _ => true
  | .linkup _ => true
  | .routever _ => true
  | .diestate _ => true
  | .kill _ => true
  | .pause _ => true
  | .evict _ => true
  | .resume _ => true
  | .halt _ => true
  | .release _ => true
  | .ctxrd _ => true
  | .ctxwr _ => true
  | .faultq _ => true
  | .stale _ => true
  | .resolve _ => true
  | .circuit _ => true
  | .clockstep _ => true
  | .ratio _ => true
  | .repair _ => true
  | .thermal _ => true
  | .attest _ => true
  | .fwstage _ => true
  | .hostlist _ => true
  | .powerUp => true
  | .thermalTrip _ => true
  | .illegalWord _ => true
  | .repairEnd _ => true
  | .ack _ => true
  | .clockstepResume _ => true
  | .modulePowerOff => true

/-- The row is an instruction that a context issues (R50), not a happening or a command. -/
def Instr.isCode (i : Instr) : Bool :=
  match i with
  | .br _ _ => true
  | .beq _ _ => true
  | .bne _ _ => true
  | .blt _ _ => true
  | .bge _ _ => true
  | .bltu _ _ => true
  | .bgeu _ _ => true
  | .bp _ _ => true
  | .bnp _ _ => true
  | .jal _ _ => true
  | .jalr _ _ => true
  | .yield _ _ => true
  | .park _ _ => true
  | .nop _ _ => true
  | .add _ _ => true
  | .sub _ _ => true
  | .mul _ _ => true
  | .mulh _ _ => true
  | .mulhu _ _ => true
  | .div _ _ => true
  | .divu _ _ => true
  | .rem _ _ => true
  | .remu _ _ => true
  | .and _ _ => true
  | .or _ _ => true
  | .xor _ _ => true
  | .andn _ _ => true
  | .sll _ _ => true
  | .srl _ _ => true
  | .sra _ _ => true
  | .rol _ _ => true
  | .min _ _ => true
  | .max _ _ => true
  | .minu _ _ => true
  | .maxu _ _ => true
  | .slt _ _ => true
  | .sltu _ _ => true
  | .sel _ _ => true
  | .clz _ _ => true
  | .ctz _ _ => true
  | .popc _ _ => true
  | .brev _ _ => true
  | .addi _ _ => true
  | .andi _ _ => true
  | .ori _ _ => true
  | .xori _ _ => true
  | .slli _ _ => true
  | .srli _ _ => true
  | .srai _ _ => true
  | .slti _ _ => true
  | .sltiu _ _ => true
  | .li _ _ => true
  | .lhi _ _ => true
  | .pand _ _ => true
  | .por _ _ => true
  | .pxor _ _ => true
  | .pandn _ _ => true
  | .pnot _ _ => true
  | .pfrom _ _ => true
  | .pto _ _ => true
  | .icmp _ _ => true
  | .lea _ _ => true
  | .sbank _ _ => true
  | .clamp _ _ => true
  | .fadd _ _ => true
  | .fsub _ _ => true
  | .fmul _ _ => true
  | .fma _ _ => true
  | .fdiv _ _ => true
  | .fsqrt _ _ => true
  | .fmin _ _ => true
  | .fmax _ _ => true
  | .fcmp _ _ => true
  | .fcvt _ _ => true
  | .fclass _ _ => true
  | .fsgnj _ _ => true
  | .vadd _ _ => true
  | .vsub _ _ => true
  | .vmul _ _ => true
  | .vmulh _ _ => true
  | .vmin _ _ => true
  | .vmax _ _ => true
  | .vabs _ _ => true
  | .vand _ _ => true
  | .vor _ _ => true
  | .vxor _ _ => true
  | .vsll _ _ => true
  | .vsrl _ _ => true
  | .vsra _ _ => true
  | .vfadd _ _ => true
  | .vfsub _ _ => true
  | .vfmul _ _ => true
  | .vfma _ _ => true
  | .vfmin _ _ => true
  | .vfmax _ _ => true
  | .vfabs _ _ => true
  | .vfneg _ _ => true
  | .vfrcp _ _ => true
  | .vfrsq _ _ => true
  | .vfexp2 _ _ => true
  | .vflog2 _ _ => true
  | .vcmp _ _ => true
  | .vfcmp _ _ => true
  | .vcvt _ _ => true
  | .vscale _ _ => true
  | .vbcast _ _ => true
  | .vext _ _ => true
  | .vins _ _ => true
  | .vperm _ _ => true
  | .vslide _ _ => true
  | .vzip _ _ => true
  | .vunzip _ _ => true
  | .vsel _ _ => true
  | .vcompress _ _ => true
  | .vexpand _ _ => true
  | .vmov _ _ => true
  | .vredadd _ _ => true
  | .vredmax _ _ => true
  | .vredmin _ _ => true
  | .vredfadd _ _ => true
  | .vdot _ _ => true
  | .mma _ _ => true
  | .mmav _ _ => true
  | .mzero _ _ => true
  | .mswap _ _ => true
  | .mrd _ _ => true
  | .mwr _ _ => true
  | .mdrain _ _ => true
  | .mcfg _ _ => true
  | .mcfgGive _ _ => true
  | .nred _ _ => true
  | .nres _ _ => true
  | .nclr _ _ => true
  | .ld _ _ => true
  | .st _ _ => true
  | .vld _ _ => true
  | .vst _ _ => true
  | .vldx _ _ => true
  | .vstx _ _ => true
  | .vlds _ _ => true
  | .vsts _ _ => true
  | .gld _ _ => true
  | .gst _ _ => true
  | .gvld _ _ => true
  | .gvst _ _ => true
  | .gldw _ _ => true
  | .gstw _ _ => true
  | .gprf _ _ => true
  | .pclr _ _ => true
  | .amoadd _ _ => true
  | .amofadd _ _ => true
  | .amomin _ _ => true
  | .amomax _ _ => true
  | .amominu _ _ => true
  | .amomaxu _ _ => true
  | .amoand _ _ => true
  | .amoor _ _ => true
  | .amoxor _ _ => true
  | .amoswap _ _ => true
  | .amocas _ _ => true
  | .amocall _ _ => true
  | .fence _ _ => true
  | .fencex _ _ => true
  | .send _ _ => true
  | .vsend _ _ => true
  | .recv _ _ => true
  | .vrecv _ _ => true
  | .tsend _ _ => true
  | .tpeek _ _ => true
  | .trecv _ _ => true
  | .chk _ _ => true
  | .bind _ _ => true
  | .unbind _ _ => true
  | .agrun _ _ => true
  | .agstop _ _ => true
  | .agstat _ _ => true
  | .gadv _ _ => true
  | .gset _ _ => true
  | .gget _ _ => true
  | .gwait _ _ => true
  | .grate _ _ => true
  | .glate _ _ => true
  | .glatePop _ _ => true
  | .xfer _ _ => true
  | .xvia _ _ => true
  | .xgath _ _ => true
  | .xscat _ _ => true
  | .xcancel _ _ => true
  | .xstat _ _ => true
  | .baralloc _ _ => true
  | .barfree _ _ => true
  | .barref _ _ => true
  | .barinit _ _ => true
  | .barrive _ _ => true
  | .barexp _ _ => true
  | .barwait _ _ => true
  | .bartest _ _ => true
  | .blopen _ _ => true
  | .blseal _ _ => true
  | .blcommit _ _ => true
  | .blabort _ _ => true
  | .blwait _ _ => true
  | .blstat _ _ => true
  | .blst _ _ => true
  | .blvst _ _ => true
  | .scroll _ _ => true
  | .scrollQ _ _ => true
  | .stsave _ _ => true
  | .stload _ _ => true
  | .cfgw _ _ => true
  | .cfgswap _ _ => true
  | .sysrd _ _ => true
  | .syswr _ _ => true
  | .horizonWrite _ _ => true
  | .evpendWrite _ _ => true
  | .trap _ _ => true
  | .eret _ _ => true
  | .ebrk _ _ => true
  | .wfe _ _ => true
  | .tlbinv _ _ => true
  | .chalt _ _ => true
  | .cresume _ _ => true
  | .lateTrap => false
  | .dispatch _ _ => false
  | .unitFree _ _ => false
  | .registerWriteLand _ _ _ => false
  | .storeQueuePerform _ _ => false
  | .headRecordExamine _ => false
  | .placementPass _ => false
  | .install _ => false
  | .sourceStart _ _ => false
  | .governorWindow _ => false
  | .regionComplete _ => false
  | .channelEntryArrive _ _ _ => false
  | .creditReturn _ _ => false
  | .typedJoinConvert _ _ => false
  | .cfgApply _ _ => false
  | .steerFire _ _ => false
  | .mergeFire _ _ => false
  | .carryFire _ _ => false
  | .forkFire _ _ => false
  | .readStreamElement _ _ => false
  | .writeStreamElement _ _ => false
  | .matrixFire _ => false
  | .matrixSwapToken _ => false
  | .matrixTokenPair _ => false
  | .mmavDone _ => false
  | .drainEntry _ => false
  | .spindlePartialArrive _ _ _ => false
  | .spindleRoundComplete _ _ => false
  | .spindleCreditArrive _ _ => false
  | .endWindow _ _ => false
  | .beaconTimeout _ _ => false
  | .beaconArrive _ _ _ _ => false
  | .enginePacketIssue _ _ => false
  | .packetArbiterGrant _ => false
  | .holdReevaluate _ _ => false
  | .watchRegister _ => false
  | .watchRetry _ => false
  | .transferPacketLand _ _ => false
  | .transferDone _ => false
  | .completionEntryAppend _ => false
  | .transferError _ => false
  | .walkComplete _ _ _ => false
  | .slicePerform _ => false
  | .atomicPerform _ => false
  | .retryResend _ => false
  | .invalidationComplete _ => false
  | .barrierOperation _ => false
  | .transferArrival _ => false
  | .loftStoreArrive _ => false
  | .sealSend _ => false
  | .sealArrive _ => false
  | .baleReply _ _ _ => false
  | .baleCommitDecision _ => false
  | .baleDecisionApply _ => false
  | .baleDoneReply _ _ => false
  | .feederLoad _ _ => false
  | .feederTrainAppend _ => false
  | .forwardReady _ => false
  | .reelSwap _ => false
  | .stateSave _ => false
  | .stateRestore _ => false
  | .tileSnapshot _ => false
  | .snapshotComplete _ => false
  | .regionRestore _ => false
  | .flitReceive _ _ => false
  | .nakReplay _ => false
  | .streamOpen _ => false
  | .streamClose _ => false
  | .dataFlit _ _ => false
  | .hello _ _ _ => false
  | .creditFlit _ _ _ => false
  | .circFlit _ _ => false
  | .hold _ => false
  | .remoteResponse _ _ => false
  | .remoteTimeoutExpiry _ => false
  | .bridgeReplay _ => false
  | .qconfig _ => false
  | .doorbell _ => false
  | .qread _ => false
  | .rootbase _ => false
  | .inval _ => false
  | .pageinit _ => false
  | .access _ => false
  | .timeout _ => false
  | .nodeport _ => false
  | .linkup _ => false
  | .routever _ => false
  | .diestate _ => false
  | .kill _ => false
  | .pause _ => false
  | .evict _ => false
  | .resume _ => false
  | .halt _ => false
  | .release _ => false
  | .ctxrd _ => false
  | .ctxwr _ => false
  | .faultq _ => false
  | .stale _ => false
  | .resolve _ => false
  | .circuit _ => false
  | .clockstep _ => false
  | .ratio _ => false
  | .repair _ => false
  | .thermal _ => false
  | .attest _ => false
  | .fwstage _ => false
  | .hostlist _ => false
  | .powerUp => false
  | .thermalTrip _ => false
  | .illegalWord _ => false
  | .repairEnd _ => false
  | .ack _ => false
  | .clockstepResume _ => false
  | .modulePowerOff => false

end Sys2Proof
end

