-- ==== Sys2Proof/Machine/Operands.lean ====
section
/-! DEFINITION. Operand forms: integer and float operands of scalar registers, immediates, results extended to a
register (R125, R127, R132), memory addresses (R43) and branch targets (R20, R123). -/

namespace Sys2Proof.Machine

/-- An integer operand: the low w bits of a register, read unsigned or signed (R125). -/
def intOperand (w : Nat) (unsigned : Bool) (x : Word) : Int := intOf w unsigned x.toNat

/-- A w-bit result in a register: zero-extended if unsigned, else sign-extended (R125). -/
def extendTo (w : Nat) (unsigned : Bool) (r : Nat) : Word := BitVec.ofInt 64 (intOf w unsigned r)

/-- An exact integer result fitted to w bits and extended (R64, R125). -/
def fitWord (w : Nat) (unsigned sat : Bool) (r : Int) : Word := extendTo w unsigned (fit w unsigned sat r)

/-- A float operand of a scalar register (R132). -/
def floatOperand (ty : Ty) (x : Word) : XReal := floatOf ty x.toNat

/-- A float result: its code with zeros above (R132). -/
def floatWord (code : Nat) : Word := BitVec.ofNat 64 code

/-- IMM32 of format B sign-extended to 64 bits (R41). -/
def immWord (o : FmtB) : Word := o.imm.signExtend 64

/-- The index that OFF32 or IMM32 leads to, from the context's own index (R20, R123, R124). -/
def targetFrom (pc : BitVec 11) (off : BitVec 32) : Int := pc.toNat + off.toInt

/-- OFF20 sign-extended (R43). -/
def offWord (o : FmtM) : Word := o.off.signExtend 64

/-- The address of a memory operand with an index register: (S(B) + S(X) + OFF20) mod 2^64 (R291). -/
def Ctx.indexedAddr (c : Ctx) (o : FmtM) : Word := c.getS o.b + c.getS o.x + offWord o

/-- The address of a memory operand without an index: (S(B) + OFF20) mod 2^64 (R299, R369). -/
def Ctx.baseAddr (c : Ctx) (o : FmtM) : Word := c.getS o.b + offWord o

/-- Bytes of an element of type TY 0-3 (R162, R290). -/
def tyBytes (ty : Ty) : Nat := ty.width / 8

/-- Whether an index may be the next one (R55). -/
def isIndex (t : Int) : Bool := decide (0 ≤ t ∧ t ≤ 2047)

end Sys2Proof.Machine
end

