-- ==== Sys2Proof/Machine/Flags.lean ====
section
/-! DEFINITION. The conditions of branches and compares (R123, R129, R134, R135), and the packing of the status
registers (R379). The part has no flags register: a compare writes a predicate or a scalar register. -/

namespace Sys2Proof.Machine

/-- Conditions of `icmp` and `vcmp`, MOD.SUB: 0 equal, 1 not equal, 2 less, 3 greater or equal (R129). -/
def intCond (sub : BitVec 2) (a b : Int) : Bool :=
  match sub.toNat with
  | 0 => a == b
  | 1 => a != b
  | 2 => decide (a < b)
  | _ => decide (b ≤ a)

/-- Conditions of `fcmp` and `vfcmp`, MOD.SUB: 0 equal, 1 less, 2 less or equal, 3 unordered (R134). -/
def floatCond (sub : BitVec 2) (a b : XReal) : Bool :=
  match sub.toNat with
  | 0 => a.eq b
  | 1 => a.lt b
  | 2 => a.lt b || a.eq b
  | _ => a == .nan || b == .nan

/-- The smaller of two float codes: its bits unchanged, −0 below +0, a NaN giving way to the other operand, two NaNs giving
the canonical NaN (R133). Of equal operands the first is returned; their bits are the same. -/
def floatMin (ty : Ty) (a b : Nat) : Nat :=
  let x := floatOf ty a
  let y := floatOf ty b
  if x == .nan then (if y == .nan then ty.nanCode else b)
  else if y == .nan then a
  else if x.lt y then a
  else if y.lt x then b
  else if x.isNeg then a else b

/-- The larger of two float codes (R133). -/
def floatMax (ty : Ty) (a b : Nat) : Nat :=
  let x := floatOf ty a
  let y := floatOf ty b
  if x == .nan then (if y == .nan then ty.nanCode else b)
  else if y == .nan then a
  else if x.lt y then b
  else if y.lt x then a
  else if x.isNeg then b else a

/-- The class of a float code (R135), as the number of the bit of its mask. -/
def floatClass (ty : Ty) (code : Nat) : Nat :=
  let m := ty.mantBits
  let ef := code / 2 ^ m % 2 ^ (ty.width - 1 - m)
  let mf := code % 2 ^ m
  match floatOf ty code with
  | .nan => if !ty.isFp8 && mf / 2 ^ (m - 1) = 0 then 8 else 9
  | .inf neg => if neg then 0 else 7
  | .fin neg _ _ _ =>
    if ef = 0 then (if mf = 0 then (if neg then 3 else 4) else (if neg then 2 else 5))
    else (if neg then 1 else 6)

/-- sys.status (R379). -/
def Ctx.status (c : Ctx) : Word :=
  BitVec.ofNat 64 ((if c.mode = .supervisor then 1 else 0) + (if c.pmode = .supervisor then 2 else 0) +
    (if c.trapped then 4 else 0) + (if c.psf.isSome then 8 else 0))

/-- sys.evpend (R379). -/
def Ctx.evpend (c : Ctx) : Word :=
  BitVec.ofNat 64 ((if c.evLate then 1 else 0) + (if c.lost = 0 then 0 else 2))

/-- sys.dbg (R379). -/
def Ctx.dbg (c : Ctx) : Word :=
  BitVec.ofNat 64 ((if c.brkHalt then 1 else 0) + (if c.dbgStep then 2 else 0) + c.hcause.toNat * 2 ^ 8 +
    c.hidx.toNat * 2 ^ 16)

end Sys2Proof.Machine
end

