-- ==== Sys2Proof/Machine/Scalar.lean ====
section
/-! DEFINITION. Branches and context controls (R123, R124), scalar integer instructions (R125-R127), predicate
instructions (R128, R129) and address instructions (R130, R131). -/

namespace Sys2Proof.Machine

/-- The context goes on at index `t`, or raises ILL where it is no index (R55). -/
def State.goTo (s : State) (t : Int) : State :=
  if isIndex t then s.modCur fun c => { c with pc := BitVec.ofInt 11 t, retired := c.retired + 1 } else s.trapIll

/-- A branch, taken or not (R123). -/
def State.branch (s : State) (taken : Bool) (off : BitVec 32) : State :=
  s.goTo (if taken then targetFrom s.cur.pc off else s.cur.pc.toNat + 1)

/-- A jump to `t` with its link, or ILL before any write (R124). -/
def State.jumpLink (s : State) (d : Reg) (t : Int) : State :=
  if isIndex t then
    s.modCur fun c => { c.setS d (BitVec.ofNat 64 (c.pc.toNat + 1)) with
      pc := BitVec.ofInt 11 t, retired := c.retired + 1 }
  else s.trapIll

/-- `br` (R123): always taken. -/
def execBr (g : Guard) (o : FmtC) (s : State) : Result :=
  .next (s.issueJump g fun s => s.branch true o.off)

/-- `beq` (R123): taken when S(A) = S(B). -/
def execBeq (g : Guard) (o : FmtC) (s : State) : Result :=
  .next (s.issueJump g fun s => s.branch (s.getS o.s1 == s.getS o.s2) o.off)

/-- `bne` (R123): taken when S(A) ≠ S(B). -/
def execBne (g : Guard) (o : FmtC) (s : State) : Result :=
  .next (s.issueJump g fun s => s.branch (s.getS o.s1 != s.getS o.s2) o.off)

/-- `blt` (R123): taken when S(A) < S(B), signed. -/
def execBlt (g : Guard) (o : FmtC) (s : State) : Result :=
  .next (s.issueJump g fun s => s.branch ((s.getS o.s1).slt (s.getS o.s2)) o.off)

/-- `bge` (R123): taken when S(A) ≥ S(B), signed. -/
def execBge (g : Guard) (o : FmtC) (s : State) : Result :=
  .next (s.issueJump g fun s => s.branch (!(s.getS o.s1).slt (s.getS o.s2)) o.off)

/-- `bltu` (R123): taken when S(A) < S(B), unsigned. -/
def execBltu (g : Guard) (o : FmtC) (s : State) : Result :=
  .next (s.issueJump g fun s => s.branch ((s.getS o.s1).ult (s.getS o.s2)) o.off)

/-- `bgeu` (R123): taken when S(A) ≥ S(B), unsigned. -/
def execBgeu (g : Guard) (o : FmtC) (s : State) : Result :=
  .next (s.issueJump g fun s => s.branch (!(s.getS o.s1).ult (s.getS o.s2)) o.off)

/-- `bp` (R123): taken when P(N) ≠ 0. -/
def execBp (g : Guard) (o : FmtC) (s : State) : Result :=
  .next (s.issueJump g fun s => s.branch (s.getP o.s1 != 0) o.off)

/-- `bnp` (R123): taken when P(N) = 0. -/
def execBnp (g : Guard) (o : FmtC) (s : State) : Result :=
  .next (s.issueJump g fun s => s.branch (s.getP o.s1 == 0) o.off)

/-- `jal` (R124). -/
def execJal (g : Guard) (o : FmtB) (s : State) : Result :=
  .next (s.issueJump g fun s => s.jumpLink o.d (targetFrom s.cur.pc o.imm))

/-- `jalr` (R124): the target is the exact sum of S(A), read unsigned, and IMM32 (log entry 12). -/
def execJalr (g : Guard) (o : FmtB) (s : State) : Result :=
  .next (s.issueJump g fun s => s.jumpLink o.d ((s.getS o.s1).toNat + o.imm.toInt))

/-- Whether some task of the current context other than the current one may be dispatched (R115). -/
def State.otherTask (s : State) : Bool :=
  s.cur.scanOrder.any fun k => k.val != s.cur.last.toNat && s.curTile.taskReady s.ctx k

/-- The current task set aside, to resume at the next index, and the next task dispatched (R115). -/
def Tile.yieldTask (x : Tile) (c : Fin 4) : Tile :=
  let y := x.ctxs[c]
  let k : Fin 16 := y.last.toFin
  let e := y.tasks[k]
  let y := { y with tasks := y.tasks.set k { e with pend := true, resume := y.pc + 1 }
                    run := .parked, retired := y.retired + 1 }
  (x.setCtx c y).dispatch c

/-- `yield` (R115). -/
def execYield (g : Guard) (_ : FmtB) (s : State) : Result :=
  .next (s.issue g fun s => if s.otherTask then s.modCurTile (·.yieldTask s.ctx) else s.retire)

/-- `park` (R114): a pending store fault is taken first (R289). -/
def execPark (g : Guard) (_ : FmtB) (s : State) : Result :=
  .next (s.issueJump g (·.afterStoreFault fun s =>
    s.modCur fun c => { c with run := .parked, retired := c.retired + 1 }))

/-- `nop` (R124). -/
def execNop (g : Guard) (_ : FmtB) (s : State) : Result := .next (s.issue g State.retire)

/-! Major 0x10 (R125, R126). -/

/-- An instruction of major 0x10: `f w a b` is the exact result r of operands a and b, read unsigned or signed (R125). -/
def State.intOp (s : State) (o : FmtA) (unsigned : Bool) (f : Nat → Int → Int → Int) : State :=
  let w := o.ty.width
  s.writeS o.d (fitWord w unsigned o.sat (f w (intOperand w unsigned (s.getS o.s1)) (intOperand w unsigned (s.getS o.s2))))

/-- A bitwise instruction of major 0x10: `f w a b` on the low w bits of both operands as numbers (R125). -/
def State.bitOp (s : State) (o : FmtA) (unsigned : Bool) (f : Nat → Nat → Nat → Nat) : State :=
  let w := o.ty.width
  s.writeS o.d (fitWord w unsigned false (f w ((s.getS o.s1).toNat % 2 ^ w) ((s.getS o.s2).toNat % 2 ^ w)))

/-- The shift count n = S(S2) mod w (R125). -/
def State.shiftCount (s : State) (o : FmtA) : Nat := (s.getS o.s2).toNat % o.ty.width

/-- Quotient truncated toward zero; all ones for a divisor of zero (R126). -/
def divTrunc (a b : Int) : Int := if b = 0 then -1 else a.tdiv b

/-- Remainder with the sign of a; a for a divisor of zero (R126). -/
def remTrunc (a b : Int) : Int := if b = 0 then a else a.tmod b

/-- Leading zeros of the low w bits. -/
def leadingZeros (w x : Nat) : Nat := if x = 0 then w else w - (Nat.log2 x + 1)

/-- Trailing zeros of the low w bits. -/
def trailingZeros : Nat → Nat → Nat
  | 0, _ => 0
  | w + 1, x => if x % 2 = 1 then 0 else 1 + trailingZeros w (x / 2)

/-- Number of one bits among the low w. -/
def onesCount : Nat → Nat → Nat
  | 0, _ => 0
  | w + 1, x => x % 2 + onesCount w (x / 2)

/-- The low w bits in reverse order, in front of `acc`. -/
def reverseBits : Nat → Nat → Nat → Nat
  | 0, _, acc => acc
  | w + 1, x, acc => reverseBits w (x / 2) (2 * acc + x % 2)

/-- `add` (R125): a + b. -/
def execAdd (g : Guard) (o : FmtA) (s : State) : Result := .next (s.issue g (·.intOp o o.u fun _ a b => a + b))

/-- `sub` (R125): a − b. -/
def execSub (g : Guard) (o : FmtA) (s : State) : Result := .next (s.issue g (·.intOp o o.u fun _ a b => a - b))

/-- `mul` (R125): a × b. -/
def execMul (g : Guard) (o : FmtA) (s : State) : Result := .next (s.issue g (·.intOp o o.u fun _ a b => a * b))

/-- `mulh` (R125): ⌊a × b / 2^w⌋, signed. -/
def execMulh (g : Guard) (o : FmtA) (s : State) : Result := .next (s.issue g (·.intOp o false fun w a b => a * b / 2 ^ w))

/-- `mulhu` (R125): ⌊a × b / 2^w⌋, unsigned. -/
def execMulhu (g : Guard) (o : FmtA) (s : State) : Result := .next (s.issue g (·.intOp o true fun w a b => a * b / 2 ^ w))

/-- `div` (R126): signed quotient. -/
def execDiv (g : Guard) (o : FmtA) (s : State) : Result := .next (s.issue g (·.intOp o false fun _ a b => divTrunc a b))

/-- `divu` (R126): unsigned quotient. -/
def execDivu (g : Guard) (o : FmtA) (s : State) : Result := .next (s.issue g (·.intOp o true fun _ a b => divTrunc a b))

/-- `rem` (R126): signed remainder. -/
def execRem (g : Guard) (o : FmtA) (s : State) : Result := .next (s.issue g (·.intOp o false fun _ a b => remTrunc a b))

/-- `remu` (R126): unsigned remainder. -/
def execRemu (g : Guard) (o : FmtA) (s : State) : Result := .next (s.issue g (·.intOp o true fun _ a b => remTrunc a b))

/-- `and` (R125): a AND b. -/
def execAnd (g : Guard) (o : FmtA) (s : State) : Result := .next (s.issue g (·.bitOp o o.u fun _ a b => a &&& b))

/-- `or` (R125): a OR b. -/
def execOr (g : Guard) (o : FmtA) (s : State) : Result := .next (s.issue g (·.bitOp o o.u fun _ a b => a ||| b))

/-- `xor` (R125): a XOR b. -/
def execXor (g : Guard) (o : FmtA) (s : State) : Result := .next (s.issue g (·.bitOp o o.u fun _ a b => a ^^^ b))

/-- `andn` (R125): a AND NOT b. -/
def execAndn (g : Guard) (o : FmtA) (s : State) : Result := .next (s.issue g (·.bitOp o o.u fun w a b => a &&& (b ^^^ (2 ^ w - 1))))

/-- `sll` (R125): a × 2^n. -/
def execSll (g : Guard) (o : FmtA) (s : State) : Result :=
  .next (s.issue g fun s => let n := s.shiftCount o; s.intOp o o.u fun _ a _ => a * 2 ^ n)

/-- `srl` (R125): ⌊a / 2^n⌋, unsigned. -/
def execSrl (g : Guard) (o : FmtA) (s : State) : Result :=
  .next (s.issue g fun s => let n := s.shiftCount o; s.intOp o true fun _ a _ => a / 2 ^ n)

/-- `sra` (R125): ⌊a / 2^n⌋, signed. -/
def execSra (g : Guard) (o : FmtA) (s : State) : Result :=
  .next (s.issue g fun s => let n := s.shiftCount o; s.intOp o false fun _ a _ => a / 2 ^ n)

/-- `rol` (R125): a rotated left by n within w bits. -/
def execRol (g : Guard) (o : FmtA) (s : State) : Result :=
  .next (s.issue g fun s => let n := s.shiftCount o; s.bitOp o o.u fun w a _ => (a * 2 ^ n + a / 2 ^ (w - n)) % 2 ^ w)

/-- `min` (R125): the smaller, signed. -/
def execMin (g : Guard) (o : FmtA) (s : State) : Result := .next (s.issue g (·.intOp o false fun _ a b => min a b))

/-- `max` (R125): the larger, signed. -/
def execMax (g : Guard) (o : FmtA) (s : State) : Result := .next (s.issue g (·.intOp o false fun _ a b => max a b))

/-- `minu` (R125): the smaller, unsigned. -/
def execMinu (g : Guard) (o : FmtA) (s : State) : Result := .next (s.issue g (·.intOp o true fun _ a b => min a b))

/-- `maxu` (R125): the larger, unsigned. -/
def execMaxu (g : Guard) (o : FmtA) (s : State) : Result := .next (s.issue g (·.intOp o true fun _ a b => max a b))

/-- `slt` (R125): 1 if a < b, signed. -/
def execSlt (g : Guard) (o : FmtA) (s : State) : Result := .next (s.issue g (·.intOp o false fun _ a b => if a < b then 1 else 0))

/-- `sltu` (R125): 1 if a < b, unsigned. -/
def execSltu (g : Guard) (o : FmtA) (s : State) : Result := .next (s.issue g (·.intOp o true fun _ a b => if a < b then 1 else 0))

/-- `sel` (R125): a if S(S3) ≠ 0, else b. -/
def execSel (g : Guard) (o : FmtA) (s : State) : Result :=
  .next (s.issue g fun s => let c := s.getS o.s3; s.intOp o o.u fun _ a b => if c ≠ 0 then a else b)

/-- `clz` (R125): leading zeros. -/
def execClz (g : Guard) (o : FmtA) (s : State) : Result := .next (s.issue g (·.bitOp o o.u fun w a _ => leadingZeros w a))

/-- `ctz` (R125): trailing zeros. -/
def execCtz (g : Guard) (o : FmtA) (s : State) : Result := .next (s.issue g (·.bitOp o o.u fun w a _ => trailingZeros w a))

/-- `popc` (R125): one bits. -/
def execPopc (g : Guard) (o : FmtA) (s : State) : Result := .next (s.issue g (·.bitOp o o.u fun w a _ => onesCount w a))

/-- `brev` (R125): bits reversed. -/
def execBrev (g : Guard) (o : FmtA) (s : State) : Result := .next (s.issue g (·.bitOp o o.u fun w a _ => reverseBits w a 0))

/-! Major 0x11 (R127). -/

/-- An instruction of major 0x11 with a type: a is read unsigned or signed, the immediate likewise from its low w bits (R127). -/
def State.immOp (s : State) (o : FmtB) (unsigned : Bool) (f : Int → Int → Int) : State :=
  let w := o.mod4.width
  s.writeS o.d (fitWord w unsigned false (f (intOperand w unsigned (s.getS o.s1)) (intOperand w unsigned (immWord o))))

/-- A bitwise instruction of major 0x11 (R127). -/
def State.immBits (s : State) (o : FmtB) (f : Nat → Nat → Nat) : State :=
  let w := o.mod4.width
  s.writeS o.d (fitWord w false false (f ((s.getS o.s1).toNat % 2 ^ w) ((immWord o).toNat % 2 ^ w)))

/-- `addi` (R127): a + b. -/
def execAddi (g : Guard) (o : FmtB) (s : State) : Result := .next (s.issue g (·.immOp o false fun a b => a + b))

/-- `andi` (R127): a AND b. -/
def execAndi (g : Guard) (o : FmtB) (s : State) : Result := .next (s.issue g (·.immBits o fun a b => a &&& b))

/-- `ori` (R127): a OR b. -/
def execOri (g : Guard) (o : FmtB) (s : State) : Result := .next (s.issue g (·.immBits o fun a b => a ||| b))

/-- `xori` (R127): a XOR b. -/
def execXori (g : Guard) (o : FmtB) (s : State) : Result := .next (s.issue g (·.immBits o fun a b => a ^^^ b))

/-- `slli` (R127): a × 2^n. -/
def execSlli (g : Guard) (o : FmtB) (s : State) : Result := .next (s.issue g (·.immOp o false fun a _ => a * 2 ^ o.imm.toNat))

/-- `srli` (R127): ⌊a / 2^n⌋, unsigned. -/
def execSrli (g : Guard) (o : FmtB) (s : State) : Result := .next (s.issue g (·.immOp o true fun a _ => a / 2 ^ o.imm.toNat))

/-- `srai` (R127): ⌊a / 2^n⌋, signed. -/
def execSrai (g : Guard) (o : FmtB) (s : State) : Result := .next (s.issue g (·.immOp o false fun a _ => a / 2 ^ o.imm.toNat))

/-- `slti` (R127): 1 if a < b, signed. -/
def execSlti (g : Guard) (o : FmtB) (s : State) : Result := .next (s.issue g (·.immOp o false fun a b => if a < b then 1 else 0))

/-- `sltiu` (R127): 1 if a < b, unsigned. -/
def execSltiu (g : Guard) (o : FmtB) (s : State) : Result := .next (s.issue g (·.immOp o true fun a b => if a < b then 1 else 0))

/-- `li` (R127): IMM32 sign-extended. -/
def execLi (g : Guard) (o : FmtB) (s : State) : Result := .next (s.issue g fun s => s.writeS o.d (immWord o))

/-- `lhi` (R127): IMM32 above S(S1)[31:0]. -/
def execLhi (g : Guard) (o : FmtB) (s : State) : Result :=
  .next (s.issue g fun s => s.writeS o.d (o.imm ++ (s.getS o.s1).truncate 32))

/-! Major 0x12 (R128, R129). -/

/-- `pand` (R128): P(D) := P(S1) AND P(S2). -/
def execPand (g : Guard) (o : FmtA) (s : State) : Result := .next (s.issue g fun s => s.writeP o.d (s.getP o.s1 &&& s.getP o.s2))

/-- `por` (R128): P(D) := P(S1) OR P(S2). -/
def execPor (g : Guard) (o : FmtA) (s : State) : Result := .next (s.issue g fun s => s.writeP o.d (s.getP o.s1 ||| s.getP o.s2))

/-- `pxor` (R128): P(D) := P(S1) XOR P(S2). -/
def execPxor (g : Guard) (o : FmtA) (s : State) : Result := .next (s.issue g fun s => s.writeP o.d (s.getP o.s1 ^^^ s.getP o.s2))

/-- `pandn` (R128): P(D) := P(S1) AND NOT P(S2). -/
def execPandn (g : Guard) (o : FmtA) (s : State) : Result := .next (s.issue g fun s => s.writeP o.d (s.getP o.s1 &&& ~~~(s.getP o.s2)))

/-- `pnot` (R128): P(D) := NOT P(S1). -/
def execPnot (g : Guard) (o : FmtA) (s : State) : Result := .next (s.issue g fun s => s.writeP o.d (~~~(s.getP o.s1)))

/-- `pfrom` (R128): P(D) := S(S1). -/
def execPfrom (g : Guard) (o : FmtA) (s : State) : Result := .next (s.issue g fun s => s.writeP o.d (s.getS o.s1))

/-- `pto` (R128): S(D) := P(S1). -/
def execPto (g : Guard) (o : FmtA) (s : State) : Result := .next (s.issue g fun s => s.writeS o.d (s.getP o.s1))

/-- `icmp` (R129). -/
def execIcmp (g : Guard) (o : FmtA) (s : State) : Result :=
  .next (s.issue g fun s =>
    let w := o.ty.width
    s.writeP o.d (Word.mask (intCond o.sub (intOperand w o.u (s.getS o.s1)) (intOperand w o.u (s.getS o.s2)))))

/-! Major 0x13 (R130, R131). -/

/-- `lea` (R130). -/
def execLea (g : Guard) (o : FmtA) (s : State) : Result :=
  .next (s.issue g fun s => s.writeS o.d (s.getS o.s1 + s.getS o.s2 * BitVec.ofNat 64 (2 ^ o.sub.toNat)))

/-- Granules of a context's scratch addresses: 96 banks of 256 rows, or one half of 48 banks in a reel tile (R153, R157). -/
def Tile.granules (x : Tile) : Nat := if x.reel.isSome then 0x3000 else 0x6000

/-- Banks that scratch addresses name (R153, R157). -/
def Tile.bankCount (x : Tile) : Nat := if x.reel.isSome then 48 else 96

/-- Whether a context owns a granule (R131, R155). -/
def Tile.ownsGranule (x : Tile) (c : Fin 4) (k : Nat) : Bool :=
  decide (k < x.granules) && x.ctxs[c].banks.getLsbD (k % x.bankCount)

/-- The n-th granule with a property strictly below `k`, counting downward (R131). -/
def nthBelow (own : Nat → Bool) : Nat → Nat → Option Nat
  | 0, _ => none
  | k + 1, n => if own k then (if n ≤ 1 then some k else nthBelow own k (n - 1)) else nthBelow own k n

/-- The n-th granule with a property at `k` or above, counting upward over `fuel` granules (R131). -/
def nthFrom (own : Nat → Bool) : Nat → Nat → Nat → Option Nat
  | 0, _, _ => none
  | fuel + 1, k, n =>
    if own k then (if n ≤ 1 then some k else nthFrom own fuel (k + 1) (n - 1)) else nthFrom own fuel (k + 1) n

/-- `sbank` (R131), from the granule of S(S1) by S(S2) granules. -/
def Tile.sbank (x : Tile) (c : Fin 4) (a n : Word) : Word :=
  let own := x.ownsGranule c
  let limit := x.granules
  let g := a.toNat / 16
  let base := fun (k : Option Nat) => match k with
    | some k => BitVec.ofNat 64 (16 * k)
    | none => BitVec.ofNat 64 (16 * limit)
  if n = 0 then BitVec.ofNat 64 (16 * g)
  else if 0 < n.toInt then base (nthBelow own (min g limit) n.toNat)
  else match nthFrom own (limit - (g + 1)) (g + 1) n.toInt.natAbs with
    | some k => BitVec.ofNat 64 (16 * k)
    | none => base ((nthBelow own limit 1).map (· + 1))

/-- `sbank` (R131). -/
def execSbank (g : Guard) (o : FmtA) (s : State) : Result :=
  .next (s.issue g fun s => s.writeS o.d (s.curTile.sbank s.ctx (s.getS o.s1) (s.getS o.s2)))

/-- `clamp` (R130): min(max(a, b), c). -/
def execClamp (g : Guard) (o : FmtA) (s : State) : Result :=
  .next (s.issue g fun s =>
    let c := intOperand o.ty.width o.u (s.getS o.s3)
    s.intOp o o.u fun _ a b => min (max a b) c)

end Sys2Proof.Machine
end

