-- ==== Sys2Proof/Machine/Scratch.lean ====
section
/-! DEFINITION. Scratch (R153-R165): places and ownership, the store queue, the eight scratch instructions, and the
waiting of a release for the context's earlier accesses (R164, R304). -/

namespace Sys2Proof.Machine

/-- The physical place of a scratch address: in a reel tile, the row of the logical bank in a half (R157); else the address
itself, which is its bank's row (R153). -/
def Tile.place (x : Tile) (half : Bool) (a : Nat) : Nat :=
  if x.reel.isSome then
    let g := a / 16
    (g / 48 * 96 + (g % 48 + if half then 48 else 0)) * 16 + a % 16
  else a

/-- The half that the active configuration uses (R157). -/
def Tile.half (x : Tile) : Bool := (x.reel.map (·.half)).getD false

/-- Whether every byte of `n` from `a` lies in scratch and in a bank that the context owns (R155). -/
def Tile.owned (x : Tile) (c : Fin 4) (a n : Nat) : Bool :=
  (List.range ((a + n - 1) / 16 - a / 16 + 1)).all fun i => x.ownsGranule c (a / 16 + i)

/-- A byte of scratch as a context sees it: the latest queued store to it, or the scratch byte (R159). -/
def Tile.scratchByte (x : Tile) (c : Fin 4) (p : Nat) : Byte :=
  match x.ctxs[c].stq.reverse.findSome? (fun st => lookupKey p st.reverse) with
  | some b => b
  | none => x.scratch.read p

/-- `n` bytes of scratch from an address, as a context sees them. -/
def Tile.scratchRead (x : Tile) (c : Fin 4) (a n : Nat) : Nat :=
  ofBytes ((List.range n).map fun i => x.scratchByte c (x.place x.half (a + i)))

/-- Whether a load of `n` bytes meets an uncorrectable error: a bad word of which queued stores do not cover all 8 bytes
(R161). -/
def Tile.scratchPoison (x : Tile) (c : Fin 4) (a n : Nat) : Bool :=
  (List.range n).any fun i =>
    let w := x.place x.half (a + i) / 8
    x.scratchBad.contains w &&
      !((List.range 8).all fun j => x.ctxs[c].stq.any fun st => (lookupKey (8 * w + j) st).isSome)

/-- The cells of a scratch store of `n` bytes. -/
def Tile.scratchCells (x : Tile) (a n v : Nat) : List Host.Cell :=
  (List.range n).map fun i => (x.place x.half (a + i), byteOf v i)

/-- Cells written to scratch; words that they cover whole lose an uncorrectable error (R161). -/
def Tile.scratchWrite (x : Tile) (cells : List Host.Cell) : Tile :=
  { x with
    scratch := x.scratch.writeCells cells
    scratchBad := x.scratchBad.filter fun w => !((List.range 8).all fun j => (lookupKey (8 * w + j) cells).isSome) }

/-- A party (R307): a context, a stream, an engine or a scheduler of a die, or one outside the package, the host among them. -/
inductive Party where
  | context (t : TileId) (k : Fin 4)
  | stream (t : TileId) (g : Fin 4)
  | engine (d : Fin 8) (e : Fin 64)
  | scheduler (d : Fin 8)
  | hub
  | outside
  deriving DecidableEq, Repr

/-- The tile that a party belongs to (R307). -/
def Party.tile : Party → Option TileId
  | .context t _ | .stream t _ => some t
  | _ => none

/-- The compute die that a party belongs to (R307); a hub die is none. -/
def Party.die : Party → Option (Fin 8)
  | .context t _ | .stream t _ => some t.dieIx
  | .engine d _ | .scheduler d => some d
  | _ => none

/-- Whether party Y lies within a scope of party X (R308). -/
def scopeHolds (sco : Scope) (x y : Party) : Bool :=
  match sco with
  | .tile => x.tile.isSome && x.tile == y.tile
  | .die => x.die.isSome && x.die == y.die
  | .pkg => x != .outside && y != .outside
  | .fab => true

/-- Whether every earlier access of a context has performed at a scope: its queued scratch stores and the accesses of its
global queue; below fabric scope an access to another package has, once it is in its node stream (R304, R310). -/
def Ctx.performed (c : Ctx) (sco : Scope) : Bool :=
  c.stq.isEmpty && c.gq.all fun a => match a.stage with
    | .sent _ _ => sco != .fab
    | _ => false

/-- Whether an access that the context does not wait for acquires, and has not performed at its scope (R299, R305): later accesses
of the context then wait, those to scratch as well. -/
def Ctx.acqPending (c : Ctx) : Bool :=
  c.gq.any fun a => a.ord.getLsbD 0 && match a.stage with
    | .sent _ _ => a.sco == .fab
    | _ => true

/-- A scratch access made once no earlier access of the context has still to acquire (R299, R305). -/
def State.afterAcquire (s : State) (effect : State → State) : State := if s.cur.acqPending then s.stall else effect s

/-- An access with ORD 10 or 11 takes a pending store fault in place of its effect (R289). -/
def State.takesFault (s : State) (ord : BitVec 2) (effect : State → State) : State :=
  if ord.getLsbD 1 then s.afterStoreFault effect else effect s

/-- With ORD 10 or 11 a context is not eligible until its earlier accesses have performed at the scope (R164, R304). -/
def State.awaits (s : State) (ord : BitVec 2) (sco : Scope) (effect : State → State) : State :=
  if ord.getLsbD 1 && !s.cur.performed sco then s.stall else effect s

/-! The scratch instructions (R162, R163). -/

/-- How a scratch instruction's elements lie: one scalar element, one of 64 bytes, a gather or a stride (R162). -/
inductive ScratchForm where
  | scalar | whole | gather | stride
  deriving DecidableEq, Repr

/-- Size of an element (R163). -/
def ScratchForm.size (f : ScratchForm) (o : FmtM) : Nat := if f = .whole then 64 else tyBytes o.ty

/-- Alignment of an element's address (R163). -/
def ScratchForm.align (f : ScratchForm) (o : FmtM) : Nat := if f = .whole then 16 else tyBytes o.ty

/-- The addresses of the elements, in order (R162). -/
def Ctx.elements (c : Ctx) (f : ScratchForm) (o : FmtM) : List Nat :=
  let n := tyBytes o.ty
  match f with
  | .scalar | .whole => [(c.indexedAddr o).toNat]
  | .gather => (List.range (64 / n)).map fun k =>
      (c.baseAddr o + BitVec.ofNat 64 (laneOf (c.getV o.x) o.ty.width k)).toNat
  | .stride => (List.range (64 / n)).map fun k => (c.baseAddr o + BitVec.ofNat 64 k * c.getS o.x).toNat

/-- The first element that fails ALIGN or the check of ownership, with its number and cause (R163). -/
def Tile.scratchCheck (x : Tile) (c : Fin 4) (size align : Nat) (k : Nat) : List Nat → Option (Nat × Nat × BitVec 8)
  | [] => none
  | a :: rest =>
    if a % align ≠ 0 then some (k, a, Cause.align)
    else if !x.owned c a size then some (k, a, Cause.scratch)
    else x.scratchCheck c size align (k + 1) rest

/-- The first element that meets an uncorrectable error (R161). -/
def Tile.poisonCheck (x : Tile) (c : Fin 4) (size : Nat) (as : List Nat) : Option (Nat × Nat) :=
  (List.range as.length).findSome? fun k => match as[k]? with
    | some a => if x.scratchPoison c a size then some (k, a) else none
    | none => none

/-- A scratch load: checks, then the value of its elements, lowest first, handed to `put` (R163). -/
def State.scratchLoad (s : State) (f : ScratchForm) (o : FmtM) (put : Nat → State → State) : State :=
  let x := s.curTile
  let as := s.cur.elements f o
  let n := f.size o
  match x.scratchCheck s.ctx n (f.align o) 0 as with
  | some (k, a, cause) => s.trapAt (BitVec.ofNat 64 a) cause (BitVec.ofNat 64 k)
  | none => match x.poisonCheck s.ctx n as with
    | some (k, a) => s.trapAt (BitVec.ofNat 64 a) Cause.poison (BitVec.ofNat 64 k)
    | none => s.afterAcquire (put (as.foldr (fun a acc => x.scratchRead s.ctx a n + 2 ^ (8 * n) * acc) 0))

/-- A scratch store: checks, then its bytes enter the store queue of 8 stores, a later element's over an earlier one's
(R159, R163). -/
def State.scratchStore (s : State) (f : ScratchForm) (o : FmtM) (data : Vec) : State :=
  s.takesFault o.ord fun s =>
    let x := s.curTile
    let as := s.cur.elements f o
    let n := f.size o
    match x.scratchCheck s.ctx n (f.align o) 0 as with
    | some (k, a, cause) => s.trapAt (BitVec.ofNat 64 a) cause (BitVec.ofNat 64 k)
    | none => s.awaits o.ord .tile fun s => s.afterAcquire fun s =>
      if 8 ≤ s.cur.stq.length then s.stall
      else
        let cells := (List.range as.length).flatMap fun k => match as[k]? with
          | some a => x.scratchCells a n (data.toNat / 2 ^ (8 * n * k) % 2 ^ (8 * n))
          | none => []
        s.modCur fun c => { c with stq := c.stq ++ [cells] }.retire

/-- A scalar value of n bytes loaded: zero-extended with `.zx`, else sign-extended (R162). -/
def loadedWord (o : FmtM) (v : Nat) : Word := extendTo o.ty.width (o.sub == 1) v

/-- `ld` (R162, R163). -/
def execLd (g : Guard) (o : FmtM) (s : State) : Result :=
  .next (s.issue g (·.scratchLoad .scalar o fun v s => s.writeS o.d (loadedWord o v)))

/-- `st` (R162, R163). -/
def execSt (g : Guard) (o : FmtM) (s : State) : Result :=
  .next (s.issue g fun s => s.scratchStore .scalar o ((s.getS o.d).zeroExtend 512))

/-- `vld` (R162, R163). -/
def execVld (g : Guard) (o : FmtM) (s : State) : Result :=
  .next (s.issue g (·.scratchLoad .whole o fun v s => s.writeV o.d (BitVec.ofNat 512 v)))

/-- `vst` (R162, R163). -/
def execVst (g : Guard) (o : FmtM) (s : State) : Result :=
  .next (s.issue g fun s => s.scratchStore .whole o (s.getV o.d))

/-- `vldx` (R162, R163). -/
def execVldx (g : Guard) (o : FmtM) (s : State) : Result :=
  .next (s.issue g (·.scratchLoad .gather o fun v s => s.writeV o.d (BitVec.ofNat 512 v)))

/-- `vstx` (R162, R163). -/
def execVstx (g : Guard) (o : FmtM) (s : State) : Result :=
  .next (s.issue g fun s => s.scratchStore .gather o (s.getV o.d))

/-- `vlds` (R162, R163). -/
def execVlds (g : Guard) (o : FmtM) (s : State) : Result :=
  .next (s.issue g (·.scratchLoad .stride o fun v s => s.writeV o.d (BitVec.ofNat 512 v)))

/-- `vsts` (R162, R163). -/
def execVsts (g : Guard) (o : FmtM) (s : State) : Result :=
  .next (s.issue g fun s => s.scratchStore .stride o (s.getV o.d))

/-- The largest number of distinct rows that an access touches in one bank (R158). -/
def Tile.rowCount (x : Tile) (as : List Nat) (n : Nat) : Nat :=
  let granules := (as.flatMap fun a => (List.range ((a + n - 1) / 16 - a / 16 + 1)).map (a / 16 + ·)).dedup
  (granules.map fun g => granules.countP fun h => h % x.bankCount == g % x.bankCount).foldl max 1

/-- Cycles that the conflicts of a scratch load add to its latency, c − 1 (R159). -/
def Tile.conflicts (x : Tile) (c : Fin 4) (i : Instr) : Nat :=
  let rows := fun (f : ScratchForm) (o : FmtM) => x.rowCount (x.ctxs[c].elements f o) (f.size o) - 1
  match i with
  | .ld _ o => rows .scalar o
  | .vld _ o => rows .whole o
  | .vldx _ o => rows .gather o
  | .vlds _ o => rows .stride o
  | _ => 0

/-- Whether bytes cover all 8 of a word. -/
def coversWord (w : Nat) (has : Nat → Bool) : Bool := (List.range 8).all fun j => has (8 * w + j)

/-- The oldest queued store of a context performs (R159). A bad word that queued stores cover together loses its error when the
last of them that it takes has performed (R161). -/
def Tile.performStore (x : Tile) (c : Fin 4) (st : ScratchStore) (rest : List ScratchStore) : Tile :=
  let y := x.ctxs[c]
  let inStore := fun (q : ScratchStore) (a : Nat) => (lookupKey a q).isSome
  let now := fun (a : Nat) => inStore st a || y.covered.contains a
  let joint := fun (w : Nat) => coversWord w fun a => now a || rest.any fun q => inStore q a
  let bad := x.scratchBad.filter fun w => !coversWord w now
  let left := (y.covered ++ st.map (·.1)).filter fun a => bad.contains (a / 8) && joint (a / 8)
  let x := x.scratchWrite st
  { x with scratchBad := bad }.setCtx c { y with stq := rest, covered := left }

/-- STORE_QUEUE_PERFORM (R159): the oldest queued store of a context performs. -/
def execStoreQueuePerform (t : TileId) (c : Fin 4) (s : State) : Result :=
  match (s.ctxAt t c).stq with
  | [] => .next s.stall
  | st :: rest => .next (s.modTile t fun x => x.performStore c st rest)

end Sys2Proof.Machine
end

