-- ==== Sys2Proof/Machine/Global.lean ====
section
/-! DEFINITION. The walk queues of the dies (R283), accesses by units (R280, R282), the global queue of a context (R286-R289),
how accesses perform at slices and atomic units (R291-R303), and the instructions of majors 0x70 and 0x72. -/

namespace Sys2Proof.Machine

/-! Walk requests (R283). -/

/-- va[55:16]. -/
def pageOf (va : Nat) : Nat := va / 2 ^ 16 % 2 ^ 40

/-- A request in a die's walk queue: it joins a walk of the same ASID and page, or takes an entry if one of the 1,024 is
free (R283). A walk that runs keeps its entry: the 64 walkers work on the first 64 of the 1,024 (DESIGN CHOICE, log entry 93). -/
def Die.request (d : Die) (asid : BitVec 16) (va : Nat) (who : Walker) : Option Die :=
  if d.walks.any fun w => w.asid == asid && w.page == pageOf va then
    some { d with walks := d.walks.map fun w =>
      if w.asid == asid && w.page == pageOf va && !w.who.contains who then { w with who := w.who ++ [who] } else w }
  else if d.walks.length < 1024 then some { d with walks := d.walks ++ [⟨asid, pageOf va, [who]⟩] }
  else none

/-- The request made at a die of the state; none while its queue is full. -/
def State.requestWalk (s : State) (d : Fin 8) (asid : BitVec 16) (va : Nat) (who : Walker) : Option State :=
  (s.dies[d].request asid va who).map fun x => { s with dies := s.dies.set d x }

/-! Accesses by units. -/

/-- How a unit's access ends: it has to wait for a word to become present, or it fails with a cause. -/
inductive UnitFail where
  | wait
  | cause (c : BitVec 8)
  deriving DecidableEq, Repr

/-- The cause of a failed walk for a unit (R210, R256). -/
def WalkFail.cause : WalkFail → BitVec 8
  | .poison _ => Cause.poison
  | .xlate _ _ => Cause.xlate

/-- A unit's read of the local pieces: it waits at an absent write-once word, and fails on POISON (R277, R294), also where the word is
absent (DESIGN CHOICE, log entry 128). -/
def Global.unitRead (g : Global) : List Part → Except UnitFail Nat
  | [] => .ok 0
  | (t, off, n, wo) :: rest =>
    if g.poisonAt t n ≠ [] then .error (.cause Cause.poison)
    else if wo && !g.allPresent t n then .error .wait
    else match g.unitRead rest with
      | .error e => .error e
      | .ok v => .ok (v + g.readAt t n * 2 ^ (8 * off))

/-- A unit's write of the local pieces: on a write-once page only whole aligned words, which become present; a word already
present fails with WOTWICE (R294). -/
def Global.unitWrite (g : Global) (v : Nat) : List Part → Except UnitFail Global
  | [] => .ok g
  | (t, off, n, wo) :: rest =>
    let whole := match t with
      | .hbm pa => n == 8 && pa % 8 == 0
      | _ => false
    if wo && !whole then .error (.cause Cause.perm)
    else if wo && g.presentAt t then .error (.cause Cause.wotwice)
    else
      let g := g.writeAt t n (v / 2 ^ (8 * off))
      Global.unitWrite (if wo then g.setPresent t else g) v rest

/-! Kinds of access. -/

/-- Bytes that an access touches (R290, R298). -/
def GKind.size : GKind → Nat
  | .load n _ => n
  | .store n => n
  | .atomic _ ty _ => ty.width / 8
  | .call _ _ => 16
  | .loadV | .storeV => 64
  | .loadOnce | .storeOnce => 8
  | .clear len => len
  | .tagged _ n => n

/-- KIND of R281. -/
def GKind.code : GKind → Nat
  | .load _ _ | .loadV => 1
  | .store _ | .storeV | .tagged _ _ => 2
  | .atomic _ _ _ => 3
  | .call _ _ => 4
  | .loadOnce => 5
  | .storeOnce => 6
  | .clear _ => 7

/-- What the access requires of a leaf (R280). -/
def GKind.access : GKind → Access
  | .load _ _ | .loadV => .read
  | .store _ | .storeV | .tagged _ _ => .write
  | .atomic _ _ _ | .call _ _ => .atomic
  | .loadOnce => .readOnce
  | .storeOnce | .clear _ => .writeOnce

/-- Whether the context waits for the access (R286, R369). -/
def GKind.returns : GKind → Bool
  | .load _ _ | .loadV | .loadOnce | .tagged _ _ => true
  | .atomic _ _ nr | .call _ nr => !nr
  | _ => false

/-- Whether it reads and does no more, so that a slice may defer it among its reads (R296, R374). -/
def GKind.reads : GKind → Bool
  | .load _ _ | .loadV | .loadOnce => true
  | _ => false

/-- Whether an atomic unit performs it (R297). -/
def GKind.isAtomic : GKind → Bool
  | .atomic _ _ _ | .call _ _ => true
  | _ => false

/-- sys.einfo of a translation or permission fault (R281). -/
def xlateInfo (index reason level kind : Nat) : Word :=
  BitVec.ofNat 64 (index * 2 ^ 20 + reason * 2 ^ 12 + level * 2 ^ 8 + kind)

/-- LEVEL of a fault that meets no page-table entry, which R281 leaves open: a free value (log entry 40). -/
def State.openLevel (s : State) : Nat × State :=
  let (w, s) := s.freeWord
  (field w 8 4, s)

/-- Level of a leaf's entry (R278). -/
def Leaf.level (l : Leaf) : Nat := (l.size - 16) / 10

/-! The queue. -/

/-- The access of an id in a context's queue. -/
def Ctx.access (c : Ctx) (id : Nat) : Option GAccess := c.gq.find? (·.id == id)

/-- An access that leaves the queue. -/
def Ctx.dropAccess (c : Ctx) (id : Nat) : Ctx := { c with gq := c.gq.filter fun a => a.id != id }

/-- An access at another stage. -/
def Ctx.setStage (c : Ctx) (id : Nat) (st : GStage) : Ctx :=
  { c with gq := c.gq.map fun a => if a.id = id then { a with stage := st } else a }

/-- An access performed: it leaves the queue; a context that waits for it writes its register and goes on (R286). -/
def State.accDone (s : State) (t : TileId) (k : Fin 4) (a : GAccess) (put : Ctx → Ctx) : State :=
  s.modCtx t k fun c =>
    let c := c.dropAccess a.id
    if c.wait = .access a.id then { put c with wait := .none }.retire else c

/-- Whether the address of a fault and its cause are recorded for a store that has retired, the first one only (R289). -/
def Ctx.storeFault (c : Ctx) (cause : BitVec 8) (va : Nat) (info : Word) : Ctx :=
  match c.psf with
  | some _ => c
  | none => { c with psf := some ⟨cause, BitVec.ofNat 64 va, info⟩ }

/-- Index of a handle's record (R363). -/
def baleIndex (h : Word) : Nat := field h 8 8

/-- The record that a handle names for a region (R364). -/
def State.baleFor (s : State) (h : Word) (r : Option Region) : Option Bale :=
  let b := s.hub.bale (baleIndex h)
  match r with
  | none => none
  | some r =>
    if field h 28 36 = 0 && bits h 16 12 == s.hub.node && bits h 0 8 == b.gen && b.st.isSome && b.region == r.number && b.rgen == r.gen
    then some b else none

/-- The record of a tile's bale marked by a fault of one of its stores (R369); one that has been freed since is not. Once the bale is
decided, the fault is no cause of what becomes of it (R365, R373). -/
def State.doom (s : State) (t : TileId) (h : Word) : State :=
  if (s.baleFor h (s.regionOf t)).isNone then s
  else { s with hub := s.hub.modBale (baleIndex h) fun b =>
    { (if b.st = some .opened || b.st = some .sealed then b.blame 7 0 else b) with doom := true } }

/-- A fault of an access (R286, R289, R369): precise where the context waits, a pending store fault otherwise. `low` are
bits [19:0] of sys.einfo. -/
def State.accFault (s : State) (t : TileId) (k : Fin 4) (a : GAccess) (cause : BitVec 8) (va : Nat) (low : Word) : State :=
  let s := match a.kind with
    | .tagged h _ => s.doom t h
    | _ => s
  let s := s.modCtx t k (·.dropAccess a.id)
  if a.kind.returns then s.trapIn t k cause (s.ctxAt t k).pc (BitVec.ofNat 64 va) low
  else s.modCtx t k (·.storeFault cause va (low ||| BitVec.ofNat 64 (a.index.toNat * 2 ^ 20)))

/-- A fault whose rule gives no sys.einfo but INDEX: the rest is a free value (log entry 3). -/
def State.accFaultOpen (s : State) (t : TileId) (k : Fin 4) (a : GAccess) (cause : BitVec 8) (va : Nat) : State :=
  let (w, s) := s.freeWord
  s.accFault t k a cause va (if a.kind.returns then w else w &&& 0xFFFFF#64)

/-- A failed walk, for an access that waits on it (R280, R281, R283, R369); POISON has no REASON, which is a free value (log
entry 3). -/
def State.accWalkFail (s : State) (t : TileId) (k : Fin 4) (a : GAccess) (f : WalkFail) : State :=
  match f with
  | .poison level =>
    let (w, s) := s.freeWord
    s.accFault t k a Cause.poison a.va (xlateInfo 0 (field w 12 4) level a.kind.code)
  | .xlate reason level => s.accFault t k a Cause.xlate a.va (xlateInfo 0 reason level a.kind.code)

/-- The reason for which a leaf does not permit an access; a `pclr` has its range in the page as well, which counts after R281's reasons
(R280, R295; DESIGN CHOICE, log entry 129). -/
def GAccess.refused (a : GAccess) (leaf : Leaf) : Option Nat :=
  match leaf.refuses a.kind.access a.user, a.kind with
  | some r, _ => some r
  | none, .clear len => if len = 0 || !leaf.covers (a.va + len - 1) then some 8 else none
  | none, .tagged _ _ => if leaf.wo then some 8 else none
  | none, _ => none

/-- A tagged store whose translation has ended (R369): counted at the record and sent to its destination's loft. -/
def State.tagStore (s : State) (t : TileId) (k : Fin 4) (a : GAccess) (h : Word) (n : Nat) (leaf : Leaf) : State :=
  let tgt := leaf.target a.va
  let idx := baleIndex h
  let b := s.hub.bale idx
  let dest := match tgt with
    | .remote node _ => node
    | _ => s.hub.node
  let known := b.counts.any fun p => p.1 == dest
  if (s.baleFor h (s.regionOf t)).isNone || b.st ≠ some .opened then
    -- the record was sealed, or freed, while the store was under way
    (s.modCtx t k (·.dropAccess a.id)).trapIn t k Cause.bale (s.ctxAt t k).pc 0 h
  else if !known && 16 ≤ b.counts.length then
    ((s.doom t h).modCtx t k (·.dropAccess a.id)).trapIn t k Cause.bale (s.ctxAt t k).pc 0 h
  else
    let counts := if known then b.counts.map fun p => if p.1 = dest then (p.1, p.2 + 1) else p else b.counts ++ [(dest, 1)]
    let s := { s with hub := s.hub.modBale idx fun b => { b with counts := counts } }
    let s := match tgt with
      | .remote node va => s.tellStore node h va n a.data (s.asidOf t, leaf.span)
      | _ => s.loftPut (.store s.hub.node h (t, k) tgt n a.data none (some (s.asidOf t, leaf.span)))
    s.accDone t k a id

/-- An access that has been translated through a leaf is injected: it is stamped, and arrives at its slice (R245, R284, R287, R409). -/
def State.arrive (s : State) (t : TileId) (k : Fin 4) (id : Nat) (leaf : Leaf) : State :=
  { s.modCtx t k fun c => { c with gq := c.gq.map fun a =>
      if a.id = id then { a with stage := .ready (leaf.target a.va), order := s.nextSeq, span := leaf.span, ver := s.hub.version } else a } with
    nextSeq := s.nextSeq + 1 }

/-- The accesses of a context's queue translate in order, through its micro-TLB, up to the first miss (R282, R286); a miss
waits in the die's walk queue. -/
def State.translateQueue : Nat → State → TileId → Fin 4 → State
  | 0, s, _, _ => s
  | fuel + 1, s, t, k =>
    let c := s.ctxAt t k
    if (s.tile t).snapped then s else
    let next := c.gq.find? fun a => match a.stage with
      | .queued | .walking => true
      | _ => false
    match next with
    | none => s
    | some a =>
      if a.stage = .walking then s
      else match tlbFind c.utlb a.va with
        | none => match s.requestWalk t.dieIx (s.asidOf t) a.va (.ctx t k) with
          | none => s
          | some s => s.modCtx t k (·.setStage a.id .walking)
        | some (leaf, tlb) =>
          let s := s.modCtx t k fun c => { c with utlb := tlb }
          let s := match a.refused leaf with
            | some r => s.accFault t k a Cause.perm a.va (xlateInfo 0 r leaf.level a.kind.code)
            | none => match a.kind with
              | .tagged h n => s.tagStore t k a h n leaf
              | _ => s.arrive t k a.id leaf
          State.translateQueue fuel s t k

/-- An access enters the queue (R286): a store retires, a context whose access returns a value waits for it. -/
def State.enterQueue (s : State) (a : GAccess) : State :=
  if 16 ≤ s.cur.gq.length then s.stall
  else
    let t := s.here
    let k := s.ctx
    let a := { a with id := s.cur.nextAcc, index := s.cur.pc, user := s.cur.mode == .user, stage := .queued }
    let s := s.modCur fun c =>
      let c := { c with gq := c.gq ++ [a], nextAcc := c.nextAcc + 1 }
      if a.kind.returns then { c with wait := .access a.id } else c.retire
    s.translateQueue 17 t k

/-- An access as its instruction makes it. -/
def GAccess.of (kind : GKind) (dst : Reg) (va : Nat) (data : BitVec 512) (compare : Word) (ord : BitVec 2) (sco : Scope) : GAccess where
  id := 0
  kind := kind
  dst := dst
  va := va
  data := data
  compare := compare
  ord := ord
  sco := sco
  index := 0
  user := true
  stage := .queued
  order := 0
  span := (0, 0)
  ver := false

/-- The checks and the entry of a global access (R291, R299): alignment, the 56 bits of R275, the waiting of a release. -/
def State.globalOp (s : State) (kind : GKind) (align : Nat) (bad : Bool) (o : FmtM) (va : Word) (data : BitVec 512) : State :=
  s.takesFault o.ord fun s =>
    if va.toNat % align ≠ 0 || bad then s.trapAt va Cause.align 0
    else if 2 ^ 56 ≤ va.toNat then
      let (level, s) := s.openLevel
      s.trapAt va Cause.xlate (xlateInfo 0 2 level kind.code)
    else s.awaits o.ord o.sco fun s =>
      s.enterQueue (.of kind o.d va.toNat data (s.getS o.d) o.ord o.sco)

/-! Instructions of major 0x70 (R290-R295). -/

/-- `gld` (R291). -/
def execGld (g : Guard) (o : FmtM) (s : State) : Result :=
  .next (s.issue g fun s => s.globalOp (.load (tyBytes o.ty) (o.sub == 1)) (tyBytes o.ty) false o (s.cur.indexedAddr o) 0)

/-- `gst` (R291). -/
def execGst (g : Guard) (o : FmtM) (s : State) : Result :=
  .next (s.issue g fun s =>
    s.globalOp (.store (tyBytes o.ty)) (tyBytes o.ty) false o (s.cur.indexedAddr o) ((s.getS o.d).zeroExtend 512))

/-- `gvld` (R291). -/
def execGvld (g : Guard) (o : FmtM) (s : State) : Result :=
  .next (s.issue g fun s => s.globalOp .loadV 64 false o (s.cur.indexedAddr o) 0)

/-- `gvst` (R291). -/
def execGvst (g : Guard) (o : FmtM) (s : State) : Result :=
  .next (s.issue g fun s => s.globalOp .storeV 64 false o (s.cur.indexedAddr o) (s.getV o.d))

/-- `gldw` (R291, R294). -/
def execGldw (g : Guard) (o : FmtM) (s : State) : Result :=
  .next (s.issue g fun s => s.globalOp .loadOnce 8 false o (s.cur.indexedAddr o) 0)

/-- `gstw` (R291, R294). -/
def execGstw (g : Guard) (o : FmtM) (s : State) : Result :=
  .next (s.issue g fun s => s.globalOp .storeOnce 8 false o (s.cur.indexedAddr o) ((s.getS o.d).zeroExtend 512))

/-- `gprf` (R292): a miss queues a walk if the die's queue has room; nothing else happens. -/
def execGprf (g : Guard) (o : FmtM) (s : State) : Result :=
  .next (s.issue g fun s =>
    let va := s.cur.indexedAddr o
    if va.toNat % 8 ≠ 0 then s.trapAt va Cause.align 0
    else if 2 ^ 56 ≤ va.toNat || (tlbFind s.cur.utlb va.toNat).isSome then s.retire
    else ((s.requestWalk s.here.dieIx (s.asidOf s.here) va.toNat (.prefetch s.here s.ctx)).getD s).retire)

/-- `pclr` (R291, R295). -/
def execPclr (g : Guard) (o : FmtM) (s : State) : Result :=
  .next (s.supervised (·.issue g fun s =>
    let len := (s.getS o.x).toNat
    s.globalOp (.clear len) 8 (len % 8 != 0) o (s.cur.baseAddr o) 0))

/-! Instructions of major 0x72 (R298-R300). -/

/-- An atomic by its FN (R298, R299). -/
def State.atomicOp (s : State) (fn : BitVec 4) (o : FmtM) : State :=
  s.globalOp (.atomic fn o.ty (o.sub.getLsbD 0)) (tyBytes o.ty) false o (s.cur.baseAddr o) ((s.getS o.x).zeroExtend 512)

/-- `amoadd` (R298). -/
def execAmoadd (g : Guard) (o : FmtM) (s : State) : Result := .next (s.issue g (·.atomicOp 0 o))
/-- `amofadd` (R298). -/
def execAmofadd (g : Guard) (o : FmtM) (s : State) : Result := .next (s.issue g (·.atomicOp 1 o))
/-- `amomin` (R298). -/
def execAmomin (g : Guard) (o : FmtM) (s : State) : Result := .next (s.issue g (·.atomicOp 2 o))
/-- `amomax` (R298). -/
def execAmomax (g : Guard) (o : FmtM) (s : State) : Result := .next (s.issue g (·.atomicOp 3 o))
/-- `amominu` (R298). -/
def execAmominu (g : Guard) (o : FmtM) (s : State) : Result := .next (s.issue g (·.atomicOp 4 o))
/-- `amomaxu` (R298). -/
def execAmomaxu (g : Guard) (o : FmtM) (s : State) : Result := .next (s.issue g (·.atomicOp 5 o))
/-- `amoand` (R298). -/
def execAmoand (g : Guard) (o : FmtM) (s : State) : Result := .next (s.issue g (·.atomicOp 6 o))
/-- `amoor` (R298). -/
def execAmoor (g : Guard) (o : FmtM) (s : State) : Result := .next (s.issue g (·.atomicOp 7 o))
/-- `amoxor` (R298). -/
def execAmoxor (g : Guard) (o : FmtM) (s : State) : Result := .next (s.issue g (·.atomicOp 8 o))
/-- `amoswap` (R298). -/
def execAmoswap (g : Guard) (o : FmtM) (s : State) : Result := .next (s.issue g (·.atomicOp 9 o))
/-- `amocas` (R298). -/
def execAmocas (g : Guard) (o : FmtM) (s : State) : Result := .next (s.issue g (·.atomicOp 10 o))

/-- `amocall` (R299, R301). -/
def execAmocall (g : Guard) (o : FmtM) (s : State) : Result :=
  .next (s.issue g fun s =>
    s.globalOp (.call (bits o.sub 1 2) (o.sub.getLsbD 0)) 16 false o (s.cur.baseAddr o) ((s.getS o.x).zeroExtend 512))

/-! Values at slices and atomic units. -/

/-- The new memory value of an atomic, for the old value m, operand a and compare value c, all of width w (R298). -/
def amoValue (fn : BitVec 4) (ty : Ty) (m a c : Nat) : Nat :=
  let w := ty.width
  let signed := intOf w false
  match fn.toNat with
  | 0 => (m + a) % 2 ^ w
  | 1 => roundTo ty false ((floatOf ty m).add (floatOf ty a) .rne) .rne
  | 2 => if signed a < signed m then a else m
  | 3 => if signed m < signed a then a else m
  | 4 => min m a
  | 5 => max m a
  | 6 => m &&& a
  | 7 => m ||| a
  | 8 => m ^^^ a
  | 9 => a
  | _ => if m = c then a else m

/-- The old value as the register receives it (R298). -/
def amoResult (fn : BitVec 4) (ty : Ty) (m : Nat) : Word :=
  if fn = 1 || fn = 4 || fn = 5 then BitVec.ofNat 64 m else extendTo ty.width false m

/-- Registers of an owner program (R301). -/
structure OwnerRegs where
  m0 : Word
  m1 : Word
  a : Word
  t : Word
  k0 : Word
  k1 : Word
  r : Word
  f : Bool
  deriving DecidableEq, Repr

/-- A source of a step (R302). -/
def OwnerRegs.get (x : OwnerRegs) (n : Nat) : Word :=
  match n with
  | 0 => x.m0
  | 1 => x.m1
  | 2 => x.a
  | 3 => x.t
  | 4 => x.k0
  | 5 => x.k1
  | 6 => 0
  | _ => x.r

/-- The destination of a step (R302). -/
def OwnerRegs.set (x : OwnerRegs) (n : Nat) (v : Word) : OwnerRegs :=
  match n with
  | 0 => { x with m0 := v }
  | 1 => { x with m1 := v }
  | 3 => { x with t := v }
  | _ => { x with r := v }

/-- One step (R302). -/
def OwnerRegs.step (x : OwnerRegs) (w : BitVec 16) : OwnerRegs :=
  let p := x.get (field w 5 3)
  let q := x.get (field w 2 3)
  let put := x.set (field w 8 3)
  if w.getLsbD 1 && !x.f then x
  else match field w 11 5 with
    | 1 => put p
    | 2 => put (p + q)
    | 3 => put (p - q)
    | 4 => put (p &&& q)
    | 5 => put (p ||| q)
    | 6 => put (p ^^^ q)
    | 7 => put (if q.toInt < p.toInt then q else p)
    | 8 => put (if p.toInt < q.toInt then q else p)
    | 9 => put (if q.toNat < p.toNat then q else p)
    | 10 => put (if p.toNat < q.toNat then q else p)
    | 11 => put (p <<< (q.toNat % 64))
    | 12 => put (p >>> (q.toNat % 64))
    | 13 => { x with f := p == q }
    | 14 => { x with f := decide (p.toInt < q.toInt) }
    | 15 => { x with f := decide (p.toNat < q.toNat) }
    | 16 => put (BitVec.ofNat 64 (roundTo .fp32 false
        ((floatOf .fp32 (field p 0 32)).add (floatOf .fp32 (field q 0 32)) .rne) .rne))
    | _ => x

/-- The steps up to END (R301). -/
def OwnerRegs.run (x : OwnerRegs) : List (BitVec 16) → OwnerRegs
  | [] => x
  | w :: rest => if field w 11 5 = 0 then x else (x.step w).run rest

/-- An owner program run on a granule: the new granule and R (R301). -/
def Program.run (p : Program) (granule : Nat) (a : Word) : Nat × Word :=
  let m0 := BitVec.ofNat 64 granule
  let x := OwnerRegs.run ⟨m0, BitVec.ofNat 64 (granule / 2 ^ 64), a, 0, p.k0.signExtend 64, p.k1.signExtend 64, m0, false⟩ p.steps
  (x.m0.toNat + x.m1.toNat * 2 ^ 64, x.r)

/-- The program held under a key at the slice of a target (R303). -/
def Global.program (g : Global) (t : Target) (tenant : BitVec 12) (prog : BitVec 2) : Option Program :=
  g.programs.find? fun p => p.slice == t.slice && p.tenant == tenant && p.prog == prog

/-! Performing. -/

/-- Deferred reads that a slice holds: of contexts, of streams, of engines and of peers (R296, R374). -/
def State.deferredAt (s : State) (slice : Nat) : Nat :=
  let own := fun (x : Tile) => x.ctxs.toList.foldl (fun n c => n + c.gq.countP fun a => match a.stage with
    | .deferred t => t.slice == slice
    | _ => false) 0
  let streams := fun (x : Tile) => x.agens.toList.foldl (fun n a => n + a.flight.countP fun e =>
    e.stage == .deferred && e.parts.any fun p => p.1.slice == slice) 0
  s.tiles.foldl (fun n p => n + own p.2 + streams p.2) 0 +
  s.xfers.foldl (fun n x => n + x.packets.countP fun p => p.deferred && (p.target.map Target.slice) == some slice) 0 +
  s.hub.inbound.countP (fun r => r.deferred && !requestWrites r.req && r.tgt.slice == slice)

/-- A read that cannot perform yet: deferred, or told to come again where the slice holds 256 (R296, R374). -/
def State.deferRead (s : State) (t : TileId) (k : Fin 4) (a : GAccess) (tgt : Target) : State :=
  match a.stage with
  | .deferred _ => s.stall
  | _ => s.modCtx t k (·.setStage a.id (if s.deferredAt tgt.slice < 256 then .deferred tgt else .retry tgt (s.tile t).cycle.toNat))

/-- A read's value given to its context (R291). -/
def State.loadDone (s : State) (t : TileId) (k : Fin 4) (a : GAccess) (v : Nat) : State :=
  s.accDone t k a fun c => match a.kind with
    | .load n zx => c.setS a.dst (extendTo (8 * n) zx v)
    | .loadV => c.setV a.dst (BitVec.ofNat 512 v)
    | _ => c.setS a.dst (BitVec.ofNat 64 v)

/-- A read at its slice: POISON traps at the lowest poisoned word (R277, R291), at the address where its packet's data fail their
parity (R399). -/
def State.loadAt (s : State) (t : TileId) (k : Fin 4) (a : GAccess) (tgt : Target) (bad : Bool) : State :=
  match s.mem.poisonAt tgt a.kind.size with
  | off :: _ => s.accFault t k a Cause.poison (a.va + if bad then 0 else off) 0
  | [] => if bad then s.accFault t k a Cause.poison a.va 0 else s.loadDone t k a (s.mem.readAt tgt a.kind.size)

/-- Whether a prepared bale holds a line among the bytes from a target on, as `lineHeld`, for a range of any length (R374). -/
def State.rangeHeld (s : State) (t : Target) (len : Nat) : Bool :=
  s.hub.loft.any fun b => b.prepared && b.lines.any fun l => match t with
    | .hbm pa => !l.1 && decide (pa / 64 ≤ l.2 ∧ 64 * l.2 < pa + len)
    | .lpddr pa => l.1 && decide (pa / 64 ≤ l.2 ∧ 64 * l.2 < pa + len)
    | .remote _ _ => false

/-- Bytes stored to memory, which count as an uncorrectable error where their packet's data fail their parity (R399). -/
def Global.storeAt (g : Global) (t : Target) (n v : Nat) (bad : Bool) : Global :=
  let g := g.writeAt t n v
  if bad then g.poisonCells t (cellsOf 0 n v) else g

/-- An access performed at its slice or atomic unit (R291, R294, R295, R298, R301). An atomic whose operand fails its parity ends in
POISON and leaves memory as it was (R399; log entry 110), and so does one whose word has an uncorrectable error, with sys.einfo 0 (R299;
DESIGN CHOICE, log entry 130). -/
def State.performAt (s : State) (t : TileId) (k : Fin 4) (a : GAccess) (tgt : Target) (bad : Bool) : State :=
  match a.kind with
  | .load _ _ | .loadV => if s.lineHeld tgt a.kind.size then s.deferRead t k a tgt else s.loadAt t k a tgt bad
  | .loadOnce =>
    if s.lineHeld tgt 8 || !s.mem.presentAt tgt then s.deferRead t k a tgt else s.loadAt t k a tgt bad
  | .tagged _ _ => s.stall
  | kind =>
    if s.rangeHeld tgt kind.size then s.stall
    else match kind with
      | .storeOnce =>
        if s.mem.presentAt tgt then s.accFaultOpen t k a Cause.wotwice a.va
        else { s with mem := (s.mem.storeAt tgt 8 a.data.toNat bad).setPresent tgt }.accDone t k a id
      | .clear len => { s with mem := s.mem.clearPresent tgt len }.accDone t k a id
      | .atomic fn ty nr =>
        let n := ty.width / 8
        if bad || s.mem.poisonAt tgt n ≠ [] then s.accFault t k a Cause.poison a.va 0
        else
          let m := s.mem.readAt tgt n
          let v := amoValue fn ty m (a.data.toNat % 2 ^ ty.width) (a.compare.toNat % 2 ^ ty.width)
          { s with mem := s.mem.writeAt tgt n v }.accDone t k a fun c => if nr then c else c.setS a.dst (amoResult fn ty m)
      | .call prog nr => match s.mem.program tgt (s.tenantOf t) prog with
        | none =>
          -- REASON and KIND are given, LEVEL is not
          let (level, s) := s.openLevel
          s.accFault t k a Cause.perm a.va (xlateInfo 0 9 level 4)
        | some p =>
          if bad || s.mem.poisonAt tgt 16 ≠ [] then s.accFault t k a Cause.poison a.va 0
          else
            let (m, r) := p.run (s.mem.readAt tgt 16) (a.data.setWidth 64)
            { s with mem := s.mem.writeAt tgt 16 m }.accDone t k a fun c => if nr then c else c.setS a.dst r
      | _ => { s with mem := s.mem.storeAt tgt kind.size a.data.toNat bad }.accDone t k a id

/-- A command's write made, once no bale holds its lines, and the command answered (R374). -/
def State.hubWrite (s : State) (w : HubWrite) : State :=
  let gone := { s with hub := { s.hub with writes := s.hub.writes.erase w } }
  match w with
  | .clear t len node tag =>
    if s.rangeHeld t len then s else { gone with mem := s.mem.clearPresent t len }.respond node tag 0x12 0 []
  | .report pa bytes node tag =>
    if s.rangeHeld (.hbm pa) bytes.length then s
    else
      let cells : List Host.Cell := bytes.zipIdx.map fun (p : Byte × Nat) => (p.2, p.1)
      let mem := match s.mem.landCells (.hbm pa) false cells with
        | .ok m => m
        | .error _ => s.mem
      { gone with mem := mem }.respond node tag 0x25 0 []

/-- What the hub has to write looked at: completion records, then writes of commands (R100, R374). -/
def State.serveHub (s : State) : State :=
  let s := s.hub.doneOut.foldl (fun s d => if d.rid.isNone then s.writeDone d else s) s
  (s.hub.writes.foldl State.hubWrite s).settleClosing

/-- Slices that an access from a target on touches: more than one only for a `pclr` (R276). -/
def GKind.slices (k : GKind) (t : Target) : List Nat :=
  match k with
  | .clear len => ((List.range (min 64 (len / 256 + 2))).map fun i => (t.plus (min (256 * i) (len - 1))).slice).dedup
  | _ => [t.slice]

/-- Whether an earlier access of a context's queue keeps a later one from performing (R287, R288, R305): at one slice, or with ORD
on either; a no-return atomic that acquires at fabric scope still does once it has been sent to another package (R299, R310). -/
def GAccess.blocks (b a : GAccess) (tgt : Target) : Bool :=
  match b.stage with
  | .ready t => (b.kind.slices t).any (a.kind.slices tgt).contains || a.ord != 0 || b.ord != 0
  | .sent _ _ => b.ord.getLsbD 0 && b.sco == .fab
  | _ => true

/-- Whether every access ahead of one in its queue lets it perform. -/
def Ctx.mayPerform (c : Ctx) (a : GAccess) (tgt : Target) : Bool :=
  (c.gq.takeWhile fun b => b.id != a.id).all fun b => !b.blocks a tgt

/-- What an access asks of another package (R416). -/
def GAccess.request (a : GAccess) (rva rid : Nat) : PeerRequest :=
  match a.kind with
  | .atomic fn ty _ => .atomic rid rva fn ty (a.data.setWidth 64) a.compare
  | .call prog _ => .call rid rva prog (a.data.setWidth 64)
  | .load _ _ | .loadV | .loadOnce => .read rid rva a.kind.size
  | _ => .write rid rva a.kind.size a.data

/-! Requests of peers, admitted (R414-R416). -/

/-- The tag of a request that is answered; none for bale traffic. -/
def requestTag : PeerRequest → Option Nat
  | .read tag _ _ | .write tag _ _ _ | .atomic tag _ _ _ _ _ | .call tag _ _ _ => some tag
  | .baleStore _ _ _ _ | .seal _ _ | .decision _ _ | .purge _ _ => none

/-- The address that a request names; none for the messages that end a bale. -/
def requestVa : PeerRequest → Option Nat
  | .read _ va _ | .write _ va _ _ | .atomic _ va _ _ _ _ | .call _ va _ _ | .baleStore _ va _ _ => some va
  | .seal _ _ | .decision _ _ | .purge _ _ => none

/-- What R280 requires at the target of a request (R415); a bale store writes no write-once page (R369). -/
def requestAccess (q : PeerRequest) : Access :=
  match q with
  | .read _ _ _ => .unitRead
  | .write _ _ _ _ => .unitWrite
  | .atomic _ _ _ _ _ _ | .call _ _ _ _ => .atomic
  | .baleStore _ _ _ _ | .seal _ _ | .decision _ _ | .purge _ _ => .write

/-- Bytes that a request touches. -/
def requestSize : PeerRequest → Nat
  | .read _ _ n | .write _ _ n _ | .baleStore _ _ n _ => n
  | .atomic _ _ _ ty _ _ => ty.width / 8
  | .call _ _ _ _ => 16
  | .seal _ _ | .decision _ _ | .purge _ _ => 1

/-- The page of a request, or the cause, the REASON and the mark of its bale with which it is refused (R369, R415): a request is not
forwarded to a further package. -/
def Global.requestLeaf (g : Global) (asid : BitVec 16) (va : Nat) (q : PeerRequest) : Except (BitVec 8 × Nat × Nat) Leaf :=
  match walk g asid va with
  | .error (.poison _) => .error (Cause.poison, 0, 10)
  | .error (.xlate reason _) => .error (Cause.xlate, reason, 1)
  | .ok leaf =>
    if leaf.base.isRemote then .error (Cause.xlate, 1, 1)
    else match leaf.refuses (requestAccess q) true with
      | some reason => .error (Cause.perm, reason, 2)
      | none => .ok leaf

/-- A request refused at ingress: a bale store marks its bale, any other fails at its source (R369, R415). -/
def State.refuseRequest (s : State) (node : BitVec 12) (q : PeerRequest) (cause : BitVec 8) (reason mark : Nat)
    (number : Option Nat := none) : State :=
  match q with
  | .baleStore h _ n data => s.loftAt number (.store node h (⟨0, 0, 0⟩, 0) (.hbm 0) n data (some mark) none)
  | q => match requestTag q with
    | some tag => s.tell (.answer node tag (.fail cause reason))
    | none => s

/-- An answer to a peer's request, which leaves the list. -/
def State.answerPeer (s : State) (q : InReq) (tag : Nat) (a : RemoteAnswer) : State :=
  { s with hub := { s.hub with inbound := s.hub.inbound.filter fun r => r.n != q.n } }.tell (.answer q.node tag a)

/-- A peer's request deferred: HOLD stops its timeout there (R416); a read at a slice that holds 256 is told to come again
(R296). -/
def State.holdPeer (s : State) (q : InReq) (tag : Nat) : State :=
  if q.deferred then s.stall
  else if !requestWrites q.req && 256 ≤ s.deferredAt q.tgt.slice then s.answerPeer q tag .retry
  else
    let s := { s with hub := { s.hub with
      inbound := s.hub.inbound.map fun (r : InReq) => if r.n = q.n then { r with deferred := true } else r } }
    s.tell (.hold q.node tag)

/-- A peer's read that waits for a write-once word performs once the word is present (R294, R317). -/
def State.serveInbound (s : State) (q : InReq) : State :=
  match q.req with
  | .read tag _ n =>
    if !q.deferred || s.lineHeld q.tgt n then s
    else match s.mem.unitRead [(q.tgt, 0, n, q.wo)] with
      | .error .wait => s
      | .error (.cause c) => s.answerPeer q tag (.fail c ((s.mem.poisonAt q.tgt n).headD 0))
      | .ok v => s.answerPeer q tag (.value (BitVec.ofNat 512 v))
  | _ => s

/-- A peer's request whose walk a bale has held back translates, once it does no more, and joins those of its slice, or the loft (R374,
R416). -/
def State.translateRequest (s : State) (q : InReq) : State :=
  match requestVa q.req with
  | none => s
  | some va =>
    if !q.unwalked || s.walkHeld q.asid va then s
    else
      let gone := { s with hub := { s.hub with inbound := s.hub.inbound.filter fun r => r.n != q.n } }
      match s.mem.requestLeaf q.asid va q.req, q.req with
      | .error f, _ => gone.refuseRequest q.node q.req f.1 f.2.1 f.2.2 (some q.n)
      | .ok leaf, .baleStore h _ n data =>
        gone.loftInsert q.n (.store q.node h (⟨0, 0, 0⟩, 0) (leaf.target va) n data none (some (q.asid, leaf.span)))
      | .ok leaf, _ => { s with hub := { s.hub with inbound := s.hub.inbound.map fun (r : InReq) =>
          if r.n = q.n then { r with tgt := leaf.target va, wo := leaf.wo, span := leaf.span, unwalked := false } else r } }

/-- Requests of peers whose walks have been held back translate; reads deferred on write-once words that have become present perform,
those of contexts and those of peers (R294, R317, R374); what the hub has to write is looked at as well. -/
def State.serveDeferred (s : State) : State :=
  let s := s.hub.inbound.foldl State.translateRequest s
  let s := s.tiles.foldl (fun s p => (List.finRange 4).foldl (fun s k =>
    (p.2.ctxs[k]).gq.foldl (fun s a => match a.stage, a.kind with
      | .deferred tgt, .loadOnce =>
        if s.mem.presentAt tgt && !s.lineHeld tgt 8 then s.loadAt p.1 k a tgt false else s
      | _, _ => s) s) s) s
  (s.hub.inbound.foldl State.serveInbound s).serveHub

/-- A peer's request performed at its slice, as an engine's access (R415, R416); one whose packet's data fail their parity is answered
with POISON, or leaves POISON where it stores (R399). -/
def State.performInbound (s : State) (q : InReq) (bad : Bool) : State :=
  let tgt := q.tgt
  match q.req with
  | .read tag _ n =>
    if s.lineHeld tgt n then s.holdPeer q tag
    else if bad then s.answerPeer q tag (.fail Cause.poison 0)
    else match s.mem.unitRead [(tgt, 0, n, q.wo)] with
      | .error .wait => s.holdPeer q tag
      | .error (.cause c) => s.answerPeer q tag (.fail c ((s.mem.poisonAt tgt n).headD 0))
      | .ok v => s.answerPeer q tag (.value (BitVec.ofNat 512 v))
  | .write tag _ n data =>
    if s.lineHeld tgt n then s.holdPeer q tag
    else match s.mem.landCells tgt q.wo (cellsOf 0 n data.toNat) with
      | .error c => s.answerPeer q tag (.fail c (if c = Cause.perm then 8 else 0))
      | .ok m =>
        let m := if bad then m.poisonCells tgt (cellsOf 0 n 0) else m
        ({ s with mem := m }.answerPeer q tag (.value 0)).serveDeferred
  | .atomic tag _ fn ty operand compare =>
    let n := ty.width / 8
    if s.lineHeld tgt n then s.holdPeer q tag
    else if bad || s.mem.poisonAt tgt n ≠ [] then s.answerPeer q tag (.fail Cause.poison 0)
    else
      let m := s.mem.readAt tgt n
      let v := amoValue fn ty m (operand.toNat % 2 ^ ty.width) (compare.toNat % 2 ^ ty.width)
      { s with mem := s.mem.writeAt tgt n v }.answerPeer q tag (.value (BitVec.ofNat 512 m))
  | .call tag _ prog operand =>
    if s.lineHeld tgt 16 then s.holdPeer q tag
    else match s.mem.program tgt q.tenant prog with
      | none => s.answerPeer q tag (.fail Cause.perm 9)
      | some p =>
        if bad || s.mem.poisonAt tgt 16 ≠ [] then s.answerPeer q tag (.fail Cause.poison 0)
        else
          let (m, r) := p.run (s.mem.readAt tgt 16) operand
          { s with mem := s.mem.writeAt tgt 16 m }.answerPeer q tag (.value (r.zeroExtend 512))
  | _ => s.stall

/-- An access at the head of what its context may perform: at its slice, or into the node stream of its package (R287,
R311). One for another package whose packet's data fail their parity ends in POISON and is not sent (R399; log entry 110). -/
def State.performCtx (s : State) (t : TileId) (k : Fin 4) (a : GAccess) (bad : Bool) : State :=
  match a.stage with
  | .ready tgt =>
    if !(s.ctxAt t k).mayPerform a tgt then s.stall
    else match tgt with
      | .remote node rva =>
        if bad then s.accFault t k a Cause.poison a.va 0
        else
          let rid := s.hub.nextRid
          (s.askRemote node (.ctx t k) a.id (s.asidOf t, a.span) a.ver (a.request rva)).modCtx t k (·.setStage a.id (.sent tgt rid))
      | _ => (s.performAt t k a tgt bad).serveDeferred
  | .deferred tgt => s.performAt t k a tgt bad
  | _ => s.stall

/-- The slices that a peer's request touches: one that crosses a run of 256 bytes touches two (R276). -/
def InReq.slices (q : InReq) : List Nat := [q.tgt.slice, (q.tgt.plus (requestSize q.req - 1)).slice].dedup

/-- Whether a request that has come before holds another of its node back, where they touch one slice (R287, R311): a read that is
deferred does not (R296), nor a tagged store, which is for the loft; a write or an atomic that waits for a bale does (R374), and one
whose walk waits, to whatever slice it goes. -/
def InReq.precedes (r q : InReq) : Bool :=
  let bale : Bool := match r.req with
    | .baleStore _ _ _ _ => true
    | _ => false
  decide (r.n < q.n) && r.node == q.node && !((r.deferred || r.unwalked) && !requestWrites r.req) &&
    (if r.unwalked then !bale else r.slices.any q.slices.contains)

/-- Whether a request of a peer has been translated and none holds it back (R311). -/
def State.inboundTurn (s : State) (q : InReq) : Bool := !q.unwalked && !s.hub.inbound.any fun r => r.precedes q

/-- Whether a peer asks for an atomic. -/
def InReq.isAtomic (q : InReq) : Bool :=
  match q.req with
  | .atomic _ _ _ _ _ _ | .call _ _ _ _ => true
  | _ => false

/-- The answer of another package to an access of a context (R415, R416): a value, or a cause with the REASON that the
target gives, at LEVEL 15 (R281). -/
def State.accAnswer (s : State) (t : TileId) (k : Fin 4) (n : Nat) (ans : RemoteAnswer) : State :=
  match (s.ctxAt t k).access n with
  | none => s
  | some a => match ans with
    | .fail cause reason =>
      if cause = Cause.xlate || cause = Cause.perm then s.accFault t k a cause a.va (xlateInfo 0 reason 15 a.kind.code)
      else if cause = Cause.poison && a.kind.returns then s.accFault t k a cause (a.va + reason) 0
      else s.accFaultOpen t k a cause a.va
    | .retry => match a.stage with
      | .sent tgt _ => s.modCtx t k (·.setStage n (.retry tgt (s.tile t).cycle.toNat))
      | _ => s
    | .value data => match a.kind with
      | .load _ _ | .loadV | .loadOnce => s.loadDone t k a (data.toNat % 2 ^ (8 * a.kind.size))
      | .atomic fn ty nr => s.accDone t k a fun c => if nr then c else c.setS a.dst (amoResult fn ty (data.toNat % 2 ^ ty.width))
      | .call _ nr => s.accDone t k a fun c => if nr then c else c.setS a.dst (data.setWidth 64)
      | _ => s.accDone t k a id

end Sys2Proof.Machine
end

