-- ==== Sys2Proof/Machine/Bales.lean ====
section
/-! DEFINITION. Bales and lofts (R363-R377): the records of the coordinator, the loft of this package, and the instructions of
majors 0xA4 and 0xA5. -/

namespace Sys2Proof.Machine

/-! Records. -/

/-- Code of a state (R365). -/
def BaleState.code : BaleState → Nat
  | .opened => 0
  | .sealed => 1
  | .committing => 2
  | .aborting => 3
  | .committed => 4
  | .aborted => 5
  | .peerLost => 6

/-- The status word (R377). -/
def Bale.status (b : Bale) : Word :=
  BitVec.ofNat 64 (b.rnode.toNat * 2 ^ 28 + b.acause.toNat * 2 ^ 24 + b.counts.length * 2 ^ 16 + ((b.st.map BaleState.code).getD 0))

/-- Whether the state is final (R365). -/
def Bale.final (b : Bale) : Bool := b.st == some .committed || b.st == some .aborted || b.st == some .peerLost

/-- Contexts of a tile that wait on a handle (R377). -/
def Tile.baleWaiters (x : Tile) (h : Word) : List (Fin 4 × Reg) :=
  (List.finRange 4).filterMap fun k => match x.ctxs[k].wait with
    | .bale d g => if g = h then some (k, d) else none
    | _ => none

/-- A record in a final state that contexts wait for: each receives the status word, and the record is freed (R377). A context that has a
LATE to take first issues its `blwait` anew, unless another frees the record (R384; log entry 79). -/
def State.wakeBale (s : State) (k : Nat) : State :=
  let b := s.hub.bale k
  let h := baleHandle s.hub.node k b.gen
  let who := s.tiles.flatMap fun p => (p.2.baleWaiters h).map fun w => (p.1, w)
  if !b.final || who.all (fun w => (s.ctxAt w.1 w.2.1).latePending) then s
  else
    let s := who.foldl (fun s w => s.modCtx w.1 w.2.1 fun c => (c.setS w.2.2 b.status).woken) s
    { s with hub := s.hub.modBale k Bale.freed }

/-- Whether a bale still has traffic: its record here is outstanding, or this package's loft holds something of it. -/
def Hub.baleLives (h : Hub) (b : BitVec 12 × Word) : Bool :=
  (b.1 == h.node && baleHandle h.node (baleIndex b.2) (h.bale (baleIndex b.2)).gen == b.2 &&
    ((h.bale (baleIndex b.2)).st.map BaleState.outstanding).getD false) ||
  (h.loft.any fun e => (e.coord, e.handle) == b) || (h.inbound.any fun q => baleOf q.node q.req == some b) || h.loftIn.any fun m => match m.2 with
    | .store c g _ _ _ _ _ _ | .seal c g _ | .decision c g _ => (c, g) == b

/-- The ports of bales that have no traffic left forgotten (R411). -/
def Hub.pruneBales (h : Hub) : Hub := { h with baleVia := h.baleVia.filter fun v => h.baleLives v.1 }

/-- A record whose destinations may all have completed (R365); a region that closes may have waited for it (R318). -/
def State.settleBale (s : State) (k : Nat) : State :=
  let s := { s with hub := s.hub.modBale k Bale.settle }.wakeBale k
  { s with hub := s.hub.pruneBales }.settleClosing

/-- A decision made: the contexts whose `blcommit` waits for it go on (R377), but for one that has a LATE to take first (R384). -/
def State.wakeCommit (s : State) (h : Word) (commit : Bool) : State :=
  s.tiles.foldl (fun s p => (List.finRange 4).foldl (fun s k => match (p.2.ctxs[k]).wait with
    | .commit d g =>
      if g = h && !(p.2.ctxs[k]).latePending then s.modCtx p.1 k fun c => (c.setS d (Word.ofBool commit)).woken else s
    | _ => s) s) s

/-- An abort decided, with its cause (R372, R373). -/
def State.decideAbort (s : State) (k cause : Nat) (node : BitVec 12) : State :=
  let h := baleHandle s.hub.node k (s.hub.bale k).gen
  ((s.abortBale k cause node).wakeCommit h false).wakeBale k

/-! Instructions of major 0xA4 (R377). -/

/-- An instruction on the record of S(S1); a handle that names none traps (R364). -/
def State.onBale (s : State) (o : FmtQ) (effect : Word → Bale → State → State) : State :=
  let h := s.getS o.s1
  match s.baleFor h (s.regionOf s.here) with
  | none => s.trap Cause.bale h
  | some b => effect h b s

/-- `blopen` (R377). -/
def execBlopen (g : Guard) (o : FmtQ) (s : State) : Result :=
  .next (s.issue g fun s =>
    let fail := fun (s : State) => s.modCur fun c => ((c.setS o.d 0).setP o.s2.toNat 0).retire
    match s.regionOf s.here with
    | none => s.stall
    | some r =>
      let free := (List.range 256).filter fun k => (s.hub.bale k).st.isNone
      let mine := s.hub.bales.countP fun p => p.2.st.isSome && p.2.region == r.number && p.2.rgen == r.gen
      if free.isEmpty || 64 ≤ mine then fail s
      else
        let (i, s) := s.pick free.length
        let k := free[i]?.getD 0
        let gen := (s.hub.bale k).gen
        let s := { s with hub := s.hub.modBale k fun _ => { Bale.free with gen := gen, st := some .opened, region := r.number, rgen := r.gen } }
        s.modCur fun c => ((c.setS o.d (baleHandle s.hub.node k gen)).setP o.s2.toNat Word.ones).retire)

/-- `blseal` (R371, R377). -/
def execBlseal (g : Guard) (o : FmtQ) (s : State) : Result :=
  .next (s.issue g (·.onBale o fun h b s =>
    if b.st ≠ some .opened then s.trap Cause.bale h
    else { s with hub := s.hub.modBale (baleIndex h) fun b => { b with st := some .sealed } }.retire))

/-- `blcommit` (R372, R377): once the earlier accesses have performed it asks for the commit, then waits for the decision. -/
def execBlcommit (g : Guard) (o : FmtQ) (s : State) : Result :=
  .next (s.issue g (·.afterStoreFault (·.onBale o fun h b s =>
    if b.st = some .opened then s.trap Cause.bale h
    else if !s.cur.performed .fab then s.stall
    else match b.st with
    | some .sealed =>
      let s := { s with hub := s.hub.modBale (baleIndex h) fun b => { b with commitAsked := true } }
      s.modCur fun c => { c with wait := .commit o.d h }
    | some .aborting | some .aborted => s.writeS o.d 0
    | _ => s.writeS o.d 1)))

/-- `blabort` (R372, R377). -/
def execBlabort (g : Guard) (o : FmtQ) (s : State) : Result :=
  .next (s.issue g (·.onBale o fun h b s =>
    if b.st = some .opened || b.st = some .sealed then (s.decideAbort (baleIndex h) 8 0).retire else s.retire))

/-- `blwait` (R377). -/
def execBlwait (g : Guard) (o : FmtQ) (s : State) : Result :=
  .next (s.issue g (·.onBale o fun h _ s => (s.modCur fun c => { c with wait := .bale o.d h }).wakeBale (baleIndex h)))

/-- `blstat` (R377). -/
def execBlstat (g : Guard) (o : FmtQ) (s : State) : Result :=
  .next (s.issue g (·.onBale o fun _ b s => s.writeS o.d b.status))

/-! Tagged stores (R368, R369). -/

/-- BaleStore (R369): the handle, the state, the address; then the global queue, as a load, once no earlier access has still to acquire
(R299). -/
def State.baleStore (s : State) (o : FmtM) (n : Nat) (data : BitVec 512) : State :=
  let h := s.getS o.x
  match s.baleFor h (s.regionOf s.here) with
  | none => s.trap Cause.bale h
  | some b =>
    let va := s.cur.baseAddr o
    if b.st ≠ some .opened then s.trap Cause.bale h
    else if va.toNat % n ≠ 0 then s.trapAt va Cause.align 0
    else if 2 ^ 56 ≤ va.toNat then
      let (level, s) := (s.doom s.here h).openLevel
      s.trapAt va Cause.xlate (xlateInfo 0 2 level 2)
    else s.afterAcquire (·.enterQueue (.of (.tagged h n) 0 va.toNat data 0 0 .tile))

/-- `blst` (R368). -/
def execBlst (g : Guard) (o : FmtM) (s : State) : Result :=
  .next (s.issue g fun s => s.baleStore o (tyBytes o.ty) ((s.getS o.d).zeroExtend 512))

/-- `blvst` (R368). -/
def execBlvst (g : Guard) (o : FmtM) (s : State) : Result :=
  .next (s.issue g fun s => s.baleStore o 64 (s.getV o.d))

/-! The coordinator. -/

/-- SEAL_SEND (R371, R372): the SEALs of a sealed bale, once its stores to this package have reached the loft; a doomed bale
is then aborted. -/
def execSealSend (h : Word) (s : State) : Result :=
  let k := baleIndex h
  let b := s.hub.bale k
  let pending := s.hub.loftIn.any fun m => match m.2 with
    | .store c g _ _ _ _ _ _ => c == s.hub.node && g == h
    | _ => false
  if h ≠ baleHandle s.hub.node k b.gen || b.st ≠ some .sealed || b.sealsSent || pending then .next s.stall
  else
    let s := { s with hub := s.hub.modBale k fun b => { b with sealsSent := true } }
    let s := b.counts.foldl (fun s p =>
      if p.1 = s.hub.node then s.loftPut (.seal s.hub.node h p.2)
      else s.tell (.seal p.1 h p.2)) s
    .next (match b.lost with
      | node :: _ =>
        -- a destination that was lost while the bale was OPEN has refused it (R367)
        s.decideAbort k 6 node
      | [] => if b.doom then s.decideAbort k 7 0 else s)

/-- A destination's answer, or its loss, at the record (R371, R372). -/
def State.takeAnswer (s : State) (k : Nat) (node : BitVec 12) (r : BaleAnswer) : State :=
  let b := s.hub.bale k
  let counted := b.counts.any fun p => p.1 == node
  if !counted then s
  else match b.st, r with
    | some .sealed, .ready => { s with hub := s.hub.modBale k fun b => { b with ready := if b.ready.contains node then b.ready else b.ready ++ [node] } }
    | some .sealed, .refuse cause => s.decideAbort k cause node
    | some .sealed, .lost =>
      let s := { s with hub := s.hub.modBale k fun b => { b with done := b.done ++ [node] } }
      s.decideAbort k 6 node
    | some .opened, .lost =>
      { s with hub := s.hub.modBale k fun b => { b.blame 6 node with lost := if b.lost.contains node then b.lost else b.lost ++ [node] } }
    | some .committing, .lost | some .aborting, .lost =>
      if b.done.contains node then s
      else { s with hub := s.hub.modBale k fun b => { b.blame 6 node with done := b.done ++ [node] } }.settleBale k
    | _, _ => s

/-- BALE_REPLY (R371, R372): an answer of a destination; that of this package's own loft must have been given. -/
def execBaleReply (h : Word) (node : BitVec 12) (r : BaleAnswer) (s : State) : Result :=
  let k := baleIndex h
  let b := s.hub.bale k
  let own := node == s.hub.node
  if h ≠ baleHandle s.hub.node k b.gen || b.st.isNone || (!b.sealsSent && r != .lost) then .next s.stall
  else if own && !s.hub.baleAnswers.contains (h, r) then .next s.stall
  else
    let s := if own then { s with hub := { s.hub with baleAnswers := s.hub.baleAnswers.erase (h, r) } } else s
    .next (s.takeAnswer k node r)

/-- BALE_COMMIT_DECISION (R372): asked for, not doomed, and every destination READY. -/
def execBaleCommitDecision (h : Word) (s : State) : Result :=
  let k := baleIndex h
  let b := s.hub.bale k
  if h ≠ baleHandle s.hub.node k b.gen || b.st ≠ some .sealed || !b.sealsSent || !b.commitAsked || b.doom ||
      !b.counts.all fun p => b.ready.contains p.1 then .next s.stall
  else
    let s := { s with hub := s.hub.modBale k fun b => { b with st := some .committing } }
    .next (((s.sendDecision k true).wakeCommit h true).settleBale k)

/-- BALE_DONE_REPLY (R365, R372): a destination has completed. -/
def execBaleDoneReply (h : Word) (node : BitVec 12) (s : State) : Result :=
  let k := baleIndex h
  let b := s.hub.bale k
  let own := node == s.hub.node
  let decided := b.st == some .committing || b.st == some .aborting
  if h ≠ baleHandle s.hub.node k b.gen || !decided || !(b.counts.any fun p => p.1 == node) || b.done.contains node then .next s.stall
  else if own && !s.hub.baleDones.contains h then .next s.stall
  else
    let s := if own then { s with hub := { s.hub with baleDones := s.hub.baleDones.erase h } } else s
    .next ({ s with hub := s.hub.modBale k fun b => { b with done := b.done ++ [node] } }.settleBale k)

/-! The loft. -/

/-- Coordinator and handle of a message. -/
def LoftMsg.key : LoftMsg → BitVec 12 × Word
  | .store c h _ _ _ _ _ _ | .seal c h _ | .decision c h _ => (c, h)

/-- Whether a message must follow an earlier one: another store of the same context, whichever the bale, or anything but a store
of the same bale (R370, R371); messages of one peer keep the order of its node stream. -/
def LoftMsg.after (m e : LoftMsg) (own : BitVec 12) : Bool :=
  if m.key.1 != e.key.1 then false
  else if m.key.1 != own then true
  else match m, e with
    | .store _ _ u _ _ _ _ _, .store _ _ u' _ _ _ _ _ => u == u'
    | _, _ => m.key == e.key

/-- The k-th message, if it may be taken now: no earlier store of its bale waits for its walk (R371, R374). -/
def Hub.loftTake (h : Hub) (k : Nat) : Option (LoftMsg × Hub) :=
  match h.loftIn[k]? with
  | none => none
  | some (n, m) =>
    if ((h.loftIn.take k).any fun e => m.after e.2 h.node) || h.inbound.any fun q => decide (q.n < n) && baleOf q.node q.req == some m.key then none
    else some (m, { h with loftIn := h.loftIn.eraseIdx k })

/-- The entry of a bale in the loft. -/
def Hub.loftBale (h : Hub) (c : BitVec 12) (g : Word) : Option LoftBale := h.loft.find? fun b => b.coord == c && b.handle == g

/-- An entry of the loft changed, or made. -/
def Hub.putLoft (h : Hub) (b : LoftBale) : Hub :=
  { h with loft := (h.loft.filter fun e => !(e.coord == b.coord && e.handle == b.handle)) ++ [b] }

/-- Bytes that a store takes in the loft's store (R366). -/
def loftBytes (n : Nat) : Nat := if n = 64 then 96 else 32

/-- Entries that the index holds: a bale refused because the index was full takes none (R366). One whose first store arrives refused for
another cause takes one, also past a full index, since its mark is kept there (R10, R369; DESIGN CHOICE, log entry 123). -/
def Hub.loftIndex (h : Hub) : Nat := h.loft.countP fun b => !b.stores.isEmpty || b.mark != some 4

/-- Bytes of the loft's store in use. -/
def Hub.loftUsed (h : Hub) : Nat := h.loft.foldl (fun a b => b.stores.foldl (fun a p => a + loftBytes p.2.1) a) 0

/-- LOFT_STORE_ARRIVE (R366, R369, R399): a tagged store reaches this package's loft, which keeps it, or marks its bale and drops
it. Data with an error are kept as such; a header with one ends the region of a bale of this package, and marks a peer's with POISON (log
entry 111). Where in HBM4E the loft's 2 GiB lies, and whether its addresses stay usable, R10 leaves open: the model takes none away
(DESIGN CHOICE, log entry 92). -/
def execLoftStoreArrive (l : Landing) (s : State) : Result :=
  match s.hub.loftTake l.index with
  | some (.store c g _ tgt n data refuse page, hub) =>
    let record := s.hub.bale (baleIndex g)
    if l.fault = .header && c = s.hub.node then
      .next (State.headerFault { s with hub := hub } (if record.st.isSome && bits g 0 8 = record.gen then some record.region else none))
    else
    let refuse := if l.fault = .header then refuse.or (some 10) else refuse
    let b := (hub.loftBale c g).getD ⟨c, g, [], none, false, []⟩
    let fresh := (hub.loftBale c g).isNone
    let b := match b.mark, refuse with
      | some _, _ => b
      | none, some cause => { b with mark := some cause }
      | none, none =>
        if (fresh && 1024 ≤ hub.loftIndex) || 2 ^ 31 < hub.loftUsed + loftBytes n then { b with mark := some 4 }
        else { b with stores := b.stores ++ [(tgt, n, data, l.fault == .data)], pages := (page.toList ++ b.pages).dedup }
    .next { s with hub := hub.putLoft b }
  | _ => .next s.stall

/-- A reply of the loft to a coordinator. -/
def State.loftReply (s : State) (c : BitVec 12) (g : Word) (a : BaleAnswer) : State :=
  if c = s.hub.node then { s with hub := { s.hub with baleAnswers := s.hub.baleAnswers ++ [(g, a)] } }
  else s.tell (.baleAnswer c g a)

/-- SEAL_ARRIVE (R371, R374): READY makes the bale prepared, and its lines are held back. -/
def execSealArrive (k : Nat) (s : State) : Result :=
  match s.hub.loftTake k with
  | some (.seal c g count, hub) =>
    let s := { s with hub := hub }
    match hub.loftBale c g with
    | none => .next (s.loftReply c g (if count = 0 then .ready else .refuse 5))
    | some b => match b.mark with
      | some cause => .next (s.loftReply c g (.refuse cause))
      | none =>
        if count ≠ b.stores.length then .next (s.loftReply c g (.refuse 5))
        else .next ({ s with hub := hub.putLoft { b with prepared := true } }.loftReply c g .ready)
  | _ => .next s.stall

/-- A decision applied to an entry of the loft: its stores reach memory in arrival order, or are discarded; the lines are
released (R372). -/
def State.applyDecision (s : State) (c : BitVec 12) (g : Word) (commit : Bool) : State :=
  match s.hub.loftBale c g with
  | none => s
  | some b =>
    let s := if commit then b.stores.foldl (fun s p => { s with mem := s.mem.storeAt p.1 p.2.1 p.2.2.1.toNat p.2.2.2 }) s else s
    let s := { s with hub := { s.hub with loft := s.hub.loft.filter fun e => !(e.coord == c && e.handle == g) } }
    { s with hub := s.hub.pruneBales }.serveDeferred

/-- BALE_DECISION_APPLY (R372): the destination applies the decision and replies DONE. -/
def execBaleDecisionApply (k : Nat) (s : State) : Result :=
  match s.hub.loftTake k with
  | some (.decision c g commit, hub) =>
    let s := { s with hub := hub }.applyDecision c g commit
    if c = s.hub.node then .next { s with hub := { s.hub with baleDones := s.hub.baleDones ++ [g] } }
    else .next (s.tell (.baleDone c g))
  | _ => .next s.stall

end Sys2Proof.Machine
end

