-- ==== Sys2Proof/Machine/Barriers.lean ====
section
/-! DEFINITION. The barrier pools (R319-R326) and the instructions of major 0xA0 (R327, R328). An instruction sends its
operation to the pool of the die that its handle names and waits for the reply. -/

namespace Sys2Proof.Machine

/-- A barrier of a die. -/
def Die.barrier (d : Die) (k : Nat) : Barrier := (lookupKey k d.barriers).getD Barrier.free

/-- How many barriers of a die are free, which a host can read (R322; log entry 95). -/
def Die.barriersFree (d : Die) : Nat := 4096 - d.barriers.countP fun p => decide (p.1 < 4096) && p.2.held.isSome

/-- A barrier of a die replaced. -/
def Die.setBarrier (d : Die) (k : Nat) (b : Barrier) : Die := { d with barriers := putKey k b d.barriers }

/-- A handle (R319). -/
def barHandle (d k : Nat) (gen : BitVec 8) : Word := BitVec.ofNat 64 (d * 2 ^ 20 + k * 2 ^ 8 + gen.toNat)

/-- Die of a handle. -/
def barDie (h : Word) : Fin 8 := dieOf (field h 20 3)
/-- Index of a handle. -/
def barIndex (h : Word) : Nat := field h 8 12

/-- The barrier that a handle names, unless it is free or of another generation (R320). -/
def State.barrierOf (s : State) (h : Word) : Option Barrier :=
  let b := s.dies[barDie h].barrier (barIndex h)
  if field h 23 41 ≠ 0 || b.held.isNone || bits h 0 8 ≠ b.gen then none else some b

/-- CompletePhase (R325), if the phase completes. -/
def Barrier.settle (b : Barrier) : Barrier :=
  if 1 ≤ b.expect.toNat && b.arrived == b.expect && decide (b.bytes ≤ 0) then
    let b := if b.bytes < 0 && b.err = 0 then { b with err := Cause.barovf, errId := 0 } else b
    { b with phase := b.phase + 1, arrived := 0, bytes := 0 }
  else b

/-- Whether a phase has been reached (R325). -/
def Barrier.reached (b : Barrier) (p : BitVec 32) : Bool := decide ((b.phase - p).toNat < 2 ^ 31)

/-- The region of a tile under which an operation or a packet of it goes: number and generation. -/
def State.regionKey (s : State) (t : TileId) : Nat × BitVec 8 := ((s.regionOf t).map fun r => (r.number, r.gen)).getD (0, 0)

/-- The reply reaches the waiting context, which writes its registers and goes on. -/
def State.poolDone (s : State) (o : BarOp) (put : Ctx → Ctx) : State :=
  s.modCtx o.tile o.ctx fun c => { put c with wait := .none }.retire

/-- The reply is a trap (R328). -/
def State.poolTrap (s : State) (o : BarOp) (cause : BitVec 8) (info : Word) : State :=
  s.trapIn o.tile o.ctx cause (s.ctxAt o.tile o.ctx).pc 0 info

/-- A barrier changed by an operation, with its phase completed if that is due. -/
def State.putBarrier (s : State) (h : Word) (b : Barrier) : State :=
  s.modDie (barDie h) fun d => d.setBarrier (barIndex h) b.settle

/-- An observation of a reached phase (R328). -/
def State.observe (s : State) (o : BarOp) (b : Barrier) (d : Reg) : State :=
  if b.err ≠ 0 then s.poolTrap o b.err b.errId else s.poolDone o fun c => c.setS d 1

/-- The cycle until which a register whose value a reply brings counts as outstanding: none (R109, R328). -/
def never : Nat := 2 ^ 64

/-- The registers that a `baralloc` writes. -/
def allocRegs (d p : Reg) : List RegRef :=
  (if d = 0 then [] else [.s ⟨d.toNat, d.isLt⟩]) ++ if p.toNat % 8 = 0 then [] else [.p ⟨p.toNat % 8, Nat.mod_lt _ (by decide)⟩]

/-- Whether the region that sent an operation still holds its tile: a reply finds no other one there (R102). -/
def State.opLives (s : State) (o : BarOp) : Bool := s.regionKey o.tile == (o.region, o.gen)

/-- The reply to a `baralloc`, whose context has gone on (R328). -/
def State.allocDone (s : State) (o : BarOp) (d p : Reg) (h ok : Word) : State :=
  if !s.opLives o then s else s.modCtx o.tile o.ctx fun c =>
    let c := (c.setS d h).setP p.toNat ok
    { c with landing := c.landing.filter fun l => !(l.2 == never && (allocRegs d p).contains l.1) }

/-- `baralloc` at the pool of a die (R322). -/
def State.barAlloc (s : State) (dx : Fin 8) (o : BarOp) (d p : Reg) : State :=
  let die := s.dies[dx]
  let region := if s.opLives o then some o.region else none
  let free := (List.range 4096).filter fun k => (die.barrier k).held.isNone
  let mine := die.barriers.countP fun b => b.2.held.isSome && b.2.held == region
  if free.isEmpty || 2048 ≤ mine || region.isNone then s.allocDone o d p 0 0
  else
    let (i, s) := s.pick free.length
    let k := free[i]?.getD 0
    let b := { Barrier.free with held := region, gen := (die.barrier k).gen, ref := 1 }
    (s.modDie dx (·.setBarrier k b)).allocDone o d p (barHandle dx.val k b.gen) Word.ones

/-- One operation performed at the pool (R320, R328); a `barwait` whose phase has not been reached joins the waiters. -/
def State.barPerform (s : State) (dx : Fin 8) (o : BarOp) : State :=
  let h := o.handle
  match o.kind with
  | .alloc d p => s.barAlloc dx o d p
  | kind => match s.barrierOf h with
    | none => s.poolTrap o Cause.bargen h
    | some b =>
      if b.held ≠ some o.region then s.poolTrap o Cause.bargen h
      else match kind with
        | .free =>
          let next := if b.ref = 1 then b.freed else { b with ref := b.ref - 1 }.settle
          (s.modDie (barDie h) fun d => d.setBarrier (barIndex h) next).poolDone o id
        | .ref =>
          if b.ref = 65535 then s.poolTrap o Cause.barovf h
          else (s.putBarrier h { b with ref := b.ref + 1 }).poolDone o id
        | .init n =>
          if n = 0 || 65535 < n.toNat || b.arrived ≠ 0 || b.bytes ≠ 0 then s.poolTrap o Cause.barovf h
          else (s.putBarrier h { b with expect := n.setWidth 16, err := 0, errId := 0 }).poolDone o id
        | .arrive d n =>
          -- IMM16 is signed (R44); a sum below 0 leaves a free value in ARRIVED (DEDUCED, log entry 94)
          let sum := (b.arrived.toNat : Int) + n.toInt
          if b.expect = 0 || (b.expect.toNat : Int) < sum then s.poolTrap o Cause.barovf h
          else
            let (w, s) := if 0 ≤ sum then (BitVec.ofInt 64 sum, s) else s.freeWord
            (s.putBarrier h { b with arrived := w.setWidth 16 }).poolDone o fun c => c.setS d ((b.phase + 1).zeroExtend 64)
        | .exp n =>
          if 2 ^ 47 - 1 < b.bytes + n.toNat then s.poolTrap o Cause.barovf h
          else (s.putBarrier h { b with bytes := b.bytes + n.toNat }).poolDone o id
        | .wait phase =>
          if b.reached phase then s.observe o b 0
          else s.modDie dx fun d => { d with poolWaits := d.poolWaits ++ [o] }
        | .test d phase => if b.reached phase then s.observe o b d else s.poolDone o fun c => c.setS d 0
        | .alloc _ _ => s

/-- Waiting `barwait` operations of a die looked at again: a barrier freed traps, a phase reached ends the wait (R323,
R328). -/
def State.wakeWaits (s : State) (dx : Fin 8) : State :=
  let waits := s.dies[dx].poolWaits
  waits.foldl (fun s o => s.barPerform dx o) (s.modDie dx fun d => { d with poolWaits := [] })

/-- What a pool takes next: of operations and arrivals the one that has reached it first (R324). -/
def Die.poolNext (d : Die) : Option (BarOp ⊕ Arrival) :=
  match d.poolQ.head?.filter (·.granted), d.arrivals.head?.filter (·.granted) with
  | none, none => none
  | some o, none => some (.inl o)
  | none, some a => some (.inr a)
  | some o, some a => some (if a.reached < o.reached then .inr a else .inl o)

/-- An operation whose packet's data fail their parity is not performed: its context traps POISON, whose sys.einfo is open (log entry
3), or its `baralloc` fails (R399; log entry 111). -/
def State.barPoison (s : State) (o : BarOp) : State :=
  match o.kind with
  | .alloc d p => s.allocDone o d p 0 0
  | _ =>
    let (w, s) := s.freeWord
    s.poolTrap o Cause.poison w

/-- BARRIER_OPERATION (R324, R399): the pool of a die performs the next operation that has reached it. One of its own die comes in no
packet. -/
def execBarrierOperation (p : PoolTurn) (s : State) : Result :=
  match s.dies[p.die].poolNext with
  | some (.inl o) =>
    let s := s.modDie p.die fun x => { x with poolQ := x.poolQ.tail }
    .next (match if o.tile.dieIx = p.die then .clean else p.fault with
      | .header => s.headerFault (some o.region)
      | .data => s.barPoison o
      | .clean => (s.barPerform p.die o).wakeWaits p.die)
  | _ => .next s.stall

/-- A completion action performed at a pool (R326); a stale one is dropped and counted (R320). Bytes below the 48 bits of the count
leave a free value (log entry 3). -/
def State.arrivePool (s : State) (d : Fin 8) (a : Arrival) : State :=
  match s.barrierOf a.handle with
  | none => s.stale d
  | some b =>
    let b := if a.cause ≠ 0 && b.err = 0 then { b with err := a.cause, errId := a.id } else b
    let left := b.bytes - a.bytes
    let (left, s) := if -(2 ^ 47) ≤ left then (left, s) else
      let (w, s) := s.freeWord
      ((w.setWidth 48).toInt, s)
    (s.putBarrier a.handle { b with bytes := left }).wakeWaits d

/-- TRANSFER_ARRIVAL (R324, R326, R399): the next completion action at a pool. One whose packet's data fail their parity arrives in
error with cause POISON, unless it carries a cause of its own (log entry 111). -/
def execTransferArrival (p : PoolTurn) (s : State) : Result :=
  match s.dies[p.die].poolNext with
  | some (.inr a) =>
    let s := s.modDie p.die fun x => { x with arrivals := x.arrivals.tail }
    .next (match if a.engine.1 = p.die then .clean else p.fault with
      | .header => s.headerFault (some a.region)
      | .data => s.arrivePool p.die { a with cause := if a.cause = 0 then Cause.poison else a.cause }
      | .clean => s.arrivePool p.die a)
  | _ => .next s.stall

/-! Instructions. -/

/-- An operation on its way to the pool of a die: one from the pool's own die reaches it in its order, one from another die is a
class-0 packet and waits for an arbiter (R245, R324). -/
def State.sendPool (s : State) (d : Fin 8) (kind : BarKind) (h : Word) : State :=
  let near := d == s.here.dieIx
  let (region, gen) := s.regionKey s.here
  let o : BarOp :=
    { tile := s.here, ctx := s.ctx, region := region, gen := gen, kind := kind, handle := h, order := s.nextSeq, granted := near
      reached := s.nextSeq }
  { s.modDie d fun x => { x with poolQ := if near then joinGranted (·.granted) o x.poolQ else x.poolQ ++ [o] } with nextSeq := s.nextSeq + 1 }

/-- An operation sent to the pool of a die; the context waits for the reply (R328). -/
def State.toPool (s : State) (d : Fin 8) (kind : BarKind) (h : Word) : State := (s.sendPool d kind h).modCur fun c => { c with wait := .pool }

/-- An operation on the barrier of S(S1). -/
def State.barOp (s : State) (o : FmtQ) (kind : BarKind) : State := s.toPool (barDie (s.getS o.s1)) kind (s.getS o.s1)

/-- `baralloc` (R328): the context goes on, its registers outstanding until the reply. -/
def execBaralloc (g : Guard) (o : FmtQ) (s : State) : Result :=
  .next (s.issue g fun s => (s.sendPool s.here.dieIx (.alloc o.d o.s2) 0).modCur fun c =>
    { c with landing := c.landing ++ (allocRegs o.d o.s2).map fun r => (r, never) }.retire)

/-- `barfree` (R328). -/
def execBarfree (g : Guard) (o : FmtQ) (s : State) : Result := .next (s.issue g (·.barOp o .free))

/-- `barref` (R328). -/
def execBarref (g : Guard) (o : FmtQ) (s : State) : Result := .next (s.issue g (·.barOp o .ref))

/-- `barinit` (R328). -/
def execBarinit (g : Guard) (o : FmtQ) (s : State) : Result := .next (s.issue g fun s => s.barOp o (.init (s.getS o.s2)))

/-- `barrive` (R328). -/
def execBarrive (g : Guard) (o : FmtQ) (s : State) : Result :=
  .next (s.issue g (·.takesFault o.ord (·.awaits o.ord o.sco (·.barOp o (.arrive o.d o.imm)))))

/-- `barexp` (R328). -/
def execBarexp (g : Guard) (o : FmtQ) (s : State) : Result := .next (s.issue g fun s => s.barOp o (.exp (s.getS o.s2)))

/-- `barwait` (R328). -/
def execBarwait (g : Guard) (o : FmtQ) (s : State) : Result :=
  .next (s.issue g fun s => s.barOp o (.wait ((s.getS o.s2).setWidth 32)))

/-- `bartest` (R328). -/
def execBartest (g : Guard) (o : FmtQ) (s : State) : Result :=
  .next (s.issue g fun s => s.barOp o (.test o.d ((s.getS o.s2).setWidth 32)))

end Sys2Proof.Machine
end

