-- ==== Sys2Proof/Decode.lean ====
section
/-! DEFINITION. From an instruction word to the instruction (R37-R53), rejecting by name; then the encoder, from the
same formats; then the words the spec writes out. -/

namespace Sys2Proof

/-- Why a word is no instruction (R52, R53). -/
inductive DecodeError where
  /-- MAJ = 0x00 (R52). -/
  | zero
  /-- An unlisted MAJ, FN or COND, or a word that breaks R48 or R49. -/
  | ill
  deriving DecidableEq, Repr

/-- MAJ (R37). -/
def majOf (w : Word) : Nat := (w.extractLsb' 56 8).toNat

/-- FN (R40, R41, R43-R45). -/
def fnOf (w : Word) : Nat := (w.extractLsb' 46 6).toNat

/-- G and N (R37). -/
def guardOf (w : Word) : Guard := ⟨w.extractLsb' 53 3, w.getLsbD 52⟩

/-- Format A; none where the type code names no type or bits [15:0] are not zero (R40, R49). -/
def fieldsA (w : Word) : Option FmtA :=
  match Ty.ofCode (w.extractLsb' 22 4) with
  | none => none
  | some ty =>
    if w.extractLsb' 0 16 = 0 then
      some ⟨w.extractLsb' 41 5, w.extractLsb' 36 5, w.extractLsb' 31 5, w.extractLsb' 26 5, ty,
        RM.ofCode (w.extractLsb' 20 2), w.getLsbD 19, w.getLsbD 18, w.extractLsb' 16 2⟩
    else none

/-- Format B; none where MOD4 names no type (R41). -/
def fieldsB (w : Word) : Option FmtB :=
  match Ty.ofCode (w.extractLsb' 32 4) with
  | none => none
  | some ty => some ⟨w.extractLsb' 41 5, w.extractLsb' 36 5, ty, w.extractLsb' 0 32⟩

/-- Format C; none where bits [37:32] are not zero (R42). -/
def fieldsC (w : Word) : Option FmtC :=
  if w.extractLsb' 32 6 = 0 then some ⟨w.extractLsb' 43 5, w.extractLsb' 38 5, w.extractLsb' 0 32⟩ else none

/-- Format M (R43). -/
def fieldsM (w : Word) : Option FmtM :=
  match Ty.ofCode (w.extractLsb' 23 4) with
  | none => none
  | some ty =>
    some ⟨w.extractLsb' 41 5, w.extractLsb' 36 5, w.extractLsb' 31 5, w.extractLsb' 29 2,
      Scope.ofCode (w.extractLsb' 27 2), ty, w.extractLsb' 20 3, w.extractLsb' 0 20⟩

/-- Format Q (R44). -/
def fieldsQ (w : Word) : Option FmtQ :=
  some ⟨w.extractLsb' 41 5, w.extractLsb' 36 5, w.extractLsb' 31 5, w.extractLsb' 27 4, w.extractLsb' 23 4,
    w.extractLsb' 16 7, w.extractLsb' 0 16⟩

/-- Format S; none where bits [19:0] are not zero (R45). -/
def fieldsS (w : Word) : Option FmtS :=
  if w.extractLsb' 0 20 = 0 then some ⟨w.extractLsb' 41 5, w.extractLsb' 36 5, w.extractLsb' 20 16⟩ else none

/-- Major 0x01 (R50): the constructor of its COND. -/
def ctor01 (fn : Nat) (o : FmtC) : Option (Guard → Instr) :=
  match fn with
  | 0 => some (.br · o)
  | 1 => some (.beq · o)
  | 2 => some (.bne · o)
  | 3 => some (.blt · o)
  | 4 => some (.bge · o)
  | 5 => some (.bltu · o)
  | 6 => some (.bgeu · o)
  | 7 => some (.bp · o)
  | 8 => some (.bnp · o)
  | _ => none

/-- Major 0x02 (R50): the constructor of its FN. -/
def ctor02 (fn : Nat) (o : FmtB) : Option (Guard → Instr) :=
  match fn with
  | 0 => some (.jal · o)
  | 1 => some (.jalr · o)
  | 2 => some (.yield · o)
  | 3 => some (.park · o)
  | 4 => some (.nop · o)
  | _ => none

/-- Major 0x10 (R50): the constructor of its FN. -/
def ctor10 (fn : Nat) (o : FmtA) : Option (Guard → Instr) :=
  match fn with
  | 0 => some (.add · o)
  | 1 => some (.sub · o)
  | 2 => some (.mul · o)
  | 3 => some (.mulh · o)
  | 4 => some (.mulhu · o)
  | 5 => some (.div · o)
  | 6 => some (.divu · o)
  | 7 => some (.rem · o)
  | 8 => some (.remu · o)
  | 9 => some (.and · o)
  | 10 => some (.or · o)
  | 11 => some (.xor · o)
  | 12 => some (.andn · o)
  | 13 => some (.sll · o)
  | 14 => some (.srl · o)
  | 15 => some (.sra · o)
  | 16 => some (.rol · o)
  | 17 => some (.min · o)
  | 18 => some (.max · o)
  | 19 => some (.minu · o)
  | 20 => some (.maxu · o)
  | 21 => some (.slt · o)
  | 22 => some (.sltu · o)
  | 23 => some (.sel · o)
  | 24 => some (.clz · o)
  | 25 => some (.ctz · o)
  | 26 => some (.popc · o)
  | 27 => some (.brev · o)
  | _ => none

/-- Major 0x11 (R50): the constructor of its FN. -/
def ctor11 (fn : Nat) (o : FmtB) : Option (Guard → Instr) :=
  match fn with
  | 0 => some (.addi · o)
  | 1 => some (.andi · o)
  | 2 => some (.ori · o)
  | 3 => some (.xori · o)
  | 4 => some (.slli · o)
  | 5 => some (.srli · o)
  | 6 => some (.srai · o)
  | 7 => some (.slti · o)
  | 8 => some (.sltiu · o)
  | 9 => some (.li · o)
  | 10 => some (.lhi · o)
  | _ => none

/-- Major 0x12 (R50): the constructor of its FN. -/
def ctor12 (fn : Nat) (o : FmtA) : Option (Guard → Instr) :=
  match fn with
  | 0 => some (.pand · o)
  | 1 => some (.por · o)
  | 2 => some (.pxor · o)
  | 3 => some (.pandn · o)
  | 4 => some (.pnot · o)
  | 5 => some (.pfrom · o)
  | 6 => some (.pto · o)
  | 7 => some (.icmp · o)
  | _ => none

/-- Major 0x13 (R50): the constructor of its FN. -/
def ctor13 (fn : Nat) (o : FmtA) : Option (Guard → Instr) :=
  match fn with
  | 0 => some (.lea · o)
  | 1 => some (.sbank · o)
  | 2 => some (.clamp · o)
  | _ => none

/-- Major 0x14 (R50): the constructor of its FN. -/
def ctor14 (fn : Nat) (o : FmtA) : Option (Guard → Instr) :=
  match fn with
  | 0 => some (.fadd · o)
  | 1 => some (.fsub · o)
  | 2 => some (.fmul · o)
  | 3 => some (.fma · o)
  | 4 => some (.fdiv · o)
  | 5 => some (.fsqrt · o)
  | 6 => some (.fmin · o)
  | 7 => some (.fmax · o)
  | 8 => some (.fcmp · o)
  | 9 => some (.fcvt · o)
  | 10 => some (.fclass · o)
  | 11 => some (.fsgnj · o)
  | _ => none

/-- Major 0x30 (R50): the constructor of its FN. -/
def ctor30 (fn : Nat) (o : FmtA) : Option (Guard → Instr) :=
  match fn with
  | 0 => some (.vadd · o)
  | 1 => some (.vsub · o)
  | 2 => some (.vmul · o)
  | 3 => some (.vmulh · o)
  | 4 => some (.vmin · o)
  | 5 => some (.vmax · o)
  | 6 => some (.vabs · o)
  | 7 => some (.vand · o)
  | 8 => some (.vor · o)
  | 9 => some (.vxor · o)
  | 10 => some (.vsll · o)
  | 11 => some (.vsrl · o)
  | 12 => some (.vsra · o)
  | _ => none

/-- Major 0x31 (R50): the constructor of its FN. -/
def ctor31 (fn : Nat) (o : FmtA) : Option (Guard → Instr) :=
  match fn with
  | 0 => some (.vfadd · o)
  | 1 => some (.vfsub · o)
  | 2 => some (.vfmul · o)
  | 3 => some (.vfma · o)
  | 4 => some (.vfmin · o)
  | 5 => some (.vfmax · o)
  | 6 => some (.vfabs · o)
  | 7 => some (.vfneg · o)
  | 8 => some (.vfrcp · o)
  | 9 => some (.vfrsq · o)
  | 10 => some (.vfexp2 · o)
  | 11 => some (.vflog2 · o)
  | _ => none

/-- Major 0x32 (R50): the constructor of its FN. -/
def ctor32 (fn : Nat) (o : FmtA) : Option (Guard → Instr) :=
  match fn with
  | 0 => some (.vcmp · o)
  | 1 => some (.vfcmp · o)
  | _ => none

/-- Major 0x33 (R50): the constructor of its FN. -/
def ctor33 (fn : Nat) (o : FmtA) : Option (Guard → Instr) :=
  match fn with
  | 0 => some (.vcvt · o)
  | 1 => some (.vscale · o)
  | 2 => some (.vbcast · o)
  | 3 => some (.vext · o)
  | 4 => some (.vins · o)
  | 5 => some (.vperm · o)
  | 6 => some (.vslide · o)
  | 7 => some (.vzip · o)
  | 8 => some (.vunzip · o)
  | 9 => some (.vsel · o)
  | 10 => some (.vcompress · o)
  | 11 => some (.vexpand · o)
  | 12 => some (.vmov · o)
  | _ => none

/-- Major 0x34 (R50): the constructor of its FN. -/
def ctor34 (fn : Nat) (o : FmtA) : Option (Guard → Instr) :=
  match fn with
  | 0 => some (.vredadd · o)
  | 1 => some (.vredmax · o)
  | 2 => some (.vredmin · o)
  | 3 => some (.vredfadd · o)
  | 4 => some (.vdot · o)
  | _ => none

/-- Major 0x50 (R50): the constructor of its FN. -/
def ctor50 (fn : Nat) (o : FmtQ) : Option (Guard → Instr) :=
  match fn with
  | 0 => some (.mma · o)
  | 1 => some (.mmav · o)
  | 2 => some (.mzero · o)
  | 3 => some (.mswap · o)
  | 4 => some (.mrd · o)
  | 5 => some (.mwr · o)
  | 6 => some (.mdrain · o)
  | 7 => if o.m7 = 1 then some (.mcfgGive · o) else some (.mcfg · o)
  | _ => none

/-- Major 0x52 (R50): the constructor of its FN. -/
def ctor52 (fn : Nat) (o : FmtQ) : Option (Guard → Instr) :=
  match fn with
  | 0 => some (.nred · o)
  | 1 => some (.nres · o)
  | 2 => some (.nclr · o)
  | _ => none

/-- Major 0x60 (R50): the constructor of its FN. -/
def ctor60 (fn : Nat) (o : FmtM) : Option (Guard → Instr) :=
  match fn with
  | 0 => some (.ld · o)
  | 1 => some (.st · o)
  | 2 => some (.vld · o)
  | 3 => some (.vst · o)
  | 4 => some (.vldx · o)
  | 5 => some (.vstx · o)
  | 6 => some (.vlds · o)
  | 7 => some (.vsts · o)
  | _ => none

/-- Major 0x70 (R50): the constructor of its FN. -/
def ctor70 (fn : Nat) (o : FmtM) : Option (Guard → Instr) :=
  match fn with
  | 0 => some (.gld · o)
  | 1 => some (.gst · o)
  | 2 => some (.gvld · o)
  | 3 => some (.gvst · o)
  | 4 => some (.gldw · o)
  | 5 => some (.gstw · o)
  | 6 => some (.gprf · o)
  | 7 => some (.pclr · o)
  | _ => none

/-- Major 0x72 (R50): the constructor of its FN. -/
def ctor72 (fn : Nat) (o : FmtM) : Option (Guard → Instr) :=
  match fn with
  | 0 => some (.amoadd · o)
  | 1 => some (.amofadd · o)
  | 2 => some (.amomin · o)
  | 3 => some (.amomax · o)
  | 4 => some (.amominu · o)
  | 5 => some (.amomaxu · o)
  | 6 => some (.amoand · o)
  | 7 => some (.amoor · o)
  | 8 => some (.amoxor · o)
  | 9 => some (.amoswap · o)
  | 10 => some (.amocas · o)
  | 11 => some (.amocall · o)
  | _ => none

/-- Major 0x74 (R50): the constructor of its FN. -/
def ctor74 (fn : Nat) (o : FmtM) : Option (Guard → Instr) :=
  match fn with
  | 0 => some (.fence · o)
  | 1 => some (.fencex · o)
  | _ => none

/-- Major 0x80 (R50): the constructor of its FN. -/
def ctor80 (fn : Nat) (o : FmtQ) : Option (Guard → Instr) :=
  match fn with
  | 0 => some (.send · o)
  | 1 => some (.vsend · o)
  | 2 => some (.recv · o)
  | 3 => some (.vrecv · o)
  | 4 => some (.tsend · o)
  | 5 => some (.tpeek · o)
  | 6 => some (.trecv · o)
  | 7 => some (.chk · o)
  | 8 => some (.bind · o)
  | 9 => some (.unbind · o)
  | _ => none

/-- Major 0x82 (R50): the constructor of its FN. -/
def ctor82 (fn : Nat) (o : FmtQ) : Option (Guard → Instr) :=
  match fn with
  | 0 => some (.agrun · o)
  | 1 => some (.agstop · o)
  | 2 => some (.agstat · o)
  | _ => none

/-- Major 0x90 (R50): the constructor of its FN. -/
def ctor90 (fn : Nat) (o : FmtQ) : Option (Guard → Instr) :=
  match fn with
  | 0 => some (.gadv · o)
  | 1 => some (.gset · o)
  | 2 => some (.gget · o)
  | 3 => some (.gwait · o)
  | 4 => some (.grate · o)
  | 5 => if o.m7 = 1 then some (.glatePop · o) else some (.glate · o)
  | _ => none

/-- Major 0x92 (R50): the constructor of its FN. -/
def ctor92 (fn : Nat) (o : FmtQ) : Option (Guard → Instr) :=
  match fn with
  | 0 => some (.xfer · o)
  | 1 => some (.xvia · o)
  | 2 => some (.xgath · o)
  | 3 => some (.xscat · o)
  | 4 => some (.xcancel · o)
  | 5 => some (.xstat · o)
  | _ => none

/-- Major 0xA0 (R50): the constructor of its FN. -/
def ctorA0 (fn : Nat) (o : FmtQ) : Option (Guard → Instr) :=
  match fn with
  | 0 => some (.baralloc · o)
  | 1 => some (.barfree · o)
  | 2 => some (.barref · o)
  | 3 => some (.barinit · o)
  | 4 => some (.barrive · o)
  | 5 => some (.barexp · o)
  | 6 => some (.barwait · o)
  | 7 => some (.bartest · o)
  | _ => none

/-- Major 0xA4 (R50): the constructor of its FN. -/
def ctorA4 (fn : Nat) (o : FmtQ) : Option (Guard → Instr) :=
  match fn with
  | 0 => some (.blopen · o)
  | 1 => some (.blseal · o)
  | 2 => some (.blcommit · o)
  | 3 => some (.blabort · o)
  | 4 => some (.blwait · o)
  | 5 => some (.blstat · o)
  | _ => none

/-- Major 0xA5 (R50): the constructor of its FN. -/
def ctorA5 (fn : Nat) (o : FmtM) : Option (Guard → Instr) :=
  match fn with
  | 0 => some (.blst · o)
  | 1 => some (.blvst · o)
  | _ => none

/-- Major 0xB0 (R50): the constructor of its FN. -/
def ctorB0 (fn : Nat) (o : FmtQ) : Option (Guard → Instr) :=
  match fn with
  | 0 => if o.m7 = 1 then some (.scrollQ · o) else some (.scroll · o)
  | 1 => some (.stsave · o)
  | 2 => some (.stload · o)
  | 3 => some (.cfgw · o)
  | 4 => some (.cfgswap · o)
  | _ => none

/-- Major 0xC0 (R50): the constructor of its FN. -/
def ctorC0 (fn : Nat) (o : FmtS) : Option (Guard → Instr) :=
  match fn with
  | 0 => some (.sysrd · o)
  | 1 => if o.sreg = 0x24 then some (.horizonWrite · o) else if o.sreg = 0x23 then some (.evpendWrite · o) else some (.syswr · o)
  | 2 => some (.trap · o)
  | 3 => some (.eret · o)
  | 4 => some (.ebrk · o)
  | 5 => some (.wfe · o)
  | 6 => some (.tlbinv · o)
  | 7 => some (.chalt · o)
  | 8 => some (.cresume · o)
  | _ => none

/-- The instruction a word names before the checks of R48 and R49; none where MAJ, FN or COND is not listed, or
where the common reserved bits of its format are not zero. -/
def construct (w : Word) : Option Instr :=
  match majOf w with
  | 0x01 => (fieldsC w).bind fun o => (ctor01 (w.extractLsb' 48 4).toNat o).map fun k => k (guardOf w)
  | 0x02 => (fieldsB w).bind fun o => (ctor02 (fnOf w) o).map fun k => k (guardOf w)
  | 0x10 => (fieldsA w).bind fun o => (ctor10 (fnOf w) o).map fun k => k (guardOf w)
  | 0x11 => (fieldsB w).bind fun o => (ctor11 (fnOf w) o).map fun k => k (guardOf w)
  | 0x12 => (fieldsA w).bind fun o => (ctor12 (fnOf w) o).map fun k => k (guardOf w)
  | 0x13 => (fieldsA w).bind fun o => (ctor13 (fnOf w) o).map fun k => k (guardOf w)
  | 0x14 => (fieldsA w).bind fun o => (ctor14 (fnOf w) o).map fun k => k (guardOf w)
  | 0x30 => (fieldsA w).bind fun o => (ctor30 (fnOf w) o).map fun k => k (guardOf w)
  | 0x31 => (fieldsA w).bind fun o => (ctor31 (fnOf w) o).map fun k => k (guardOf w)
  | 0x32 => (fieldsA w).bind fun o => (ctor32 (fnOf w) o).map fun k => k (guardOf w)
  | 0x33 => (fieldsA w).bind fun o => (ctor33 (fnOf w) o).map fun k => k (guardOf w)
  | 0x34 => (fieldsA w).bind fun o => (ctor34 (fnOf w) o).map fun k => k (guardOf w)
  | 0x50 => (fieldsQ w).bind fun o => (ctor50 (fnOf w) o).map fun k => k (guardOf w)
  | 0x52 => (fieldsQ w).bind fun o => (ctor52 (fnOf w) o).map fun k => k (guardOf w)
  | 0x60 => (fieldsM w).bind fun o => (ctor60 (fnOf w) o).map fun k => k (guardOf w)
  | 0x70 => (fieldsM w).bind fun o => (ctor70 (fnOf w) o).map fun k => k (guardOf w)
  | 0x72 => (fieldsM w).bind fun o => (ctor72 (fnOf w) o).map fun k => k (guardOf w)
  | 0x74 => (fieldsM w).bind fun o => (ctor74 (fnOf w) o).map fun k => k (guardOf w)
  | 0x80 => (fieldsQ w).bind fun o => (ctor80 (fnOf w) o).map fun k => k (guardOf w)
  | 0x82 => (fieldsQ w).bind fun o => (ctor82 (fnOf w) o).map fun k => k (guardOf w)
  | 0x90 => (fieldsQ w).bind fun o => (ctor90 (fnOf w) o).map fun k => k (guardOf w)
  | 0x92 => (fieldsQ w).bind fun o => (ctor92 (fnOf w) o).map fun k => k (guardOf w)
  | 0xA0 => (fieldsQ w).bind fun o => (ctorA0 (fnOf w) o).map fun k => k (guardOf w)
  | 0xA4 => (fieldsQ w).bind fun o => (ctorA4 (fnOf w) o).map fun k => k (guardOf w)
  | 0xA5 => (fieldsM w).bind fun o => (ctorA5 (fnOf w) o).map fun k => k (guardOf w)
  | 0xB0 => (fieldsQ w).bind fun o => (ctorB0 (fnOf w) o).map fun k => k (guardOf w)
  | 0xC0 => (fieldsS w).bind fun o => (ctorC0 (fnOf w) o).map fun k => k (guardOf w)
  | _ => none

/-- The checks of R53 that need the word only: ZERO first, then ILL. -/
def decode (w : Word) : Except DecodeError Instr :=
  if majOf w = 0 then .error .zero
  else
    match construct w with
    | none => .error .ill
    | some i => if i.wf then .ok i else .error .ill

/-- A field placed at a bit. -/
def place {n : Nat} (x : BitVec n) (lo : Nat) : Word := x.zeroExtend 64 <<< lo

/-- One bit placed. -/
def placeBit (b : Bool) (lo : Nat) : Word := place (BitVec.ofBool b) lo

/-- MAJ and the guard (R37). -/
def encHead (maj : Nat) (g : Guard) : Word :=
  place (BitVec.ofNat 8 maj) 56 ||| place g.g 53 ||| placeBit g.n 52

/-- FN (R40). -/
def encFn (fn : Nat) : Word := place (BitVec.ofNat 6 fn) 46

/-- Format A (R40). -/
def encA (maj fn : Nat) (g : Guard) (o : FmtA) : Word :=
  encHead maj g ||| encFn fn ||| place o.d 41 ||| place o.s1 36 ||| place o.s2 31 ||| place o.s3 26 |||
  place o.ty.code 22 ||| place o.rm.code 20 ||| placeBit o.sat 19 ||| placeBit o.u 18 ||| place o.sub 16

/-- Format B (R41). -/
def encB (maj fn : Nat) (g : Guard) (o : FmtB) : Word :=
  encHead maj g ||| encFn fn ||| place o.d 41 ||| place o.s1 36 ||| place o.mod4.code 32 ||| place o.imm 0

/-- Format C (R42). -/
def encC (maj cond : Nat) (g : Guard) (o : FmtC) : Word :=
  encHead maj g ||| place (BitVec.ofNat 4 cond) 48 ||| place o.s1 43 ||| place o.s2 38 ||| place o.off 0

/-- Format M (R43). -/
def encM (maj fn : Nat) (g : Guard) (o : FmtM) : Word :=
  encHead maj g ||| encFn fn ||| place o.d 41 ||| place o.b 36 ||| place o.x 31 ||| place o.ord 29 |||
  place o.sco.code 27 ||| place o.ty.code 23 ||| place o.sub 20 ||| place o.off 0

/-- Format Q (R44). -/
def encQ (maj fn : Nat) (g : Guard) (o : FmtQ) : Word :=
  encHead maj g ||| encFn fn ||| place o.d 41 ||| place o.s1 36 ||| place o.s2 31 ||| place o.port 27 |||
  place o.tok 23 ||| place o.m7 16 ||| place o.imm 0

/-- Format S (R45). -/
def encS (maj fn : Nat) (g : Guard) (o : FmtS) : Word :=
  encHead maj g ||| encFn fn ||| place o.d 41 ||| place o.s1 36 ||| place o.sreg 20

/-- The word of an instruction; a happening or a command has none. -/
def encode (i : Instr) : Option Word :=
  match i with
  | .br g o => some (encC 0x01 0x00 g o)
  | .beq g o => some (encC 0x01 0x01 g o)
  | .bne g o => some (encC 0x01 0x02 g o)
  | .blt g o => some (encC 0x01 0x03 g o)
  | .bge g o => some (encC 0x01 0x04 g o)
  | .bltu g o => some (encC 0x01 0x05 g o)
  | .bgeu g o => some (encC 0x01 0x06 g o)
  | .bp g o => some (encC 0x01 0x07 g o)
  | .bnp g o => some (encC 0x01 0x08 g o)
  | .jal g o => some (encB 0x02 0x00 g o)
  | .jalr g o => some (encB 0x02 0x01 g o)
  | .yield g o => some (encB 0x02 0x02 g o)
  | .park g o => some (encB 0x02 0x03 g o)
  | .nop g o => some (encB 0x02 0x04 g o)
  | .add g o => some (encA 0x10 0x00 g o)
  | .sub g o => some (encA 0x10 0x01 g o)
  | .mul g o => some (encA 0x10 0x02 g o)
  | .mulh g o => some (encA 0x10 0x03 g o)
  | .mulhu g o => some (encA 0x10 0x04 g o)
  | .div g o => some (encA 0x10 0x05 g o)
  | .divu g o => some (encA 0x10 0x06 g o)
  | .rem g o => some (encA 0x10 0x07 g o)
  | .remu g o => some (encA 0x10 0x08 g o)
  | .and g o => some (encA 0x10 0x09 g o)
  | .or g o => some (encA 0x10 0x0A g o)
  | .xor g o => some (encA 0x10 0x0B g o)
  | .andn g o => some (encA 0x10 0x0C g o)
  | .sll g o => some (encA 0x10 0x0D g o)
  | .srl g o => some (encA 0x10 0x0E g o)
  | .sra g o => some (encA 0x10 0x0F g o)
  | .rol g o => some (encA 0x10 0x10 g o)
  | .min g o => some (encA 0x10 0x11 g o)
  | .max g o => some (encA 0x10 0x12 g o)
  | .minu g o => some (encA 0x10 0x13 g o)
  | .maxu g o => some (encA 0x10 0x14 g o)
  | .slt g o => some (encA 0x10 0x15 g o)
  | .sltu g o => some (encA 0x10 0x16 g o)
  | .sel g o => some (encA 0x10 0x17 g o)
  | .clz g o => some (encA 0x10 0x18 g o)
  | .ctz g o => some (encA 0x10 0x19 g o)
  | .popc g o => some (encA 0x10 0x1A g o)
  | .brev g o => some (encA 0x10 0x1B g o)
  | .addi g o => some (encB 0x11 0x00 g o)
  | .andi g o => some (encB 0x11 0x01 g o)
  | .ori g o => some (encB 0x11 0x02 g o)
  | .xori g o => some (encB 0x11 0x03 g o)
  | .slli g o => some (encB 0x11 0x04 g o)
  | .srli g o => some (encB 0x11 0x05 g o)
  | .srai g o => some (encB 0x11 0x06 g o)
  | .slti g o => some (encB 0x11 0x07 g o)
  | .sltiu g o => some (encB 0x11 0x08 g o)
  | .li g o => some (encB 0x11 0x09 g o)
  | .lhi g o => some (encB 0x11 0x0A g o)
  | .pand g o => some (encA 0x12 0x00 g o)
  | .por g o => some (encA 0x12 0x01 g o)
  | .pxor g o => some (encA 0x12 0x02 g o)
  | .pandn g o => some (encA 0x12 0x03 g o)
  | .pnot g o => some (encA 0x12 0x04 g o)
  | .pfrom g o => some (encA 0x12 0x05 g o)
  | .pto g o => some (encA 0x12 0x06 g o)
  | .icmp g o => some (encA 0x12 0x07 g o)
  | .lea g o => some (encA 0x13 0x00 g o)
  | .sbank g o => some (encA 0x13 0x01 g o)
  | .clamp g o => some (encA 0x13 0x02 g o)
  | .fadd g o => some (encA 0x14 0x00 g o)
  | .fsub g o => some (encA 0x14 0x01 g o)
  | .fmul g o => some (encA 0x14 0x02 g o)
  | .fma g o => some (encA 0x14 0x03 g o)
  | .fdiv g o => some (encA 0x14 0x04 g o)
  | .fsqrt g o => some (encA 0x14 0x05 g o)
  | .fmin g o => some (encA 0x14 0x06 g o)
  | .fmax g o => some (encA 0x14 0x07 g o)
  | .fcmp g o => some (encA 0x14 0x08 g o)
  | .fcvt g o => some (encA 0x14 0x09 g o)
  | .fclass g o => some (encA 0x14 0x0A g o)
  | .fsgnj g o => some (encA 0x14 0x0B g o)
  | .vadd g o => some (encA 0x30 0x00 g o)
  | .vsub g o => some (encA 0x30 0x01 g o)
  | .vmul g o => some (encA 0x30 0x02 g o)
  | .vmulh g o => some (encA 0x30 0x03 g o)
  | .vmin g o => some (encA 0x30 0x04 g o)
  | .vmax g o => some (encA 0x30 0x05 g o)
  | .vabs g o => some (encA 0x30 0x06 g o)
  | .vand g o => some (encA 0x30 0x07 g o)
  | .vor g o => some (encA 0x30 0x08 g o)
  | .vxor g o => some (encA 0x30 0x09 g o)
  | .vsll g o => some (encA 0x30 0x0A g o)
  | .vsrl g o => some (encA 0x30 0x0B g o)
  | .vsra g o => some (encA 0x30 0x0C g o)
  | .vfadd g o => some (encA 0x31 0x00 g o)
  | .vfsub g o => some (encA 0x31 0x01 g o)
  | .vfmul g o => some (encA 0x31 0x02 g o)
  | .vfma g o => some (encA 0x31 0x03 g o)
  | .vfmin g o => some (encA 0x31 0x04 g o)
  | .vfmax g o => some (encA 0x31 0x05 g o)
  | .vfabs g o => some (encA 0x31 0x06 g o)
  | .vfneg g o => some (encA 0x31 0x07 g o)
  | .vfrcp g o => some (encA 0x31 0x08 g o)
  | .vfrsq g o => some (encA 0x31 0x09 g o)
  | .vfexp2 g o => some (encA 0x31 0x0A g o)
  | .vflog2 g o => some (encA 0x31 0x0B g o)
  | .vcmp g o => some (encA 0x32 0x00 g o)
  | .vfcmp g o => some (encA 0x32 0x01 g o)
  | .vcvt g o => some (encA 0x33 0x00 g o)
  | .vscale g o => some (encA 0x33 0x01 g o)
  | .vbcast g o => some (encA 0x33 0x02 g o)
  | .vext g o => some (encA 0x33 0x03 g o)
  | .vins g o => some (encA 0x33 0x04 g o)
  | .vperm g o => some (encA 0x33 0x05 g o)
  | .vslide g o => some (encA 0x33 0x06 g o)
  | .vzip g o => some (encA 0x33 0x07 g o)
  | .vunzip g o => some (encA 0x33 0x08 g o)
  | .vsel g o => some (encA 0x33 0x09 g o)
  | .vcompress g o => some (encA 0x33 0x0A g o)
  | .vexpand g o => some (encA 0x33 0x0B g o)
  | .vmov g o => some (encA 0x33 0x0C g o)
  | .vredadd g o => some (encA 0x34 0x00 g o)
  | .vredmax g o => some (encA 0x34 0x01 g o)
  | .vredmin g o => some (encA 0x34 0x02 g o)
  | .vredfadd g o => some (encA 0x34 0x03 g o)
  | .vdot g o => some (encA 0x34 0x04 g o)
  | .mma g o => some (encQ 0x50 0x00 g o)
  | .mmav g o => some (encQ 0x50 0x01 g o)
  | .mzero g o => some (encQ 0x50 0x02 g o)
  | .mswap g o => some (encQ 0x50 0x03 g o)
  | .mrd g o => some (encQ 0x50 0x04 g o)
  | .mwr g o => some (encQ 0x50 0x05 g o)
  | .mdrain g o => some (encQ 0x50 0x06 g o)
  | .mcfg g o => some (encQ 0x50 0x07 g o)
  | .mcfgGive g o => some (encQ 0x50 0x07 g o)
  | .nred g o => some (encQ 0x52 0x00 g o)
  | .nres g o => some (encQ 0x52 0x01 g o)
  | .nclr g o => some (encQ 0x52 0x02 g o)
  | .ld g o => some (encM 0x60 0x00 g o)
  | .st g o => some (encM 0x60 0x01 g o)
  | .vld g o => some (encM 0x60 0x02 g o)
  | .vst g o => some (encM 0x60 0x03 g o)
  | .vldx g o => some (encM 0x60 0x04 g o)
  | .vstx g o => some (encM 0x60 0x05 g o)
  | .vlds g o => some (encM 0x60 0x06 g o)
  | .vsts g o => some (encM 0x60 0x07 g o)
  | .gld g o => some (encM 0x70 0x00 g o)
  | .gst g o => some (encM 0x70 0x01 g o)
  | .gvld g o => some (encM 0x70 0x02 g o)
  | .gvst g o => some (encM 0x70 0x03 g o)
  | .gldw g o => some (encM 0x70 0x04 g o)
  | .gstw g o => some (encM 0x70 0x05 g o)
  | .gprf g o => some (encM 0x70 0x06 g o)
  | .pclr g o => some (encM 0x70 0x07 g o)
  | .amoadd g o => some (encM 0x72 0x00 g o)
  | .amofadd g o => some (encM 0x72 0x01 g o)
  | .amomin g o => some (encM 0x72 0x02 g o)
  | .amomax g o => some (encM 0x72 0x03 g o)
  | .amominu g o => some (encM 0x72 0x04 g o)
  | .amomaxu g o => some (encM 0x72 0x05 g o)
  | .amoand g o => some (encM 0x72 0x06 g o)
  | .amoor g o => some (encM 0x72 0x07 g o)
  | .amoxor g o => some (encM 0x72 0x08 g o)
  | .amoswap g o => some (encM 0x72 0x09 g o)
  | .amocas g o => some (encM 0x72 0x0A g o)
  | .amocall g o => some (encM 0x72 0x0B g o)
  | .fence g o => some (encM 0x74 0x00 g o)
  | .fencex g o => some (encM 0x74 0x01 g o)
  | .send g o => some (encQ 0x80 0x00 g o)
  | .vsend g o => some (encQ 0x80 0x01 g o)
  | .recv g o => some (encQ 0x80 0x02 g o)
  | .vrecv g o => some (encQ 0x80 0x03 g o)
  | .tsend g o => some (encQ 0x80 0x04 g o)
  | .tpeek g o => some (encQ 0x80 0x05 g o)
  | .trecv g o => some (encQ 0x80 0x06 g o)
  | .chk g o => some (encQ 0x80 0x07 g o)
  | .bind g o => some (encQ 0x80 0x08 g o)
  | .unbind g o => some (encQ 0x80 0x09 g o)
  | .agrun g o => some (encQ 0x82 0x00 g o)
  | .agstop g o => some (encQ 0x82 0x01 g o)
  | .agstat g o => some (encQ 0x82 0x02 g o)
  | .gadv g o => some (encQ 0x90 0x00 g o)
  | .gset g o => some (encQ 0x90 0x01 g o)
  | .gget g o => some (encQ 0x90 0x02 g o)
  | .gwait g o => some (encQ 0x90 0x03 g o)
  | .grate g o => some (encQ 0x90 0x04 g o)
  | .glate g o => some (encQ 0x90 0x05 g o)
  | .glatePop g o => some (encQ 0x90 0x05 g o)
  | .xfer g o => some (encQ 0x92 0x00 g o)
  | .xvia g o => some (encQ 0x92 0x01 g o)
  | .xgath g o => some (encQ 0x92 0x02 g o)
  | .xscat g o => some (encQ 0x92 0x03 g o)
  | .xcancel g o => some (encQ 0x92 0x04 g o)
  | .xstat g o => some (encQ 0x92 0x05 g o)
  | .baralloc g o => some (encQ 0xA0 0x00 g o)
  | .barfree g o => some (encQ 0xA0 0x01 g o)
  | .barref g o => some (encQ 0xA0 0x02 g o)
  | .barinit g o => some (encQ 0xA0 0x03 g o)
  | .barrive g o => some (encQ 0xA0 0x04 g o)
  | .barexp g o => some (encQ 0xA0 0x05 g o)
  | .barwait g o => some (encQ 0xA0 0x06 g o)
  | .bartest g o => some (encQ 0xA0 0x07 g o)
  | .blopen g o => some (encQ 0xA4 0x00 g o)
  | .blseal g o => some (encQ 0xA4 0x01 g o)
  | .blcommit g o => some (encQ 0xA4 0x02 g o)
  | .blabort g o => some (encQ 0xA4 0x03 g o)
  | .blwait g o => some (encQ 0xA4 0x04 g o)
  | .blstat g o => some (encQ 0xA4 0x05 g o)
  | .blst g o => some (encM 0xA5 0x00 g o)
  | .blvst g o => some (encM 0xA5 0x01 g o)
  | .scroll g o => some (encQ 0xB0 0x00 g o)
  | .scrollQ g o => some (encQ 0xB0 0x00 g o)
  | .stsave g o => some (encQ 0xB0 0x01 g o)
  | .stload g o => some (encQ 0xB0 0x02 g o)
  | .cfgw g o => some (encQ 0xB0 0x03 g o)
  | .cfgswap g o => some (encQ 0xB0 0x04 g o)
  | .sysrd g o => some (encS 0xC0 0x00 g o)
  | .syswr g o => some (encS 0xC0 0x01 g o)
  | .horizonWrite g o => some (encS 0xC0 0x01 g o)
  | .evpendWrite g o => some (encS 0xC0 0x01 g o)
  | .trap g o => some (encS 0xC0 0x02 g o)
  | .eret g o => some (encS 0xC0 0x03 g o)
  | .ebrk g o => some (encS 0xC0 0x04 g o)
  | .wfe g o => some (encS 0xC0 0x05 g o)
  | .tlbinv g o => some (encS 0xC0 0x06 g o)
  | .chalt g o => some (encS 0xC0 0x07 g o)
  | .cresume g o => some (encS 0xC0 0x08 g o)
  | .lateTrap => none
  | .dispatch _ _ => none
  | .unitFree _ _ => none
  | .registerWriteLand _ _ _ => none
  | .storeQueuePerform _ _ => none
  | .headRecordExamine _ => none
  | .placementPass _ => none
  | .install _ => none
  | .sourceStart _ _ => none
  | .governorWindow _ => none
  | .regionComplete _ => none
  | .channelEntryArrive _ _ _ => none
  | .creditReturn _ _ => none
  | .typedJoinConvert _ _ => none
  | .cfgApply _ _ => none
  | .steerFire _ _ => none
  | .mergeFire _ _ => none
  | .carryFire _ _ => none
  | .forkFire _ _ => none
  | .readStreamElement _ _ => none
  | .writeStreamElement _ _ => none
  | .matrixFire _ => none
  | .matrixSwapToken _ => none
  | .matrixTokenPair _ => none
  | .mmavDone _ => none
  | .drainEntry _ => none
  | .spindlePartialArrive _ _ _ => none
  | .spindleRoundComplete _ _ => none
  | .spindleCreditArrive _ _ => none
  | .endWindow _ _ => none
  | .beaconTimeout _ _ => none
  | .beaconArrive _ _ _ _ => none
  | .enginePacketIssue _ _ => none
  | .packetArbiterGrant _ => none
  | .holdReevaluate _ _ => none
  | .watchRegister _ => none
  | .watchRetry _ => none
  | .transferPacketLand _ _ => none
  | .transferDone _ => none
  | .completionEntryAppend _ => none
  | .transferError _ => none
  | .walkComplete _ _ _ => none
  | .slicePerform _ => none
  | .atomicPerform _ => none
  | .retryResend _ => none
  | .invalidationComplete _ => none
  | .barrierOperation _ => none
  | .transferArrival _ => none
  | .loftStoreArrive _ => none
  | .sealSend _ => none
  | .sealArrive _ => none
  | .baleReply _ _ _ => none
  | .baleCommitDecision _ => none
  | .baleDecisionApply _ => none
  | .baleDoneReply _ _ => none
  | .feederLoad _ _ => none
  | .feederTrainAppend _ => none
  | .forwardReady _ => none
  | .reelSwap _ => none
  | .stateSave _ => none
  | .stateRestore _ => none
  | .tileSnapshot _ => none
  | .snapshotComplete _ => none
  | .regionRestore _ => none
  | .flitReceive _ _ => none
  | .nakReplay _ => none
  | .streamOpen _ => none
  | .streamClose _ => none
  | .dataFlit _ _ => none
  | .hello _ _ _ => none
  | .creditFlit _ _ _ => none
  | .circFlit _ _ => none
  | .hold _ => none
  | .remoteResponse _ _ => none
  | .remoteTimeoutExpiry _ => none
  | .bridgeReplay _ => none
  | .qconfig _ => none
  | .doorbell _ => none
  | .qread _ => none
  | .rootbase _ => none
  | .inval _ => none
  | .pageinit _ => none
  | .access _ => none
  | .timeout _ => none
  | .nodeport _ => none
  | .linkup _ => none
  | .routever _ => none
  | .diestate _ => none
  | .kill _ => none
  | .pause _ => none
  | .evict _ => none
  | .resume _ => none
  | .halt _ => none
  | .release _ => none
  | .ctxrd _ => none
  | .ctxwr _ => none
  | .faultq _ => none
  | .stale _ => none
  | .resolve _ => none
  | .circuit _ => none
  | .clockstep _ => none
  | .ratio _ => none
  | .repair _ => none
  | .thermal _ => none
  | .attest _ => none
  | .fwstage _ => none
  | .hostlist _ => none
  | .powerUp => none
  | .thermalTrip _ => none
  | .illegalWord _ => none
  | .repairEnd _ => none
  | .ack _ => none
  | .clockstepResume _ => none
  | .modulePowerOff => none

/-- The supervisor instructions (R51). -/
def Instr.supervisor (i : Instr) : Bool :=
  match encode i with
  | none => false
  | some w => [(0x70, 7), (0xB0, 3), (0xB0, 4), (0xC0, 6), (0xC0, 7), (0xC0, 8)].contains (majOf w, fnOf w)

/-- The instruction the decoder reads from a word numbered as the opcode table numbers bits: one word of 64
bits; bits above `nbits` are zero. -/
def decodeTableWord (nbits w : Nat) : Option Instr :=
  match decode (BitVec.ofNat 64 (w % 2 ^ nbits)) with
  | .ok i => some i
  | .error _ => none

end Sys2Proof
end

