-- ==== Sys2Proof/Machine/ChannelOps.lean ====
section
/-! DEFINITION. Channels: the circuits of the switch settings (R168, R190), capacity and credits (R170-R172), entries
written and taken, the router operators' inputs (R180-R186), and how a port is read and written (R96, R173, R195). -/

namespace Sys2Proof.Machine

/-! Token kinds (R174). -/

/-- DATA. -/
def Kind.data : BitVec 4 := 0
/-- EOI. -/
def Kind.eoi : BitVec 4 := 5
/-- EOT. -/
def Kind.eot : BitVec 4 := 6
/-- CFG. -/
def Kind.cfg : BitVec 4 := 7
/-- SWAP. -/
def Kind.swap : BitVec 4 := 8
/-- MARK. -/
def Kind.mark : BitVec 4 := 9
/-- SCALE. -/
def Kind.scale : BitVec 4 := 10
/-- SEAM. -/
def Kind.seam : BitVec 4 := 11
/-- ERR. -/
def Kind.err : BitVec 4 := 12

/-- Whether an entry is DATA or ERR. -/
def Entry.isData (e : Entry) : Bool := e.kind == Kind.data || e.kind == Kind.err

/-- An ERR word: cause in [7:0], information in [63:8] (R175). -/
def errWord (cause : BitVec 8) (info : Nat) : BitVec 256 := BitVec.ofNat 256 (cause.toNat + info % 2 ^ 56 * 256)

/-! Circuits. -/

/-- The tile on the other side of a link: 1 north, 2 east, 3 south, 4 west (R190). -/
def neighbour (t : TileId) (dir : Nat) : TileId :=
  match dir with
  | 1 => tileAt (t.prow - 1) t.pcol
  | 2 => tileAt t.prow (t.pcol + 1)
  | 3 => tileAt (t.prow + 1) t.pcol
  | _ => tileAt t.prow (t.pcol - 1)

/-- The direction a link comes from, seen from its other end. -/
def opposite (dir : Nat) : Nat :=
  match dir with
  | 1 => 3
  | 2 => 4
  | 3 => 1
  | _ => 2

/-- The switch entry that leaves a source endpoint (below 32) or an operator output 32 + 4o + j (R190); of two that name it the one with the
lowest number (DESIGN CHOICE, log entry 119). -/
def Settings.entryOfSource (c : Settings) (e : Nat) : Option SwitchCfg :=
  c.switch.toList.find? fun w => w.valid &&
    (if e < 32 then w.inDir == 0 && w.inEp == e else w.inDir == 5 && w.inEp == e - 32)

/-- The switch entry that enters a sink (R190); of two that name it the one with the lowest number (DESIGN CHOICE, log entry 119). -/
def Settings.entryOfSink (c : Settings) (k : Nat) : Option SwitchCfg :=
  c.switch.toList.find? fun w => w.valid &&
    (if k < 32 then w.outDir == 0 && w.outEp == k else w.outDir == 5 && w.outEp == k - 32)

/-- The sink at the end of a circuit that has reached a switch entry of a tile. -/
def State.followOut (s : State) : Nat → TileId → SwitchCfg → Option (TileId × Nat)
  | 0, _, _ => none
  | fuel + 1, t, w =>
    if w.outDir = 0 then some (t, w.outEp)
    else if w.outDir = 5 then some (t, 32 + w.outEp)
    else
      let u := neighbour t w.outDir
      match (s.tile u).cfg.switch.toList.find? fun v => v.valid && v.inDir == opposite w.outDir && v.inLane == w.outLane with
      | none => none
      | some v => s.followOut fuel u v

/-- The source at the start of a circuit that leaves a switch entry of a tile. -/
def State.followIn (s : State) : Nat → TileId → SwitchCfg → Option (TileId × Nat)
  | 0, _, _ => none
  | fuel + 1, t, w =>
    if w.inDir = 0 then some (t, w.inEp)
    else if w.inDir = 5 then some (t, 32 + w.inEp)
    else
      let u := neighbour t w.inDir
      match (s.tile u).cfg.switch.toList.find? fun v => v.valid && v.outDir == opposite w.inDir && v.outLane == w.inLane with
      | none => none
      | some v => s.followIn fuel u v

/-- More hops than a circuit can have: four lanes on every tile of the package. -/
def maxHops : Nat := 102400

/-- The slot at a distance from a slot of a band. -/
def Reel.slotAt (f : Reel) (slot : Nat) (dist : Int) : Nat := (((slot : Int) + dist) % (f.b : Int)).toNat

/-- The tile at slot-relative coordinates of a slot (R337). -/
def Region.slotTile (r : Region) (f : Reel) (slot row col : Nat) : TileId := r.tileAt (slot * f.h + row) col

/-- The sink of a reel circuit from a source endpoint of a band tile: the ring, or an arc (R340). -/
def State.reelSinkOf (s : State) (t : TileId) (e : Nat) : Option (TileId × Nat) :=
  match (s.tile t).reel, s.regionOf t with
  | some b, some r => match r.reel with
    | none => none
    | some f =>
      if e = 30 then (if b.row + 1 = f.h && b.col = 0 then some (r.slotTile f (f.slotAt b.slot 1) 0 0, 30) else none)
      else if e < 24 then none
      else match f.arcs[e - 24]? with
        | none => none
        | some a => if b.row = a.srow && b.col = a.scol then some (r.slotTile f (f.slotAt b.slot a.dist) a.drow a.dcol, e) else none
  | _, _ => none

/-- The source of a reel circuit that ends at a sink of a band tile (R340). -/
def State.reelSourceOf (s : State) (t : TileId) (k : Nat) : Option (TileId × Nat) :=
  match (s.tile t).reel, s.regionOf t with
  | some b, some r => match r.reel with
    | none => none
    | some f =>
      if k = 30 then (if b.row = 0 && b.col = 0 then some (r.slotTile f (f.slotAt b.slot (-1)) (f.h - 1) 0, 30) else none)
      else if k < 24 then none
      else match f.arcs[k - 24]? with
        | none => none
        | some a => if b.row = a.drow && b.col = a.dcol then some (r.slotTile f (f.slotAt b.slot (-a.dist)) a.srow a.scol, k) else none
  | _, _ => none

/-- The sink of a source's channel. -/
def State.sinkOf (s : State) (t : TileId) (e : Nat) : Option (TileId × Nat) :=
  match (s.tile t).cfg.entryOfSource e with
  | none => s.reelSinkOf t e
  | some w => s.followOut maxHops t w

/-- The source of a sink's channel. -/
def State.sourceOf (s : State) (t : TileId) (k : Nat) : Option (TileId × Nat) :=
  match (s.tile t).cfg.entryOfSink k with
  | none => s.reelSourceOf t k
  | some w => s.followIn maxHops t w

/-- A sink's settings; sinks count modulo 64. -/
def Settings.sinkCfg (c : Settings) (k : Nat) : SinkCfg := c.sinks[k % 64]'(Nat.mod_lt _ (by decide))

/-- Join depth of an operator input (R185, R192). -/
def Settings.joinDepth (c : Settings) (k : Nat) : Nat :=
  if k < 32 then 0
  else
    let o := c.ops[(k - 32) / 4 % 8]'(Nat.mod_lt _ (by decide))
    match (k - 32) % 4 with
    | 0 => o.depth0
    | 1 => o.depth1
    | _ => o.depth2

/-- Capacity C of the channel that ends at a sink (R170). -/
def Settings.capacity (c : Settings) (k : Nat) : Nat := (c.sinkCfg k).slots + c.joinDepth k

/-- Word size in bytes of the channel that ends at a sink. -/
def Settings.sinkBytes (c : Settings) (k : Nat) : Nat := 8 * (c.sinkCfg k).lanes

/-- Word size in bytes of the channel that leaves a source. -/
def Settings.sourceBytes (c : Settings) (e : Nat) : Nat :=
  match c.entryOfSource e with
  | none => 8
  | some w => 8 * w.width

/-- Whether a sink is a typed join (R177). -/
def SinkCfg.typed (c : SinkCfg) : Bool := c.srcTy.isSome && c.dstTy.isSome

/-- The Dyfold circuit whose entries a source sends, if any (R417). -/
def Hub.circuitOfSource (h : Hub) (t : TileId) (e : Nat) : Option Nat :=
  (h.circuits.find? fun c => c.2.source == some (t, e)).map (·.1)

/-- The Dyfold circuit that ends at a sink, if any (R417). -/
def Hub.circuitOfSink (h : Hub) (t : TileId) (k : Nat) : Option Nat :=
  (h.circuits.find? fun c => c.2.sink == some (t, k)).map (·.1)

/-- A Dyfold circuit changed. -/
def Hub.modCircuit (h : Hub) (k : Nat) (f : Circuit → Circuit) : Hub :=
  { h with circuits := h.circuits.map fun c => if c.1 = k then (c.1, f c.2) else c }

/-! Entries. -/

/-- An entry put on its way to a sink as a packet of class 2 with slack field 0 (R245, R340). -/
def State.sendWord (s : State) (u : TileId) (k : Nat) (x : Entry) : State :=
  { s.modTile u (·.modSink k fun y => { y with inflight := y.inflight ++ [x], sent := y.sent ++ [s.nextSeq] }) with nextSeq := s.nextSeq + 1 }

/-- Whether the entries of a source travel as packets: it is an arc's (R340). -/
def Settings.byPacket (c : Settings) (e : Nat) : Bool := (c.entryOfSource e).isNone && e != 30

/-- An entry put on its way from a source, with no credit taken. -/
def State.launch (s : State) (t : TileId) (e : Nat) (x : Entry) : State :=
  match s.sinkOf t e with
  | some (u, k) => if (s.tile t).cfg.byPacket e then s.sendWord u k x else s.modTile u (·.modSink k fun y => { y with inflight := y.inflight ++ [x] })
  | none => match s.hub.circuitOfSource t e with
    | some c => s.tell (.circ c x)
    | none => s

/-- An entry that enters a channel: it takes one credit (R170). -/
def State.emit (s : State) (t : TileId) (e : Nat) (word : BitVec 256) (kind : BitVec 4) : State :=
  (s.modTile t (·.modSource e fun y => { y with credits := y.credits - 1 })).launch t e ⟨word, kind, .channel⟩

/-- Credits that go back to the source of a sink's channel (R170); a rendezvous gets its credits by request (R171). -/
def State.returnCredits (s : State) (t : TileId) (k n : Nat) : State :=
  if n = 0 || (s.tile t).cfg.capacity k = 0 then s
  else match s.sourceOf t k with
    | some (u, e) => s.modTile u (·.modSource e fun y => { y with returning := y.returning + n })
    | none => match s.hub.circuitOfSink t k, s.regionOf t with
      | some c, _ => s.tell (.credits c n)
      | none, some r =>
        -- the entry circuit of a reel comes from its feeder (R340)
        if k = 31 then s.modRegion r.number fun r => { r with reel := r.reel.map fun (f : Reel) => { f with entryCredits := f.entryCredits + n } }
        else s
      | none, none => s

/-- The first `n` entries taken from a sink's queue (R170). -/
def State.takeSink (s : State) (t : TileId) (k n : Nat) : State :=
  let took := ((s.tile t).sink k).queue.take n
  let s := s.modTile t (·.modSink k fun y => { y with queue := y.queue.drop n, asked := false })
  s.returnCredits t k (took.countP fun e => e.origin == .channel)

/-- Entries of a sink's queue that count against the channel's capacity; completion entries stand beside them (R170). -/
def Sink.used (k : Sink) : Nat := k.queue.countP fun e => e.origin != .direct

/-- An entry that a sink's channel or converter delivers: CFG at a port sink is collected (R176), a SEAM there never enters the
port's queue and goes no further (R174; log entry 98), everything else joins the queue. -/
def Sink.accept (k : Sink) (port : Bool) (e : Entry) : Sink :=
  if port && e.kind == Kind.cfg then { k with cfg := k.cfg ++ [e], asked := false }
  else if port && e.kind == Kind.seam then { k with asked := false }
  else { k with queue := k.queue ++ [e] }

/-! The input rate governor (R98). -/

/-- The window of a tile's cycle counter, by its number. -/
def State.windowOf (s : State) (t : TileId) : Nat :=
  ((s.regionOf t).map fun r => (s.tile t).cycle.toNat / 2 ^ (r.launch.winlog + 6)).getD 0

/-- Input units that a tile has admitted in the window of its cycle counter. -/
def State.admittedNow (s : State) (t : TileId) : Nat := if (s.tile t).windows = s.windowOf t then (s.tile t).admitted else 0

/-- How many of `n` input units a tile may still let in in its window. -/
def State.admits (s : State) (t : TileId) (n : Nat) : Nat :=
  match s.regionOf t with
  | none => n
  | some r => if r.launch.words = 0 then n else min n (r.launch.words - s.admittedNow t)

/-- Input units admitted, in the window of the cycle counter. -/
def State.letIn (s : State) (t : TileId) (n : Nat) : State :=
  let used := s.admittedNow t
  let w := s.windowOf t
  s.modTile t fun x => { x with admitted := used + n, windows := w }

/-! Router operators' inputs and outputs. -/

/-- Input i of operator o. -/
def opSink (o : Fin 8) (i : Nat) : Nat := 32 + 4 * o.val + i
/-- Output j of operator o, as a source. -/
def opSource (o : Fin 8) (j : Nat) : Nat := 32 + 4 * o.val + j

/-- The head of an operator input. -/
def Tile.opHead (x : Tile) (o : Fin 8) (i : Nat) : Option Entry := (x.sink (opSink o i)).queue.head?

/-- Whether output j of an operator has a credit. -/
def Tile.opCredit (x : Tile) (o : Fin 8) (j : Nat) : Bool := decide (0 < (x.source (opSource o j)).credits)

/-- Whether an operator would fire but for an input that is now empty (R171): everything else that its rule asks for stands there,
with the credits of every output that it could then write. A control word that alone can fire CARRY is asked for in any case (log
entry 99). -/
def Tile.opWants (x : Tile) (o : Fin 8) (i : Nat) : Bool :=
  let head := x.opHead o
  (head i).isNone && match (x.cfg.ops[o]).kind with
  | .none => false
  | .steer => match i, head (1 - i) with
    | 0, some c =>
      if c.kind = Kind.data then x.opCredit o (if c.word.getLsbD 0 then 1 else 0)
      else c.kind != Kind.err && x.opCredit o 0 && x.opCredit o 1
    | _, some _ => x.opCredit o 0 && x.opCredit o 1
    | _, none => false
  | .merge => x.opCredit o 0 && match i, head 2 with
    | 2, _ => match head 0, head 1 with
      | some a, some b => a.isData || b.isData || a.kind == b.kind
      | _, _ => false
    | _, none => false
    | _, some c =>
      if c.kind = Kind.data then decide (i = if c.word.getLsbD 0 then 1 else 0)
      else c.kind != Kind.err && ((head (1 - i)).map fun d => d.kind == c.kind).getD false
  | .carry => match i with
    | 0 => !x.loops[o] && x.opCredit o 0
    | 1 => x.loops[o] && x.opCredit o 0 && (match head 2 with
      | some c => c.kind == Kind.data && c.word.getLsbD 0
      | none => false)
    | _ => x.loops[o]
  | .fork => (List.range (x.cfg.ops[o]).nout).all (x.opCredit o)

/-! Ports. -/

/-- What a port is (R96, R173). -/
inductive PortView where
  | closed
  | start
  | input (k : Nat)
  | output (e : Nat)
  | stream (g : Fin 4)
  deriving DecidableEq, Repr

/-- A port of a context: its binding, or a start port where it has none (R173). -/
def Ctx.port (c : Ctx) (k : BitVec 4) : PortView :=
  match c.ports[k.toNat]'k.isLt with
  | .input e => .input e
  | .output e => .output e
  | .stream g => .stream ⟨g % 4, Nat.mod_lt _ (by decide)⟩
  | .unbound => if c.startPorts.getLsbD k.toNat then .start else .closed

/-- Whether a generator's mode reads (R205). -/
def AgenCfg.reads (a : AgenCfg) : Bool := a.mode == 0 || a.mode == 1 || a.mode == 3

/-- Whether a run of the matrix array holds a port of its owner for operands (R222). -/
def Tile.operandPort (x : Tile) (c : Fin 4) (k : BitVec 4) : Bool :=
  let m := x.matrix
  m.run && m.owner == some c && (k == bits m.config 20 4 || k == bits m.config 16 4)

/-- Whether a run holds a port of its owner for forwarded words (R222). -/
def Tile.forwardPort (x : Tile) (c : Fin 4) (k : BitVec 4) : Bool :=
  let m := x.matrix
  m.run && m.owner == some c &&
    ((m.config.getLsbD 15 && k == bits m.config 8 4) || (m.config.getLsbD 7 && k == bits m.config 0 4))

/-- Whether a drain writes a port (R222). -/
def Tile.drainPort (x : Tile) (c : Fin 4) (k : BitVec 4) : Bool :=
  x.matrix.drain && x.matrix.owner == some c && x.matrix.drainPort == k

/-- The entries that a port's reader sees, head first, with the word size b and capacity C; none where the port is not one
that `recv` accepts (R196). A stream port's C is the 4 entries of its queue (log entry 13). -/
def Tile.readPort (x : Tile) (c : Fin 4) (k : BitVec 4) : Option (List Entry × Nat × Nat) :=
  match x.ctxs[c].port k with
  | .start => some (x.ctxs[c].startQ[k.toNat]'k.isLt, 8, 0)
  | .input e => some ((x.sink e).queue, x.cfg.sinkBytes e, x.cfg.capacity e)
  | .stream g => if (x.cfg.agen[g]).reads then some ((x.agens[g]).queue, (x.cfg.agen[g]).word, 4) else none
  | _ => none

/-- Entries that a read stream owes enter its port's queue while that holds fewer than 4 (R208). -/
def Agen.feed (y : Agen) : Agen :=
  let n := 4 - y.queue.length
  { y with queue := y.queue ++ y.out.take n, out := y.out.drop n }

/-- The first `n` entries of a port taken by the context (R199). -/
def State.takePort (s : State) (t : TileId) (c : Fin 4) (k : BitVec 4) (n : Nat) : State :=
  match (s.ctxAt t c).port k with
  | .start => s.modCtx t c fun y => { y with startQ := y.startQ.set k.toNat ((y.startQ[k.toNat]'k.isLt).drop n) k.isLt }
  | .input e => s.takeSink t e n
  | .stream g => s.modTile t fun x => { x with agens := x.agens.set g (Agen.feed { x.agens[g] with queue := (x.agens[g]).queue.drop n }) }
  | _ => s

/-- Room and word size b, with capacity C, of a port that `send` accepts; none where it does not (R196). A write stream
takes entries while fewer than 4 wait (log entry 13). -/
def State.writePort (s : State) (t : TileId) (c : Fin 4) (k : BitVec 4) : Option (Nat × Nat × Nat) :=
  let x := s.tile t
  match x.ctxs[c].port k with
  | .output e =>
    -- a sink in another package has the capacity of its circuit (R417)
    let cap := match s.sinkOf t e with
      | some (u, k) => (s.tile u).cfg.capacity k
      | none => match s.hub.circuits.find? fun c => c.2.source == some (t, e) with
        | some c => c.2.cap.getD 64
        | none => (x.source e).credits
    some ((x.source e).credits, x.cfg.sourceBytes e, cap)
  | .stream g =>
    if !(x.cfg.agen[g]).reads && (x.agens[g]).st == .running then
      some (4 - (x.agens[g]).taken.length, (x.cfg.agen[g]).word, 4)
    else none
  | _ => none

/-- Entries written to a port, in order (R197). -/
def State.putPort (s : State) (t : TileId) (c : Fin 4) (k : BitVec 4) (es : List (BitVec 256 × BitVec 4)) : State :=
  match (s.ctxAt t c).port k with
  | .output e => es.foldl (fun s w => s.emit t e w.1 w.2) s
  | .stream g => s.modTile t fun x =>
      { x with agens := x.agens.set g { x.agens[g] with
          taken := (x.agens[g]).taken ++ es.map fun w => ⟨w.1, w.2, .direct⟩ } }
  | _ => s

/-- Trap(CHAN, info). -/
def State.trapChan (s : State) (info : Nat) : State := s.trap Cause.chan (BitVec.ofNat 64 info)

/-- Whether a RUNNING context's next instruction asks for an entry of a port sink (R171). -/
def Tile.contextAsks (x : Tile) (k : Nat) : Bool :=
  (List.finRange 4).any fun c =>
    let y := x.ctxs[c]
    let asks := fun (g : Guard) (o : FmtQ) => y.guardOn g && y.port o.port == .input k
    y.run == .running && match decode ((lookupKey y.pc.toNat x.store).getD 0) with
    | .ok (.recv g o) => asks g o
    | .ok (.trecv g o) => asks g o
    | .ok (.tpeek g o) => asks g o
    | _ => false

/-- Whether a rendezvous sink requests an entry (R171). -/
def Tile.sinkAsks (x : Tile) (k : Nat) : Bool :=
  (x.sink k).queue.isEmpty &&
  if k < 32 then x.contextAsks k else x.opWants ⟨(k - 32) / 4 % 8, Nat.mod_lt _ (by decide)⟩ ((k - 32) % 4)

end Sys2Proof.Machine
end

