-- ==== Sys2Proof/Machine/Channels.lean ====
section
/-! DEFINITION. Channel instructions (R195-R202), and what routers, converters and operators do by themselves
(R170-R186). -/

namespace Sys2Proof.Machine

/-- Whether an outstanding via transfer holds a port (R252). -/
def Ctx.viaHeld (c : Ctx) (k : BitVec 4) : Bool := c.viaPorts.getLsbD k.toNat

/-! Sends (R197). -/

/-- Whether a port sends on an output on which a forward-ready band tile has appended its SEAM (R348). -/
def State.seamed (s : State) (k : BitVec 4) : Bool :=
  (s.curTile.reel.map (·.forwardReady)).getD false && match s.cur.port k with
  | .output _ => true
  | _ => false

/-- A send of `n b` entries `es b`: the pending store fault of a release, the port checks and those of the
matrix array (R222), the wait of a release, then the entries, once the port has room for all of them (R196, R197). -/
def State.sendOp (s : State) (o : FmtQ) (vector : Bool) (es : Nat → List (BitVec 256 × BitVec 4)) : State :=
  s.takesFault o.ord fun s =>
    match s.writePort s.here s.ctx o.port with
    | none => s.trapChan o.port.toNat
    | some (room, b, cap) =>
      if vector && cap < 64 / b then s.trapChan o.port.toNat
      else if s.curTile.forwardPort s.ctx o.port || s.cur.viaHeld o.port then s.trapOpen Cause.chan
      else if s.seamed o.port then s.trapChan o.port.toNat
      else if s.curTile.drainPort s.ctx o.port then s.stall
      else s.awaits o.ord o.sco fun s =>
        if room < (es b).length then s.stall
        else (s.putPort s.here s.ctx o.port (es b)).retire

/-- `send` (R197). -/
def execSend (g : Guard) (o : FmtQ) (s : State) : Result :=
  .next (s.issue g fun s => s.sendOp o false fun _ => [((s.getS o.s1).zeroExtend 256, Kind.data)])

/-- `vsend` (R197): 64/b words, the first from byte 0. -/
def execVsend (g : Guard) (o : FmtQ) (s : State) : Result :=
  .next (s.issue g fun s =>
    let v := s.getV o.s1
    s.sendOp o true fun b => (List.range (64 / b)).map fun j =>
      (BitVec.ofNat 256 (field v (8 * b * j) (8 * b)), Kind.data))

/-- `tsend` (R197). -/
def execTsend (g : Guard) (o : FmtQ) (s : State) : Result :=
  .next (s.issue g fun s => s.sendOp o false fun _ => [((s.getS o.s1).zeroExtend 256, o.tok)])

/-! Receives (R199). -/

/-- The first entry that a `recv` or `vrecv` may not take, in order: its trap (R199). -/
def State.badEntry (s : State) (port : BitVec 4) : List Entry → Option State
  | [] => none
  | e :: rest =>
    if e.kind = Kind.err then
      -- the rule assigns sys.einfo the ERR word, in place of the port (R381)
      some (s.trap Cause.poison (e.word.truncate 64))
    else if e.kind ≠ Kind.data then some (s.trapChan e.kind.toNat)
    else s.badEntry port rest

/-- A receive of `n b` entries handed to `put` with the word size: port checks, eligibility, the kinds, then the taking
(R196, R199). `any` accepts entries of every kind. -/
def State.recvOp (s : State) (o : FmtQ) (vector any : Bool) (put : List Entry → Nat → State → State) : State :=
  match s.curTile.readPort s.ctx o.port with
  | none => s.trapChan o.port.toNat
  | some (q, b, cap) =>
    let n := if vector then 64 / b else 1
    if vector && cap < n then s.trapChan o.port.toNat
    else if s.curTile.operandPort s.ctx o.port || s.cur.viaHeld o.port then s.trapOpen Cause.chan
    else
      let head := q.take n
      match (if any then none else s.badEntry o.port head) with
      | some t => t
      | none =>
        if head.length < n then s.stall
        else put head b (s.takePort s.here s.ctx o.port n)

/-- The word of one entry taken. -/
def headWord (es : List Entry) : Word :=
  match es with
  | [] => 0
  | e :: _ => e.word.truncate 64

/-- The words of entries of b bytes, the first at byte 0 (R199). -/
def joinWords (b : Nat) (es : List Entry) : Vec :=
  BitVec.ofNat 512 (es.foldr (fun e acc => e.word.toNat % 2 ^ (8 * b) + 2 ^ (8 * b) * acc) 0)

/-- `recv` (R199). -/
def execRecv (g : Guard) (o : FmtQ) (s : State) : Result :=
  .next (s.issue g (·.recvOp o false false fun es _ s => s.writeS o.d (headWord es)))

/-- `vrecv` (R199). -/
def execVrecv (g : Guard) (o : FmtQ) (s : State) : Result :=
  .next (s.issue g (·.recvOp o true false fun es b s => s.writeV o.d (joinWords b es)))

/-- `trecv` (R199): an entry of any kind. -/
def execTrecv (g : Guard) (o : FmtQ) (s : State) : Result :=
  .next (s.issue g (·.recvOp o false true fun es _ s => s.writeS o.d (headWord es)))

/-- `tpeek` (R199): the kind of the head, which is not taken. -/
def execTpeek (g : Guard) (o : FmtQ) (s : State) : Result :=
  .next (s.issue g fun s =>
    match s.curTile.readPort s.ctx o.port with
    | none => s.trapChan o.port.toNat
    | some (q, _, _) =>
      if s.curTile.operandPort s.ctx o.port || s.cur.viaHeld o.port then s.trapOpen Cause.chan
      else match q.head? with
      | none => s.stall
      | some e => s.writeS o.d (e.kind.zeroExtend 64))

/-- `chk` (R200). A read stream's port is answered from its queue for every TOK, by the rule's first sentence; its last, which
raises CHAN for TOK ≠ 0 on a stream port, is read as one of the write stream ports that stand before it (log entry 100). -/
def execChk (g : Guard) (o : FmtQ) (s : State) : Result :=
  .next (s.issue g fun s =>
    if s.cur.viaHeld o.port then s.trapOpen Cause.chan
    else match s.curTile.readPort s.ctx o.port with
    | some (q, _, _) => s.writeP o.d (Word.mask (q.any fun e => e.kind == o.tok))
    | none => match s.cur.port o.port with
      | .closed => s.writeP o.d 0
      | _ =>
        if o.tok ≠ 0 then s.trapChan o.port.toNat
        else match s.writePort s.here s.ctx o.port with
          | none => s.writeP o.d 0
          | some (room, _, _) => s.writeP o.d (Word.mask (decide (0 < room))))

/-! Bindings (R201). -/

/-- The binding that `bind` names by its kind and number. -/
def bindingOf (kind n : Nat) : Binding :=
  match kind with
  | 1 => .input n
  | 2 => .output n
  | _ => .stream n

/-- Whether a number names a valid sink, source or generator of the tile (R201). -/
def Tile.endpointValid (x : Tile) (kind n : Nat) : Bool :=
  match kind with
  | 1 => n < 32 && (x.cfg.sinkCfg n).valid
  | 2 => n < 32 && (x.cfg.entryOfSource n).isSome
  | _ => n < 4

/-- Whether a number names a source endpoint of a circuit that no ROUTE frame lays: of a reel, or to another package (R340,
R418). -/
def State.outerSource (s : State) (kind n : Nat) : Bool :=
  kind == 2 && decide (n < 32) && ((s.reelSinkOf s.here n).isSome || (s.hub.circuitOfSource s.here n).isSome)

/-- Whether some port of the tile holds a binding. -/
def Tile.holds (x : Tile) (b : Binding) : Bool :=
  (List.finRange 4).any fun c => x.ctxs[c].ports.toList.contains b

/-- `bind` (R201, R96). -/
def execBind (g : Guard) (o : FmtQ) (s : State) : Result :=
  .next (s.issue g fun s =>
    let c := s.cur
    let kind := o.m7.toNat % 4
    let n := o.imm.toNat % 4096
    let b := bindingOf kind n
    let k := o.port
    let busy : Bool := match c.port k with
      | .closed => false
      | .start => !(c.startQ[k.toNat]'k.isLt).isEmpty
      | _ => true
    if s.cur.viaHeld k then s.trapOpen Cause.chan
    else if busy || !(s.curTile.endpointValid kind n || s.outerSource kind n) || s.curTile.holds b then s.trapChan k.toNat
    else s.modCur fun c =>
      { c with ports := c.ports.set k.toNat b k.isLt, startPorts := c.startPorts &&& ~~~(1#16 <<< k.toNat) }.retire)

/-- `unbind` (R201). -/
def execUnbind (g : Guard) (o : FmtQ) (s : State) : Result :=
  .next (s.issue g fun s =>
    let x := s.curTile
    let k := o.port
    let refused : Bool := match s.cur.port k with
      | .closed | .start => true
      | .input e => !(x.sink e).queue.isEmpty
      | .stream g => (x.agens[g]).st == AgenState.running
      | .output _ => false
    if s.cur.viaHeld k then s.trapOpen Cause.chan
    else if refused then s.trapChan k.toNat
    else s.modCur fun c => { c with ports := c.ports.set k.toNat .unbound k.isLt }.retire)

/-! Routers and sinks. -/

/-- An entry as the router delivers it: reserved kinds and parity failures become ERR (R175). -/
def Entry.routed (e : Entry) (parityFail : Bool) : Entry :=
  if parityFail then { e with word := errWord Cause.poison 0, kind := Kind.err }
  else if 13 ≤ e.kind.toNat then { e with word := errWord Cause.chan e.kind.toNat, kind := Kind.err }
  else e

/-- Entries of a whole CFG group (R176). -/
def Settings.cfgGroup (c : Settings) (k : Nat) : Nat := 32 / c.sinkBytes k

/-- A load fault that a tile reports while it runs (R59, R389), with the frame header as INFO. -/
def State.loadFault (s : State) (t : TileId) (header : Word) : State := s.tileFault t Cause.ill 0 0 0 header 0

/-- An entry that reaches a sink, with what it does there: one of another kind that interrupts a CFG group is a load fault (R176). -/
def State.afterGroup (s : State) (t : TileId) (k : Nat) (e : Entry) (effect : State → State) : State :=
  let y := (s.tile t).sink k
  if k < 32 && !y.cfg.isEmpty && e.kind ≠ Kind.cfg && y.cfg.length < (s.tile t).cfg.cfgGroup k then
    s.loadFault t ((y.cfg.headD ⟨0, 0, .direct⟩).word.truncate 32 |>.zeroExtend 64)
  else effect s

/-- An entry delivered to a sink that is no typed join, or by its converter: CFG groups are collected whole (R176). -/
def State.deliver (s : State) (t : TileId) (k : Nat) (e : Entry) : State :=
  s.afterGroup t k e fun s =>
    let s := s.modTile t (·.modSink k (·.accept (decide (k < 32)) e))
    -- CFG and SEAM are taken at the sink, which returns the credit (R170, R174, R176)
    if k < 32 && (e.kind = Kind.cfg || e.kind = Kind.seam) && e.origin = .channel then s.returnCredits t k 1 else s

/-- Whether a CFG entry finds a whole group that has not been applied yet. -/
def Tile.cfgFull (x : Tile) (k : Nat) (e : Entry) : Bool :=
  decide (k < 32) && e.kind == Kind.cfg && decide (x.cfg.cfgGroup k ≤ (x.sink k).cfg.length)

/-- Whether words that would cross into a tile's region are held back: it is on its way into a pause, or paused (R391). -/
def State.heldBack (s : State) (t : TileId) : Bool :=
  match s.regionOf t with
  | some r => r.phase != .running && r.phase != .installed
  | none => false

/-- Whether a tile's region is on its way into a pause (R391). -/
def State.pausing (s : State) (t : TileId) : Bool :=
  match (s.regionOf t).map Region.phase with
  | some (Phase.pausing _ _ _) => true
  | _ => false

/-- CHANNEL_ENTRY_ARRIVE (R172): the next entry in flight to a sink arrives: MARK is noted and stops the tile (R391, R392), a typed join
takes everything else for its converter, and at any other sink of a band tile a SEAM and what follows it are held (R347). Of all entries
only the words of Dyfold circuits count as input units of the governor, not what a reel's feeder or an engine sends into a port (DEDUCED
from R98, log entry 20). -/
def execChannelEntryArrive (t : TileId) (k : Fin 64) (parityFail : Bool) (s : State) : Result :=
  let x := s.tile t
  let y := x.sink k
  match y.inflight with
  | [] => .next s.stall
  | e :: rest =>
    -- an entry that travels as a packet has to be granted (R245, R340)
    if y.inflight.length ≤ y.sent.length then .next s.stall else
    let e := e.routed parityFail
    let typed := (x.cfg.sinkCfg k).typed
    let held := !typed && x.reel.isSome && (!y.held.isEmpty || e.kind == Kind.seam)
    -- a word that crosses into the region is an input unit of the governor (R98)
    let units := if (s.hub.circuitOfSink t k).isSome then 1 else 0
    if !(x.cfg.sinkCfg k).valid && e.kind ≠ Kind.mark then
      -- a sink that a configuration swap has left without settings (R359)
      .next (s.modTile t fun x => ({ x with discard := if x.discard = Word.ones then x.discard else x.discard + 1 }).modSink k fun y =>
        { y with inflight := rest })
    else if !typed && !held && x.cfgFull k e then .next s.stall
    else if s.admits t units < units || (units != 0 && s.heldBack t) then .next s.stall
    else
    let s := (s.letIn t units).modTile t (·.modSink k fun y => { y with inflight := rest })
    if e.kind = Kind.mark then
      .next (s.modTile t fun x => { x.modSink k fun y => { y with marked := true } with stopping := x.stopping || (s.pausing t && !x.snapped) })
    else if held then
      let hold := fun (s : State) => s.modTile t (·.modSink k fun y => { y with held := y.held ++ [e] })
      .next (if y.held.isEmpty then s.afterGroup t k e hold else hold s)
    else if typed then .next (s.modTile t (·.modSink k fun y => { y with convIn := y.convIn ++ [e] }))
    else .next (s.deliver t k e)

/-- CREDIT_RETURN (R170, R171): a credit reaches a source; that of a rendezvous comes with its sink's request. -/
def execCreditReturn (t : TileId) (e : Nat) (s : State) : Result :=
  let src := (s.tile t).source e
  if 0 < src.returning then
    .next (s.modTile t (·.modSource e fun y => { y with credits := y.credits + 1, returning := y.returning - 1 }))
  else match s.sinkOf t e with
    | none => .next s.stall
    | some (u, k) =>
      let x := s.tile u
      if x.cfg.capacity k = 0 && x.sinkAsks k && !(x.sink k).asked then
        let s := s.modTile u (·.modSink k fun y => { y with asked := true })
        .next (s.modTile t (·.modSource e fun y => { y with credits := y.credits + 1 }))
      else .next s.stall

/-! Typed joins (R177-R179). -/

/-- One element of a channel word converted: the exact value times the scale, rounded once (R77). -/
def joinElement (src dst : Ty) (scale : BitVec 32) (rm : RM) (x : Nat) : Nat :=
  roundTo dst false ((valueOf src false x).mul (floatOf .fp32 scale.toNat)) rm

/-- Elements of the head of a converter, from `pos` on, packed until the word is full or the head is used up. -/
def packElements (src dst : Ty) (scale : BitVec 32) (rm : RM) (word : Nat) (total room : Nat) :
    Nat → Nat → BitVec 256 → Nat → Nat × BitVec 256 × Nat
  | 0, pos, acc, n => (pos, acc, n)
  | fuel + 1, pos, acc, n =>
    if total ≤ pos || room ≤ n then (pos, acc, n)
    else
      let x := word / 2 ^ (src.width * pos) % 2 ^ src.width
      let y := joinElement src dst scale rm x
      packElements src dst scale rm word total room fuel (pos + 1)
        (acc ||| (BitVec.ofNat 256 y <<< (dst.width * n))) (n + 1)

/-- Whether a SCALE word may be adopted: finite, not zero, bits [63:32] zero (R78). -/
def scaleValid (w : BitVec 256) : Bool :=
  field w 32 32 == 0 && match floatOf .fp32 (field w 0 32) with
  | .fin _ n _ _ => n != 0
  | _ => false

/-- TYPED_JOIN_CONVERT (R178): the converter of a sink takes what it can of its next entry, up to one outgoing word. In a band tile
a SEAM, once it has pushed out the partly filled word, is held, and what follows it waits (R347). -/
def execTypedJoinConvert (t : TileId) (k : Fin 64) (s : State) : Result :=
  let x := s.tile t
  let y := x.sink k
  let c := x.cfg.sinkCfg k
  let room := decide (y.used < x.cfg.capacity k) && !x.frozen
  let set := fun (f : Sink → Sink) (s : State) => s.modTile t (·.modSink k f)
  match y.convIn, c.srcTy, c.dstTy with
  | e :: rest, some src, some dst =>
    let consumed := fun (s : State) =>
      (set (fun y => { y with convIn := rest, convPos := 0 }) s).returnCredits t k (if e.origin = .channel then 1 else 0)
    let bits := 64 * c.lanes
    if !y.held.isEmpty then .next s.stall
    else if e.kind = Kind.data then
      if !room then .next s.stall
      else
        let per := bits / dst.width
        let (pos, acc, n) := packElements src dst y.scale c.rm e.word.toNat (bits / src.width) per (bits / src.width)
          y.convPos y.acc y.accN
        let s := if n = per then (set (fun y => { y with acc := 0, accN := 0 }) s).deliver t k ⟨acc, Kind.data, .joined⟩
          else set (fun y => { y with acc := acc, accN := n }) s
        if bits / src.width ≤ pos then .next (consumed s) else .next (set (fun y => { y with convPos := pos }) s)
    else if x.frozen then .next s.stall
    else if e.kind = Kind.scale then
      if scaleValid e.word then .next (consumed (set (fun y => { y with scale := e.word.truncate 32 }) s))
      else .next ((consumed s).tileFault t Cause.chan 1 0 0 (e.word.truncate 64) 0)
    else if x.reel.isSome && e.kind = Kind.seam && y.accN = 0 then
      .next (s.afterGroup t k e (set fun y => { y with convIn := rest, held := [e] }))
    else if !room || x.cfgFull k e then .next s.stall
    else if 0 < y.accN then
      .next ((set (fun y => { y with acc := 0, accN := 0 }) s).deliver t k ⟨y.acc, Kind.data, .joined⟩)
    else .next ((consumed s).deliver t k { e with origin := .joined })
  | _, _, _ => .next s.stall

/-! Router operators (R180-R186). -/

/-- An operator fault (R186): cause, the word, the tile and operator. -/
def State.opFault (s : State) (t : TileId) (o : Fin 8) (cause : BitVec 8) (info : Word) : State :=
  s.tileFault t cause 1 0 o.val info 0

/-- An operator takes the head of an input. -/
def State.opTake (s : State) (t : TileId) (o : Fin 8) (i : Nat) : State := s.takeSink t (opSink o i) 1

/-- An operator writes an entry to an output. -/
def State.opPut (s : State) (t : TileId) (o : Fin 8) (j : Nat) (e : Entry) : State :=
  s.emit t (opSource o j) e.word e.kind

/-- The fault of a control head `b` that is an ERR, with the ERR word as INFO, and of heads whose kinds do not go together:
how INFO holds the token kinds is not given, and it is a free value (R186, R389; log entry 3). -/
def State.kindFault (s : State) (t : TileId) (o : Fin 8) (b : Entry) : State :=
  if b.kind = Kind.err then s.opFault t o Cause.poison (b.word.truncate 64)
  else
    let (info, s) := s.freeWord
    s.opFault t o Cause.chan info

/-- STEER_FIRE (R181). -/
def execSteerFire (t : TileId) (o : Fin 8) (s : State) : Result :=
  let x := s.tile t
  if x.frozen || (x.cfg.ops[o]).kind ≠ .steer then .next s.stall
  else match x.opHead o 0, x.opHead o 1 with
    | none, some c => if c.kind = Kind.err then .next (s.kindFault t o c) else .next s.stall
    | some d, some c =>
      if c.kind = Kind.err then .next (s.kindFault t o c)
      else if d.isData then
        if c.kind ≠ Kind.data then .next (s.kindFault t o c)
        else
          let j := if c.word.getLsbD 0 then 1 else 0
          if !x.opCredit o j then .next s.stall
          else .next (((s.opTake t o 0).opTake t o 1).opPut t o j d)
      else if c.kind ≠ d.kind then .next (s.kindFault t o c)
      else if !(x.opCredit o 0 && x.opCredit o 1) then .next s.stall
      else .next ((((s.opTake t o 0).opTake t o 1).opPut t o 0 d).opPut t o 1 d)
    | _, _ => .next s.stall

/-- MERGE_FIRE (R182). -/
def execMergeFire (t : TileId) (o : Fin 8) (s : State) : Result :=
  let x := s.tile t
  if x.frozen || (x.cfg.ops[o]).kind ≠ .merge then .next s.stall
  else match x.opHead o 2 with
    | none => .next s.stall
    | some c =>
      if c.kind = Kind.err then .next (s.kindFault t o c)
      else if c.kind = Kind.data then
        let i := if c.word.getLsbD 0 then 1 else 0
        match x.opHead o i with
        | none => .next s.stall
        | some d =>
          if !d.isData then .next (s.kindFault t o c)
          else if !x.opCredit o 0 then .next s.stall
          else .next (((s.opTake t o 2).opTake t o i).opPut t o 0 d)
      else
        -- a data head that is no token of kind k is a fault as soon as it stands there
        let bad := fun (h : Option Entry) => match h with
          | some d => d.isData || d.kind != c.kind
          | none => false
        if bad (x.opHead o 0) then .next (s.kindFault t o c)
        else if bad (x.opHead o 1) then .next (s.kindFault t o c)
        else match x.opHead o 0, x.opHead o 1 with
          | some d, some _ =>
            if !x.opCredit o 0 then .next s.stall
            else .next ((((s.opTake t o 0).opTake t o 1).opTake t o 2).opPut t o 0 d)
          | _, _ => .next s.stall

/-- CARRY_FIRE (R183). -/
def execCarryFire (t : TileId) (o : Fin 8) (s : State) : Result :=
  let x := s.tile t
  let setLoop := fun (b : Bool) (s : State) => s.modTile t fun x => { x with loops := x.loops.set o b }
  if x.frozen || (x.cfg.ops[o]).kind ≠ .carry then .next s.stall
  else if !x.loops[o] then
    match x.opHead o 0 with
    | none => .next s.stall
    | some d =>
      if !x.opCredit o 0 then .next s.stall
      else .next (setLoop d.isData ((s.opTake t o 0).opPut t o 0 d))
  else match x.opHead o 2 with
    | none => .next s.stall
    | some c =>
      if c.kind ≠ Kind.data then .next (s.kindFault t o c)
      else if !c.word.getLsbD 0 then .next (setLoop false (s.opTake t o 2))
      else match x.opHead o 1 with
        | none => .next s.stall
        | some d =>
          if !d.isData then .next (s.kindFault t o c)
          else if !x.opCredit o 0 then .next s.stall
          else .next (((s.opTake t o 2).opTake t o 1).opPut t o 0 d)

/-- FORK_FIRE (R184). -/
def execForkFire (t : TileId) (o : Fin 8) (s : State) : Result :=
  let x := s.tile t
  let outs := List.range (x.cfg.ops[o]).nout
  if x.frozen || (x.cfg.ops[o]).kind ≠ .fork then .next s.stall
  else match x.opHead o 0 with
    | none => .next s.stall
    | some d =>
      if !outs.all (x.opCredit o) then .next s.stall
      else .next (outs.foldl (fun s j => s.opPut t o j d) (s.opTake t o 0))

end Sys2Proof.Machine
end

