-- ==== Sys2Proof/Machine/Progress.lean ====
section
/-! DEFINITION. Progress counters (R236-R240), their watches and the LATE record (R254, R258, R259), beacons, and the
instructions of major 0x90 (R261-R267). -/

namespace Sys2Proof.Machine

/-! Counters and beacons. -/

/-- The declared rate of a DRATE field, in units of 2^-16 per 1024 cycles; 0 for none (R238). -/
def declOf (b : BitVec 14) : BitVec 32 :=
  if field b 0 10 = 0 then 0 else BitVec.ofNat 32 ((32 + field b 0 5) * 2 ^ field b 5 5 / 2 ^ 5)

/-- STEP of a beacon setting (R238). -/
def stepOf (b : BitVec 14) : Nat := 2 ^ field b 10 4

/-- The rate in use, in units of 2^-16 (R237). -/
def Counter.rate (c : Counter) : BitVec 32 := if c.decl = 0 then c.est else if c.decl.toNat < 64 then 64 else c.decl

/-- A counter as install leaves it under a beacon setting (R237). -/
def Counter.installed (b : BitVec 14) : Counter :=
  let c := { Counter.cleared with decl := declOf b }
  { c with est := c.rate }

/-- A counter of a tile changed. -/
def Tile.modCounter (x : Tile) (g : Fin 16) (f : Counter → Counter) : Tile :=
  { x with counters := x.counters.set g (f x.counters[g]) }

/-- One beacon to an engine, or to every subscriber (R240). -/
def State.sendBeacon (s : State) (t : TileId) (g : Fin 16) (only : Option (Fin 8 × Fin 64)) : State :=
  let c := (s.tile t).counters[g]
  let step := s.dies[t.dieIx].step
  let dests := match only with
    | some e => [e]
    | none => c.subs
  let s := dests.foldl (fun s e => { s with
    beaconsOut := s.beaconsOut ++ [⟨e.1, e.2, t, g, c.value, c.rate, step, 0, s.nextSeq, false⟩]
    nextSeq := s.nextSeq + 1 }) s
  match only with
  | some _ => s
  | none => s.modTile t (·.modCounter g fun c => { c with dirty := none })

/-- The beacon of a change of VALUE that crosses a multiple of STEP (R240). -/
def State.stepBeacon (s : State) (t : TileId) (g : Fin 16) (was : BitVec 48) : State :=
  let x := s.tile t
  let step := stepOf (x.cfg.beacon[g])
  if was.toNat / step = (x.counters[g]).value.toNat / step then s else s.sendBeacon t g none

/-- VALUE set; ACC rises by the amount if `counts` (R239, R262, R263). An ACC beyond 48 bits is a free value (log entry
3). -/
def State.setCounter (s : State) (t : TileId) (g : Fin 16) (v : BitVec 48) (counts : Bool) : State :=
  let c := (s.tile t).counters[g]
  if v = c.value then s
  else
    let sum := if counts then c.acc.toNat + (v.toNat - c.value.toNat) else c.acc.toNat
    let (acc, s) := if sum < 2 ^ 48 then (BitVec.ofNat 48 sum, s) else
      let (w, s) := s.freeWord
      (w.setWidth 48, s)
    s.modTile t fun x => x.modCounter g fun c =>
      { c with value := v, acc := acc, dirty := some (c.dirty.getD x.cycle.toNat) }

/-! Events and watches. -/

/-- A new entry of the event record, or one more LOST (R259); sys.evpend.LATE is set in either case. -/
def Ctx.event (c : Ctx) (e : EventEntry) : Ctx :=
  let c := { c with evLate := true }
  if c.events.length < 8 then { c with events := c.events ++ [e] }
  else { c with lost := if c.lost = 255 then 255 else c.lost + 1 }

/-- The LATE entry (R259). -/
def lateEntry (g : Fin 16) (cycles : Nat) (mark : BitVec 48) (id : Word) (value : BitVec 48) : EventEntry where
  w0 := BitVec.ofNat 64 (0x12 * 2 ^ 56 + g.val * 2 ^ 52 + min cycles (2 ^ 32 - 1))
  w1 := mark.zeroExtend 64
  w2 := id
  w3 := value.zeroExtend 64

/-- The context that records a counter's events: its owner, or context 0 of the tile (R258). -/
def Tile.recorder (x : Tile) (g : Fin 16) : Fin 4 := (x.cfg.counterOwner[g]).getD 0

/-- Event(LATE, …) of a watch (R258). -/
def State.recordLate (s : State) (t : TileId) (g : Fin 16) (cycles : Nat) (mark : BitVec 48) (id : Word) : State :=
  let x := s.tile t
  s.modCtx t (x.recorder g) fun c => c.event (lateEntry g cycles mark id (x.counters[g]).value)

/-- Order of mark, then of id (R265); where the manual gives no order, the model takes this one (log entry 19). -/
def watchBefore (m m' : BitVec 48) (id id' : Word) : Bool := m.toNat < m'.toNat || (m == m' && id.toNat ≤ id'.toNat)

/-- Insertion in the order of mark and id. -/
def insertCovered (a : Covered) : List Covered → List Covered
  | [] => [a]
  | b :: rest => if watchBefore a.mark b.mark a.id b.id then a :: b :: rest else b :: insertCovered a rest

/-- The covered watches in the order of R265. -/
def sortCovered : List Covered → List Covered
  | [] => []
  | a :: rest => insertCovered a (sortCovered rest)

/-- Insertion of a watch in the order of mark and id. -/
def insertWatch (a : Watch) : List Watch → List Watch
  | [] => [a]
  | b :: rest => if watchBefore a.mark b.mark a.id b.id then a :: b :: rest else b :: insertWatch a rest

/-- Watches in the order of mark and id. -/
def sortWatches : List Watch → List Watch
  | [] => []
  | a :: rest => insertWatch a (sortWatches rest)

/-- What a `gadv` or `gset`, or a swap of a slot counter, does to the watches whose mark it reaches: LATE for those whose
transfer has not ended, and a FAILED watch removed (R256, R258, R262, R263). -/
def State.reachMarks (s : State) (t : TileId) (g : Fin 16) (was : BitVec 48) : State :=
  let x := s.tile t
  let v := (x.counters[g]).value.toNat
  let newly := fun (w : Watch) => w.g == g && !w.failed && !w.late && decide (w.mark.toNat ≤ v)
  let gone := fun (w : Watch) => w.g == g && w.failed && decide (was.toNat < w.mark.toNat ∧ w.mark.toNat ≤ v)
  let s := (sortWatches (x.watches.filter newly)).foldl (fun s w => s.recordLate t g 0 w.mark w.id) s
  s.modTile t fun x => { x with watches :=
    (x.watches.filter fun w => !gone w).map fun w => if newly w then { w with late := true } else w }

/-- Whether a `gwait` on a counter waits for the watch (R265). -/
def Watch.coveredBy (w : Watch) (g : Fin 16) (value : BitVec 48) : Bool := w.g == g && decide (w.mark.toNat ≤ value.toNat)

/-- The end of a `gwait` once no watch that it covers is left: its LATE entries, and the trap of the first FAILED one after
its full effect (R265). A `gwait` that traps is not counted among the retired instructions (R122). -/
def State.settleGwait (s : State) (t : TileId) (k : Fin 4) : State :=
  let x := s.tile t
  match x.ctxs[k].wait with
  | .gwait g seen _ =>
    if x.snapped || x.watches.any (·.coveredBy g (x.counters[g]).value) then s
    else
      let all := sortCovered seen
      let s := all.foldl (fun s w => if w.late then s.recordLate t g w.cycles w.mark w.id else s) s
      let s := s.modCtx t k fun c => { c with wait := .none }
      match all.find? (·.failed) with
      | none => s.modCtx t k fun c => { c with retired := c.retired + 1 }
      | some w => s.trapIn t k Cause.xfer (s.ctxAt t k).pc 0 w.id
  | _ => s

/-- The watch of a transfer that has ended: a FAILED one stays unless a `gwait` covers it; every other one is removed
(R254, R256, R265). -/
def State.endWatch (s : State) (t : TileId) (id : Word) (failed : Bool) : State :=
  let x := s.tile t
  match x.watches.find? (·.id == id) with
  | none => s
  | some w =>
    let drop := fun (x : Tile) => { x with watches := x.watches.filter fun v => v.id != id }
    let waiter := (List.finRange 4).find? fun k => match x.ctxs[k].wait with
      | .gwait g _ _ => w.coveredBy g (x.counters[g]).value
      | _ => false
    match waiter with
    | some k =>
      let s := s.modTile t drop
      let s := s.modCtx t k fun c => match c.wait with
        | .gwait g seen since =>
          { c with wait := .gwait g (seen ++ [⟨w.mark, id, w.byWait, x.cycle.toNat - since, failed⟩]) since }
        | _ => c
      s.settleGwait t k
    | none =>
      if failed then s.modTile t fun x => { x with watches := x.watches.map fun v => if v.id = id then { v with failed := true } else v }
      else s.modTile t drop

/-! Instructions. -/

/-- The counter that the S2 field names. -/
def counterOf (o : FmtQ) : Fin 16 := ⟨o.s2.toNat % 16, Nat.mod_lt _ (by decide)⟩

/-- An instruction on a counter is its owner's alone (R236). -/
def State.ownCounter (s : State) (g : Fin 16) (effect : State → State) : State :=
  if s.curTile.cfg.counterOwner[g] = some s.ctx then effect s else s.trapIll

/-- S(S1) + IMM16, modulo 2^64. -/
def State.amount (s : State) (o : FmtQ) : Nat := (s.getS o.s1 + o.imm.zeroExtend 64).toNat

/-- `gadv` (R262). -/
def execGadv (g : Guard) (o : FmtQ) (s : State) : Result :=
  .next (s.issue g fun s =>
    let k := counterOf o
    s.ownCounter k fun s =>
      let was := (s.curTile.counters[k]).value
      let v := BitVec.ofNat 48 (min (was.toNat + s.amount o) (2 ^ 48 - 1))
      (((s.setCounter s.here k v true).reachMarks s.here k was).stepBeacon s.here k was).retire)

/-- `gset` (R263). -/
def execGset (g : Guard) (o : FmtQ) (s : State) : Result :=
  .next (s.issue g fun s =>
    let k := counterOf o
    s.ownCounter k fun s =>
      let was := (s.curTile.counters[k]).value
      let v := (s.getS o.s1).setWidth 48
      if v = was then s.retire
      else (((s.setCounter s.here k v false).reachMarks s.here k was).sendBeacon s.here k none).retire)

/-- `gget` (R264). -/
def execGget (g : Guard) (o : FmtQ) (s : State) : Result :=
  .next (s.issue g fun s =>
    let k := counterOf o
    s.ownCounter k fun s =>
      let c := s.curTile.counters[k]
      s.writeS o.d (match o.m7.toNat % 4 with
        | 0 => c.value.zeroExtend 64
        | 1 => c.rate.zeroExtend 64
        | _ => c.decl.zeroExtend 64))

/-- `gwait` (R265): VALUE is raised to the mark and the program counter goes on; the context then waits until every watch that
it covers has been removed, a FAILED one at once. -/
def execGwait (g : Guard) (o : FmtQ) (s : State) : Result :=
  .next (s.issue g fun s =>
    let k := counterOf o
    s.ownCounter k fun s =>
      let t := s.here
      let was := (s.curTile.counters[k]).value
      let v := BitVec.ofNat 48 (max was.toNat (min (s.amount o) (2 ^ 48 - 1)))
      let s := (s.setCounter t k v true).stepBeacon t k was
      let x := s.curTile
      let seen := (x.watches.filter fun w => w.coveredBy k v && w.failed).map fun w => ⟨w.mark, w.id, false, 0, true⟩
      let s := s.modTile t fun x => { x with watches :=
        (x.watches.filter fun w => !(w.coveredBy k v && w.failed)).map fun w =>
          if (w.coveredBy k v && !w.late) then { w with late := true, byWait := true } else w }
      let s := s.modCur fun c => { c with pc := c.pc + 1, wait := .gwait k seen x.cycle.toNat }
      s.settleGwait t s.ctx)

/-- `grate` (R266). -/
def execGrate (g : Guard) (o : FmtQ) (s : State) : Result :=
  .next (s.issue g fun s =>
    let k := counterOf o
    s.ownCounter k fun s =>
      let r := (s.getS o.s1).setWidth 32
      ((s.modCurTile (·.modCounter k fun c => { c with decl := r })).sendBeacon s.here k none).retire)

/-- `glate` (R267). -/
def execGlate (g : Guard) (o : FmtQ) (s : State) : Result :=
  .next (s.issue g fun s => s.writeS o.d (match s.cur.events with
    | [] => 0
    | e :: _ => match o.imm.toNat % 4 with
      | 0 => e.w0
      | 1 => e.w1
      | 2 => e.w2
      | _ => e.w3))

/-- `glate.pop` (R267). -/
def execGlatePop (g : Guard) (o : FmtQ) (s : State) : Result :=
  .next (s.issue g fun s => s.modCur fun c =>
    let left := c.events.tail
    ({ c with events := left, lost := 0 }.setS o.d (BitVec.ofNat 64 (c.lost.toNat * 2 ^ 8 + left.length))).retire)

/-! Happenings. -/

/-- EndWindow (R239). -/
def Counter.endWindow (c : Counter) : Counter :=
  let d : Int := min c.acc.toNat 65535 * 2 ^ 16
  let est : Int := c.est.toNat
  let est := est + (d - est).tdiv 8
  let est := min (2 ^ 32 - 1) (max 64 est)
  { c with est := BitVec.ofInt 32 est, acc := 0, windows := c.windows + 1 }

/-- END_WINDOW (R239, R240): a window of the tile has ended; a beacon follows where the rate in use changes. -/
def execEndWindow (t : TileId) (g : Fin 16) (s : State) : Result :=
  let x := s.tile t
  let c := x.counters[g]
  if !x.awake || x.snapped || x.cycle.toNat / 1024 ≤ c.windows then .next s.stall
  else
    let u := s.modTile t (·.modCounter g Counter.endWindow)
    if c.endWindow.rate = c.rate then .next u else .next (u.sendBeacon t g none)

/-- BEACON_TIMEOUT (R240): VALUE has changed and no beacon has been sent for 2,048 cycles since. -/
def execBeaconTimeout (t : TileId) (g : Fin 16) (s : State) : Result :=
  let x := s.tile t
  match (x.counters[g]).dirty with
  | none => .next s.stall
  | some since => .next (if !x.snapped && decide (since + 2048 ≤ x.cycle.toNat) then s.sendBeacon t g none else s.stall)

end Sys2Proof.Machine
end

