-- ==== Sys2Proof/Machine/Streams.lean ====
section
/-! DEFINITION. Address generators (R205-R212): their elements, issued in order and performed, where they go to slices, in the
order of each slice (R316). -/

namespace Sys2Proof.Machine

/-! Generators. -/

/-- The generator of a stream. -/
def Tile.agen (x : Tile) (g : Fin 4) : Agen := x.agens[g]

/-- A generator changed. -/
def Tile.modAgen (x : Tile) (g : Fin 4) (f : Agen → Agen) : Tile := { x with agens := x.agens.set g (f x.agens[g]) }

/-- Number of dimensions in use, 1-4 (R205). -/
def AgenCfg.counts (a : AgenCfg) : List Nat := a.count.toList.take a.dims

/-- Elements of a stream. -/
def AgenCfg.total (a : AgenCfg) : Nat := a.counts.foldl (· * ·) 1

/-- The byte offset of an element: Σ ik × STRIDEk, i0 varying fastest (R207). -/
def streamOffset (pos : Nat) : List Nat → List Int → Int
  | c :: cs, st :: sts => (pos % c : Nat) * st + streamOffset (pos / c) cs sts
  | _, _ => 0

/-- The address of an element, modulo 2^64. -/
def AgenCfg.address (a : AgenCfg) (base pos : Nat) : Nat :=
  ((base + streamOffset pos a.counts a.stride.toList) % 2 ^ 64).toNat

/-- The largest enabled m for which dimensions 1 to m all end at an element (R207). -/
def AgenCfg.eodAfter (a : AgenCfg) (pos : Nat) : Option Nat :=
  ((List.range a.dims).reverse.find? fun m =>
    a.eodMask.getLsbD m && (pos + 1) % ((a.counts.take (m + 1)).foldl (· * ·) 1) == 0).map (· + 1)

/-- Bytes that an element touches; an I4 element lies in the low half of its byte (log entry 14). -/
def elementBytes (ty : Ty) : Nat := max 1 (ty.width / 8)

/-- The stream's scope (R211). -/
def AgenCfg.scope (a : AgenCfg) : Scope := if a.mode < 3 then .tile else .pkg

/-- Whether a port of a context is bound to a stream. -/
def Ctx.hasStream (c : Ctx) (g : Fin 4) : Bool := c.ports.toList.contains (.stream g.val)

/-- The generator that IMM16[1:0] names. -/
def genOf (o : FmtQ) : Fin 4 := ⟨o.imm.toNat % 4, Nat.mod_lt _ (by decide)⟩

/-- The BASE of a generator's descriptor set (R212). -/
def Settings.setAgenBase (c : Settings) (k : Fin 4) (base : Nat) : Settings :=
  { c with agen := c.agen.set k { c.agen[k] with base := base } }

/-- `agrun` (R211, R212): after its earlier accesses have performed at the stream's scope. The cause of an earlier run goes with its
counters (DESIGN CHOICE, log entry 109). -/
def execAgrun (g : Guard) (o : FmtQ) (s : State) : Result :=
  .next (s.issue g (·.afterStoreFault fun s =>
    let k := genOf o
    let a := s.curTile.cfg.agen[k]
    if !s.cur.hasStream k then s.trapOpen Cause.chan
    else if (s.curTile.agen k).st = .running || !s.cur.performed a.scope then s.stall
    else
      -- BASE is that of the descriptor from now on (log entry 108)
      let base := if o.s1 = 0 then a.base else (s.getS o.s1).toNat % 2 ^ 56
      (s.modCurTile fun x => { x with cfg := x.cfg.setAgenBase k base }.modAgen k fun y => { y with
        st := .running, cause := 0, completed := 0, pos := 0, base := base, acc := 0, accN := 0, walking := false
        parts := [], spans := [], taken := [], user := s.ctx }).retire))

/-- A generator stopped (R212): elements not issued are dropped, as is a word not yet full (log entry 91); reads under way are
discarded, stores issued still perform. -/
def Agen.stop (y : Agen) (reads : Bool) : Agen :=
  { y with st := .idle, acc := 0, accN := 0, walking := false, parts := [], spans := [], taken := []
           flight := if reads then [] else y.flight.map fun e => { e with own := false } }

/-- `agstop` (R212). -/
def execAgstop (g : Guard) (o : FmtQ) (s : State) : Result :=
  .next (s.issue g fun s =>
    let k := genOf o
    if !s.cur.hasStream k then s.trapOpen Cause.chan
    else if (s.curTile.agen k).st = .running then
      (s.modCurTile fun x => x.modAgen k fun y => y.stop (x.cfg.agen[k]).reads).retire
    else s.retire)

/-- The word that `agstat` answers (R212). -/
def Agen.status (a : Agen) : Word :=
  BitVec.ofNat 64 (a.completed % 2 ^ 48 * 2 ^ 16 + a.cause.toNat * 2 ^ 8 + match a.st with
    | .idle => 0
    | .running => 1
    | .done => 2
    | .fault => 3)

/-- `agstat` (R212). -/
def execAgstat (g : Guard) (o : FmtQ) (s : State) : Result :=
  .next (s.issue g fun s =>
    let k := genOf o
    if !s.cur.hasStream k then s.trapOpen Cause.chan else s.writeS o.d (s.curTile.agen k).status)

/-! Scratch as streams and engines reach it. -/

/-- Whether bytes of scratch lie in banks that a context owns (R156). -/
def Tile.streamOwns (x : Tile) (c : Fin 4) (a n : Nat) : Bool := x.owned c a n

/-- A scratch byte range as the tile holds it, past every store queue. -/
def Tile.scratchPlain (x : Tile) (half : Bool) (a n : Nat) : Nat :=
  ofBytes ((List.range n).map fun i => x.scratch.read (x.place half (a + i)))

/-- Whether the range meets an uncorrectable error (R161). -/
def Tile.scratchBadAt (x : Tile) (half : Bool) (a n : Nat) : Bool :=
  (List.range n).any fun i => x.scratchBad.contains (x.place half (a + i) / 8)

/-! How elements complete, in their order. -/

/-- An element read enters its port word; a full word, the tokens after the element, and at the end the last ones, follow one another
into the port's queue (R207, R208); the word of an EOD or EOT is 0 (DESIGN CHOICE, log entry 125). Where the stream ends with neither an
EOD nor an EOT, its last word goes out partly filled all the same (DESIGN CHOICE, log entry 91). -/
def Agen.gather (y : Agen) (a : AgenCfg) (value : Nat) : Agen :=
  let w := a.ty.width
  let acc := y.acc ||| (BitVec.ofNat 256 (value % 2 ^ w) <<< (w * y.accN))
  let n := y.accN + 1
  let last := decide (y.completed + 1 = a.total)
  let eod := a.eodAfter y.completed
  let flush := n * w = 8 * a.word || eod.isSome || last
  let es : List Entry := (if flush then [⟨acc, Kind.data, .direct⟩] else []) ++
    (match eod with
      | some m => [⟨0, BitVec.ofNat 4 m, .direct⟩]
      | none => []) ++
    (if last && a.eot then [⟨0, Kind.eot, .direct⟩] else [])
  Agen.feed { y with
    acc := if flush then 0 else acc
    accN := if flush then 0 else n
    completed := y.completed + 1
    out := y.out ++ es
    st := if last then .done else y.st }

/-- An element stored; after the last one the rest of its word is discarded and the generator is DONE (R209). Words sent behind that
one go too, and stores that an earlier run has left under way do not count for DONE (DESIGN CHOICE, log entry 109). -/
def Agen.stored (y : Agen) (a : AgenCfg) : Agen :=
  let y := { y with completed := y.completed + 1 }
  if y.completed = a.total then { y with st := .done, taken := [], accN := 0 } else y

/-- A stream that ends FAULT: a read stream flushes its partial word and appends an ERR with the element's address (R210). -/
def Agen.faulted (y : Agen) (a : AgenCfg) (cause : BitVec 8) (addr : Nat) : Agen :=
  let part : List Entry := if a.reads && 0 < y.accN then [⟨y.acc, Kind.data, .direct⟩] else []
  let err : List Entry := if a.reads then [⟨errWord cause addr, Kind.err, .direct⟩] else []
  Agen.feed { y with
    st := .fault, cause := cause, acc := 0, accN := 0, walking := false, parts := [], spans := [], taken := []
    flight := y.flight.filter fun e => !e.own, out := y.out ++ part ++ err }

/-- The elements of the run that have performed complete in element order, up to one that has failed, which stops the stream
(R210). -/
def Agen.settle (y : Agen) (a : AgenCfg) : Nat → Agen
  | 0 => y
  | fuel + 1 => match y.flight.find? (·.own) with
    | none => y
    | some e => match e.fails with
      | some c => y.faulted a c e.addr
      | none =>
        if e.stage ≠ .done then y
        else
          let y := { y with flight := y.flight.filter fun x => x.n != e.n }
          Agen.settle (if a.reads then y.gather a e.data else y.stored a) a fuel

/-- A generator whose elements have changed. -/
def Tile.settleAgen (x : Tile) (g : Fin 4) (f : Agen → Agen) : Tile :=
  x.modAgen g fun y => let y := f y; y.settle (x.cfg.agen[g]) (y.flight.length + 1)

/-- An element of a generator changed; an element of an earlier run goes once it has performed or failed. -/
def Agen.modElem (y : Agen) (n : Nat) (f : Elem → Elem) : Agen :=
  { y with flight := (y.flight.map fun e => if e.n = n then f e else e).filter fun e => e.own || (e.stage != .done && e.fails.isNone) }

/-- An element of a tile's generator changed. -/
def State.modElem (s : State) (t : TileId) (g : Fin 4) (n : Nat) (f : Elem → Elem) : State :=
  s.modTile t (·.settleAgen g (·.modElem n f))

/-! Issue of elements. -/

/-- An element that joins those under way, stamped with the current routing version (R409). -/
def State.pushElem (s : State) (t : TileId) (g : Fin 4) (e : Elem) (f : Agen → Agen) : State :=
  { s.modTile t (·.settleAgen g fun y => { f y with
      parts := [], spans := [], pos := y.pos + 1, flight := y.flight ++ [{ e with n := s.nextSeq, ver := s.hub.version }] }) with
    nextSeq := s.nextSeq + 1 }

/-- Whether a running stream may issue its next element: none waits for a walk, the last has not been issued, and none under way
has failed or goes to another package or, as a store, to a write-once page, whose faults show only later (R210). -/
def Agen.mayIssue (y : Agen) (a : AgenCfg) : Bool :=
  y.st == .running && !y.walking && decide (y.pos < a.total) && !(y.flight.any fun e => e.own && (e.fails.isSome || e.serial))

/-- The address of the next element. -/
def Agen.nextAddr (y : Agen) (a : AgenCfg) : Nat := a.address y.base y.pos

/-- The bytes of the next element that have been translated. -/
def Agen.covered (y : Agen) : Nat := (y.parts.map fun p => p.2.2.1).sum

/-- The next element as it is issued, with a value to store. -/
def Agen.elem (y : Agen) (a : AgenCfg) (value : Nat) : Elem :=
  { n := 0, addr := y.nextAddr a, parts := [], spans := [], stage := .ready, data := value, fails := none, own := true, serial := false
    merged := false, user := y.user, ver := false }

/-- The next element fails before its access. -/
def State.elemFails (s : State) (t : TileId) (g : Fin 4) (cause : BitVec 8) : State :=
  let x := s.tile t
  s.pushElem t g { (x.agen g).elem (x.cfg.agen[g]) 0 with fails := some cause } id

/-- The next element of a stream that touches scratch or nothing: it completes at once. -/
def State.elemDone (s : State) (t : TileId) (g : Fin 4) (value : Nat) (f : Agen → Agen) : State :=
  let x := s.tile t
  s.pushElem t g { (x.agen g).elem (x.cfg.agen[g]) value with stage := .done } f

/-- The next element of a global stream: its next page is translated through the stream's entry, which a miss refills from the
walkers (R282, R283); once all of it has been, it is under way. A page that does not permit the access, and one beyond 2^56, make
it fail. -/
def State.issueElem (s : State) (t : TileId) (g : Fin 4) (k : Access) (value : Nat) (f : Agen → Agen) : State :=
  let x := s.tile t
  let a := x.cfg.agen[g]
  let y := x.agen g
  let n := elementBytes a.ty
  let va := y.nextAddr a + y.covered
  let miss := match s.requestWalk t.dieIx (s.asidOf t) va (.stream t g) with
    | none => s.stall
    | some s => s.modTile t (·.modAgen g fun y => { y with walking := true })
  if 2 ^ 56 ≤ va then s.elemFails t g Cause.xlate
  else match y.leaf with
    | none => miss
    | some leaf =>
      if !leaf.covers va then miss
      else if (leaf.refuses k true).isSome then s.elemFails t g Cause.perm
      else
        let len := min (n - y.covered) (leaf.vbase + 2 ^ leaf.size - va)
        let parts := y.parts ++ [(leaf.target va, y.covered, len, leaf.wo)]
        let spans := y.spans ++ [leaf.span]
        let serial := parts.any fun p => p.1.isRemote || (k == .unitWrite && p.2.2.2)
        if y.covered + len < n then s.modTile t (·.modAgen g fun y => { y with parts := parts, spans := spans })
        else if serial && y.flight.any (·.own) then s.stall
        else s.pushElem t g { y.elem a value with parts := parts, spans := spans, serial := serial } f

/-- READ_STREAM_ELEMENT (R208): the next element of a running read stream is issued, while its port's queue of 4 entries has
room; nothing is while the clock of its die changes (R426). -/
def execReadStreamElement (t : TileId) (g : Fin 4) (s : State) : Result :=
  let x := s.tile t
  let a := x.cfg.agen[g]
  let y := x.agen g
  let va := y.nextAddr a
  let n := elementBytes a.ty
  if x.frozen || s.dies[t.dieIx].clockStopped.isSome || !a.reads || !y.mayIssue a || !y.out.isEmpty || 4 ≤ y.queue.length then .next s.stall
  else match a.mode with
    | 0 => .next (s.elemDone t g va id)
    | 1 =>
      if !x.streamOwns y.user va n then .next (s.elemFails t g Cause.xfer)
      else if x.scratchBadAt x.half va n then .next (s.elemFails t g Cause.poison)
      else .next (s.elemDone t g (x.scratchPlain x.half va n) id)
    | _ => .next (s.issueElem t g .unitRead 0 id)

/-- The next element of the word at hand is used up, and the word after its last (R209). -/
def Agen.took (y : Agen) (a : AgenCfg) : Agen :=
  let n := y.accN + 1
  let spent := decide (8 * a.word < (n + 1) * a.ty.width)
  { y with accN := if spent then 0 else n, taken := if spent then y.taken.drop 1 else y.taken }

/-- The byte of an I4 element, whose low half it is (log entry 14). -/
def lowHalf (old value : Nat) : Nat := old % 256 / 16 * 16 + value % 16

/-- WRITE_STREAM_ELEMENT (R209): the next element of a running write stream is issued, or a token is discarded. -/
def execWriteStreamElement (t : TileId) (g : Fin 4) (s : State) : Result :=
  let x := s.tile t
  let a := x.cfg.agen[g]
  let y := x.agen g
  let va := y.nextAddr a
  let n := elementBytes a.ty
  if x.frozen || s.dies[t.dieIx].clockStopped.isSome || a.reads || !y.mayIssue a then .next s.stall
  else match y.taken with
    | [] => .next s.stall
    | e :: rest =>
      if e.kind = Kind.err then .next (s.elemFails t g Cause.poison)
      else if e.kind ≠ Kind.data then .next (s.modTile t (·.modAgen g fun y => { y with taken := rest }))
      else
        let value := e.word.toNat / 2 ^ (a.ty.width * y.accN) % 2 ^ a.ty.width
        if a.mode = 2 then
          if !x.streamOwns y.user va n then .next (s.elemFails t g Cause.xfer)
          else
            let v := if a.ty = .i4 then lowHalf (x.scratchPlain x.half va 1) value else value
            .next ((s.modTile t fun x => x.scratchWrite (x.scratchCells va n v)).elemDone t g 0 (·.took a))
        else .next (s.issueElem t g .unitWrite value (·.took a))

/-! Elements at their slices. -/

/-- The slices that an element touches: a piece that crosses a run of 256 bytes touches two (R276). -/
def Elem.slices (e : Elem) : List Nat := (e.parts.flatMap fun p => [p.1.slice, (p.1.plus (p.2.2.1 - 1)).slice]).dedup

/-- Whether an element's turn has come: no earlier one of its stream still has to perform at a slice of its own (R316). -/
def Agen.elemTurn (y : Agen) (e : Elem) : Bool :=
  (y.flight.takeWhile fun b => b.n != e.n).all fun b => b.stage == .done || b.fails.isSome || !b.slices.any e.slices.contains

/-- A read that waits at its slice for a word to become present or a bale's decision, or comes again where the slice holds 256
(R294, R296, R374). -/
def State.deferElem (s : State) (t : TileId) (g : Fin 4) (e : Elem) : State :=
  if e.stage = .deferred then s.stall
  else
    let full := e.slices.any fun k => decide (256 ≤ s.deferredAt k)
    s.modElem t g e.n fun e => { e with stage := if full then .retry (s.tile t).cycle.toNat else .deferred }

/-- An element's part in another package is asked for (R311). An I4 element is stored there by a read of its byte and a write of
both halves (log entry 14). -/
def State.askElem (s : State) (t : TileId) (g : Fin 4) (e : Elem) (node : BitVec 12) (rva : Nat) (p : Part) : State :=
  let a := (s.tile t).cfg.agen[g]
  let old := !a.reads && a.ty == .i4 && !e.merged
  let rid := s.hub.nextRid
  let s := s.askRemote node (.stream t g) rid (s.asidOf t, e.spans[(e.parts.findIdx? fun p => p.1.isRemote).getD 0]?.getD (0, 0)) e.ver fun rid =>
    if a.reads || old then .read rid rva p.2.2.1 else .write rid rva p.2.2.1 (BitVec.ofNat 512 (e.data / 2 ^ (8 * p.2.1)))
  s.modElem t g e.n fun e => { e with stage := .asked rid old }

/-- An element performed: its parts in other packages one after another, then those of this package at once (R208, R209, R294); one
whose packet's data fail their parity is read as POISON, or leaves POISON where it stores; on its way to another package it ends the
stream with POISON (R399; log entry 110). -/
def State.performElem (s : State) (t : TileId) (g : Fin 4) (e : Elem) (bad : Bool) : State :=
  let a := (s.tile t).cfg.agen[g]
  match e.parts.find? fun p => p.1.isRemote with
  | some (.remote node rva, p) =>
    if bad then s.modElem t g e.n fun e => { e with fails := some Cause.poison } else s.askElem t g e node rva (.remote node rva, p)
  | _ =>
    let held := e.parts.any fun p => s.lineHeld p.1 p.2.2.1
    let ends := fun (f : UnitFail) => match f with
      | .wait => s.deferElem t g e
      | .cause c => s.modElem t g e.n fun e => { e with fails := some c }
    if a.reads then
      if held then s.deferElem t g e
      else match s.mem.unitRead e.parts with
        | .error f => ends f
        | .ok v => s.modElem t g e.n fun e =>
          if bad then { e with fails := some Cause.poison } else { e with data := e.data + v, stage := .done }
    else if held then s.stall
    else
      let old := match e.parts with
        | p :: _ => s.mem.readAt p.1 1
        | [] => 0
      match s.mem.unitWrite (if a.ty = .i4 then lowHalf old e.data else e.data) e.parts with
      | .error f => ends f
      | .ok m =>
        let m := if bad then e.parts.foldl (fun m p => m.poisonCells p.1 (cellsOf 0 p.2.2.1 0)) m else m
        (State.modElem { s with mem := m } t g e.n fun e => { e with stage := .done }).serveDeferred

/-- The answer of another package to an element's part. -/
def State.streamAnswer (s : State) (t : TileId) (g : Fin 4) (rid : Nat) (ans : RemoteAnswer) : State :=
  match (s.tile t).agens[g].flight.find? fun e => e.stage == .asked rid true || e.stage == .asked rid false with
  | none => s
  | some e =>
    let reads := ((s.tile t).cfg.agen[g]).reads
    let i := (e.parts.findIdx? fun p => p.1.isRemote).getD 0
    let off := ((e.parts[i]?).map fun p => p.2.1).getD 0
    s.modElem t g e.n fun e => match ans with
      | .fail c _ => { e with fails := some c }
      | .retry => { e with stage := .retry (s.tile t).cycle.toNat }
      | .value v =>
        if e.stage = .asked rid true then { e with stage := .ready, merged := true, data := lowHalf v.toNat e.data }
        else
          let left := e.parts.eraseIdx i
          { e with
            parts := left, spans := e.spans.eraseIdx i, stage := if left.isEmpty then .done else .ready
            data := if reads then e.data + v.toNat % 2 ^ (8 * ((e.parts[i]?.map fun p => p.2.2.1).getD 0)) * 2 ^ (8 * off) else e.data }

/-- The element of a stream by its number. -/
def State.elemAt (s : State) (t : TileId) (g : Fin 4) (n : Nat) : Option Elem := (s.tile t).agens[g].flight.find? fun e => e.n == n

end Sys2Proof.Machine
end

