-- ==== Sys2Proof/Machine/Transfers.lean ====
section
/-! DEFINITION. Transfer engines (R247-R260): descriptors and their checks, the elements and packets of a transfer,
watches, slack and holding back (R241-R246), completion and errors, and the instructions of major 0x92 (R269-R272). -/

namespace Sys2Proof.Machine

/-! Descriptors (R249, R250). -/

/-- Bits [lo + w - 1 : lo] of a number. -/
def natField (v lo w : Nat) : Nat := v / 2 ^ lo % 2 ^ w

/-- A place from its 64 bits (R249). -/
def placeOf (v : Nat) : Place :=
  if natField v 63 1 = 0 then .global (natField v 0 56)
  else .tile (natField v 39 7) (natField v 30 9) (natField v 19 1 == 1) (natField v 0 19)

/-- A type by its code; codes above 9 are refused before (R250). -/
def tyOfNat (n : Nat) : Ty := (Ty.ofCode (BitVec.ofNat 4 n)).getD .i8

/-- A descriptor from its 64 bytes (R249). -/
def descOf (v : Nat) : Desc :=
  let ctl := natField v 384 128
  let stride := fun (byte : Nat) => (BitVec.ofNat 32 (natField v (8 * byte) 32)).toInt
  { src := placeOf (natField v 0 64)
    dst := placeOf (natField v 64 64)
    count0 := natField v 128 20
    count1 := natField v 148 16
    count2 := natField v 164 16
    sstr0 := stride 24, sstr1 := stride 28, sstr2 := stride 32
    dstr0 := stride 36, dstr1 := stride 40, dstr2 := stride 44
    mark := BitVec.ofNat 48 (natField ctl 80 48)
    crow := natField ctl 72 7
    ccol := natField ctl 63 9
    cg := ⟨natField ctl 59 4 % 16, Nat.mod_lt _ (by decide)⟩
    ckind := natField ctl 57 2
    ctarget := BitVec.ofNat 23 (natField ctl 34 23)
    srcTy := tyOfNat (natField ctl 30 4)
    dstTy := tyOfNat (natField ctl 26 4)
    rm := RM.ofCode (BitVec.ofNat 2 (natField ctl 24 2))
    ordered := natField ctl 23 1 == 1
    vvalid := natField ctl 22 1 == 1
    vin := natField ctl 18 4, vret := natField ctl 14 4
    vcons := natField ctl 10 4, vprod := natField ctl 6 4 }

/-- Bytes of an element, or of the byte of an I4 pair (R250). -/
def unitOf (ty : Ty) : Nat := max 1 (ty.width / 8)

/-- Units of dimension 0 under a type: elements, or bytes of I4 pairs, the last of which is half used where COUNT0 is odd, which
R250 refuses (R250, R251). -/
def Desc.dim0 (d : Desc) (ty : Ty) : Nat := if ty = .i4 then (d.count0 + 1) / 2 else d.count0

/-- Units of dimension 0 (R251). -/
def Desc.n0 (d : Desc) : Nat := d.dim0 d.srcTy

/-- Units of a transfer. -/
def Desc.units (d : Desc) : Nat := d.n0 * d.count1 * d.count2

/-- Source bytes. -/
def Desc.srcBytes (d : Desc) : Nat := d.units * unitOf d.srcTy

/-- Destination bytes; those of a via transfer are E (R252). -/
def Desc.dstBytes (d : Desc) : Nat :=
  if d.vvalid then d.srcBytes * d.vprod / d.vcons else d.units * unitOf d.dstTy

/-- Offset of a unit from its place: i0 × STR0 + i1 × STR1 + i2 × STR2, or the row's own offset in place of i1 × STR1
(R251, R253). Units past the last row go on in dimension 2 (log entry 21). -/
def Desc.offsetAt (d : Desc) (rows : Option (List Word)) (st0 st1 st2 : Int) (p : Nat) : Int :=
  let i0 := p % d.n0
  let i1 := p / d.n0 % d.count1
  let i2 := p / d.n0 / d.count1
  let row : Int := match rows with
    | some os => (os[i1]?.getD 0).toInt
    | none => i1 * st1
  i0 * st0 + row + i2 * st2

/-- Address that a place starts from. -/
def Place.base : Place → Nat
  | .global va => va
  | .tile _ _ _ off => off

/-- Whether a place is a tile's scratch. -/
def Place.isTile : Place → Bool
  | .tile _ _ _ _ => true
  | _ => false

/-- Lowest and highest unit address of a place of a type under its strides (R250). -/
def Desc.span (d : Desc) (rows : Option (List Word)) (ty : Ty) (base : Nat) (st0 st1 st2 : Int) : Int × Int :=
  let ends := fun (n : Nat) (st : Int) => (min 0 (((n : Int) - 1) * st), max 0 (((n : Int) - 1) * st))
  let (l0, h0) := ends (d.dim0 ty) st0
  let (l1, h1) := match rows with
    | some os => (os.foldl (fun m o => min m o.toInt) ((os.headD 0).toInt), os.foldl (fun m o => max m o.toInt) ((os.headD 0).toInt))
    | none => ends d.count1 st1
  let (l2, h2) := ends d.count2 st2
  (base + l0 + l1 + l2, base + h0 + h1 + h2)

/-- Whether a tile place's footprint leaves the tile's scratch (R250). -/
def Desc.leaves (d : Desc) (rows : Option (List Word)) (p : Place) (st0 st1 st2 : Int) (ty : Ty) (limit : Nat) : Bool :=
  let (lo, hi) := d.span rows ty p.base st0 st1 st2
  p.isTile && (decide (lo < 0) || decide ((limit : Int) < hi + unitOf ty))

/-- Scratch limit of a place's tile: that of a reel tile is half as high (R157, R250). -/
def State.placeLimit (s : State) (r : Region) (p : Place) : Nat :=
  match p with
  | .tile row col _ _ => if (s.tile (r.tileAt row col)).reel.isSome then 0x30000 else 0x60000
  | .global _ => 0

/-- The broken rules of one place at byte `b` of the descriptor, as byte offsets. -/
def brokenPlace (r : Region) (v b : Nat) : List (Nat × Bool) :=
  if natField v 63 1 = 0 then [(b + 7, natField v 56 7 != 0)]
  else [(b + 5, natField v 46 17 != 0), (b + 2, natField v 20 10 != 0),
    (b + 4, decide (r.launch.rows ≤ natField v 39 7)), (b + 3, decide (r.launch.cols ≤ natField v 30 9)),
    (b + 2, natField v 19 1 == 1 && r.reel.isNone)]

/-- How an instruction reads a descriptor. -/
inductive XForm where
  | plain | via | gather | scatter
  deriving DecidableEq, Repr

/-- The rules of R250 that do not rest on offsets, each with the byte offset of its field's lowest bit; a rule on several fields, as that E is
a whole multiple of DSTTY's size, with that of VPROD, the lowest of them that the rule makes its own (DEDUCED, log entry 47). -/
def State.brokenFields (s : State) (r : Region) (f : XForm) (v : Nat) : List (Nat × Bool) :=
  let d := descOf v
  let ctl := natField v 384 128
  let target := natField ctl 34 23
  let sty := natField ctl 30 4
  let dty := natField ctl 26 4
  let i4 := sty == 4 || dty == 4
  let counts := d.count0 != 0 && d.count1 != 0 && d.count2 != 0
  let viaBits := [(50, d.vin != 0), (49, d.vret != 0), (49, d.vcons != 0), (48, d.vprod != 0)]
  let bound := fun (k : Nat) => s.cur.port (BitVec.ofNat 4 k)
  brokenPlace r (natField v 0 64) 0 ++ brokenPlace r (natField v 64 64) 8 ++
  [(22, natField v 180 12 != 0), (16, d.count0 == 0), (18, d.count1 == 0), (20, d.count2 == 0),
   (57, natField ctl 79 1 != 0), (48, natField ctl 0 6 != 0),
   (57, decide (r.launch.rows ≤ d.crow)), (55, decide (r.launch.cols ≤ d.ccol)),
   (55, d.ckind == 3), (52, d.ckind == 0 && target != 0), (52, d.ckind == 1 && target % 2 != 0),
   (54, d.ckind == 1 && decide (r.launch.rows ≤ target / 2 ^ 16)),
   (53, d.ckind == 1 && decide (r.launch.cols ≤ target / 2 ^ 7 % 2 ^ 9)),
   (51, decide (9 < sty)), (51, decide (9 < dty)), (51, i4 && sty != dty), (16, i4 && d.count0 % 2 != 0),
   (20, (f == .gather || f == .scatter) && d.count2 != 1), (50, d.vvalid != (f == .via))] ++
  (if d.vvalid then
    [(50, match bound d.vin with
      | .output _ => false
      | _ => true),
     (49, match bound d.vret with
      | .input _ => false
      | _ => true)]
   else viaBits) ++
  (if f = .via then
    [(49, d.vcons == 0), (48, d.vprod == 0), (51, sty != dty),
     (48, d.vcons != 0 && (d.srcBytes * d.vprod % d.vcons != 0 || d.dstBytes % unitOf d.dstTy != 0))]
   else []) ++
  [(0, counts && decide (sty ≤ 9) && f != .gather && d.leaves none d.src d.sstr0 d.sstr1 d.sstr2 d.srcTy (s.placeLimit r d.src)),
   (8, counts && decide (dty ≤ 9) && f != .scatter && d.leaves none d.dst d.dstr0 d.dstr1 d.dstr2 d.dstTy (s.placeLimit r d.dst))]

/-- The rule on the place that offsets apply to (R250, R253), where the counts and the type of that place stand. -/
def State.brokenOffsets (s : State) (r : Region) (f : XForm) (v : Nat) (os : List Word) : List (Nat × Bool) :=
  let d := descOf v
  let counts := d.count0 != 0 && d.count1 != 0 && d.count2 != 0
  let ok := fun (at' : Nat) => counts && decide (natField (natField v 384 128) at' 4 ≤ 9)
  [(0, ok 30 && f == .gather && d.leaves (some os) d.src d.sstr0 d.sstr1 d.sstr2 d.srcTy (s.placeLimit r d.src)),
   (8, ok 26 && f == .scatter && d.leaves (some os) d.dst d.dstr0 d.dstr1 d.dstr2 d.dstTy (s.placeLimit r d.dst))]

/-- The lowest offset of a broken rule. -/
def lowestBroken (l : List (Nat × Bool)) : Option Nat :=
  l.foldl (fun m p => if p.2 then some (min (m.getD p.1) p.1) else m) none

/-- The fault of a read of scratch by the issuing context, as a scratch load makes it: `k` elements of `size` bytes (R159, R163). -/
def State.scratchFault (s : State) (a size align k : Nat) : Option State :=
  let x := s.curTile
  let as := (List.range k).map fun i => a + size * i
  match x.scratchCheck s.ctx size align 0 as with
  | some (i, b, cause) => some (s.trapAt (BitVec.ofNat 64 b) cause (BitVec.ofNat 64 i))
  | none => (x.poisonCheck s.ctx size as).map fun p => s.trapAt (BitVec.ofNat 64 p.2) Cause.poison (BitVec.ofNat 64 p.1)

/-! Slots and ids (R247, R248). -/

/-- A transfer changed, by its id. -/
def State.modXfer (s : State) (id : Word) (f : Transfer → Transfer) : State :=
  { s with xfers := s.xfers.map fun x => if x.id = id then f x else x }

/-- The transfer of an id. -/
def State.xferOf (s : State) (id : Word) : Option Transfer := s.xfers.find? (·.id == id)

/-- The transfer that an id of a program names; one that waits in a restore queue has no id yet (R248, R260). -/
def State.named (s : State) (id : Word) : Option Transfer := (s.xferOf id).filter fun x => x.slot.isSome

/-- Slots of an engine that no transfer holds. -/
def State.freeSlots (s : State) (d : Fin 8) (e : Fin 64) : List Nat :=
  (List.range 64).filter fun k => !s.xfers.any fun x => x.die == d && x.engine == e && x.slot == some k && s.holdsSlot x

/-- Slots of an engine that a region holds. -/
def State.slotsOf (s : State) (d : Fin 8) (e : Fin 64) (r : Nat) : Nat :=
  s.xfers.countP fun x => x.die == d && x.engine == e && x.region == r && x.slot.isSome && s.holdsSlot x

/-- Whether a transfer waits in an engine's restore queue: its region has been restored, and it holds no slot yet (R260). -/
def State.inRestore (s : State) (d : Fin 8) (e : Fin 64) (x : Transfer) : Bool :=
  x.die == d && x.engine == e && x.slot.isNone && x.live && (match s.region x.region with
    | some r => r.gen == x.gen && r.phase == .running
    | none => false)

/-- The first of an engine's restore queue whose region may hold one more of its slots (R260). -/
def State.restoreNext (s : State) (d : Fin 8) (e : Fin 64) : Option Transfer :=
  s.xfers.find? fun x => s.inRestore d e x && decide (s.slotsOf d e x.region < 32)

/-- Whether a re-submitted transfer could take a slot of the engine ahead of every other request (R260). -/
def State.restoreWaits (s : State) (d : Fin 8) (e : Fin 64) : Bool := (s.restoreNext d e).isSome

/-- The requests for slots of an engine that wait, as order and region: of contexts that cannot issue without one, and of the
feeders of reels (R247). -/
def State.slotQueue (s : State) (d : Fin 8) (e : Fin 64) : List (Nat × Nat) :=
  s.tiles.flatMap fun p =>
    match (if p.1.dieIx = d then s.regionOf p.1 else none) with
    | none => []
    | some r =>
      (p.2.ctxs.toList.filterMap fun c => match c.slotReq with
        | some (f, n) => if f = e && (c.run == .running) then some (n, r.number) else none
        | none => none) ++
      (match r.reel, p.2.reel.bind (·.slotReq) with
        | some f, some n => if f.engine = e then [(n, r.number)] else []
        | _, _ => [])

/-- Whether an engine can take one more transfer of a region, whose request has the order given: no re-submission waits, and no
earlier request that could be served (R247, R260). -/
def State.slotFree (s : State) (d : Fin 8) (e : Fin 64) (r : Nat) (order : Option Nat) : Bool :=
  !(s.freeSlots d e).isEmpty && decide (s.slotsOf d e r < 32) && !s.restoreWaits d e &&
  !(s.slotQueue d e).any fun q => decide (s.slotsOf d e q.2 < 32) && (match order with
    | some n => decide (q.1 < n)
    | none => true)

/-- The order of the issuing context's request for a slot of an engine, if it has made one. -/
def Ctx.slotOrder (c : Ctx) (e : Fin 64) : Option Nat := (c.slotReq.filter fun q => q.1 == e).map (·.2)

/-- The issuing context's request for a slot of an engine, made if it has not been yet (R247). -/
def State.askSlot (s : State) (e : Fin 64) : State :=
  if (s.cur.slotOrder e).isSome then s
  else { s.modCur fun c => { c with slotReq := some (e, s.nextSeq) } with nextSeq := s.nextSeq + 1 }

/-- A transfer id (R248). -/
def xferId (gen : BitVec 8) (d : Fin 8) (e : Fin 64) (slot use : Nat) : Word :=
  BitVec.ofNat 64 (gen.toNat * 2 ^ 32 + d.val * 2 ^ 29 + e.val * 2 ^ 23 + slot * 2 ^ 17 + use)

/-- Whether a band tile still looks for a transfer: a load or save of a feeder that ended CANCELLED leaves its tile unloaded for as long
as its region is in service (R345). -/
def State.owed (s : State) (x : Transfer) : Bool :=
  (x.kind == .load || x.kind == .save) && x.st == .cancelled && ((s.region x.region).map fun r => r.gen == x.gen).getD false

/-- Whether a transfer without a slot is forgotten: it has ended, what it has issued has landed (R271), and no completion entry of it
waits. -/
def State.forgets (s : State) (x : Transfer) : Bool :=
  x.ended && x.slot.isNone && x.packets.isEmpty && x.remote.isEmpty && x.action.isNone && !s.owed x

/-- A free slot taken: its number, the id of its next use, and the state in which the slot's last transfer has left it
(R247, R248, R438). -/
def State.takeSlot (s : State) (d : Fin 8) (e : Fin 64) (gen : BitVec 8) : Nat × Word × State :=
  let free := s.freeSlots d e
  let (i, s) := s.pick free.length
  let slot := free[i]?.getD 0
  let last := (lookupKey (e.val, slot) s.dies[d].slotUse).getD 0
  let use := if last = 131071 then 1 else last + 1
  let s := s.modDie d fun x => { x with slotUse := putKey (e.val, slot) use x.slotUse }
  let s := { s with xfers :=
      (s.xfers.map fun x => if x.die = d && x.engine = e && x.slot = some slot then { x with slot := none } else x).filter fun x => !s.forgets x }
  (slot, xferId gen d e slot use, s)

/-- A transfer accepted (R247, R254): its watch is wanted unless it names no counter, as a feeder's save and a copy of
`stsave` and `stload` do (R350, R357). -/
def State.accept (s : State) (d : Fin 8) (e : Fin 64) (t : TileId) (c : Fin 4) (r : Region) (kind : XKind) (desc : Desc)
    (offsets : List Word) : Word × State :=
  let (slot, id, s) := s.takeSlot d e r.gen
  let bare := kind == .save || kind == .copy
  let x : Transfer :=
    { id := id, die := d, engine := e, slot := some slot, tile := t, ctx := c, region := r.number, gen := r.gen
      kind := kind, desc := desc, offsets := offsets, st := if bare then .active else .held, cause := 0
      seq := s.nextSeq, asked := 0, got := [], taken := 0, src := [], pos := 0, out := [], packets := [], remote := [], landed := 0
      watch := if bare then .none else .wanted
      srcLeaf := none, dstLeaf := none, walking := false, failing := none, action := none, viaEot := false, viaBack := false }
  (id, { s with xfers := s.xfers ++ [x], nextSeq := s.nextSeq + 1 })

/-- The engine that an instruction names. -/
def engineOf (o : FmtQ) : Fin 64 := ⟨o.imm.toNat % 64, Nat.mod_lt _ (by decide)⟩

/-- A well-formed transfer given to its engine, once it has a slot (R247, R270). -/
def State.takeTransfer (s : State) (f : XForm) (o : FmtQ) (r : Region) (d : Desc) (os : List Word) : State :=
  let e := engineOf o
  if !s.slotFree s.here.dieIx e r.number (s.cur.slotOrder e) then (if o.m7.getLsbD 0 then s.writeS o.d 0 else (s.askSlot e).stall)
  else s.awaits o.ord o.sco fun s => s.afterAcquire fun s =>
    let kind : XKind := match f with
      | .plain => .plain
      | .via => .via
      | .gather => .gather
      | .scatter => .scatter
    let (id, s) := s.accept s.here.dieIx e s.here s.ctx r kind d os
    let s := if d.vvalid then s.modCur fun c => { c with
        viaPorts := c.viaPorts ||| (1#16 <<< d.vin) ||| (1#16 <<< d.vret) } else s
    s.writeS o.d id

/-- IssueTransfer (R250, R270). The offsets of `xgath` and `xscat` count with the fields for the lowest broken rule where they can be
read; a fault in reading them traps where no field breaks a rule (log entry 89). -/
def State.issueTransfer (s : State) (f : XForm) (o : FmtQ) : State :=
  s.takesFault o.ord fun s =>
    match s.regionOf s.here with
    | none => s.stall
    | some r =>
      let a := (s.getS o.s1).toNat
      match s.scratchFault a 64 64 1 with
      | some t => t
      | none =>
        let v := s.curTile.scratchRead s.ctx a 64
        let d := descOf v
        let offs := f == .gather || f == .scatter
        let b := (s.getS o.s2).toNat
        let fault := if offs && d.count1 != 0 then s.scratchFault b 8 8 d.count1 else none
        let os := if offs && fault.isNone then
            (List.range d.count1).map fun i => BitVec.ofNat 64 (s.curTile.scratchRead s.ctx (b + 8 * i) 8) else []
        match lowestBroken (s.brokenFields r f v ++ if offs && fault.isNone then s.brokenOffsets r f v os else []), fault with
        | some off, _ => s.trap Cause.xfer (BitVec.ofNat 64 off)
        | none, some t => t
        | none, none => s.takeTransfer f o r d os

/-- `xfer` (R270). -/
def execXfer (g : Guard) (o : FmtQ) (s : State) : Result := .next (s.issue g (·.issueTransfer .plain o))
/-- `xvia` (R252, R270). -/
def execXvia (g : Guard) (o : FmtQ) (s : State) : Result := .next (s.issue g (·.issueTransfer .via o))
/-- `xgath` (R253, R270). -/
def execXgath (g : Guard) (o : FmtQ) (s : State) : Result := .next (s.issue g (·.issueTransfer .gather o))
/-- `xscat` (R253, R270). -/
def execXscat (g : Guard) (o : FmtQ) (s : State) : Result := .next (s.issue g (·.issueTransfer .scatter o))

/-- The status that `xstat` answers (R272). -/
def Transfer.status (x : Transfer) : Word :=
  let code := match x.st with
    | .held => 1
    | .active => 2
    | .done => 3
    | .error => 4
    | .cancelled => 5
  BitVec.ofNat 64 (code * 2 ^ 61 + (if x.st = .error then x.cause.toNat * 2 ^ 48 else 0) + x.landed % 2 ^ 48)

/-- `xstat` (R272); an id that names nothing reads NONE (R248). -/
def execXstat (g : Guard) (o : FmtQ) (s : State) : Result :=
  .next (s.issue g fun s => s.writeS o.d (((s.named (s.getS o.s1)).map Transfer.status).getD 0))

/-! Watches, slack and holding back. -/

/-- The tile of a transfer's counter. -/
def State.counterTile (s : State) (x : Transfer) : Option TileId :=
  (s.region x.region).map fun r => r.tileAt x.desc.crow x.desc.ccol

/-- Whether an engine still holds a watched transfer on a counter (R240). -/
def State.watches (s : State) (d : Fin 8) (e : Fin 64) (t : TileId) (g : Fin 16) : Bool :=
  s.xfers.any fun x => x.die == d && x.engine == e && !x.ended && x.watch == .registered && x.desc.cg == g &&
    s.counterTile x == some t

/-- A registration (R254): an ownerless counter ends the transfer, a full table refuses it; else the watch is entered, the
engine subscribes and gets a beacon, and a mark already reached is LATE at once (R240, R258). -/
def State.register (s : State) (x : Transfer) : State :=
  match s.counterTile x with
  | none => s.stall
  | some t =>
    let g := x.desc.cg
    let y := s.tile t
    if x.kind ≠ .load && (y.cfg.counterOwner[g]).isNone then
      s.modXfer x.id fun x => { x with failing := some (x.failing.getD Cause.xfer), watch := .none }
    else if 128 ≤ y.watches.length then s.modXfer x.id fun x => { x with watch := .refused }
    else
      let late := decide (x.desc.mark.toNat ≤ (y.counters[g]).value.toNat)
      let s := s.modXfer x.id fun x => { x with watch := .registered }
      let s := s.modTile t fun y => { y.modCounter g fun c => { c with
          subs := if c.subs.contains (x.die, x.engine) then c.subs else c.subs ++ [(x.die, x.engine)] } with
        watches := y.watches ++ [⟨g, x.desc.mark, x.id, late, false, false⟩] }
      let s := if late then s.recordLate t g 0 x.desc.mark x.id else s
      s.sendBeacon t g (some (x.die, x.engine))

/-- Whether a region's engines go on with its transfers: from the moment of a pause on they only let packets already issued land
(R260). -/
def Region.carries (r : Region) : Bool :=
  match r.phase with
  | .installed | .running => true
  | _ => false

/-- Whether the engines go on with a transfer. -/
def State.carried (s : State) (x : Transfer) : Bool := ((s.region x.region).map fun r => r.gen == x.gen && r.carries).getD false

/-- A registration of a transfer whose watch stands where given, while its region runs. -/
def State.tryRegister (s : State) (id : Word) (w : WatchSt) : State :=
  match s.xferOf id with
  | some x => if x.watch = w && !x.ended && s.carried x then s.register x else s.stall
  | none => s.stall

/-- WATCH_REGISTER (R254): the registration on acceptance. -/
def execWatchRegister (id : Word) (s : State) : Result := .next (s.tryRegister id .wanted)

/-- WATCH_RETRY (R254): a refused registration tried again. -/
def execWatchRetry (id : Word) (s : State) : Result := .next (s.tryRegister id .refused)

/-- ClockRatio (R241), in units of 2^-8. -/
def Die.clockRatio (d : Die) (step : BitVec 4) : Nat :=
  let q := (d.ratio[step.toNat]'step.isLt).toNat
  if q = 0 then 256 else q

/-- Slack (R242) of a mark by a beacon, in the engine's cycles. -/
def slackBy (d : Die) (mark : BitVec 48) (b : Beacon) : Int :=
  let r : Int := b.rate.toNat
  let num : Int := ((mark.toNat : Int) - b.value.toNat) * (1024 * 65536 * d.clockRatio b.step) - b.age * (256 * r)
  max (-(2 ^ 47)) (min (2 ^ 47 - 1) (num / (256 * r)))

/-- The latest beacon that a transfer's engine holds from its counter. -/
def State.beaconFor (s : State) (x : Transfer) : Option Beacon :=
  s.beacons.find? fun b => b.die == x.die && b.engine == x.engine && b.g == x.desc.cg && s.counterTile x == some b.tile

/-- Slack of a transfer, unknown before the first beacon (R242); a save or copy has field 0 (R350, R357). -/
def State.slackOf (s : State) (x : Transfer) : Option Int :=
  if x.kind = .save || x.kind = .copy then some 0 else (s.beaconFor x).map (slackBy s.dies[x.die] x.desc.mark)

/-- HELD or ACTIVE (R246, R254). -/
def State.reheld (s : State) (x : Transfer) : Transfer :=
  if x.ended || x.slot.isNone then { x with st := if x.ended then x.st else .held }
  else
    let free : Bool := match s.slackOf x, s.region x.region with
      | some k, some r => (x.kind == .save || x.kind == .copy || x.watch == .registered) && decide (k ≤ r.horizon.toNat ∨ x.kind = .save ∨ x.kind = .copy)
      | _, _ => false
    { x with st := if free then .active else .held }

/-- A LATE entry that names a transfer by the name it has while it waits for a slot, under the id that it then takes. An entry recorded
before the snapshot keeps the id of its time, which names nothing any more (R259, R260). -/
def EventEntry.renamed (e : EventEntry) (old new : Word) : EventEntry :=
  if field e.w0 56 8 = 0x12 && e.w2 == old && decide (2 ^ 48 ≤ old.toNat) then { e with w2 := new } else e

/-- A transfer's new id wherever the old one stands: in its watch, in LATE entries made since the restore, in a band tile's loads and
saves, and with a context that copies (R260). -/
def Tile.renameXfer (x : Tile) (old new : Word) : Tile :=
  let swap := fun (w : Word) => if w = old then new else w
  { x with
    watches := x.watches.map fun w => { w with id := swap w.id }
    reel := x.reel.map fun b => { b with loads := b.loads.map swap, saves := b.saves.map swap }
    ctxs := x.ctxs.map fun c => { c with
      events := c.events.map (·.renamed old new)
      wait := match c.wait with
        | .copy d save todo cur done => .copy d save todo (cur.map swap) done
        | w => w } }

/-- A completion entry under a transfer's new id (R260). -/
def Entry.renamed (e : Entry) (old new : Word) : Entry :=
  if e.word = old.zeroExtend 256 then { e with word := new.zeroExtend 256 }
  else { e with word := errWord (bits e.word 0 8) (field new 0 56) }

/-- A transfer under a new id, in its slot if it has one, with the completion entry that it waits to append. -/
def State.renameXfer (s : State) (x : Transfer) (new : Word) : State :=
  let s := s.modXfer x.id fun y => { y with id := new, action := y.action.map (·.renamed x.id new) }
  let s := match s.counterTile x with
    | none => s
    | some t => s.modTile t (·.renameXfer x.id new)
  s.modTile x.tile (·.renameXfer x.id new)

/-- The name of a re-submitted transfer that waits for a slot: none that a program can hold; what names it takes the transfer's id with
the slot (R260). -/
def waitingId (x : Transfer) : Word := BitVec.ofNat 64 (2 ^ 48 + x.seq)

/-- The first re-submitted transfer that can take a slot takes it, under a new id (R260). -/
def State.resubmit (s : State) (d : Fin 8) (e : Fin 64) : State :=
  match s.restoreNext d e with
  | none => s
  | some x =>
    if (s.freeSlots d e).isEmpty then s
    else
      let (slot, id, s) := s.takeSlot d e x.gen
      (s.modXfer x.id fun y => { y with slot := some slot }).renameXfer x id

/-- The region of a tile, closing or in service, as a fault of its packets names it. -/
def State.regionNumber (s : State) (t : TileId) : Option Nat := (s.tile t).region

/-- HOLD_REEVALUATE (R246): an engine looks again at which of its transfers are held; one in its restore queue takes a slot
that has become free. -/
def execHoldReevaluate (d : Fin 8) (e : Fin 64) (s : State) : Result :=
  let s := s.resubmit d e
  .next { s with xfers := s.xfers.map fun x => if x.die = d && x.engine = e then s.reheld x else x }

/-- BEACON_ARRIVE (R240, R246, R399): the oldest beacon of a counter under way to an engine, once granted, replaces the one the
engine holds, with age 0. One delivered as POISON tells the engine nothing, and it keeps the one it holds (log entry 111). -/
def execBeaconArrive (d : Fin 8) (e : Fin 64) (t : TileId) (r : BeaconRef) (s : State) : Result :=
  let mine := fun (b : Beacon) => b.die == d && b.engine == e && b.tile == t && b.g == r.g
  match s.beaconsOut.find? mine with
  | none => .next s.stall
  | some b =>
    if !b.granted then .next s.stall
    else
      let s := { s with beaconsOut := s.beaconsOut.erase b }
      match r.fault with
      | .header => .next (s.headerFault (s.regionNumber t))
      | .data => .next s
      | .clean =>
        let s := { s with beacons := (s.beacons.filter fun b => !mine b) ++ [{ b with age := 0 }] }
        .next { s with xfers := s.xfers.map fun x => if x.die = d && x.engine = e then s.reheld x else x }

/-! Elements and packets. -/

/-- Source offset and destination offset of a unit. -/
def Transfer.srcAt (x : Transfer) (p : Nat) : Int :=
  x.desc.src.base + x.desc.offsetAt (if x.kind = .gather then some x.offsets else none) x.desc.sstr0 x.desc.sstr1 x.desc.sstr2 p
/-- Destination address of a unit. -/
def Transfer.dstAt (x : Transfer) (p : Nat) : Int :=
  x.desc.dst.base + x.desc.offsetAt (if x.kind = .scatter then some x.offsets else none) x.desc.dstr0 x.desc.dstr1 x.desc.dstr2 p

/-- Whether bytes of scratch lie in banks that some context owns: in the active copy of the settings, or in the shadow copy
for the shadow half (R156). At a tile outside the band, which has one scratch alone, HALF = 1 names the shadow copy's BANKS over all 96
banks and the plain address (DESIGN CHOICE, log entry 124). -/
def Tile.reachable (x : Tile) (shadow : Bool) (a n : Nat) : Bool :=
  (List.range ((a + n - 1) / 16 - a / 16 + 1)).all fun i =>
    let g := a / 16 + i
    if shadow then decide (g < x.granules) && (List.finRange 4).any fun c => (x.cfgShadow.ctxs[c]).banks.getLsbD (g % x.bankCount)
    else (List.finRange 4).any fun c => x.ownsGranule c g

/-- The physical half that a place names (R249). -/
def Tile.halfOf (x : Tile) (shadow : Bool) : Bool := if shadow then !x.half else x.half

/-- A source value as the destination holds it (R251). A widening is exact (R76), but an FP8B value of 2^16 or more has no FP16: it
overflows by the descriptor's RM (DESIGN CHOICE, log entry 101). -/
def Desc.convert (d : Desc) (v : Nat) : Nat :=
  if d.srcTy = d.dstTy then v else roundTo d.dstTy false (valueOf d.srcTy false v) d.rm

/-! What an engine does without a packet: it takes source bytes in order, makes destination bytes of them, and asks for the
translations of its places. -/

/-- Source bytes that have come back taken in order. -/
def Transfer.takeBytes (x : Transfer) : Nat → Transfer
  | 0 => x
  | fuel + 1 => match lookupKey x.taken x.got with
    | none => x
    | some b => Transfer.takeBytes { x with got := dropKey x.taken x.got, taken := x.taken + 1, src := x.src ++ [b] } fuel

/-- The bytes of a value from an address on, which may lie below 0. -/
def outBytes (a : Int) (n v : Nat) : List (Int × Byte) := (List.range n).map fun (i : Nat) => (a + (i : Int), byteOf v i)

/-- Whole units made of the source bytes at hand, converted for the destination (R251). -/
def Transfer.makeUnits (x : Transfer) : Nat → Transfer
  | 0 => x
  | fuel + 1 =>
    let n := unitOf x.desc.srcTy
    if x.src.length < n then x
    else
      let v := ofBytes (x.src.take n)
      Transfer.makeUnits { x with
        src := x.src.drop n, pos := x.pos + 1
        out := x.out ++ outBytes (x.dstAt x.pos) (unitOf x.desc.dstTy) (x.desc.convert v) } fuel

/-- Source bytes that have come back put to use; those of a via transfer wait for its words (R252). -/
def Transfer.drain (x : Transfer) : Transfer :=
  let x := x.takeBytes x.got.length
  if x.kind = .via then x else x.makeUnits (x.src.length + 1)

/-- Address of the source byte at a position of the stream. -/
def Transfer.srcByte (x : Transfer) (q : Nat) : Int := x.srcAt (q / unitOf x.desc.srcTy) + (q % unitOf x.desc.srcTy : Nat)

/-- Byte `i` of a via transfer's return lies at this address (R252). -/
def Transfer.returnAt (x : Transfer) (i : Nat) : Int :=
  let n := unitOf x.desc.dstTy
  x.dstAt (i / n) + (i % n : Nat)

/-- A fault met by an engine (R256). -/
def Transfer.fails (x : Transfer) (cause : BitVec 8) : Transfer := { x with failing := some (x.failing.getD cause) }

/-- What a place says of an address: the place's translation is at hand and permits the access; it has to be walked for; or
the fault that ends the transfer. A tile's places need no translation. -/
inductive PlaceState where
  | ready (target : Option Target) (wo : Bool) (room : Nat)
  | walk (va : Nat)
  | fault (cause : BitVec 8)

/-- A place at an address, for a read or a write (R256, R280, R282); `room` is how many bytes from there on lie in the page. -/
def placeState (p : Place) (leaf : Option Leaf) (a : Int) (k : Access) : PlaceState :=
  match p with
  | .tile _ _ _ _ => if a < 0 then .fault Cause.xfer else .ready none false 64
  | .global _ =>
    if a < 0 || 2 ^ 56 ≤ a then .fault Cause.xlate
    else match leaf with
      | none => .walk a.toNat
      | some l =>
        if !l.covers a.toNat then .walk a.toNat
        else if (l.refuses k true).isSome then .fault Cause.perm
        else .ready (some (l.target a.toNat)) l.wo (l.vbase + 2 ^ l.size - a.toNat)

/-- The place of the next source byte to be asked for; none once all have been. -/
def Transfer.nextSource (x : Transfer) : Option PlaceState :=
  if x.desc.srcBytes ≤ x.asked then none else some (placeState x.desc.src x.srcLeaf (x.srcByte x.asked) .unitRead)

/-- The place of the next destination byte that waits. -/
def Transfer.nextDest (x : Transfer) : Option PlaceState :=
  x.out.head?.map fun p => placeState x.desc.dst x.dstLeaf p.1 .unitWrite

/-- What a place needs before a packet can go there: a walk, asked for once, or the end of the transfer. -/
def State.preparePlace (s : State) (asid : BitVec 16) (id : Word) (p : Option PlaceState) : State :=
  match s.xferOf id, p with
  | some x, some (.walk va) =>
    if x.walking then s
    else ((s.requestWalk x.die asid va (.place id)).map (·.modXfer id fun x => { x with walking := true })).getD s
  | some _, some (.fault c) => s.modXfer id (·.fails c)
  | _, _ => s

/-- A via transfer takes the next entry of its return port (R252), once the bytes of the last one have left. -/
def State.viaReturn (s : State) (x : Transfer) : State :=
  match (s.ctxAt x.tile x.ctx).port (BitVec.ofNat 4 x.desc.vret) with
  | .input k =>
    let y := s.tile x.tile
    match (y.sink k).queue with
    | [] => s
    | e :: _ =>
      if !x.out.isEmpty || x.viaBack then s
      else
        let took := s.takeSink x.tile k 1
        if e.kind = Kind.err then took.modXfer x.id (·.fails Cause.poison)
        else if e.kind = Kind.eot then
          took.modXfer x.id fun x => if x.pos < x.desc.dstBytes then x.fails Cause.xfer else { x with viaBack := true }
        else if e.kind ≠ Kind.data then took
        else
          let b := y.cfg.sinkBytes k
          took.modXfer x.id fun x =>
            if x.desc.dstBytes < x.pos + b then x.fails Cause.xfer
            else { x with pos := x.pos + b, out := (List.range b).map fun i => (x.returnAt (x.pos + i), byteOf e.word.toNat i) }
  | _ => s

/-- A via transfer sends its next word, or the EOT after the last, on a credit of its entry port's channel (R252). A last
word that the elements do not fill is filled with zeros (log entry 22). -/
def State.viaSend (s : State) (x : Transfer) : State :=
  match (s.ctxAt x.tile x.ctx).port (BitVec.ofNat 4 x.desc.vin) with
  | .output e =>
    let y := s.tile x.tile
    let b := y.cfg.sourceBytes e
    let all := x.taken = x.desc.srcBytes
    if x.viaEot || (y.source e).credits = 0 then s
    else if b ≤ x.src.length || (all && !x.src.isEmpty) then
      (s.emit x.tile e (BitVec.ofNat 256 (ofBytes (x.src.take b))) Kind.data).modXfer x.id fun x => { x with src := x.src.drop b }
    else if all then (s.emit x.tile e 0 Kind.eot).modXfer x.id fun x => { x with viaEot := true }
    else s
  | _ => s

/-- What an engine does for a transfer beside its packets. -/
def State.prepare (s : State) (id : Word) : State :=
  match s.xferOf id with
  | none => s
  | some x => match s.region x.region with
    | none => s
    | some r =>
      let s := if x.kind = .via then (s.viaReturn x).viaSend x else s
      let s := s.preparePlace r.launch.asid id (((s.xferOf id).getD x).nextDest)
      s.preparePlace r.launch.asid id (((s.xferOf id).getD x).nextSource)

/-! Packets (R244). -/

/-- How many source bytes from a position on one read asks for: they lie side by side in one aligned span of 64 bytes, within the
room given. -/
def Transfer.readLength (x : Transfer) (first room : Nat) : Nat → Nat
  | 0 => 0
  | n + 1 =>
    -- the longest run of n + 1 bytes, else a shorter one
    let a := x.srcByte first
    let fits := (List.range (n + 1)).all fun i =>
      decide (first + i < x.desc.srcBytes ∧ i < room) && x.srcByte (first + i) == a + i && (a + i) / 64 == a / 64
    if fits then n + 1 else x.readLength first room n

/-- The destination bytes that one packet takes: the first ones that wait, in one aligned span of 64 bytes, none twice, within the
page. -/
def Transfer.writeCells (x : Transfer) (room : Nat) : List (Int × Byte) :=
  let a := (x.out.head?.map (·.1)).getD 0
  let rec take (l : List (Int × Byte)) (done : List (Int × Byte)) : List (Int × Byte) :=
    match l with
    | [] => done
    | c :: rest =>
      if c.1 / 64 = a / 64 && !(done.any fun d => d.1 == c.1) && decide (c.1 < a + room) then take rest (done ++ [c]) else done
  take x.out []

/-- Whether more destination bytes may still join those that wait. -/
def Transfer.moreOut (x : Transfer) : Bool := if x.kind = .via then false else decide (x.pos < x.desc.units)

/-- The base of a write's cells: for a global place its page, so that cells are offsets. -/
def Transfer.leafBase (x : Transfer) : Nat := (x.dstLeaf.map (·.vbase)).getD 0

/-- The write that a transfer has ready: bytes that wait, once no later one can join them; else the next read, if it has one (R244,
R251). The slack field and the routing version are set at injection (R245, R409). -/
def Transfer.ready (x : Transfer) (slack : Int) (order : Nat) (ver : Bool) : Option (Packet × Transfer) :=
  let fieldOf := min 65535 (slack / 64).toNat
  let write := match x.nextDest with
    | some (.ready _ wo room) =>
      let cs := x.writeCells (if x.desc.dst.isTile then 64 else room)
      if cs.length = x.out.length && x.moreOut && cs.length < 64 then none
      else
        let base := if x.desc.dst.isTile then 0 else x.leafBase
        let p : Packet :=
          { kind := .write, place := x.desc.dst, target := if x.desc.dst.isTile then none else x.dstLeaf.map Leaf.base, wo := wo
            span := if x.desc.dst.isTile then (0, 0) else (x.dstLeaf.map Leaf.span).getD (0, 0)
            start := 0, len := cs.length, first := 0, cells := cs.map fun c => (c.1.toNat - base, c.2), inside := 0, slack := fieldOf
            order := order, granted := false, deferred := false, again := 0, ver := ver }
        some (p, { x with out := x.out.drop cs.length, packets := x.packets ++ [p] })
    | _ => none
  match write with
  | some w => some w
  | none => match x.nextSource with
    | some (.ready t wo room) =>
      let n := x.readLength x.asked room 64
      let p : Packet :=
        { kind := .read, place := x.desc.src, target := t, wo := wo
          span := if t.isSome then (x.srcLeaf.map Leaf.span).getD (0, 0) else (0, 0), start := (x.srcByte x.asked).toNat, len := n, first := x.asked, cells := []
          inside := 0, slack := fieldOf, order := order, granted := false, deferred := false, again := 0, ver := ver }
      some (p, { x with asked := x.asked + n, packets := x.packets ++ [p] })
    | _ => none

/-- Whether the order of R257 lets a transfer issue packets: every earlier ordered one has ended and taken its completion action,
its arrival at a barrier too. -/
def State.inTurn (s : State) (x : Transfer) : Bool :=
  !x.desc.ordered || !((s.xfers.any fun y => y.desc.ordered && y.die == x.die && y.engine == x.engine &&
    y.region == x.region && y.gen == x.gen && decide (y.seq < x.seq) && y.live) ||
    s.dies.toList.any fun d => d.arrivals.any fun a => a.engine == (x.die, x.engine) && a.region == x.region && a.gen == x.gen &&
      (a.ordered.map fun n => decide (n < x.seq)).getD false)

/-- Whether an engine may issue a packet of a transfer. -/
def State.mayIssue (s : State) (x : Transfer) : Bool :=
  x.st == .active && x.slot.isSome && x.failing.isNone && s.inTurn x && s.carried x

/-- Insertion by slack, then by order of acceptance (R244). -/
def insertSlack (a : Int × Transfer) : List (Int × Transfer) → List (Int × Transfer)
  | [] => [a]
  | b :: rest => if a.1 < b.1 || (a.1 == b.1 && decide (a.2.seq ≤ b.2.seq)) then a :: b :: rest else b :: insertSlack a rest

/-- The transfers of an engine that may issue, with their slack, the least first. -/
def State.candidatesOf (s : State) (d : Fin 8) (e : Fin 64) : List (Int × Transfer) :=
  (((s.xfers.filter fun x => x.die == d && x.engine == e && s.mayIssue x).filterMap fun x => (s.slackOf x).map fun k => (k, x))).foldl
    (fun l a => insertSlack a l) []

/-- The packet that an engine issues: that of the least-slack transfer that has one ready (R244). -/
def State.issuePacket (s : State) (d : Fin 8) (e : Fin 64) : State :=
  match (s.candidatesOf d e).findSome? fun a => a.2.ready a.1 s.nextSeq s.hub.version with
  | none => s
  | some (_, x) => { s.modXfer x.id fun _ => x with nextSeq := s.nextSeq + 1 }

/-- ENGINE_PACKET_ISSUE (R244): one cycle of an engine. Each transfer goes on as far as it can without a packet, the least-slack
transfer that has a packet ready issues it, and the age of the engine's beacons grows (R240). A die whose clock changes issues nothing
(R426). -/
def execEnginePacketIssue (d : Fin 8) (e : Fin 64) (s : State) : Result :=
  if s.dies[d].clockStopped.isSome then .next s.stall else
  let s := (s.candidatesOf d e).foldl (fun s a => s.prepare a.2.id) s
  let s := s.issuePacket d e
  let s := if e = 0 then s.modDie d fun x => { x with clock := x.clock + 1 } else s
  .next { s with beacons := s.beacons.map fun b => if b.die = d && b.engine = e then { b with age := b.age + 1 } else b }

/-! Arbiters (R245). -/

/-- What an arbiter can grant: a beacon, an operation or an arrival for a pool, a packet of a transfer, by its order of arrival, or the
next word of an entry or arc circuit (R340); or, at a memory slice, an access of a context, a stream or a peer. -/
inductive Claim where
  | beacon | poolOp | arrival
  | word (t : TileId) (k : Nat)
  | packet (id : Word)
  | access (a : AccRef)
  deriving DecidableEq, Repr

/-- A claim that waits at an arbiter: what it is, its class, its slack field and its order of arrival. -/
structure Waiting where
  claim : Claim
  cls : Nat
  slack : Nat
  order : Nat
  deriving DecidableEq, Repr

/-- Numbers of the arbiters: one at each die for what goes to its tiles, engines and pool, one at each memory slice (R245). -/
def Packet.arbiter (p : Packet) (x : Transfer) (r : Option Region) : Nat :=
  match p.kind, p.target, p.place with
  | .response, _, _ => x.die.val
  | _, some t, _ => 8 + (t.plus ((p.cells.head?.map (·.1)).getD 0)).slice
  | _, none, .tile row col _ _ => match r with
    | some r => (r.tileAt row col).die
    | none => 0
  | _, none, _ => 0

/-- An access that waits at a slice, of a class; its field is open, and counts in class 2 alone (R245; log entry 107). -/
def accessClaim (a : AccRef) (who cls order : Nat) : Waiting := ⟨.access a, cls, if cls = 2 then (Config.accessSlack who).val else 0, order⟩

/-- The slice at which an element is served next: that of its first piece in another package, else of its first. -/
def Elem.slice (e : Elem) : Option Nat := ((e.parts.find? fun p => p.1.isRemote).or e.parts.head?).map fun p => p.1.slice

/-- Whether an element may be served: its turn at its slices has come, and a store's lines are not held (R316, R374). -/
def State.elemMay (s : State) (x : Tile) (g : Fin 4) (e : Elem) : Bool :=
  e.stage == .ready && e.fails.isNone && !x.snapped && (x.agens[g]).elemTurn e &&
  ((x.cfg.agen[g]).reads || !e.parts.any fun p => s.lineHeld p.1 p.2.2.1)

/-- The accesses that wait at a slice: those whose turn in their own order has come and whose lines, for a store of a context, no bale
holds (R245, R287, R316, R374). The class of a peer's request is that of its flit (R406); that of the others is open (log entry
107). -/
def State.accessClaims (s : State) (k : Nat) : List Waiting :=
  (s.tiles.flatMap fun p =>
    ((List.finRange 4).flatMap fun c => (p.2.ctxs[c]).gq.filterMap fun a => match a.stage with
      | .ready t =>
        let held := match a.kind with
          | .load _ _ | .loadV | .loadOnce => false
          | kind => s.rangeHeld t kind.size
        if t.slice = k && (p.2.ctxs[c]).mayPerform a t && !held then
          some (accessClaim (.ctx p.1 c a.id) 0 (Config.accessClass 0).val a.order) else none
      | _ => none) ++
    (List.finRange 4).flatMap fun g => ((p.2.agens[g]).flight.filter fun e => e.slice == some k && s.elemMay p.2 g e).map fun e =>
      accessClaim (.stream p.1 g e.n) 2 (Config.accessClass 2).val e.n) ++
  (s.hub.inbound.filter fun q => q.tgt.slice == k && !q.deferred && s.inboundTurn q).map fun q => accessClaim (.inbound q.n) 1 q.cls q.order

/-- The words of entry and arc circuits that wait for the tiles of a die, of each circuit the next (R340). -/
def State.wordClaims (s : State) (a : Nat) : List Waiting :=
  s.tiles.flatMap fun p => if p.1.die ≠ a then [] else p.2.sinks.filterMap fun k => k.2.sent.head?.map fun n => ⟨.word p.1 k.1, 2, 0, n⟩

/-- What waits at an arbiter: beacons and what goes to a pool from another die on class 0, responses on class 1, reads and writes of
engines on class 2 (R244, R245, R324), words of reel circuits on class 2 with field 0 (R340); at a slice its accesses as well. -/
def State.claims (s : State) (a : Nat) : List Waiting :=
  ((s.beaconsOut.filter fun b => !b.granted && b.die.val == a).map fun b => ⟨.beacon, 0, 0, b.order⟩) ++
  ((List.finRange 8).flatMap fun d => if d.val ≠ a then [] else
    ((s.dies[d]).poolQ.filter fun o => !o.granted).map (fun o => ⟨Claim.poolOp, 0, 0, o.order⟩) ++
    ((s.dies[d]).arrivals.filter fun o => !o.granted).map fun o => ⟨Claim.arrival, 0, 0, o.order⟩) ++
  (if a < 8 then s.wordClaims a else s.accessClaims (a - 8)) ++
  s.xfers.flatMap fun x => (x.packets.filter fun p =>
      !p.granted && decide (p.again ≤ s.dies[x.die].clock) && p.arbiter x (s.region x.region) == a).map fun p =>
    ⟨.packet x.id, if p.kind = .response then 1 else 2, if p.kind = .response then 0 else p.slack, p.order⟩

/-- The first of some claims by the rules of R245. -/
def Waiting.before (p q : Waiting) : Bool :=
  p.cls < q.cls || (p.cls == q.cls && (p.slack < q.slack || (p.slack == q.slack && decide (p.order < q.order))))

/-- The best of a list by an order. -/
def bestOf (lt : Waiting → Waiting → Bool) (l : List Waiting) : Option Waiting :=
  l.foldl (fun m p => match m with
    | none => some p
    | some q => if lt p q then some p else some q) none

/-- Whether a slice has granted a packet that it has yet to serve: it serves in the order of its grants (R245). What waits at the slice,
deferred or for a line that a bale holds, keeps no other back (R294, R374). -/
def State.serving (s : State) (a : Nat) : Bool :=
  decide (8 ≤ a) && s.xfers.any fun x => x.packets.any fun p =>
    p.granted && !p.deferred && p.arbiter x (s.region x.region) == a &&
      !(p.kind == .write && p.target.any fun t => p.cells.any fun c => s.lineHeld (t.plus c.1) 1)

/-- The claim that an arbiter grants next: by the rules, unless a class has waited through 16 grants to others; the oldest of the
lowest such class, the one with the highest number, then goes first (R245; log entry 90). -/
def State.nextClaim (s : State) (a : Nat) : Option Waiting :=
  let l := if s.serving a then [] else s.claims a
  let starved := (List.range 3).filter fun c => decide (16 ≤ (lookupKey (a, c) s.passed).getD 0) && l.any fun w => w.cls == c
  match starved.getLast? with
  | some c => bestOf (fun p q => p.order < q.order) (l.filter fun w => w.cls == c)
  | none => bestOf Waiting.before l

/-- Grants that went to other classes counted for each class that waits (R245). -/
def State.countPassed (s : State) (a : Nat) (w : Waiting) : State :=
  let l := s.claims a
  { s with passed := (List.range 3).foldl (fun m c =>
      if c ≠ w.cls && l.any (fun v => v.cls == c) then putKey (a, c) ((lookupKey (a, c) m).getD 0 + 1) m else dropKey (a, c) m) s.passed }

/-- A claim granted: a beacon, packet or word may arrive, an operation or an arrival joins those that have reached the pool. An access is
served in the move that performs it. -/
def State.grant (s : State) (w : Waiting) : State :=
  match w.claim with
  | .beacon => { s with beaconsOut := s.beaconsOut.map fun c => if c.order = w.order then { c with granted := true } else c }
  | .packet id => s.modXfer id fun x => { x with packets := x.packets.map fun q =>
      -- a read that was told to come again is a new packet (R296, R409)
      if q.order = w.order then { q with granted := true, again := 0, ver := if q.again = 0 then q.ver else s.hub.version } else q }
  | .poolOp => { s with nextSeq := s.nextSeq + 1, dies := s.dies.map fun (d : Die) => match d.poolQ.find? fun o => !o.granted && o.order == w.order with
      | some o => { d with poolQ := joinGranted (·.granted) { o with granted := true, reached := s.nextSeq } (d.poolQ.erase o) }
      | none => d }
  | .arrival => { s with nextSeq := s.nextSeq + 1, dies := s.dies.map fun (d : Die) => match d.arrivals.find? fun o => !o.granted && o.order == w.order with
      | some o => { d with arrivals := joinGranted (·.granted) { o with granted := true, reached := s.nextSeq } (d.arrivals.erase o) }
      | none => d }
  | .word t k => s.modTile t (·.modSink k fun y => { y with sent := y.sent.drop 1 })
  | .access _ => s

/-- PACKET_ARBITER_GRANT (R245): an arbiter grants what its rules put first. -/
def execPacketArbiterGrant (a : Nat) (s : State) : Result :=
  match s.nextClaim a with
  | none => .next s.stall
  | some w => .next (match w.claim with
    | .access _ => s.stall
    | _ => (s.countPassed a w).grant w)

/-- The state in which a slice serves an access, if that is what it serves next (R245). -/
def State.servedAt (s : State) (k : Nat) (a : AccRef) : Option State :=
  match s.nextClaim (8 + k) with
  | some w => if w.claim = .access a then some (s.countPassed (8 + k) w) else none
  | none => none

/-- Runs of neighbouring cells, as an offset and the bytes (for writes to another package). -/
def runsOf : List Host.Cell → List (Nat × List Byte)
  | [] => []
  | (a, b) :: rest => match runsOf rest with
    | (c, bs) :: more => if c = a + 1 then (a, b :: bs) :: more else (a, [b]) :: (c, bs) :: more
    | [] => [(a, [b])]

/-- A packet that leaves a transfer; a transfer whose slot has been taken again goes with its last one (R271). -/
def State.dropPacket (s : State) (id : Word) (k : Nat) (f : Transfer → Transfer) : State :=
  { s with xfers := s.xfers.filterMap fun x =>
      if x.id ≠ id then some x
      else
        let x := f { x with packets := x.packets.eraseIdx k }
        if s.forgets x then none else some x }

/-- Bytes that have come back for a read, as a response on its way to the engine (R244). -/
def Packet.answered (p : Packet) (v order : Nat) (ver : Bool) : Packet :=
  { p with kind := .response, cells := cellsOf p.first p.len v, order := order, granted := false, deferred := false, again := 0, ver := ver }

/-- A read served: it goes back as a response. -/
def State.respondRead (s : State) (id : Word) (k : Nat) (v : Nat) : State :=
  let n := s.nextSeq
  { s.modXfer id fun x => { x with packets := x.packets.modify k fun p => p.answered v n s.hub.version } with nextSeq := n + 1 }

/-- A packet of reads that waits at its slice for a word to become present or a bale's decision, or comes again where the slice
holds 256 (R294, R296, R374). -/
def State.deferPacket (s : State) (id : Word) (k : Nat) (p : Packet) (t : Target) : State :=
  if p.deferred then s.stall
  else
    let full := decide (256 ≤ s.deferredAt t.slice)
    s.modXfer id fun x => { x with packets := x.packets.modify k fun p =>
      if full then { p with granted := false, again := s.dies[x.die].clock + 256 } else { p with deferred := true } }

/-- A read at its source: scratch in a bank that some context owns (R156), memory at its slice, or another package's (R251, R256,
R277, R294, R311). -/
def State.serveRead (s : State) (r : Region) (x : Transfer) (k : Nat) (p : Packet) : State :=
  match p.target, p.place with
  | some (.remote node rva), _ =>
    let s := s.askRemote node (.place x.id) p.first (r.launch.asid, p.span) p.ver fun rid => .read rid rva p.len
    s.dropPacket x.id k fun x => { x with remote := x.remote ++ [p] }
  | some t, _ =>
    if s.lineHeld t p.len then s.deferPacket x.id k p t
    else match s.mem.unitRead [(t, 0, p.len, p.wo)] with
      | .error .wait => s.deferPacket x.id k p t
      | .error (.cause c) => s.dropPacket x.id k (·.fails c)
      | .ok v => s.respondRead x.id k v
  | none, .tile row col sh _ =>
    let y := s.tile (r.tileAt row col)
    if !y.reachable sh p.start p.len then s.dropPacket x.id k (·.fails Cause.xfer)
    else if y.scratchBadAt (y.halfOf sh) p.start p.len then s.dropPacket x.id k (·.fails Cause.poison)
    else s.respondRead x.id k (y.scratchPlain (y.halfOf sh) p.start p.len)
  | none, .global _ => s.dropPacket x.id k (·.fails Cause.xlate)

/-- Bytes of scratch landed, which count as an uncorrectable error where their data came with one (R161, R399): what queued stores had
covered of such a word before no longer helps to clear it. -/
def Tile.landBytes (x : Tile) (cells : List Host.Cell) (bad : Bool) : Tile :=
  let x := x.scratchWrite cells
  if bad then
    let words := cells.map fun (c : Host.Cell) => c.1 / 8
    { x with scratchBad := (words ++ x.scratchBad).dedup
             ctxs := x.ctxs.map fun c => { c with covered := c.covered.filter fun a => !words.contains (a / 8) } }
  else x

/-- A write at its destination (R98, R251, R256, R294, R399). A feeder's write of a skein's segment is a transfer with HALF = 1 as any other,
whose banks are checked: only the segments of R95 are exempt (R156, R342, R345; DEDUCED, log entry 54). -/
def State.serveWrite (s : State) (r : Option Region) (x : Transfer) (k : Nat) (p : Packet) (bad : Bool) : State :=
  let n := p.cells.length
  let done := fun (x : Transfer) => { x with landed := x.landed + n }
  match p.target, p.place, r with
  | some (.remote node base), _, _ =>
    if bad then s.dropPacket x.id k (·.fails Cause.poison)
    else
      let s := (runsOf p.cells).foldl (fun s run => s.askRemote node (.place x.id) run.2.length ((r.map (·.launch.asid)).getD 0, p.span) p.ver fun rid =>
        .write rid (base + run.1) run.2.length (BitVec.ofNat 512 (ofBytes run.2))) s
      s.dropPacket x.id k id
  | some t, _, _ =>
    if p.cells.any fun c => s.lineHeld (t.plus c.1) 1 then s.stall
    else match s.mem.landCells t p.wo p.cells with
      | .error c => s.dropPacket x.id k (·.fails c)
      | .ok m =>
        let m := if bad then m.poisonCells t p.cells else m
        (State.dropPacket { s with mem := m } x.id k done).serveDeferred
  | none, .tile row col sh _, some r =>
    let t := r.tileAt row col
    let y := s.tile t
    if !p.cells.all fun c => y.reachable sh c.1 1 then s.dropPacket x.id k (·.fails Cause.xfer)
    else
      -- data from outside the region are input units of the governor (R98)
      let units := if x.desc.src.isTile then 0 else (n + 7) / 8 - p.inside
      let room := s.admits t units
      if room < units then
        if room = 0 then s.stall
        else (s.letIn t room).modXfer x.id fun x => { x with packets := x.packets.modify k fun p => { p with inside := p.inside + room } }
      else
        let s := (s.letIn t room).modTile t fun y => y.landBytes (p.cells.map fun c => (y.place (y.halfOf sh) c.1, c.2)) bad
        s.dropPacket x.id k done
  | none, _, _ => s.dropPacket x.id k id

/-- A response at its engine: its bytes are put to use, or POISON ends the transfer (R251, R399); where the region is gone it is
dropped (R102). -/
def State.serveResponse (s : State) (r : Option Region) (x : Transfer) (k : Nat) (p : Packet) (bad : Bool) : State :=
  if r.isNone then (s.dropPacket x.id k id).lateReply x.die x.region x.gen
  else s.dropPacket x.id k fun x => if bad then x.fails Cause.poison else { x with got := x.got ++ p.cells }.drain

/-- A read whose region is gone: it performs where memory answers it, and its response comes back (R318); one that would wait is
discarded (R296). -/
def State.serveOrphan (s : State) (x : Transfer) (k : Nat) (p : Packet) : State :=
  match p.target with
  | some t =>
    if t.isRemote || s.lineHeld t p.len then s.dropPacket x.id k id
    else match s.mem.unitRead [(t, 0, p.len, p.wo)] with
      | .error .wait => s.dropPacket x.id k id
      | .error (.cause _) => s.respondRead x.id k 0
      | .ok v => s.respondRead x.id k v
  | none => s.dropPacket x.id k id

/-- TRANSFER_PACKET_LAND (R244, R251, R98, R399): the k-th packet of a transfer under way is served where it goes to, once an arbiter
has granted it; one that breaks R156 or a write-once word touches no byte (R256, R294). A header with an uncorrectable error
is a fault of the packet's region. -/
def execTransferPacketLand (id : Word) (l : Landing) (s : State) : Result :=
  match s.xferOf id with
  | none => .next s.stall
  | some x => match x.packets[l.index]? with
    | none => .next s.stall
    | some p =>
      let r := (s.region x.region).filter fun r => r.gen == x.gen
      let known := ((s.standing x.region).map fun r => r.gen == x.gen).getD false
      if !p.granted then .next s.stall
      else if l.fault = .header then
        .next (if known then (s.dropPacket id l.index fun x => x).regionFault x.region ⟨Cause.poison, 5, 0, 0, 0, 0⟩
          else s.dropPacket id l.index fun x => x).settleClosing
      else match p.kind, r with
        | .write, r => .next (s.serveWrite r x l.index p (l.fault = .data)).settleClosing
        | .response, r => .next (s.serveResponse r x l.index p (l.fault = .data)).settleClosing
        | .read, some r => .next (s.serveRead r x l.index p)
        | .read, none => .next (s.serveOrphan x l.index p).settleClosing

/-! The end of a transfer. -/

/-- A completion entry: EOT with the id, or the ERR of R256. -/
def Transfer.entry (x : Transfer) (cause : BitVec 8) : Entry :=
  if cause = 0 then ⟨x.id.zeroExtend 256, Kind.eot, .direct⟩ else ⟨errWord cause (field x.id 0 56), Kind.err, .direct⟩

/-- The sink that a completion entry goes to: the named port, if it is then bound as an input (R255). -/
def State.entrySink (s : State) (x : Transfer) : Option (TileId × Nat) :=
  match s.region x.region with
  | none => none
  | some r =>
    let t := x.desc.ctarget
    let u := r.tileAt (field t 16 7) (field t 7 9)
    let c : Fin 4 := ⟨field t 5 2 % 4, Nat.mod_lt _ (by decide)⟩
    match (s.ctxAt u c).port (bits t 1 4) with
    | .input k => some (u, k)
    | _ => none

/-- A completion entry appended if its queue has room; dropped and counted as stale where the port is not an input (R255,
R170); else it waits. -/
def State.appendEntry (s : State) (x : Transfer) (e : Entry) : State :=
  match s.entrySink x with
  | none => (s.stale x.die).modXfer x.id fun x => { x with action := none }
  | some (t, k) =>
    let y := s.tile t
    if (y.sink k).queue.length < max (y.cfg.capacity k) 1 then
      (s.modTile t (·.modSink k fun q => { q with queue := q.queue ++ [e] })).modXfer x.id fun x => { x with action := none }
    else s.modXfer x.id fun x => { x with action := some e }

/-- The completion action of a transfer that ends DONE (cause 0) or in ERROR (R255, R256, R326). -/
def State.complete (s : State) (x : Transfer) (cause : BitVec 8) : State :=
  match x.desc.ckind with
  | 1 => s.appendEntry x (x.entry cause)
  | 2 =>
    let h := x.desc.ctarget
    let dx := dieOf (field h 20 3)
    let near := dx == x.die
    let a : Arrival :=
      { handle := h.zeroExtend 64, bytes := x.desc.dstBytes, cause := cause, id := x.id, region := x.region, gen := x.gen
        engine := (x.die, x.engine), ordered := if x.desc.ordered then some x.seq else none, order := s.nextSeq, granted := near
        reached := s.nextSeq }
    { s.modDie dx fun d => { d with arrivals := if near then joinGranted (·.granted) a d.arrivals else d.arrivals ++ [a] } with
      nextSeq := s.nextSeq + 1 }
  | _ => s

/-- The ports of a context that its outstanding via transfers hold (R252). -/
def State.viaMask (s : State) (t : TileId) (c : Fin 4) : BitVec 16 :=
  s.xfers.foldl (fun m x => if x.kind = .via && !x.ended && x.tile = t && x.ctx = c then
    m ||| (1#16 <<< x.desc.vin) ||| (1#16 <<< x.desc.vret) else m) 0

/-- The end of a transfer (R255, R256, R271): its watch first, then the completion action, then the slot, which is free once
no completion entry waits. -/
def State.endTransfer (s : State) (x : Transfer) (st : XState) (cause : BitVec 8) : State :=
  let s := s.modXfer x.id fun x => { x with st := st, cause := cause }
  let s := match s.counterTile x with
    | none => s
    | some t =>
      let s := s.endWatch t x.id (st == .error)
      if s.watches x.die x.engine t x.desc.cg then s
      else s.modTile t (·.modCounter x.desc.cg fun c => { c with subs := c.subs.filter fun e => e ≠ (x.die, x.engine) })
  let s := if x.kind = .via then s.modCtx x.tile x.ctx fun c => { c with viaPorts := s.viaMask x.tile x.ctx } else s
  if st = .cancelled then s else s.complete x cause

/-- Requests to other packages that a transfer still waits for. -/
def State.remoteFor (s : State) (id : Word) : Bool := s.hub.remote.any fun r => r.who == .place id

/-! Copies of a reel tile's state (R350, R357). -/

/-- A copy by the feeder's engine between a band tile's scratch, in the active or the shadow half, and memory (R345, R350):
one transfer of bytes that names the slot counter and a mark, or, as a save or a copy of a context, none. -/
def pieceDesc (place : Nat × Nat) (shadow out : Bool) (entry : Nat × Nat) (g : Fin 16) (mark : Nat) (p : Piece) : Desc :=
  let tile : Place := .tile place.1 place.2 shadow p.1
  let mem : Place := .global p.2.1
  { src := if out then tile else mem, dst := if out then mem else tile
    count0 := p.2.2, count1 := 1, count2 := 1, sstr0 := 1, sstr1 := 0, sstr2 := 0, dstr0 := 1, dstr1 := 0, dstr2 := 0
    mark := BitVec.ofNat 48 mark, crow := entry.1, ccol := entry.2, cg := g, ckind := 0, ctarget := 0, srcTy := .i8, dstTy := .i8
    rm := .rne, ordered := false, vvalid := false, vin := 0, vret := 0, vcons := 0, vprod := 0 }

/-- The request for a slot of the feeder's engine that a context's copy or a band tile's feeder has made (R247). -/
def State.pieceOrder (s : State) (t : TileId) (k : Fin 4) (kind : XKind) (e : Fin 64) : Option Nat :=
  if kind = .copy then (s.ctxAt t k).slotOrder e else (s.tile t).reel.bind (·.slotReq)

/-- That request set, or met. -/
def State.setPieceOrder (s : State) (t : TileId) (k : Fin 4) (kind : XKind) (e : Fin 64) (n : Option Nat) : State :=
  if kind = .copy then s.modCtx t k fun c => { c with slotReq := n.map fun n => (e, n) }
  else s.modTile t fun x => { x with reel := x.reel.map fun b => { b with slotReq := n } }

/-- A copy or a feeder that finds no slot asks for one, if it has not yet (R247). -/
def State.askPiece (s : State) (t : TileId) (k : Fin 4) (kind : XKind) : State :=
  match (s.regionOf t).bind (·.reel) with
  | none => s
  | some f =>
    if (s.pieceOrder t k kind f.engine).isSome then s
    else { s.setPieceOrder t k kind f.engine (some s.nextSeq) with nextSeq := s.nextSeq + 1 }

/-- A transfer of a band tile accepted by the feeder's engine, if it has a slot for the region (R247, R345). -/
def State.acceptPiece (s : State) (t : TileId) (k : Fin 4) (kind : XKind) (shadow out : Bool) (mark : Nat) (p : Piece) :
    Option (Word × State) :=
  match s.regionOf t, (s.tile t).reel with
  | some r, some b => match r.reel with
    | none => none
    | some f =>
      if !s.slotFree t.dieIx f.engine r.number (s.pieceOrder t k kind f.engine) then none
      else some ((s.setPieceOrder t k kind f.engine none).accept t.dieIx f.engine t k r kind
        (pieceDesc (r.relative t) shadow out (r.relative (r.slotTile f b.slot 0 0)) f.actr mark p) [])
  | _, _ => none

/-- The result of `stsave` or `stload`: cause and bytes written (R357). -/
def copyResult (cause : BitVec 8) (n : Nat) : Word := BitVec.ofNat 64 (cause.toNat * 2 ^ 56 + n % 2 ^ 48)

/-- A copy of a context goes on: its next piece is asked for once the last has ended, and after the last, or a fault, the
context gets its result (R357). -/
def State.copyStep (s : State) (t : TileId) (k : Fin 4) : State :=
  match (s.ctxAt t k).wait with
  | .copy d save todo cur done =>
    let finish := fun (cause : BitVec 8) (n : Nat) (s : State) =>
      s.modCtx t k fun c => { (c.setS d (copyResult cause n)).retire with wait := .none }
    let next := fun (done : Nat) (s : State) => match todo with
      | [] => finish 0 done s
      | p :: rest => match s.acceptPiece t k .copy false save 0 p with
        | none => (s.askPiece t k .copy).modCtx t k fun c => { c with wait := .copy d save todo none done }
        | some (id, s) => s.modCtx t k fun c => { c with wait := .copy d save rest (some id) done }
    match cur with
    | none => next done s
    | some id => match s.xferOf id with
      | none => next done s
      | some x =>
        if x.st = .error then finish x.cause (done + x.landed) s
        else if x.ended then next (done + x.landed) s
        else s
  | _ => s

/-- What follows the end of a transfer that a feeder or a copy asked for: a fault of a load or save is a reel fault (R344, R345,
R389), whose entry beside its cause is open (log entry 3). -/
def State.afterEnd (s : State) (x : Transfer) (cause : BitVec 8) : State :=
  match x.kind with
  | .copy => s.copyStep x.tile x.ctx
  | .load | .save =>
    if cause = 0 then s
    else
      let (info, s) := s.freeWord
      let (loc, s) := s.freeWord
      s.tileFault x.tile cause 3 0 0 info loc
  | _ => s

/-- TRANSFER_DONE (R255). -/
def execTransferDone (id : Word) (s : State) : Result :=
  match s.xferOf id with
  | none => .next s.stall
  | some x =>
    if !x.ended && x.slot.isSome && x.failing.isNone && x.out.isEmpty && x.packets.isEmpty && !s.remoteFor id && x.landed = x.desc.dstBytes &&
        (x.kind ≠ .via || x.viaBack) then .next ((s.endTransfer x .done 0).afterEnd x 0)
    else .next s.stall

/-- TRANSFER_ERROR (R256): every packet issued before the fault has landed. -/
def execTransferError (id : Word) (s : State) : Result :=
  match s.xferOf id with
  | none => .next s.stall
  | some x => match x.failing with
    | none => .next s.stall
    | some c => .next (if !x.ended && x.slot.isSome && x.packets.isEmpty && !s.remoteFor id then
        (s.endTransfer x .error c).afterEnd x c else s.stall)

/-- COMPLETION_ENTRY_APPEND (R255): a completion entry that waited for room. -/
def execCompletionEntryAppend (id : Word) (s : State) : Result :=
  match s.xferOf id with
  | none => .next s.stall
  | some x => match x.action with
    | none => .next s.stall
    | some e =>
      let t := s.appendEntry x e
      .next (if ((t.xferOf id).bind (·.action)).isSome then s.stall else t)

/-- `xcancel` (R271). -/
def execXcancel (g : Guard) (o : FmtQ) (s : State) : Result :=
  .next (s.issue g fun s => match s.named (s.getS o.s1) with
    | none => s.retire
    | some x => if x.ended then s.retire else (s.endTransfer x .cancelled 0).retire)

/-- What a finished walk gives an engine's places, whose next source or destination byte lies in the page (R282, R283). -/
def Transfer.walked (x : Transfer) (page : Nat) (found : Except WalkFail Leaf) : Transfer :=
  let x := { x with walking := false }
  match found with
  | .error f => x.fails f.cause
  | .ok leaf =>
    let wants := fun (p : Option PlaceState) => match p with
      | some (.walk va) => pageOf va == page
      | _ => false
    { x with
      srcLeaf := if wants x.nextSource then some leaf else x.srcLeaf
      dstLeaf := if wants x.nextDest then some leaf else x.dstLeaf }

/-- The answer of another package to a transfer's read, of the byte position `n`, or to its write of `n` bytes (R296, R311,
R416). -/
def State.xferAnswer (s : State) (id : Word) (n : Nat) (write : Bool) (a : RemoteAnswer) : State :=
  let took := fun (x : Transfer) => { x with remote := x.remote.filter fun p => p.first != n }
  let found := (s.xferOf id).bind fun x => x.remote.find? fun p => p.first == n
  match write, a, found with
  | true, .value _, _ => s.modXfer id fun x => { x with landed := x.landed + n }
  | true, .fail c _, _ => s.modXfer id (·.fails c)
  | true, .retry, _ => s
  | false, .fail c _, _ => s.modXfer id fun x => (took x).fails c
  | false, .retry, some p =>
    { s.modXfer id fun x => { took x with packets := x.packets ++
        [{ p with granted := false, again := s.dies[x.die].clock + 256 }] } with nextSeq := s.nextSeq + 1 }
  | false, .value data, some p => s.modXfer id fun x => (Transfer.drain { took x with got := x.got ++ cellsOf p.first p.len data.toNat })
  | false, _, none => s

end Sys2Proof.Machine
end

