-- ==== Sys2Proof/Machine/Frames.lean ====
section
/-! DEFINITION. Configuration frames (R56-R59): instruction words, ROUTE (R189-R193, R229), AGEN (R205, R206), TILECFG
(R116-R121, R238) and MEMNODE (R303), the checks of a region's circuits and trees (R187, R230), and how the settings become
those of the tile (R94, R351). -/

namespace Sys2Proof.Machine

/-- A frame of 32 bytes as one number (R56). -/
abbrev Frame := BitVec 256

/-- KIND. -/
def Frame.kind (f : Frame) : Nat := field f 0 8
/-- BANK: true for the shadow copy. -/
def Frame.shadow (f : Frame) : Bool := f.getLsbD 8
/-- TARGET.UNIT. -/
def Frame.unit (f : Frame) : Nat := field f 9 7
/-- TARGET.COL. -/
def Frame.col (f : Frame) : Nat := field f 16 9
/-- TARGET.ROW. -/
def Frame.row (f : Frame) : Nat := field f 25 7
/-- The header as a word. -/
def Frame.header (f : Frame) : Word := BitVec.ofNat 64 (field f 0 32)
/-- Payload bits [lo + w - 1 : lo]. -/
def Frame.pay (f : Frame) (lo w : Nat) : Nat := field f (32 + lo) w

/-! Instruction words (R58). -/

/-- The words of a CODE frame with their index; none for a load fault (R58, R59). -/
def Frame.code (f : Frame) : Option (Nat × List Word) :=
  let t := f.pay 192 32
  let count := natField t 11 2
  let index := natField t 0 11
  let words := (List.range 3).map fun i => BitVec.ofNat 64 (f.pay (64 * i) 64)
  if f.unit ≠ 0 || natField t 13 19 ≠ 0 || count = 0 || 2047 < index + count - 1 || (words.drop count).any (· != 0) then none
  else some (index, words.take count)

/-- Words written into an instruction store; a store lists the indices that do not hold zero (R60). -/
def writeWords (store : List (Nat × Word)) (index : Nat) : List Word → List (Nat × Word)
  | [] => store
  | w :: rest => writeWords (if w = 0 then dropKey index store else putKey index w store) (index + 1) rest

/-! Owner programs (R302, R303). -/

/-- Whether a step is one that R302 admits. -/
def stepAdmitted (w : BitVec 16) : Bool :=
  let op := field w 11 5
  let dst := field w 8 3
  decide (op ≤ 16) && !w.getLsbD 0 &&
    (if op = 0 || (13 ≤ op && op ≤ 15) then dst == 0 else [0, 1, 3, 7].contains dst)

/-- Whether every step after the first END is zero (R303). -/
def stepsClosed : List (BitVec 16) → Bool
  | [] => true
  | w :: rest => if field w 11 5 = 0 then rest.all (· == 0) else stepsClosed rest

/-- The program of a MEMNODE frame, for a region and its tenant; none for a load fault (R57, R59, R303). -/
def Frame.program (f : Frame) (tenant : BitVec 12) (region : Nat) : Option Program :=
  let slice := field f 9 11
  let steps := (List.range 9).map fun k => BitVec.ofNat 16 (f.pay (72 + 16 * k) 16)
  if f.shadow || 1087 < slice || field f 20 12 ≠ 0 || f.pay 216 8 ≠ 0 || f.pay 2 6 ≠ 0 || !steps.all stepAdmitted || !stepsClosed steps
  then none
  else some ⟨slice, tenant, BitVec.ofNat 2 (f.pay 0 2), region, BitVec.ofNat 32 (f.pay 8 32), BitVec.ofNat 32 (f.pay 40 32), steps⟩

/-- A program entered at its slice; none where the key is another region's or the slice holds 16 (R303). -/
def Global.addProgram (g : Global) (p : Program) : Option Global :=
  let same := fun (q : Program) => q.slice == p.slice && q.tenant == p.tenant && q.prog == p.prog
  match g.programs.find? same with
  | some q =>
    if q.region = p.region then some { g with programs := g.programs.map fun q => if same q then p else q } else none
  | none => if 16 ≤ g.programs.countP (·.slice == p.slice) then none else some { g with programs := g.programs ++ [p] }

/-! TILECFG (R116-R121, R238). -/

/-- The n-th four-fold choice of a context. -/
def ctxOf (n : Nat) : Fin 4 := ⟨n % 4, Nat.mod_lt _ (by decide)⟩

/-- A TILECFG frame written into a copy of the settings; none for a load fault. -/
def Frame.tileCfg (f : Frame) (c : Settings) : Option Settings :=
  let part' := f.unit / 16
  let k := ctxOf f.unit
  if 4 < part' || f.unit / 4 % 4 ≠ 0 || (3 ≤ part' && f.unit % 4 ≠ 0) then none
  else match part' with
    | 0 =>
      let banks := BitVec.ofNat 96 (f.pay 0 96)
      let clash := (List.finRange 4).any fun j => j != k && (c.ctxs[j]).banks &&& banks != 0
      if f.pay 125 99 ≠ 0 || f.pay 107 1 ≠ 0 || clash then none
      else
        let y : CtxCfg := ⟨f.pay 124 1 == 1, BitVec.ofNat 16 (f.pay 108 16), BitVec.ofNat 11 (f.pay 96 11), banks⟩
        some { c with ctxs := c.ctxs.set k y }
    | 1 =>
      if f.pay 192 32 ≠ 0 then none
      else some { c with tasks := c.tasks.set k (Vector.ofFn fun (i : Fin 16) =>
        ⟨f.pay (12 * i.val + 11) 1 == 1, BitVec.ofNat 11 (f.pay (12 * i.val) 11), false, 0⟩) }
    | 2 =>
      -- an endpoint above 31 and a stream above 3 do not exist (R168; log entry 37)
      if (List.range 16).any fun i =>
          let n := f.pay (14 * i) 12
          let kind := f.pay (14 * i + 12) 2
          ((kind == 1 || kind == 2) && decide (31 < n)) || (kind == 3 && decide (3 < n)) then none
      else some { c with binds := c.binds.set k (Vector.ofFn fun (i : Fin 16) =>
        let n := f.pay (14 * i.val) 12
        match f.pay (14 * i.val + 12) 2 with
        | 0 => .unbound
        | 1 => .input n
        | 2 => .output n
        | _ => .stream n) }
    | 3 =>
      if f.pay 51 173 ≠ 0 then none
      else some { c with
        counterOwner := Vector.ofFn fun (i : Fin 16) =>
          if f.pay (3 * i.val + 2) 1 = 1 then some (ctxOf (f.pay (3 * i.val) 2)) else none
        matrixOwner := if f.pay 50 1 = 1 then some (ctxOf (f.pay 48 2)) else none }
    | _ => some { c with beacon := Vector.ofFn fun (i : Fin 16) => BitVec.ofNat 14 (f.pay (14 * i.val) 14) }

/-! ROUTE (R189-R192, R229). -/

/-- A lane group's width by its code; 3 is refused before. -/
def widthOf (code : Nat) : Nat := 2 ^ code

/-- A switch entry from its 28 bits; none for a load fault (R190). Its fields are looked at whether or not it is VALID (log entry
23). -/
def switchOf (w : Nat) : Option SwitchCfg :=
  let inDir := natField w 24 3
  let outDir := natField w 19 3
  let inEp := natField w 10 5
  let outEp := natField w 5 5
  if natField w 0 5 ≠ 0 || 6 ≤ inDir || 6 ≤ outDir || natField w 15 2 = 3 then none
  else if (inDir = 0 || inDir = 5) && natField w 22 2 ≠ 0 then none
  else if (outDir = 0 || outDir = 5) && natField w 17 2 ≠ 0 then none
  else if (1 ≤ inDir && inDir ≤ 4) && inEp ≠ 0 then none
  else if (1 ≤ outDir && outDir ≤ 4) && outEp ≠ 0 then none
  else if natField w 27 1 = 0 then some ⟨false, 0, 0, 0, 0, 1, 0, 0⟩
  else some ⟨true, inDir, natField w 22 2, outDir, natField w 17 2, widthOf (natField w 15 2), inEp, outEp⟩

/-- A type field with 15 for none; none for a load fault (R191). -/
def typeField (n : Nat) : Option (Option Ty) :=
  if n = 15 then some none else (Ty.ofCode (BitVec.ofNat 4 n)).map some

/-- A sink's settings from their 64 bits; none for a load fault (R191). Only the SCALE of a VALID entry is looked at, since an
entry of zeros clears a sink (log entry 23). -/
def sinkOfBits (w : Nat) : Option SinkCfg :=
  let scale := natField w 0 32
  let badScale := match floatOf .fp32 scale with
    | .fin _ n _ _ => n == 0
    | _ => true
  let valid := natField w 63 1 == 1
  if natField w 32 15 ≠ 0 || natField w 61 2 = 3 || (valid && badScale) then none
  else match typeField (natField w 53 4), typeField (natField w 49 4) with
    | some s, some d =>
      if valid then
        some ⟨true, widthOf (natField w 61 2), natField w 57 4, s, d, RM.ofCode (BitVec.ofNat 2 (natField w 47 2)), BitVec.ofNat 32 scale⟩
      else some ⟨false, 1, 0, none, none, .rne, 0⟩
    | _, _ => none

/-- An operator from its 28 bits; none for a load fault (R192), whether or not it is VALID (log entry 23). -/
def opOfBits (w : Nat) : Option OpCfg :=
  let kind := natField w 24 3
  let nout := natField w 10 2
  let d1 := natField w 16 4
  let d2 := natField w 12 4
  let make := fun (k : OpKind) =>
    if natField w 27 1 = 1 then some (⟨true, k, natField w 20 4, d1, d2, nout⟩ : OpCfg) else some ⟨false, .none, 0, 0, 0, 0⟩
  if natField w 0 10 ≠ 0 then none
  else match kind with
    | 0 => if nout ≠ 0 then none else make .none
    | 1 => if nout ≠ 0 || d2 ≠ 0 then none else make .steer
    | 2 => if nout ≠ 0 then none else make .merge
    | 3 => if nout ≠ 0 then none else make .carry
    | 4 => if nout = 0 || d1 ≠ 0 || d2 ≠ 0 then none else make .fork
    | _ => none

/-- A spindle set from its 56 bits; none for a load fault (R229), whether or not it is VALID (log entry 23). -/
def spinOfBits (w : Nat) : Option SpinCfg :=
  let parent := natField w 51 3
  let nchild := natField w 46 3
  if natField w 0 38 ≠ 0 || 5 ≤ parent || 5 ≤ nchild then none
  else if natField w 55 1 = 0 then some ⟨false, false, 0, 0, 0, 0⟩
  else some ⟨true, natField w 54 1 == 1, parent, natField w 49 2, nchild, natField w 38 8⟩

/-- Entries written one after another; none once one is a load fault. -/
def writeAll {α : Type} (f : Nat → Option α) (put : Settings → Nat → α → Settings) : Nat → Settings → Option Settings
  | 0, c => some c
  | n + 1, c => match writeAll f put n c with
    | none => none
    | some c => (f n).map (put c n)

/-- A ROUTE frame written into a copy of the settings; none for a load fault. -/
def Frame.route (f : Frame) (c : Settings) : Option Settings :=
  let group := f.unit % 32
  match f.unit / 32 with
  | 0 =>
    if 3 < group then none
    else writeAll (fun k => switchOf (f.pay (28 * k) 28))
      (fun c k e => { c with switch := c.switch.set ((8 * group + k) % 32) e (Nat.mod_lt _ (by decide)) }) 8 c
  | 1 =>
    if 21 < group || f.pay 192 32 ≠ 0 || (group = 21 && f.pay 64 128 ≠ 0) then none
    else writeAll (fun k => sinkOfBits (f.pay (64 * k) 64))
      (fun c k e => { c with sinks := c.sinks.set ((3 * group + k) % 64) e (Nat.mod_lt _ (by decide)) })
      (if group = 21 then 1 else 3) c
  | 2 =>
    if group ≠ 0 then none
    else writeAll (fun k => opOfBits (f.pay (28 * k) 28))
      (fun c k e => { c with ops := c.ops.set (k % 8) e (Nat.mod_lt _ (by decide)) }) 8 c
  | _ =>
    if group ≠ 0 then none
    else writeAll (fun k => spinOfBits (f.pay (56 * k) 56))
      (fun c k e => { c with spin := c.spin.set (k % 4) e (Nat.mod_lt _ (by decide)) }) 4 c

/-! AGEN (R205, R206). -/

/-- The rules that join the two halves of a descriptor: a count in every dimension in use, and zeros beyond (R206). -/
def AgenCfg.joined (a : AgenCfg) : Bool :=
  (List.finRange 4).all fun k =>
    if k.val < a.dims then a.count[k] != 0 else a.count[k] == 0 && a.stride[k] == 0

/-- A half of a descriptor (1 or 2) written. Once both have been written since the last pair, the pair is looked at as one; none
where it breaks R206. -/
def AgenCfg.wrote (a : AgenCfg) (half : BitVec 4) : Option AgenCfg :=
  let parts := a.parts ||| half ||| half <<< 2
  if parts.getLsbD 2 && parts.getLsbD 3 then (if a.joined then some { a with parts := parts &&& 3 } else none)
  else some { a with parts := parts }

/-- The descriptors as the load of another configuration finds them: what has been written of a pair before makes no pair with what
comes (R206). -/
def Settings.unpaired (c : Settings) : Settings := { c with agen := c.agen.map fun a => { a with parts := a.parts &&& 3 } }

/-- Whether both halves of a descriptor have been written at some time. -/
def AgenCfg.whole (a : AgenCfg) : Bool := a.parts.getLsbD 0 && a.parts.getLsbD 1

/-- An AGEN frame written into a copy of the settings; none for a load fault. -/
def Frame.agen (f : Frame) (c : Settings) : Option Settings :=
  let g := ctxOf (f.unit / 4)
  let a := c.agen[g]
  let put := fun (half : BitVec 4) (a : AgenCfg) => (a.wrote half).map fun a => { c with agen := c.agen.set g a }
  if f.unit / 16 ≠ 0 || f.unit % 2 ≠ 0 then none
  else if f.unit / 2 % 2 = 0 then
    let mode := f.pay 62 3
    let base := f.pay 0 56
    if f.pay 72 152 ≠ 0 || 4 < mode || f.pay 56 2 = 3 then none
    else if (mode = 1 || mode = 2) && base / 2 ^ 19 ≠ 0 then none
    else match Ty.ofCode (BitVec.ofNat 4 (f.pay 58 4)) with
      | none => none
      | some ty =>
        if mode = 0 && ty ≠ .i64 then none
        else put 1 { a with eot := f.pay 71 1 == 1, eodMask := BitVec.ofNat 4 (f.pay 67 4), dims := f.pay 65 2 + 1
                            mode := mode, ty := ty, word := 8 * 2 ^ f.pay 56 2, base := base }
  -- dimension 0 is in use whatever DIMS is
  else if f.pay 208 16 ≠ 0 || f.pay 0 20 = 0 then none
  else put 2 { a with
    count := Vector.ofFn fun (k : Fin 4) => f.pay (20 * k.val) 20
    stride := Vector.ofFn fun (k : Fin 4) => (BitVec.ofNat 32 (f.pay (32 * k.val + 80) 32)).toInt }

/-! Frames applied. -/

/-- Whether a TILECFG frame of section 0 names banks that a band tile does not have (R157). -/
def Frame.farBanks (f : Frame) : Bool := f.kind == 4 && f.unit / 16 == 0 && f.pay 48 48 != 0

/-- A frame other than MEMNODE written to a tile, into the copy that BANK names; none for a load fault (R59, R157, R193). -/
def Tile.applyFrame (x : Tile) (f : Frame) : Option Tile :=
  let settings := fun (g : Settings → Option Settings) =>
    if f.shadow then (g x.cfgShadow).map fun c => { x with cfgShadow := c } else (g x.cfg).map fun c => { x with cfg := c }
  match f.kind with
  | 1 => f.code.map fun w =>
    if f.shadow then { x with storeShadow := writeWords x.storeShadow w.1 w.2
                              storeBad := x.storeBad.filter fun i => !(decide (2048 + w.1 ≤ i ∧ i < 2048 + w.1 + w.2.length)) }
    else { x with store := writeWords x.store w.1 w.2
                  storeBad := x.storeBad.filter fun i => !(decide (w.1 ≤ i ∧ i < w.1 + w.2.length)) }
  | 2 => settings f.route
  | 3 => settings f.agen
  | 4 => if x.reel.isSome && f.farBanks then none else settings f.tileCfg
  | _ => none

/-- A port's start marking: only that of an enabled context's unbound port counts (R96). -/
def CtxCfg.starts (c : CtxCfg) (binds : Vector Binding 16) : BitVec 16 :=
  if !c.enable then 0
  else (List.finRange 16).foldl (fun (m : BitVec 16) (k : Fin 16) =>
    if c.start.getLsbD k.val && binds[k] == .unbound then m ||| (1#16 <<< k.val) else m) 0

/-- A context takes ENABLE, BANKS, HVEC, START, its task table and its port bindings from the tile's settings; an enabled
one is PARKED (R94, R107, R351). -/
def Ctx.configured (c : Ctx) (x : Settings) (k : Fin 4) : Ctx :=
  let y := x.ctxs[k]
  { c with run := if y.enable then .parked else .disabled
           last := 15
           tasks := x.tasks[k]
           ports := x.binds[k]
           startPorts := y.starts (x.binds[k])
           startQ := Vector.replicate 16 []
           banks := y.banks
           hvec := y.hvec }

/-- Every typed join takes the scale that its settings declare (R78, R191). -/
def Tile.joined (x : Tile) : Tile :=
  (List.finRange 64).foldl (fun x k =>
    let c := x.cfg.sinks[k]
    if c.valid && c.typed then x.modSink k.val fun y => { y with scale := c.scale } else x) x

/-- Contexts, counters and the matrix array take their settings (R94, R120, R213, R237). -/
def Tile.takesSettings (x : Tile) : Tile :=
  { x with ctxs := Vector.ofFn fun k => x.ctxs[k].configured x.cfg k
           counters := Vector.ofFn fun (g : Fin 16) => Counter.installed x.cfg.beacon[g]
           matrix := { x.matrix with owner := x.cfg.matrixOwner } }

/-- The tile after install's frames (R94). -/
def Tile.configured (x : Tile) : Tile := x.joined.takesSettings

/-- The tile after a frame for its active copy that came before the sources started (log entry 121): what the frame's kind sets is taken
again, the scale of a typed join where its sink has changed (`old` is the copy before). -/
def Tile.reconfigured (x : Tile) (old : Settings) (kind : Nat) : Tile :=
  if kind = 4 then x.takesSettings
  else (List.finRange 64).foldl (fun x k =>
    let c := x.cfg.sinks[k]
    if c.valid && c.typed && c != old.sinks[k] then x.modSink k.val fun y => { y with scale := c.scale } else x) x

/-! Checks of a region's circuits (R187). What they say of a copy of one tile's settings, they say at each ROUTE frame as far as
no later frame could mend it; what needs the whole configuration, they say when it is in use or all of it has been written (log
entry 97). -/

/-- Lanes of a group as a mask. -/
def laneGroup (lane width : Nat) : Nat := (2 ^ width - 1) * 2 ^ lane

/-- Whether a lane group is aligned (R169). -/
def laneAligned (lane width : Nat) : Bool := lane % width == 0 && decide (lane + width ≤ 4)

/-- Whether two entries use one lane of one side of one link. -/
def SwitchCfg.clashes (a b : SwitchCfg) : Bool :=
  (1 ≤ a.outDir && a.outDir ≤ 4 && a.outDir == b.outDir && laneGroup a.outLane a.width &&& laneGroup b.outLane b.width != 0) ||
  (1 ≤ a.inDir && a.inDir ≤ 4 && a.inDir == b.inDir && laneGroup a.inLane a.width &&& laneGroup b.inLane b.width != 0)

/-- Entries in use, each with those after it. -/
def clashFree : List SwitchCfg → Bool
  | [] => true
  | a :: rest => rest.all (fun b => !a.clashes b) && clashFree rest

/-- Entries of a tile in use. -/
def Settings.entries (c : Settings) : List SwitchCfg := c.switch.toList.filter (·.valid)

/-- The tile of the region across a link; none at the region's edge. -/
def Region.across (r : Region) (t : TileId) (dir : Nat) : Option TileId :=
  let edge := match dir with
    | 1 => t.prow == r.top
    | 2 => t.pcol + 1 == r.left + r.launch.cols
    | 3 => t.prow + 1 == r.top + r.launch.rows
    | _ => t.pcol == r.left
  if edge then none else some (neighbour t dir)

/-- Whether the tiles across an entry's links go on with its lane group, at the same width (R187). -/
def State.goesOn (s : State) (r : Region) (t : TileId) (w : SwitchCfg) : Bool :=
  (w.outDir = 0 || w.outDir = 5 || match r.across t w.outDir with
    | none => false
    | some u => (s.tile u).cfg.entries.any fun v => v.inDir == opposite w.outDir && v.inLane == w.outLane && v.width == w.width) &&
  (w.inDir = 0 || w.inDir = 5 || match r.across t w.inDir with
    | none => false
    | some u => (s.tile u).cfg.entries.any fun v => v.outDir == opposite w.inDir && v.outLane == w.inLane && v.width == w.width)

/-- Inputs that an operator has. -/
def OpKind.inputs : OpKind → Nat
  | .none => 0
  | .steer => 2
  | .merge | .carry => 3
  | .fork => 1

/-- Outputs that an operator has. -/
def OpCfg.outputs (o : OpCfg) : Nat :=
  match o.kind with
  | .none => 0
  | .steer => 2
  | .merge | .carry => 1
  | .fork => o.nout

/-- Data inputs of an operator; the others take control words (R181-R184). -/
def OpKind.dataInputs : OpKind → List Nat
  | .none => []
  | .steer | .fork => [0]
  | .merge | .carry => [0, 1]

/-- Operators of a tile in use. -/
def Settings.opList (c : Settings) : List (Fin 8) := (List.finRange 8).filter fun o => (c.ops[o]).valid && (c.ops[o]).kind != .none

/-- The destination types of an operator's data channels are one (R180). -/
def State.opTyped (s : State) (t : TileId) (o : Fin 8) : Bool :=
  let c := (s.tile t).cfg
  let op := c.ops[o]
  let ins := op.kind.dataInputs.map fun i => (c.sinkCfg (opSink o i)).dstTy
  let outs := (List.range op.outputs).filterMap fun j =>
    (s.sinkOf t (opSource o j)).map fun p => ((s.tile p.1).cfg.sinkCfg p.2).dstTy
  let ctl := ((List.range op.kind.inputs).filter fun i => !op.kind.dataInputs.contains i).map fun i => (c.sinkCfg (opSink o i)).dstTy
  (match ins ++ outs with
    | [] => true
    | a :: rest => rest.all (· == a)) && ctl.all (·.isNone)

/-- Whether the channels of an operator's inputs, as far as they are laid, keep R180: data inputs of one type, control inputs
untyped. -/
def Settings.inputsTyped (c : Settings) (o : Fin 8) : Bool :=
  let op := c.ops[o]
  let laid := fun (l : List Nat) => (l.filter fun i => (c.sinkCfg (opSink o i)).valid).map fun i => (c.sinkCfg (opSink o i)).dstTy
  (match laid op.kind.dataInputs with
    | [] => true
    | a :: rest => rest.all (· == a)) &&
  (laid ((List.range op.kind.inputs).filter fun i => !op.kind.dataInputs.contains i)).all (·.isNone)

/-- Whether an entry keeps the lane groups of its links: aligned, and one group for a channel that passes through, since a channel uses the
same lane group on each link of its route: the group that comes in would have no exit, and the one that goes out no entry (R169, R187;
DEDUCED, log entry 115). -/
def SwitchCfg.lanesOk (w : SwitchCfg) : Bool :=
  let inLink : Bool := decide (1 ≤ w.inDir ∧ w.inDir ≤ 4)
  let outLink : Bool := decide (1 ≤ w.outDir ∧ w.outDir ≤ 4)
  (!inLink || laneAligned w.inLane w.width) && (!outLink || laneAligned w.outLane w.width) &&
    (!(inLink && outLink) || w.inLane == w.outLane)

/-- Whether a copy of a tile's settings, whole or not, breaks none of R169, R179, R180 and R187 in what it holds. -/
def Settings.conflictFree (c : Settings) : Bool :=
  let es := c.entries
  es.all SwitchCfg.lanesOk && clashFree es && c.opList.all c.inputsTyped &&
  (List.finRange 4).all (fun k => (List.finRange 16).all fun (i : Fin 16) =>
    !((c.tasks[k])[i]).valid || match (c.binds[k])[i] with
      | .input e => !(c.sinkCfg e).valid || c.capacity e != 0
      | _ => true) &&
  (List.range 64).all fun k => !(c.sinkCfg k).valid || !(c.sinkCfg k).typed || (c.sinkCfg k).slots != 0

/-- Whether an operator has an input, by the sink's number. -/
def Settings.hasInput (c : Settings) (k : Nat) : Bool :=
  let op := c.ops[((k - 32) / 4) % 8]'(Nat.mod_lt _ (by decide))
  op.valid && decide (32 ≤ k ∧ (k - 32) % 4 < op.kind.inputs)

/-- Whether an operator has an output, by the number 4o + j. -/
def Settings.hasOutput (c : Settings) (e : Nat) : Bool :=
  let op := c.ops[(e / 4) % 8]'(Nat.mod_lt _ (by decide))
  op.valid && decide (e % 4 < op.outputs)

/-- The sink at which an entry ends its channel, where it does. -/
def SwitchCfg.endSink (w : SwitchCfg) : Option Nat :=
  if w.outDir = 0 then some w.outEp else if w.outDir = 5 then some (32 + w.outEp) else none

/-- Whether a copy of a tile's settings is whole by itself: every operator input has a channel, every channel ends at a sink of its
width and at an operator only where that has the input or the output, and the two halves of each descriptor agree (R187, R206). -/
def Settings.complete (c : Settings) : Bool :=
  c.opList.all (fun o => (List.range (c.ops[o]).kind.inputs).all fun i =>
    (c.sinkCfg (opSink o i)).valid && (c.entryOfSink (opSink o i)).isSome) &&
  (List.range 64).all (fun k => !(c.sinkCfg k).valid || decide (k < 32) || c.hasInput k) &&
  c.entries.all (fun w => (match w.endSink with
      | some k => (c.sinkCfg k).valid && (c.sinkCfg k).lanes == w.width && (decide (k < 32) || c.hasInput k)
      | none => true) && (w.inDir != 5 || c.hasOutput w.inEp)) &&
  c.agen.toList.all fun a => !a.whole || a.joined

/-- Whether one tile's circuits keep R169, R179, R180 and R187. A band tile's sinks 24-31 are the reel's (R340). -/
def State.tileCircuits (s : State) (r : Region) (t : TileId) : Bool :=
  let c := (s.tile t).cfg
  let es := c.entries
  let reels := fun (k : Nat) => (s.tile t).reel.isSome && decide (24 ≤ k ∧ k < 32)
  let sinks := (List.range 64).filter fun k => (c.sinkCfg k).valid && !reels k
  c.conflictFree && c.complete && es.all (s.goesOn r t) &&
  -- every channel has a source and a sink
  es.all (fun w => (w.endSink.isNone || (s.followIn maxHops t w).isSome) &&
    (!(w.inDir = 0 || w.inDir = 5) || (s.followOut maxHops t w).isSome)) &&
  sinks.all (fun k => (c.entryOfSink k).isSome || (s.hub.circuitOfSink t k).isSome) &&
  c.opList.all (s.opTyped t)

/-- Operators that channels of capacity 0 lead to from an operator (R187). -/
def State.rendezvousNext (s : State) (t : TileId) (o : Fin 8) : List (TileId × Nat) :=
  (List.range ((s.tile t).cfg.ops[o]).outputs).filterMap fun j => match s.sinkOf t (opSource o j) with
    | some (u, k) => if 32 ≤ k && (s.tile u).cfg.capacity k = 0 then some (u, (k - 32) / 4) else none
    | none => none

/-- Operators of a list that some operator of the list leads to, again and again: what is left lies on a cycle. -/
def trimCycle (next : TileId × Nat → List (TileId × Nat)) : Nat → List (TileId × Nat) → List (TileId × Nat)
  | 0, l => l
  | fuel + 1, l =>
    let l' := l.filter fun a => l.any fun b => (next b).contains a
    if l'.length = l.length then l else trimCycle next fuel l'

/-- No cycle of channels through operators whose capacities sum to 0 (R187). -/
def State.noEmptyCycle (s : State) (r : Region) : Bool :=
  let ops := r.tiles.flatMap fun t => (s.tile t).cfg.opList.map fun o => (t, o.val)
  let next := fun (p : TileId × Nat) => s.rendezvousNext p.1 ⟨p.2 % 8, Nat.mod_lt _ (by decide)⟩
  (trimCycle next ops.length ops).isEmpty

/-! Checks of spindle trees (R230). -/

/-- Whether a tile lies in a region. -/
def Region.encloses (r : Region) (t : TileId) : Bool :=
  decide (r.top ≤ t.prow ∧ t.prow < r.top + r.launch.rows ∧ r.left ≤ t.pcol ∧ t.pcol < r.left + r.launch.cols)

/-- The parent set of a set, inside the region. -/
def Region.parentSet (r : Region) (t : TileId) (c : SpinCfg) : Option (TileId × Fin 4) :=
  if c.root || c.parent = 0 then none else (r.across t c.parent).map fun u => (u, ctxOf c.pset)

/-- The sets of a copy of a tile's settings that name a set as their parent. -/
def Region.namers (r : Region) (u : TileId) (c : Settings) (t : TileId) (k : Fin 4) : Nat :=
  (List.finRange 4).countP fun j => (c.spin[j]).valid && r.parentSet u (c.spin[j]) == some (t, k)

/-- The neighbours of a tile in a region. -/
def Region.neighbours (r : Region) (t : TileId) : List TileId := [1, 2, 3, 4].filterMap (r.across t)

/-- Whether a set keeps what R230 says of it alone. -/
def Region.setOk (r : Region) (t : TileId) (c : SpinCfg) : Bool :=
  (c.root == (c.parent == 0)) && (c.nchild + c.nlocal != 0) && (c.root || (r.parentSet t c).isSome)

/-- Whether the chain of parents of a set, as far as its sets are in use, comes back to none of them. -/
def State.spinOpen (s : State) (r : Region) : Nat → TileId → Fin 4 → Bool
  | 0, _, _ => false
  | fuel + 1, t, k =>
    let c := (s.tile t).cfg.spin[k]
    if !c.valid || c.root then true else match r.parentSet t c with
      | none => true
      | some (u, j) => s.spinOpen r fuel u j

/-! A check of a region's circuits and trees knows, of each tile, the copies of its settings that may be in use beside the one looked at
(log entry 97): one where it is settled, both where a swap may be about to come, none of it yet where the tile is `free`. -/

/-- The copies of a tile's settings that a check counts. -/
abbrev Copies := TileId → List Settings

/-- Whether a copy of the settings has no circuit and no tree. -/
def Settings.bare (c : Settings) : Bool :=
  c.entries.isEmpty && c.sinks.toList.all (fun k => !k.valid) && c.ops.toList.all (fun o => !o.valid) && c.spin.toList.all fun k => !k.valid

/-- The copies that a tile uses or may take next. -/
def State.copiesOf (s : State) : Copies := fun u =>
  let x := s.tile u
  if x.cfgShadow.bare then [x.cfg] else [x.cfg, x.cfgShadow]

/-- Those copies, where one tile has a given one. -/
def Copies.settled (f : Copies) (t : TileId) (c : Settings) : Copies := fun u => if u = t then [c] else f u

/-- How many sets of the neighbours may name a set as their parent. -/
def Copies.kidCounts (f : Copies) (free : TileId → Bool) (r : Region) (u : TileId) (k : Fin 4) : List Nat :=
  (r.neighbours u).foldl (fun l v => (l.flatMap fun n =>
    if free v then (List.range 5).map (n + ·) else (f v).map fun c => n + r.namers v c u k).dedup) [0]

/-- Whether the sets of a copy of a tile's settings keep R230 beside some copies of its neighbours'. -/
def Copies.treesFit (f : Copies) (free : TileId → Bool) (r : Region) (u : TileId) (c : Settings) : Bool :=
  (List.finRange 4).all fun k =>
    let x := c.spin[k]
    let parent : Bool := x.root || match r.parentSet u x with
      | none => false
      | some (v, j) => free v || (f v).any fun c => (c.spin[j]).valid
    !x.valid || (r.setOk u x && parent && (f.kidCounts free r u k).contains x.nchild)

/-- Whether every tree of a region keeps R230: the sets of some copy of each tile that is not free, and the chains of parents of what the
tiles have in use. -/
def State.treesOk (s : State) (r : Region) (f : Copies) (free : TileId → Bool) (u : TileId) : Bool :=
  free u || ((f u).any (f.treesFit free r u) && (List.finRange 4).all (s.spinOpen r (4 * r.tiles.length + 1) u))

/-- The first tile of a part of a region, in which its circuits lie, whose circuits break a rule, or of the region, whose trees do (R187,
R230). -/
def State.badCircuit (s : State) (r part : Region) (f : Copies) (free : TileId → Bool) : Option TileId :=
  match part.tiles.find? fun t => !s.tileCircuits part t with
  | some t => some t
  | none => match r.tiles.find? fun t => !s.treesOk r f free t with
    | some t => some t
    | none => if s.noEmptyCycle part then none else part.tiles.head?

/-- The first tile of a region whose circuits or trees in use break a rule (R187, R230). -/
def State.badActive (s : State) (r : Region) : Option TileId := s.badCircuit r r (fun u => [(s.tile u).cfg]) fun _ => false

/-- The region with its tiles' shadow settings, where they hold any circuit or tree, in the place of the active ones. -/
def State.shadowView (s : State) (r : Region) : State :=
  r.tiles.foldl (fun s t => s.modTile t fun x => if x.cfgShadow.bare then x else { x with cfg := x.cfgShadow }) s

/-- Whether the trees of a tile's shadow copy keep R230, beside some copy of each other tile's. -/
def State.shadowTrees (s : State) (r : Region) (t : TileId) : Bool :=
  let c := (s.tile t).cfgShadow
  (s.copiesOf.settled t c).treesFit (fun _ => false) r t c &&
    (List.finRange 4).all ((s.shadowView r).spinOpen r (4 * r.tiles.length + 1) t)

/-- The checks at a ROUTE frame into a tile's shadow copy (R187, R230): of the tile's circuits, as far as no later frame could mend a
breach (log entry 97), and, for a frame of section 3, of its trees. -/
def State.routeOk (s : State) (r : Region) (t : TileId) (f : Frame) : Bool :=
  f.kind != 2 || ((s.tile t).cfgShadow.conflictFree && (f.unit / 32 != 3 || s.shadowTrees r t))

/-- Whether what install has written to the shadow copies keeps those checks. -/
def State.shadowOk (s : State) (r : Region) (t : TileId) : Bool :=
  let c := (s.tile t).cfgShadow
  c.bare || (c.conflictFree && s.shadowTrees r t)

/-! The checks when a tile has taken its shadow copy by `cfgswap` (R187, R230, R359). A neighbour may be about to take its own: its part
of a circuit or tree is in order with the copy in use or with the one it may take (log entry 97). -/

/-- The entries across a link that go on with a lane group, each with its tile and copy. -/
def Copies.onwards (f : Copies) (r : Region) (u : TileId) (w : SwitchCfg) (out : Bool) : List (TileId × Settings × SwitchCfg) :=
  let dir := if out then w.outDir else w.inDir
  match r.across u dir with
  | none => []
  | some v => (f v).flatMap fun c => (c.entries.filter fun e => e.width == w.width &&
      (if out then e.inDir == opposite dir && e.inLane == w.outLane else e.outDir == opposite dir && e.outLane == w.inLane)).map fun e => (v, c, e)

/-- The types of the sinks that a channel may end at, followed from an entry of a copy. -/
def Copies.endTypes (f : Copies) (r : Region) : Nat → TileId → Settings → SwitchCfg → List (Option Ty)
  | 0, _, _, _ => []
  | fuel + 1, u, c, w => match w.endSink with
    | some k => if (c.sinkCfg k).valid then [(c.sinkCfg k).dstTy] else []
    | none => (f.onwards r u w true).flatMap fun p => f.endTypes r fuel p.1 p.2.1 p.2.2

/-- Whether a channel may start somewhere, followed back from an entry. -/
def Copies.startsAt (f : Copies) (r : Region) : Nat → TileId → SwitchCfg → Bool
  | 0, _, _ => false
  | fuel + 1, u, w => w.inDir == 0 || w.inDir == 5 || (f.onwards r u w false).any fun p => f.startsAt r fuel p.1 p.2.2

/-- Whether a copy of a tile's circuits keeps R187 beside some copies of the other tiles'. -/
def State.circuitsFit (s : State) (r : Region) (f : Copies) (u : TileId) (c : Settings) : Bool :=
  let ends := f.endTypes r maxHops u c
  c.conflictFree && c.complete &&
  c.entries.all (fun w => !(ends w).isEmpty && f.startsAt r maxHops u w) &&
  (List.range 64).all (fun k => !(c.sinkCfg k).valid || (c.entryOfSink k).isSome || (s.hub.circuitOfSink u k).isSome) &&
  c.opList.all fun o =>
    let op := c.ops[o]
    let ty := (op.kind.dataInputs.head?.map fun i => (c.sinkCfg (opSink o i)).dstTy).getD none
    (List.range op.outputs).all fun j => (c.entries.filter fun w => w.inDir == 5 && w.inEp == 4 * o.val + j).all fun w => (ends w).contains ty

/-- Whether the region's circuits and trees, the circuits of a band apart, keep R187 and R230 after a swap of a tile. -/
def State.swapFits (s : State) (r : Region) (t : TileId) : Bool :=
  let f := s.copiesOf.settled t (s.tile t).cfg
  r.tiles.all (fun u => (s.tile u).reel.isSome || ((f u).any (s.circuitsFit r f u) && s.treesOk r f (fun _ => false) u)) && s.noEmptyCycle r

/-- A tile's sources with the sinks and the capacities of their channels. -/
def State.channelsFrom (s : State) (t : TileId) : List (Nat × (TileId × Nat) × Nat) :=
  (s.tile t).cfg.entries.filterMap fun w =>
    let source := if w.inDir = 0 then some w.inEp else if w.inDir = 5 then some (32 + w.inEp) else none
    source.bind fun e => (s.followOut maxHops t w).map fun p => (e, p, (s.tile p.1).cfg.capacity p.2)

/-- Credits of a tile's sources, the capacity of each channel (R170): at install of all of them, where none is known yet. -/
def State.fillCredits (s : State) (known : List (Nat × (TileId × Nat) × Nat)) (t : TileId) : State :=
  (s.channelsFrom t).foldl (fun s p => if known.contains p then s else s.modTile t (·.modSource p.1 fun _ => ⟨p.2.2, 0⟩)) s

end Sys2Proof.Machine
end

