-- ==== Sys2Proof/Machine/Issue.lean ====
section
/-! DEFINITION. One cycle of a tile (R108): which context is eligible (R109), the fetch of its instruction (R53), the
interlocks of register writes and of non-pipelined units (R111, R142, R159), the halt of STEP (R395) and the dispatch of
parked contexts (R113). The meaning of instructions is a parameter, so that this file stands before their table. -/

namespace Sys2Proof.Machine

/-- What the fields D, S1, S2 and S3 of an instruction name, by MAJ and FN; a field that names nothing holds zero and
counts here as s0, on which no write is ever outstanding. -/
def fieldKinds (maj fn : Nat) : Fld × Fld × Fld × Fld :=
  match maj with
  | 0x10 => (.s, .s, .s, if fn = 0x17 then .s else .zero)
  | 0x12 => if fn = 5 then (.p, .s, .zero, .zero) else if fn = 6 then (.s, .p, .zero, .zero)
            else if fn = 7 then (.p, .s, .s, .zero) else (.p, .p, .p, .zero)
  | 0x13 => (.s, .s, .s, if fn = 2 then .s else .zero)
  | 0x14 => (.s, .s, .s, if fn = 3 then .s else .zero)
  | 0x30 => (.v, .v, if fn = 6 then .zero else .v, .zero)
  | 0x31 => (.v, .v, if fn < 6 then .v else .zero, if fn = 3 then .v else .zero)
  | 0x32 => (.p, .v, .v, .zero)
  | 0x33 => match fn with
    | 1 | 6 => (.v, .v, .s, .zero)
    | 2 => (.v, .s, .zero, .zero)
    | 3 => (.s, .v, .s, .zero)
    | 4 => (.v, .s, .s, .zero)
    | 5 | 7 | 8 => (.v, .v, .v, .zero)
    | 9 => (.v, .v, .v, .p)
    | _ => (.v, .v, .zero, .zero)
  | 0x34 => (.s, .v, if fn = 4 then .v else .zero, .zero)
  | 0x50 => match fn with
    | 1 => (.zero, .v, .v, .zero)
    | 4 => (.v, .s, .zero, .zero)
    | 5 => (.zero, .s, .v, .zero)
    | _ => (.zero, .s, .zero, .zero)
  | 0x52 => if fn = 0 then (.zero, .v, .zero, .zero) else if fn = 1 then (.v, .zero, .zero, .zero)
            else (.zero, .zero, .zero, .zero)
  | 0x60 => (if fn < 2 then .s else .v, .s, if fn = 4 || fn = 5 then .v else .s, .zero)
  | 0x70 => (if fn = 2 || fn = 3 then .v else .s, .s, .s, .zero)
  | 0x80 => match fn with
    | 1 => (.zero, .v, .zero, .zero)
    | 3 => (.v, .zero, .zero, .zero)
    | 7 => (.p, .zero, .zero, .zero)
    | _ => (.s, .s, .zero, .zero)
  | 0x90 => (.s, .s, .zero, .zero)
  | 0xA0 => (.s, .s, if fn = 0 then .p else .s, .zero)
  | 0xA4 => (.s, .s, if fn = 0 then .p else .s, .zero)
  | 0xA5 => (if fn = 0 then .s else .v, .s, .s, .zero)
  | 0x02 | 0x11 | 0xC0 => (.s, .s, .zero, .zero)
  | _ => (.s, .s, .s, .zero)

/-- The register a field names. -/
def fieldReg (k : Fld) (r : Nat) : List RegRef :=
  match k with
  | .zero => []
  | .s => if h : r < 32 then (if r = 0 then [] else [.s ⟨r, h⟩]) else []
  | .v => if h : r < 16 then [.v ⟨r, h⟩] else []
  | .p => if h : r < 8 then (if r = 0 then [] else [.p ⟨r, h⟩]) else []

/-- The registers of an instruction word: its guard, and those its fields name; format C has fields of its own places. -/
def wordRegs (w : Word) : List RegRef :=
  let maj := majOf w
  let fn := fnOf w
  let guard := fieldReg .p (field w 53 3)
  if maj = 0x01 then
    let k : Fld := if 7 ≤ field w 48 4 then .p else .s
    guard ++ fieldReg k (field w 43 5) ++ fieldReg .s (field w 38 5)
  else
    let (d, a, b, c) := fieldKinds maj fn
    guard ++ fieldReg d (field w 41 5) ++ fieldReg a (field w 36 5) ++ fieldReg b (field w 31 5) ++
      fieldReg c (field w 26 5)

/-- Whether the word is a scratch store, which writes no register (R159). -/
def isScratchStore (w : Word) : Bool := majOf w == 0x60 && fnOf w % 2 == 1

/-- The register that the instruction's pipelined result goes to. -/
def resultReg (w : Word) : List RegRef := if isScratchStore w then [] else fieldReg (fieldKinds (majOf w) (fnOf w)).1 (field w 41 5)

/-- The latency L of a register result (R111, R142, R159); 1 where the next instruction can use it. -/
def latency (w : Word) : Nat :=
  let fn := fnOf w
  match majOf w with
  | 0x10 => if 2 ≤ fn && fn ≤ 4 then 3 else if 5 ≤ fn && fn ≤ 8 then 2 + 2 ^ (2 + field w 22 4 % 4) else 1
  | 0x13 => if fn = 1 then 2 else 1
  | 0x14 => if fn = 4 || fn = 5 then 16 else if fn ≤ 9 then 4 else 1
  | 0x30 => if fn = 2 || fn = 3 then 4 else 2
  | 0x31 => if fn ≤ 3 then 4 else if fn ≤ 7 then 2 else 12
  | 0x32 => 2
  | 0x33 => if fn ≤ 1 then 4 else if fn = 0x0A || fn = 0x0B then 3 else 2
  | 0x34 => if fn ≤ 2 then 6
            else 4 * Nat.log2 (((Ty.ofCode (bits w 22 4)).map Ty.lanes).getD 16) + 2
  | 0x50 => if fn = 4 then 3 else 1
  | 0x52 => if fn = 1 then 6 else 1
  | 0x60 => 3
  | _ => 1

/-- Whether the word needs the integer divider, or the float divide unit (R111). -/
def needsDivider (w : Word) : Bool := majOf w == 0x10 && 5 ≤ fnOf w && fnOf w ≤ 8
/-- Whether the word needs the float divide unit (R111). -/
def needsFloatDivider (w : Word) : Bool :=
  majOf w == 0x14 && (fnOf w == 4 || fnOf w == 5)

/-- Whether the guard lets the word have an effect of its own (R38, R39). -/
def Ctx.executes (c : Ctx) (w : Word) : Bool :=
  (0x30 ≤ majOf w && majOf w ≤ 0x34) || c.guardOn ⟨bits w 53 3, w.getLsbD 52⟩

/-- Whether an instruction is one of R51's. -/
def isSupervisor : Instr → Bool
  | .pclr _ _ | .cfgw _ _ | .cfgswap _ _ | .tlbinv _ _ | .chalt _ _ | .cresume _ _ => true
  | _ => false

/-- Whether an instruction whose guard value is 1 may have a next index other than its own index + 1, or none (R55). -/
def namesNext (brkHalt : Bool) : Instr → Bool
  | .br _ _ | .beq _ _ | .bne _ _ | .blt _ _ | .bge _ _ | .bltu _ _ | .bgeu _ _ | .bp _ _ | .bnp _ _ | .jal _ _ | .jalr _ _
  | .park _ _ | .cfgswap _ _ | .eret _ _ => true
  | .ebrk _ _ => !brkHalt
  | _ => false

/-- Whether every next index that an executed branch or `jal` can have at an index lies outside the range (R55). -/
def leavesRange (pc : BitVec 11) : Instr → Bool
  | .br _ o => !isIndex (targetFrom pc o.off)
  | .jal _ o => !isIndex (targetFrom pc o.imm)
  | .beq _ o | .bne _ o | .blt _ o | .bge _ o | .bltu _ o | .bgeu _ o | .bp _ o | .bnp _ o =>
    pc == 2047 && !isIndex (targetFrom pc o.off)
  | _ => false

/-- Whether the word traps by a check of R53 or R55 that comes before its guard is read. -/
def State.trapsFirst (s : State) (i : Instr) : Bool :=
  match i with
  | .illegalWord _ => true
  | i => (isSupervisor i && s.cur.mode == .user) || (s.cur.pc == 2047 && !namesNext s.cur.brkHalt i)

/-- The registers whose outstanding writes the word at the program counter waits for, and whether it waits for its unit: one that
traps by R53 or R55 uses no register but the guard that its check reads, and one that is guarded off uses its guard alone (R109;
log entry 103). -/
def State.uses (s : State) (i : Instr) (w : Word) : List RegRef × Bool :=
  if s.trapsFirst i then ([], false)
  else if !s.cur.executes w || leavesRange s.cur.pc i then (fieldReg .p (field w 53 3), false)
  else (wordRegs w, true)

/-- Whether no interlock holds the word back: no write outstanding on a register that it uses, and its unit free (R109). -/
def State.ready (s : State) (i : Instr) (w : Word) : Bool :=
  let x := s.curTile
  let now := x.cycle.toNat
  let (regs, unit) := s.uses i w
  s.cur.landing.all (fun p => decide (p.2 ≤ now) || !regs.contains p.1) &&
  (!unit || ((!needsDivider w || decide (x.divUntil ≤ now)) && (!needsFloatDivider w || decide (x.fdivUntil ≤ now))))

/-- What issue leaves outstanding: the result register until its latency has passed, and the unit that is busy (R111). A scratch load keeps
its context till its last row has been read, as many cycles longer as it has conflicts (R159; which cycle that is, is a DESIGN CHOICE,
log entry 104). -/
def Tile.occupy (x : Tile) (c : Fin 4) (w : Word) (conflicts : Nat) : Tile :=
  let now := x.cycle.toNat
  let l := latency w + conflicts
  let x := if l ≤ 1 then x else
    x.setCtx c { x.ctxs[c] with
      landing := (x.ctxs[c].landing.filter fun p => decide (now < p.2)) ++ (resultReg w).map fun r => (r, now + l)
      busyUntil := if 0 < conflicts then now + 1 + conflicts else x.ctxs[c].busyUntil }
  let x := if needsDivider w then { x with divUntil := now + l } else x
  if needsFloatDivider w then { x with fdivUntil := now + l } else x

/-- What the issue slot of the current context holds: a pending LATE (R384), or the word at the program counter as it
decodes; a word that fails a check of R53 is `illegalWord`. -/
def State.fetch (s : State) : Instr :=
  let c := s.cur
  if c.latePending then .lateTrap
  else if s.curTile.storeBad.contains c.pc.toNat then .illegalWord s.curWord
  else match decode s.curWord with
    | .ok i => i
    | .error _ => .illegalWord s.curWord

/-- Whether a context can issue at all: RUNNING, and not waiting for an access, a pool, an invalidation or a wait of its
own, nor for the halt of STEP or of a HALT (R107, R109, R395); one that waits for a bale takes a LATE (R384). -/
def Ctx.canIssue (c : Ctx) : Bool :=
  c.run == .running && (c.wait == .none || (c.wait.unissued && c.latePending)) && c.stepDue == none && c.haltDue == none

/-- What a context that cannot issue leaves behind: the request for a slot that its instruction has made (R247). -/
def State.asking (s t : State) : State :=
  if t.cur.slotReq = s.cur.slotReq then s
  else { s.modCur fun c => { c with slotReq := t.cur.slotReq } with nextSeq := t.nextSeq }

/-- The issue of the current context, if it is eligible; else the state in which the next one is looked at. -/
def State.tryIssue (ex : Instr → State → Result) (s : State) : State ⊕ Result :=
  let c := s.cur
  if !c.canIssue then .inl s
  else
    let w := s.curWord
    let i := s.fetch
    let plain := i != .lateTrap
    if s.curTile.cycle.toNat < c.busyUntil || (plain && !s.ready i w) then .inl s
    else match ex i s with
      | .next t =>
        if t.stalled then .inl (s.asking t)
        else if !t.curTile.awake then .inr (.next t)
        else
          let trapped := t.cur.trapped && !c.trapped
          let t := if plain && !trapped && c.executes w then 
              t.modCurTile (·.occupy t.ctx w (s.curTile.conflicts s.ctx i)) else t
          -- the halt of STEP follows the instruction (R395)
          let t := if plain && c.dbgStep && !t.cur.wait.unissued then t.modCur fun d => match d.run with
              | .halted _ => d
              | _ => { d with stepDue := some c.pc }
            else t
          -- a request for a slot does not outlive the instruction that made it
          let t := if t.cur.slotReq = c.slotReq then t.modCur fun d => { d with slotReq := none } else t
          .inr (.next (t.modCurTile fun x => { x with k := t.ctx + 1 }))
      | r => .inr r

/-- The first eligible context in the order given issues (R108). -/
def State.issueSlot (ex : Instr → State → Result) (s : State) : List (Fin 4) → Result
  | [] => .next { s with stalled := true }
  | c :: rest => match { s with ctx := c, stalled := false }.tryIssue ex with
    | .inr r => r
    | .inl s => State.issueSlot ex s rest

/-- A context halted by STEP once its writes have landed (R395). -/
def Ctx.stepHalt (now : Nat) (c : Ctx) : Ctx :=
  match c.stepDue with
  | none => c
  | some idx =>
    if c.settledAt now then
      { c.halt 3 idx with stepDue := none }
    else c

/-- A change made to every context of a tile. -/
def Tile.mapCtx (x : Tile) (f : Ctx → Ctx) : Tile :=
  (List.finRange 4).foldl (fun x c => x.setCtx c (f x.ctxs[c])) x

/-- The end of a cycle: halts of STEP, dispatch of parked contexts (R113) unless the tile stops for its snapshot, and the cycle
counter. -/
def Tile.endCycle (x : Tile) : Tile :=
  let x := x.mapCtx (Ctx.stepHalt (x.cycle.toNat + 1))
  let x := if x.stopping then x else (List.finRange 4).foldl Tile.dispatch x
  { x with cycle := x.cycle + 1 }

/-- Whether a window of a counter has ended whose EST is still to be updated: END_WINDOW comes before the next cycle (R239). -/
def Tile.windowDue (x : Tile) : Bool := x.counters.toList.any fun c => decide (c.windows < x.cycle.toNat / 1024)

/-- Whether a tile runs: awake, in a region that is running or on its way into a pause, not yet snapped (R392), with no window of a
counter to be ended first (R239), and on a die whose clock is not being changed (R426). -/
def State.tileRuns (s : State) (t : TileId) : Bool :=
  (s.tile t).awake && !(s.tile t).snapped && !(s.tile t).windowDue && s.dies[t.dieIx].clockStopped.isNone &&
  match s.regionOf t with
  | none => false
  | some r => match r.phase with
    | .running | .pausing _ _ _ => true
    | _ => false

/-- One cycle of a tile (R108); one that stops for its snapshot issues nothing, and its register writes land (R392). -/
def State.tileCycle (ex : Instr → State → Result) (s : State) (t : TileId) : Result :=
  let s := { s with here := t, stalled := false }
  if !s.tileRuns t then .next s.stall
  else
    let k := (s.tile t).k
    match (if (s.tile t).stopping then .next s else s.issueSlot ex [k, k + 1, k + 2, k + 3]) with
    | .next u =>
      let u := u.modTile t fun x => if x.awake then x.endCycle else x
      let x := u.tile t
      let u := (List.finRange 4).foldl (fun u c => u.serveHalt t c x.cycle.toNat) u
      .next (u.modDie t.dieIx (·.tick (x.born + x.cycle.toNat)))
    | r => r

end Sys2Proof.Machine
end

