-- ==== Sys2Proof/Machine/Regions.lean ====
section
/-! DEFINITION. The happenings of chapter 4 and those of a tile between its instructions: the examination of head records
(R85-R90), placement passes (R91-R93), install and start (R94-R96), the governor's windows (R98), the end of a region (R99),
frames on CFG tokens (R176), dispatch, and the illegal words of R53. -/

namespace Sys2Proof.Machine

/-! Between instructions. -/

/-- The trap of a pending LATE, with the number of entries in the event record (R384). -/
def execLateTrap (s : State) : Result :=
  .next (if s.cur.latePending then s.trap Cause.late (BitVec.ofNat 64 s.cur.events.length) else s.stall)

/-- A word that fails a check of R53: a poisoned index, a zero MAJ, or what does not decode (R54). -/
def execIllegalWord (w : Word) (s : State) : Result :=
  .next (if s.curTile.storeBad.contains s.cur.pc.toNat then s.trap Cause.poison (s.cur.pc.zeroExtend 64)
         else if majOf w = 0 then s.trap Cause.zero w else s.trap Cause.ill w)

/-- DISPATCH (R113): a parked context starts its next task. -/
def execDispatch (t : TileId) (c : Fin 4) (s : State) : Result :=
  .next (if s.tileRuns t && !(s.tile t).stopping && (s.ctxAt t c).run == .parked && ((s.ctxAt t c).scanOrder.find? ((s.tile t).taskReady c)).isSome then
      s.modTile t fun x => x.dispatch c else s.stall)

/-- UNIT_FREE (R111): the integer divider or the float divide unit has finished. -/
def execUnitFree (t : TileId) (isFloat : Bool) (s : State) : Result :=
  let x := s.tile t
  let due := if isFloat then x.fdivUntil else x.divUntil
  .next (if 0 < due && decide (due ≤ x.cycle.toNat) then
      s.modTile t fun x => if isFloat then { x with fdivUntil := 0 } else { x with divUntil := 0 }
    else s.stall)

/-- REGISTER_WRITE_LAND (R111): an outstanding register write has landed. -/
def execRegisterWriteLand (t : TileId) (c : Fin 4) (r : RegRef) (s : State) : Result :=
  let x := s.tile t
  let due := fun (p : RegRef × Nat) => p.1 == r && decide (p.2 ≤ x.cycle.toNat)
  .next (if (x.ctxs[c]).landing.any due then
      s.modCtx t c fun c => { c with landing := c.landing.filter fun p => !due p }
    else s.stall)

/-- GOVERNOR_WINDOW (R98): a window of a tile has ended, at a multiple of 2^(WINLOG+6) of its cycle counter; what arrives counts
to the window of the cycle counter whether or not this has been taken. -/
def execGovernorWindow (t : TileId) (s : State) : Result :=
  match s.regionOf t with
  | none => .next s.stall
  | some _ =>
    let n := s.windowOf t
    .next (if (s.tile t).windows < n then s.modTile t fun x => { x with admitted := 0, windows := n } else s.stall)

/-! Reads by the hub, a scheduler or a feeder. -/

/-- What such a read finds: the bytes, a fault, bytes that an absent word or a bale holds back, or a line that another
package has to be asked for. -/
inductive UnitRead where
  | value (v : Nat)
  | fault (cause : BitVec 8)
  | wait
  | ask (line : Nat) (node : BitVec 12) (rva : Nat) (page : BitVec 16 × Span)
  deriving DecidableEq, Repr

/-- Bytes within one 64-byte line, read as an engine reads. -/
def State.readLine (s : State) (owner : Nat) (asid : BitVec 16) (va n : Nat) : UnitRead :=
  if 2 ^ 56 ≤ va then .fault Cause.xlate
  else if s.walkHeld asid va then .wait
  else match walk s.mem asid va with
    | .error f => .fault f.cause
    | .ok leaf =>
      if (leaf.refuses .unitRead true).isSome then .fault Cause.perm
      else match leaf.target va with
        | .remote node rva => match lookupKey (owner, va / 64) s.hub.fetched with
          | some (c, data) => if c = 0 then .value (field data (8 * (va % 64)) (8 * n)) else .fault c
          | none => .ask (va / 64) node (rva - va % 64) (asid, leaf.span)
        | t =>
          if s.lineHeld t n then .wait
          else match s.mem.unitRead [(t, 0, n, leaf.wo)] with
            | .error .wait => .wait
            | .error (.cause c) => .fault c
            | .ok v => .value v

/-- Bytes from an address on, line by line. -/
def State.readBytes (s : State) (owner : Nat) (asid : BitVec 16) : Nat → Nat → Nat → UnitRead
  | 0, _, _ => .value 0
  | fuel + 1, va, n =>
    if n = 0 then .value 0
    else
      let m := min n (64 - va % 64)
      match s.readLine owner asid va m with
      | .value v => match s.readBytes owner asid fuel (va + m) (n - m) with
        | .value w => .value (v + w * 2 ^ (8 * m))
        | r => r
      | r => r

/-- `n` bytes at an address. -/
def State.unitBytes (s : State) (owner : Nat) (asid : BitVec 16) (va n : Nat) : UnitRead := s.readBytes owner asid (n / 64 + 2) va n

/-- A line of another package asked for, once; one that was told to come again, after 256 cycles (R296, R311). -/
def State.askLine (s : State) (owner line : Nat) (node : BitVec 12) (rva : Nat) (page : BitVec 16 × Span) : State :=
  if s.hub.remote.any (fun r => r.who == .hub owner line) || decide (s.clockOf (.hub owner line) < (lookupKey (owner, line) s.hub.retries).getD 0) then
    s.stall
  else
    let s := { s with hub := { s.hub with retries := dropKey (owner, line) s.hub.retries } }
    s.askRemote node (.hub owner line) 0 page s.hub.version fun rid => .read rid rva 64

/-- Lines read for an owner forgotten. -/
def State.forgetLines (s : State) (owner : Nat) : State :=
  { s with hub := { s.hub with fetched := s.hub.fetched.filter (fun f => f.1.1 ≠ owner), retries := s.hub.retries.filter fun f => f.1.1 ≠ owner } }

/-- The owner of what is read for a region. -/
def Region.owner (r : Region) : Nat := r.number * 256 + r.gen.toNat

/-! Launch records. -/

/-- A launch record from its 128 bytes (R87, R90). -/
def launchOf (v : Nat) : Launch :=
  let at' := fun (byte lo w : Nat) => natField v (8 * byte + lo) w
  { image := at' 0 0 56
    frames := at' 8 0 32
    segments := at' 28 0 32
    tenant := BitVec.ofNat 12 (at' 18 0 12)
    asid := BitVec.ofNat 16 (at' 20 0 16)
    cls := at' 17 0 3
    argw := at' 17 3 3
    affinity := BitVec.ofNat 8 (at' 16 0 8)
    cols := at' 14 0 9
    rows := at' 12 0 7
    winlog := at' 24 16 4
    words := at' 24 0 16
    doneKind := at' 32 62 2
    doneVa := at' 32 4 52 * 16
    deps := (List.range 4).map fun i => (at' (40 + 8 * i) 62 2, BitVec.ofNat 64 (at' (40 + 8 * i) 0 62))
    args := Vector.ofFn fun (i : Fin 7) => BitVec.ofNat 64 (at' (72 + 8 * i.val) 0 64) }

/-- x has reached y in serial order (R90). -/
def serialReached (x y : Nat) : Bool := decide ((x + 2 ^ 32 - y % 2 ^ 32) % 2 ^ 32 < 2 ^ 31)

/-- Whether the DONE field keeps R87. -/
def doneFormed (v : Nat) : Bool :=
  natField v (8 * 32 + 62) 2 != 3 && natField v (8 * 32 + 56) 6 == 0 && natField v (8 * 32) 4 == 0

/-- Whether a dependence keeps R90, for a record of a queue and sequence number. -/
def depFormed (q seq v : Nat) (i : Nat) : Bool :=
  let d := natField v (8 * (40 + 8 * i)) 64
  match natField d 62 2 with
  | 0 => natField d 55 7 == 0
  | 1 => natField d 55 7 == 0
  | 2 => natField d 55 7 == 0 && natField d 46 9 == 0 && !(natField d 32 14 == q && serialReached (natField d 0 32) seq)
  | _ => false

/-- Whether the fields of a record keep R87 and R90 (R88). -/
def recordFormed (w : WorkQueue) (q seq v : Nat) : Bool :=
  let l := launchOf v
  let at' := fun (byte lo n : Nat) => natField v (8 * byte + lo) n
  at' 0 56 8 == 0 && l.image % 32 == 0 && decide (1 ≤ l.frames ∧ l.frames ≤ 2 ^ 24) &&
  at' 12 7 9 == 0 && decide (1 ≤ l.rows ∧ l.rows ≤ 80) && at' 14 9 7 == 0 && decide (1 ≤ l.cols ∧ l.cols ≤ 320) &&
  l.affinity != 0 && at' 17 6 2 == 0 && l.argw != 0 && at' 18 12 4 == 0 && l.tenant == w.tenant && l.asid == w.asid &&
  at' 22 0 16 == 0 && at' 24 20 12 == 0 && decide (l.segments ≤ 2 ^ 20) && doneFormed v &&
  (List.range 4).all (depFormed q seq v)

/-- Whether the DONE record's address translates to a page that an engine may write (R88). -/
def State.doneWritable (s : State) (l : Launch) : Bool :=
  match walk s.mem l.asid l.doneVa with
  | .ok leaf => (leaf.refuses .write true).isNone
  | .error _ => false

/-- Dies of an affinity mask. -/
def Launch.permits (l : Launch) (d : Nat) : Bool := l.affinity.getLsbD d

/-- The anchor die: the lowest-numbered in AFFINITY (R89). -/
def Launch.anchor (l : Launch) : Nat := ((List.range 8).find? l.permits).getD 0

/-- The n-th top-left position of a die in package coordinates, row by row. -/
def positionOf (d n : Nat) : Nat × Nat := (40 * (d / 4) + n / 80, 80 * (d % 4) + n % 80)

/-- Whether a rectangle lies in the package grid and in the permitted dies (R89). -/
def Launch.fitsAt (l : Launch) (p : Nat × Nat) : Bool :=
  decide (p.1 + l.rows ≤ 80 ∧ p.2 + l.cols ≤ 320) && (diesOf p.1 p.2 l.rows l.cols).all l.permits

/-- Whether the record could ever be placed (R89). -/
def Launch.placeable (l : Launch) : Bool := (List.range 3200).any fun n => l.fitsAt (positionOf l.anchor n)

/-! The head of a queue. -/

/-- The head leaves its queue (R85). -/
def WorkQueue.advance (w : WorkQueue) : WorkQueue := { w with head := w.head + 1, waited := 0, met := [], cand := none }

/-- The sequence number of the head record (R84). -/
def WorkQueue.headSeq (w : WorkQueue) : Nat := (w.head + 1) % 2 ^ 32

/-- The head record ends without placement (R88-R90): the completion action, with a notification in any case for a
LAUNCHFAULT (R100); `done` is what the record's DONE is good for. -/
def State.endHead (s : State) (q : Nat) (done : Option Launch) (outcome : Nat) : State :=
  let w := s.hub.queue q
  let seq := w.headSeq
  let s := s.forgetLines (queueOwner w.reads q seq)
  let s := { s with hub := s.hub.modQueue q fun w => w.advance.launchEnded seq w.epoch }
  match done with
  | some l =>
    -- the notification of a LAUNCHFAULT follows the write, whatever KIND is
    if outcome = 3 && l.doneKind = 0 then s.noteDone q (doneRecord seq outcome 0 0)
    else s.doneAction (if outcome = 3 then { l with doneKind := 2 } else l) q seq outcome 0 0 none
  | none => if outcome = 3 then s.noteDone q (doneRecord seq outcome 0 0) else s

/-- What a dependence says now: not met, met, or a barrier that is gone (R90). -/
def State.depState (s : State) (d : Nat × Word) : Option Bool :=
  match d.1 with
  | 1 =>
    let h : Word := BitVec.ofNat 64 (field d.2 32 23)
    (s.barrierOf h).map fun b => b.reached (bits d.2 0 32)
  | 2 => some (serialReached (s.hub.queue (field d.2 32 14)).c (field d.2 0 32))
  | _ => some true

/-- A well-formed head record looked at: UNPLACEABLE, DEPFAULT, or a candidate once every dependence has been met (R89-R91). -/
def State.headLaunch (s : State) (q : Nat) (w : WorkQueue) (l : Launch) : State :=
  if !l.placeable then s.endHead q (some l) 6
  else
    let states := (List.range 4).map fun i => (i, if w.met.contains i then some true else s.depState (l.deps[i]?.getD (0, 0)))
    if states.any fun p => p.2.isNone then s.endHead q (some l) 5
    else
      let met := (states.filter fun p => p.2 == some true).map (·.1)
      if met.length = 4 then
        ({ s with hub := s.hub.modQueue q fun w => { w with cand := some l, met := met, waited := 0 } }.forgetLines
          (queueOwner w.reads q w.headSeq)).passOn [l.anchor]
      else if met = w.met then s.stall
      else { s with hub := s.hub.modQueue q fun w => { w with met := met } }

/-- HEAD_RECORD_EXAMINE (R85, R88-R90): the hub reads and checks the head record of an ENABLED queue. It reads the record anew at each
examination, and a dependence that was met stays met whatever the record then says (DESIGN CHOICE, log entry 116). -/
def execHeadRecordExamine (q : Nat) (s : State) : Result :=
  let w := s.hub.queue q
  if w.st ≠ .enabled || w.head = w.tail || w.cand.isSome then .next s.stall
  else
    let owner := queueOwner w.reads q w.headSeq
    match s.unitBytes owner w.asid (w.base + 128 * (w.head % 2 ^ w.k)) 128 with
    | .wait => .next s.stall
    | .ask line node rva page => .next (s.askLine owner line node rva page)
    | .fault _ => .next (s.endHead q none 3)
    | .value v =>
      let l := launchOf v
      -- the check of DONE, and a completion action, read the page table, whose lines a bale may hold (R374)
      if l.doneKind ≠ 0 && s.walkHeld w.asid l.doneVa then .next s.stall else
      let done := if doneFormed v && (l.doneKind = 0 || s.doneWritable { l with asid := w.asid }) then some { l with asid := w.asid } else none
      if !recordFormed w q w.headSeq v || done.isNone then .next (s.endHead q done 3)
      else .next (s.headLaunch q w l)

/-! Placement. -/

/-- A candidate of a die: a queue's head record, or an evicted region that RESUME named (R91, R103). -/
structure Candidate where
  launch : Launch
  waited : Nat
  queue : Nat
  evicted : Option Nat
  deriving DecidableEq, Repr

/-- Effective class (R91). -/
def Candidate.class (c : Candidate) : Nat := c.launch.cls - c.waited / 64

/-- The order of a pass (R91). Where class, W and queue number are equal, which the rule leaves open, the candidate that is put in
later stands before (log entry 96). -/
def Candidate.before (a b : Candidate) : Bool :=
  a.class < b.class || (a.class == b.class && (decide (b.waited < a.waited) || (a.waited == b.waited && decide (a.queue ≤ b.queue))))

/-- A candidate put in its place in the order of a pass (R91; log entry 96). -/
def insertCandidate (a : Candidate) : List Candidate → List Candidate
  | [] => [a]
  | b :: rest => if a.before b then a :: b :: rest else b :: insertCandidate a rest

/-- The candidates of a die in the order of a pass. -/
def State.candidates (s : State) (d : Fin 8) : List Candidate :=
  let heads := s.hub.queues.filterMap fun p => match p.2.cand with
    | some l => if p.2.st = .enabled && l.anchor = d.val then some ⟨l, p.2.waited, p.1, none⟩ else none
    | none => none
  let evicted := s.regions.filterMap fun r => match r.phase with
    | .restoring _ false _ _ => if r.launch.anchor = d.val then some ⟨r.launch, r.waited, r.queue, some r.number⟩ else none
    | _ => none
  (heads ++ evicted).foldl (fun l c => insertCandidate c l) []

/-- Whether a rectangle meets a region's. -/
def Region.meets (r : Region) (p : Nat × Nat) (l : Launch) : Bool :=
  decide (p.1 < r.top + r.launch.rows ∧ r.top < p.1 + l.rows ∧ p.2 < r.left + r.launch.cols ∧ r.left < p.2 + l.cols)

/-- Whether a column of a die is failed or under repair (R104). -/
def Die.columnOut (d : Die) (col : Nat) : Bool :=
  d.failed.contains col || (match d.repairing with
    | some (c, _) => c == col
    | none => false)

/-- Whether a rectangle is free: on permitted dies, off failed columns, its tiles held by no region (R92). -/
def State.freeAt (s : State) (l : Launch) (p : Nat × Nat) : Bool :=
  l.fitsAt p && !(s.regions.any fun r => r.holdsTiles && r.meets p l) &&
  (List.range l.cols).all (fun i =>
    let col := p.2 + i
    (diesOf p.1 col l.rows 1).all fun d => !s.dies[dieOf d].columnOut (col % 80))

/-- Region numbers of a die that are free (R93). -/
def State.freeNumbers (s : State) (d : Fin 8) : List Nat :=
  (List.range 256).filter fun i => !s.regions.any fun r => r.number == 256 * d.val + i && r.phase != .ended

/-- A failed attempt (R92). -/
def State.ageCandidate (s : State) (c : Candidate) : State :=
  match c.evicted with
  | some n => s.modRegion n fun r => { r with waited := min 255 (r.waited + 1) }
  | none => { s with hub := s.hub.modQueue c.queue fun w => { w with waited := min 255 (w.waited + 1) } }

/-- The launch at the head of a queue placed at a position, as a region of a number (R92, R93). -/
def State.placeLaunch (s : State) (q : Nat) (l : Launch) (number : Nat) (p : Nat × Nat) : State :=
  let w := s.hub.queue q
  let d := dieOf (number / 256)
  let r : Region :=
    { number := number, gen := (lookupKey (number % 256) s.dies[d].gens).getD 0, phase := .placed, launch := l, queue := q
      seq := BitVec.ofNat 32 w.headSeq, epoch := w.epoch, top := p.1, left := p.2, horizon := 0xFFFFFFFF, faults := [], overrun := 0
      first := none, outcome := 0, starts := [], reel := none, saved := [], saveArea := 0, ends := [], waited := 0, preemptDue := none }
  { s with regions := (s.regions.filter fun x => x.number ≠ number) ++ [r]
           hub := s.hub.modQueue q WorkQueue.advance }

/-- Whether a candidate may lie at a position: an evicted region that holds a reel keeps to one die (R353). -/
def State.oneDie (s : State) (c : Candidate) (p : Nat × Nat) : Bool :=
  match c.evicted with
  | none => true
  | some n => ((s.region n).bind (·.reel)).isNone || (diesOf p.1 p.2 c.launch.rows c.launch.cols).length ≤ 1

/-- One candidate of a pass (R92): the first free position of its anchor die; where one of the dies that it touches does not RUN,
the claim there is refused and the attempt fails. -/
def State.tryPlace (s : State) (d : Fin 8) (c : Candidate) : State :=
  match (List.range 3200).find? fun n => s.freeAt c.launch (positionOf d.val n) && s.oneDie c (positionOf d.val n) with
  | none => s.ageCandidate c
  | some n =>
    let p := positionOf d.val n
    if !(diesOf p.1 p.2 c.launch.rows c.launch.cols).all (fun e => s.dies[dieOf e].st == .run) then s.ageCandidate c
    else match c.evicted with
    | some k => s.modRegion k fun r => match r.phase with
      | .restoring save _ node tag => { r with phase := .restoring save true node tag, top := p.1, left := p.2, waited := 0 }
      | _ => r
    | none =>
      let free := s.freeNumbers d
      if free.isEmpty then s.ageCandidate c
      else
        let (i, s) := s.pick free.length
        s.placeLaunch c.queue c.launch (256 * d.val + free[i]?.getD 0) p

/-- PLACEMENT_PASS (R91, R92), on a die that RUNs and whose pass is due. -/
def execPlacementPass (d : Fin 8) (s : State) : Result :=
  let x := s.dies[d]
  if x.st ≠ .run || !x.passDue then .next s.stall
  else
    let cs := s.candidates d
    .next (cs.foldl (fun s c => s.tryPlace d c) (s.modDie d fun x => { x with passDue := false }))

/-! Install and start. -/

/-- What keeps an install from going on, or a load fault with its cause, header, place and frame index. -/
inductive LoadStop where
  | wait
  | ask (line : Nat) (node : BitVec 12) (rva : Nat) (page : BitVec 16 × Span)
  | fault (cause : BitVec 8) (place : BitVec 32) (header : Option Word) (index : Option Nat)

/-- A read of the image, for a frame of an index or for a segment: its bytes, or what stops the install; of the entry of a read
that faults the cause and the frame's index are given, INFO and, for a segment, WHERE are open (R389, log entry 3). -/
def State.imageBytes (s : State) (r : Region) (index : Option Nat) (va n : Nat) : Except LoadStop Nat :=
  match s.unitBytes r.owner r.launch.asid va n with
  | .value v => .ok v
  | .wait => .error .wait
  | .ask line node rva page => .error (.ask line node rva page)
  | .fault c => .error (.fault c 0 none index)

/-- The place of a tile of a region in a fault entry. -/
def Region.placeOf (r : Region) (t : TileId) : BitVec 32 := placeWord (r.relative t).1 (r.relative t).2 0 0

/-- A frame of the image applied (R59): an owner program to its slice, any other to its tile. -/
def State.installFrame (s : State) (r : Region) (index : Nat) (f : Frame) : Except LoadStop State :=
  if f.kind = 5 then
    match (f.program r.launch.tenant r.number).bind s.mem.addProgram with
    | some g => .ok { s with mem := g }
    | none => .error (.fault Cause.ill 0 (some f.header) (some index))
  else if r.launch.rows ≤ f.row || r.launch.cols ≤ f.col then .error (.fault Cause.ill 0 (some f.header) (some index))
  else
    let t := r.tileAt f.row f.col
    match (s.tile t).applyFrame f with
    | some x => .ok (s.setTile t x)
    | none => .error (.fault Cause.ill (r.placeOf t) (some f.header) (some index))

/-- The frames of the image, in order (R60). -/
def State.installFrames (s : State) (r : Region) : Nat → Except LoadStop State
  | 0 => .ok s
  | n + 1 => match s.installFrames r n with
    | .error e => .error e
    | .ok s => match s.imageBytes r (some n) (r.launch.image + 32 * n) 32 with
      | .error e => .error e
      | .ok v => s.installFrame r n (BitVec.ofNat 256 v)

/-- The scratch segments from an address on (R95). -/
def State.installSegments (s : State) (r : Region) : Nat → Nat → Except LoadStop State
  | 0, _ => .ok s
  | n + 1, va => match s.imageBytes r none va 16 with
    | .error e => .error e
    | .ok h =>
      let row := natField h 0 16
      let col := natField h 16 16
      let addr := natField h 32 32
      let len := natField h 64 32
      if natField h 96 32 ≠ 0 || len % 16 ≠ 0 || len = 0 || addr % 16 ≠ 0 || 0x60000 < addr + len ||
          r.launch.rows ≤ row || r.launch.cols ≤ col then .error (.fault Cause.ill 0 none none)
      else match s.imageBytes r none (va + 16) len with
        | .error e => .error e
        | .ok v =>
          let s := s.modTile (r.tileAt row col) fun x =>
            x.scratchWrite ((List.range len).map fun i => (x.place x.half (addr + i), byteOf v i))
          s.installSegments r n (va + 16 + len)

/-- The start ports of a region: those its tiles' settings mark and leave unbound (R96). -/
def State.startPorts (s : State) (r : Region) : List (TileId × Fin 4 × Fin 16) :=
  r.tiles.flatMap fun t => (List.finRange 4).flatMap fun c =>
    ((List.finRange 16).filter fun (k : Fin 16) => ((s.ctxAt t c).startPorts).getLsbD k.val).map fun k => (t, c, k)

/-- The tiles of a region cleared and woken (R94). -/
def State.wakeTiles (s : State) (r : Region) : State :=
  r.tiles.foldl (fun s t => s.setTile t { Tile.cleared with awake := true, region := some r.number, born := s.dies[t.dieIx].clock }) s

/-- The Dyfold circuits that a tile's ports join (R417): for each sink that no switch entry enters, and each source endpoint bound to
a port that none leaves, whether it is a sink, its endpoint, and the circuit with the channel's SLOTS that the image's graph names
(log entry 56). -/
def State.dyfoldEnds (s : State) (r : Region) (t : TileId) : List (Bool × Nat × Nat × Nat) :=
  let c := (s.tile t).cfg
  let (row, col) := r.relative t
  let named := fun (sink : Bool) (e : Nat) =>
    (Config.dyfold r.launch.image row col sink e).map fun p => (sink, e, p.1.val, p.2.val + 1)
  let sinks := (List.range 32).filter fun k => (c.sinkCfg k).valid && (c.entryOfSink k).isNone
  let bound := c.binds.toList.flatMap fun b => b.toList.filterMap fun p => match p with
    | .output e => some e
    | _ => none
  let sources := bound.dedup.filter fun e => !c.entries.any fun w => w.inDir == 0 && w.inEp == e
  sinks.filterMap (named true) ++ sources.filterMap (named false)

/-- A tile's ports joined to their Dyfold circuits, if they are not: the source holds the channel's SLOTS as credits (R170, R417). None
where a circuit is unbound, or the sink is not one lane wide with SLOTS of 1 or more (R417, R418). -/
def State.joinTile (s : State) (r : Region) (t : TileId) : Option State :=
  (s.dyfoldEnds r t).foldl (fun o e => o.bind fun s =>
    let (sink, e, k, slots) := e
    let joined := (lookupKey k s.hub.circuits).any fun c => if sink then c.sink == some (t, e) else c.source == some (t, e)
    let c := (s.tile t).cfg.sinkCfg e
    if (lookupKey k s.hub.circuits).isNone || (sink && (c.lanes != 1 || c.slots == 0)) then none
    else if joined then some s
    else if sink then some { s with hub := s.hub.modCircuit k fun c => { c with sink := some (t, e) } }
    else some ({ s with hub := s.hub.modCircuit k fun c => { c with source := some (t, e), cap := some slots } }.modTile t
      (·.modSource e fun _ => ⟨slots, 0⟩))) (some s)

/-- Every tile of a list joined to its Dyfold circuits, or the first that cannot be (R418). -/
def State.joinCircuits (s : State) (r : Region) : List TileId → TileId ⊕ State
  | [] => .inr s
  | t :: rest => match s.joinTile r t with
    | none => .inl t
    | some s => s.joinCircuits r rest

/-- Steps 1 to 5 of R94. -/
def State.loadImage (s : State) (r : Region) : Except LoadStop State :=
  match (s.wakeTiles r).installFrames r r.launch.frames with
  | .error e => .error e
  | .ok s => match s.installSegments r r.launch.segments (r.launch.image + 32 * r.launch.frames) with
    | .error e => .error e
    | .ok s =>
      let s := r.tiles.foldl (fun s t => s.modTile t Tile.configured) s
      match s.joinCircuits r r.tiles with
      | .inl t => .error (.fault Cause.ill (r.placeOf t) none none)
      | .inr s => match (s.badActive r).or (r.tiles.find? fun t => !s.shadowOk r t) with
        | some t => .error (.fault Cause.ill (r.placeOf t) none none)
        | none => .ok (r.tiles.foldl (fun s t => s.fillCredits [] t) s)

/-- A load fault of a region, with what its rule gives of the entry; what it does not give is a free value (R389, log entry
3). No tile reports it while the image is read. -/
def State.loadStopped (s : State) (r : Region) (cause : BitVec 8) (place : BitVec 32) (header : Option Word) (index : Option Nat) : State :=
  let (info, s) := match header with
    | some h => (h, s)
    | none => s.freeWord
  let (loc, s) := match index with
    | some i => (BitVec.ofNat 64 i, s)
    | none => s.freeWord
  s.regionFault r.number ⟨cause, 0, place, info, loc, 0⟩

/-- INSTALL (R94). -/
def execInstall (n : Nat) (s : State) : Result :=
  match s.region n with
  | none => .next s.stall
  | some r =>
    if r.phase ≠ .placed then .next s.stall
    else match s.loadImage r with
      | .error .wait => .next s.stall
      | .error (.ask line node rva page) => .next (s.askLine r.owner line node rva page)
      | .error (.fault c place header index) => .next (s.loadStopped r c place header index)
      | .ok s =>
        let s := s.forgetLines r.owner
        .next (s.modRegion n fun x => { x with phase := .installed, starts := s.startPorts r })

/-- A region that begins to run, or runs on: a PAUSE or EVICT that has waited for it begins (R390, R422). -/
def Region.started (r : Region) : Region :=
  match r.preemptDue with
  | none => { r with phase := .running }
  | some (ev, node, tag) => { r with phase := .pausing ev node tag, preemptDue := none }

/-- SOURCE_START (R96): the k-th of the deliveries still to come; the region runs from the first on, or at once where it
has no start port. A port that a program has bound before its own delivery is a start port no more, and the words for it are
dropped (R201; log entry 84). -/
def execSourceStart (n k : Nat) (s : State) : Result :=
  match s.region n with
  | none => .next s.stall
  | some r =>
    if r.phase ≠ .installed && r.phase ≠ .running then .next s.stall
    else match r.starts[k]? with
      | none => .next (if r.starts.isEmpty && r.phase = .installed then s.modRegion n Region.started else s.stall)
      | some (t, c, port) =>
        let words := (r.launch.args.toList.take r.launch.argw).map fun w => Entry.mk (w.zeroExtend 256) Kind.data .direct
        let s := if (s.ctxAt t c).startPorts.getLsbD port.val then
            s.modCtx t c fun y => { y with startQ := y.startQ.set port (y.startQ[port] ++ words) } else s
        .next (s.modRegion n fun r => { r.started with starts := r.starts.eraseIdx k })

/-! The end of a region. -/

/-- Queued walks that tiles or transfers asked for dropped, at every die. -/
def State.dropWalkers (s : State) (tiles : List TileId) (ids : List Word) : State :=
  { s with dies := s.dies.map fun (d : Die) => d.dropWalkers tiles ids }

/-- REGION_COMPLETE (R99): the region ends OK: it closes, and at once where its completion record can be written. -/
def execRegionComplete (n : Nat) (s : State) : Result :=
  match s.region n with
  | none => .next s.stall
  | some r =>
    if r.phase ≠ .running || !s.regionIdle r then .next s.stall
    else
      let tiles := r.tiles
      let s := s.dropWalkers tiles []
      let s := { s with
        dies := s.dies.map fun (d : Die) => d.freeBarriers n
        beacons := s.beacons.filter fun b => !tiles.contains b.tile
        beaconsOut := s.beaconsOut.filter fun b => !tiles.contains b.tile }
      .next (((s.endBales r).beginClose r tiles 0).settleClosing)

/-! Frames on CFG tokens. -/

/-- The frame that a whole CFG group of entries of `b` bytes carries (R176). -/
def frameOf (b : Nat) : List Entry → Nat
  | [] => 0
  | e :: rest => e.word.toNat % 2 ^ (8 * b) + frameOf b rest * 2 ^ (8 * b)

/-- Whether a frame names the tile, by coordinates of its slot in a band tile, else by those of its region (R176). -/
def State.frameNames (s : State) (r : Region) (t : TileId) (f : Frame) : Bool :=
  match (s.tile t).reel with
  | some b => f.row == b.row && f.col == b.col
  | none => (f.row, f.col) == r.relative t

/-- A tile of a region after a frame for its active copy, before the region's sources have started (R58, R121, R193; DEDUCED, log entry
121): what install would make of the settings is made of them again, as far as the frame changes them. A ROUTE frame that leaves the
region's circuits or trees broken is a load fault, and so is a port that cannot be joined (R187, R230, R418). -/
def State.applyActive (s : State) (r : Region) (t : TileId) (x : Tile) (f : Frame) : Option State :=
  let u := s.setTile t (x.reconfigured (s.tile t).cfg f.kind)
  if f.kind = 4 then
    some (u.modRegion r.number fun q => { q with starts := (q.starts.filter (·.1 ≠ t)) ++ (u.startPorts r).filter (·.1 = t) })
  else if f.kind = 2 then
    (u.joinTile r t).bind fun v =>
      if (v.badActive r).isSome then none else some (r.tiles.foldl (fun v t => v.fillCredits (s.channelsFrom t) t) v)
  else some u

/-- CFG_APPLY (R176, R59, R193): a whole group at a port sink is applied to the tile; a frame that breaks a rule, names
another tile or, after the region's sources have started, is for the active copy is a load fault, and so is a ROUTE frame whose circuits
or trees break one (R187, R230). -/
def execCfgApply (t : TileId) (k : Fin 64) (s : State) : Result :=
  let x := s.tile t
  let n := x.cfg.cfgGroup k.val
  let group := (x.sink k.val).cfg
  if 32 ≤ k.val || group.length < n || n = 0 then .next s.stall
  else match s.regionOf t with
    | none => .next s.stall
    | some r =>
      let f : Frame := BitVec.ofNat 256 (frameOf (x.cfg.sinkBytes k.val) (group.take n))
      let s := s.modTile t (·.modSink k.val fun y => { y with cfg := y.cfg.drop n })
      if f.kind = 5 || !s.frameNames r t f || (!f.shadow && r.phase != .installed) then .next (s.loadFault t f.header)
      else match (s.tile t).applyFrame f with
        | none => .next (s.loadFault t f.header)
        | some x =>
          let u := s.setTile t x
          .next (if f.shadow then (if u.routeOk r t f then u else s.loadFault t f.header)
            else (s.applyActive r t x f).getD (s.loadFault t f.header))

end Sys2Proof.Machine
end

