-- ==== Sys2Proof/Machine/Walks.lean ====
section
/-! DEFINITION. Page walks with the dies' node caches (R278, R283), invalidations (R284), and the fences (R304). -/

namespace Sys2Proof.Machine

/-! Walks. -/

/-- The node that a cached pointer entry of a level leads to (R283). -/
def Die.cachedNode (d : Die) (asid : BitVec 16) (level va : Nat) : Option Target :=
  (d.nodeCache.find? fun e => e.asid == asid && e.level == level && e.pref == va / 2 ^ (16 + 10 * level)).map (·.node)

/-- A walk in progress: the node whose entry is read next, the level of that entry, and what has been read. -/
structure WalkTrace where
  found : Except WalkFail Leaf
  reads : List Target
  nodes : List NodeEntry

/-- The rest of a walk from a node whose entries are of a level: pointer entries of levels 3 and 2 come from the node cache
or enter it (R278, R283). -/
def Die.walkFrom (d : Die) (g : Global) (asid : BitVec 16) (va : Nat) (reads : List Target) (nodes : List NodeEntry) (node : Target) :
    Nat → WalkTrace
  | 0 =>
    let at' := node.plus (8 * (va / 2 ^ 16 % 1024))
    ⟨match walkStep g va node 0 with
      | .error f => .error f
      | .ok (.inr leaf) => .ok leaf
      | .ok (.inl _) => .error (.xlate 1 0), reads ++ [at'], nodes⟩
  | l + 1 =>
    match (if 2 ≤ l + 1 then d.cachedNode asid (l + 1) va else none) with
    | some next => d.walkFrom g asid va reads nodes next l
    | none =>
      let reads := reads ++ [node.plus (8 * (va / 2 ^ (16 + 10 * (l + 1)) % 1024))]
      match walkStep g va node (l + 1) with
      | .error f => ⟨.error f, reads, nodes⟩
      | .ok (.inr leaf) => ⟨.ok leaf, reads, nodes⟩
      | .ok (.inl next) =>
        let nodes := if 2 ≤ l + 1 then nodes ++ [⟨asid, l + 1, va / 2 ^ (16 + 10 * (l + 1)), next⟩] else nodes
        d.walkFrom g asid va reads nodes next l

/-- A walk at a die (R278, R283). -/
def Die.walk (d : Die) (g : Global) (asid : BitVec 16) (va : Nat) : WalkTrace :=
  match d.cachedNode asid 4 0 with
  | some node => d.walkFrom g asid va [] [] node 3
  | none => match walkRoot g asid with
    | .error f => ⟨.error f, [rootTarget g asid], []⟩
    | .ok node => d.walkFrom g asid va [rootTarget g asid] [⟨asid, 4, 0, node⟩] node 3

/-- Pointer entries entered into a die's node cache of 256; which entry makes room is open (log entry 2). -/
def State.cacheNodes (s : State) (d : Fin 8) (es : List NodeEntry) : State :=
  es.foldl (fun s e =>
    let cache := s.dies[d].nodeCache
    if cache.contains e then s
    else if cache.length < 256 then s.modDie d fun x => { x with nodeCache := x.nodeCache ++ [e] }
    else
      let (i, s) := s.pick 256
      s.modDie d fun x => { x with nodeCache := x.nodeCache.eraseIdx i ++ [e] }) s

/-- The result of a walk given to one requester (R282, R283, R286). -/
def State.walkAnswer (s : State) (page : Nat) (found : Except WalkFail Leaf) (w : Walker) : State :=
  match w with
  | .prefetch t k => match found with
    | .ok leaf => s.modCtx t k fun c => { c with utlb := tlbFill c.utlb leaf }
    | .error _ => s
  | .ctx t k => match (s.ctxAt t k).gq.find? fun a => a.stage == .walking && pageOf a.va == page with
    | none => s
    | some a =>
      let s := match found with
        | .ok leaf => s.modCtx t k fun c => ({ c with utlb := tlbFill c.utlb leaf }).setStage a.id .queued
        | .error f => s.accWalkFail t k a f
      s.translateQueue 17 t k
  | .stream t g =>
    let x := s.tile t
    let y := x.agen g
    if !y.walking || pageOf (y.nextAddr (x.cfg.agen[g]) + y.covered) ≠ page then s
    else
      let s := s.modTile t (·.modAgen g fun y => { y with leaf := found.toOption, walking := false })
      match found with
      | .ok _ => s
      | .error f => s.elemFails t g f.cause
  | .place id => s.modXfer id fun x => if x.walking then x.walked page found else x
  | .hub _ _ => s

/-- Contexts whose access could not enter the walk queue of a die try again (R283). -/
def State.retryMisses (s : State) (d : Fin 8) : State :=
  s.tiles.foldl (fun s p => if p.1.dieIx = d then
    (List.finRange 4).foldl (fun s k => if (p.2.ctxs[k]).gq.isEmpty then s else s.translateQueue 17 p.1 k) s else s) s

/-- WALK_COMPLETE (R278-R283): a walk of a die ends, one of the first 64 of its queue, and answers its requesters; a leaf
larger than 64 KiB answers every queued request that it covers. -/
def execWalkComplete (d : Fin 8) (asid : BitVec 16) (page : Nat) (s : State) : Result :=
  let x := s.dies[d]
  match (x.walks.take 64).find? fun w => w.asid == asid && w.page == page with
  | none => .next s.stall
  | some w =>
    let r := x.walk s.mem asid (page * 2 ^ 16)
    if r.reads.any fun t => s.lineHeld t 8 then .next s.stall
    else
      let also : List Walk := match r.found with
        | .ok leaf => if 16 < leaf.size then x.walks.filter fun v => v.asid == asid && leaf.covers (v.page * 2 ^ 16) else [w]
        | .error _ => [w]
      let s := s.cacheNodes d r.nodes
      let s := s.modDie d fun x => { x with walks := x.walks.filter fun v => !also.contains v }
      let s := also.foldl (fun s v => v.who.foldl (fun s who => s.walkAnswer v.page r.found who) s) s
      .next (s.retryMisses d)

/-! Invalidations (R284). -/

/-- Whether two ranges of addresses, given by their ends, share one. -/
def overlap (lo hi lo' hi' : Nat) : Bool := decide (lo ≤ hi' ∧ lo' ≤ hi)

/-- Whether a leaf covers a byte of a range. -/
def Leaf.meets (l : Leaf) (lo hi : Nat) : Bool := overlap l.vbase (l.vbase + 2 ^ l.size - 1) lo hi

/-- Whether a node entry covers a byte of a range. -/
def NodeEntry.meets (e : NodeEntry) (lo hi : Nat) : Bool :=
  e.level == 4 || overlap (e.pref * 2 ^ (16 + 10 * e.level)) ((e.pref + 1) * 2 ^ (16 + 10 * e.level) - 1) lo hi

/-- Tiles whose region runs under an ASID. -/
def State.tilesUnder (s : State) (asid : BitVec 16) : List TileId :=
  (s.tiles.map (·.1)).filter fun t => match s.regionOf t with
    | some r => r.launch.asid == asid
    | none => false

/-- Tagged stores on their way to another package: flits that wait, and flits that have not been acknowledged (R284, R410). -/
def Hub.storeFlits (h : Hub) : List OutFlit :=
  (h.outHeld ++ h.ports.toList.flatMap fun p => p.unsent ++ p.carried.map (·.2)).filter fun f => f.page.isSome

/-- Whether a page has an address in a range. -/
def Span.meets (p : Span) (lo hi : Nat) : Bool := overlap p.1 p.2 lo hi

/-- Accesses of an ASID that have been translated through a page with an address in a range, those of regions that have been killed
too: accesses of contexts, elements of streams, packets, reads of packets that another package has, requests to other packages and
of peers, tagged stores on their way to another package or to the loft, and in it. -/
def State.translated (s : State) (asid : BitVec 16) (lo hi : Nat) : List InvalWait :=
  let held := fun (a : GAccess) => match a.stage with
    | .queued | .walking => false
    | _ => true
  let under := fun (n : Nat) (gen : BitVec 8) => s.regions.any fun r => r.number == n && r.gen == gen && r.launch.asid == asid
  let through := fun (p : BitVec 16 × Span) => p.1 == asid && p.2.meets lo hi
  let own := (s.tilesUnder asid).flatMap fun t =>
    ((List.finRange 4).flatMap fun k =>
      ((s.ctxAt t k).gq.filter fun a => held a && a.span.meets lo hi).map fun a => InvalWait.access (.ctx t k a.id)) ++
    (List.finRange 4).flatMap fun g =>
      (((s.tile t).agen g).flight.filter fun e => e.spans.any fun p => p.meets lo hi).map fun e => InvalWait.access (.stream t g e.n)
  let packets := (s.xfers.filter fun x => under x.region x.gen).flatMap fun x =>
    ((x.packets ++ x.remote).filter fun p => p.target.isSome && p.kind != .response && p.span.meets lo hi).map fun p => InvalWait.packet p.order
  let peers := (s.hub.inbound.filter fun q => !q.unwalked && through (q.asid, q.span)).map fun q => InvalWait.access (.inbound q.n)
  let remote := (s.hub.remote.filter fun r => (r.page.map through).getD false).map fun r => InvalWait.remote r.rid
  let flits := (s.hub.storeFlits.filter fun f => (f.page.map through).getD false).filterMap fun f => f.rid.map InvalWait.flit
  let stores := s.hub.loftIn.filterMap fun m => match m.2 with
    | .store _ _ _ _ _ _ _ (some p) => if through p then some (InvalWait.loft m.1) else none
    | _ => none
  let kept := (s.hub.loft.filter fun b => b.pages.any through).map fun b => InvalWait.bale b.coord b.handle
  own ++ packets ++ peers ++ remote ++ flits ++ stores ++ kept

/-- Whether what a wait names is still under way. -/
def State.underWay (s : State) (w : InvalWait) : Bool :=
  match w with
  | .access (.ctx t k id) => ((s.ctxAt t k).access id).isSome
  | .access (.inbound n) => s.hub.inbound.any (·.n == n)
  | .access (.stream t g n) => (s.elemAt t g n).isSome
  | .packet order =>
    s.xfers.any (fun x => (x.packets ++ x.remote).any (·.order == order)) || s.beaconsOut.any (·.order == order) ||
      s.tiles.any (fun p => p.2.sinks.any fun k => k.2.sent.contains order) ||
      s.dies.toList.any fun d => d.poolQ.any (·.order == order) || d.arrivals.any (·.order == order)
  | .remote rid => s.hub.remote.any (·.rid == rid)
  | .flit rid => s.hub.storeFlits.any (·.rid == some rid)
  | .loft n => s.hub.loftIn.any (·.1 == n)
  | .bale c h => s.hub.loft.any fun b => b.coord == c && b.handle == h

/-- An invalidation begun (R284): the entries removed, and what it waits for. -/
def State.invalidate (s : State) (asid : BitVec 16) (lo hi : Nat) (cmd : Option (BitVec 12 × BitVec 32)) : Nat × State :=
  let drop := fun (o : Option Leaf) => match o with
    | some l => if l.meets lo hi then none else o
    | none => none
  let tiles := s.tilesUnder asid
  let regions := (s.regions.filter fun r => r.inService && r.launch.asid == asid).map (·.number)
  let k := s.mem.nextInval
  let waits := s.translated asid lo hi
  let s := tiles.foldl (fun s t => s.modTile t fun x => { x with
    ctxs := x.ctxs.map fun c => { c with utlb := c.utlb.filter fun l => !l.meets lo hi }
    agens := x.agens.map fun a =>
      let a := { a with leaf := drop a.leaf }
      -- an element whose first page is translated anew waits no longer for its second one
      if a.spans.any fun p => p.meets lo hi then { a with parts := [], spans := [], walking := false } else a }) s
  let s := { s with
    xfers := s.xfers.map fun (x : Transfer) => if regions.contains x.region then { x with srcLeaf := drop x.srcLeaf, dstLeaf := drop x.dstLeaf } else x
    dies := s.dies.map fun (d : Die) => { d with nodeCache := d.nodeCache.filter fun e => !(e.asid == asid && e.meets lo hi) } }
  (k, { s with mem := { s.mem with invals := s.mem.invals ++ [⟨k, asid, lo, hi, waits, cmd⟩], nextInval := k + 1 } })

/-- INVALIDATION_COMPLETE (R284): every access translated through a removed entry has performed; the host is answered, or
the context goes on. -/
def execInvalidationComplete (k : Nat) (s : State) : Result :=
  match s.mem.invals.find? (·.k == k) with
  | none => .next s.stall
  | some v =>
    if v.waits.any s.underWay then .next s.stall
    else
      let s := { s with mem := { s.mem with invals := s.mem.invals.filter fun w => w.k != k } }
      match v.cmd with
      | some (node, tag) =>
        .next ({ s with hub := { s.hub with waiting := s.hub.waiting.filter fun w => !(w.node == node && w.tag == tag && w.op == 0x11) } }.respond node tag 0x11 0 [])
      | none => .next (s.tiles.foldl (fun s p => (List.finRange 4).foldl (fun s c =>
          if (p.2.ctxs[c]).wait = .inval k then s.modCtx p.1 c fun y => { y with wait := .none }.retire else s) s) s)

/-! Fences. -/

/-- The release wait of a fence (R304): the context is not eligible until its earlier accesses have performed at the scope. -/
def State.fenceOp (s : State) (sco : Scope) : State := if s.cur.performed sco then s.retire else s.stall

/-- Whether the transfers that a context issued have ended and its write streams have performed every element they took
(R304). -/
def State.unitsDone (s : State) (t : TileId) (k : Fin 4) : Bool :=
  let x := s.tile t
  let issued := fun (y : Transfer) => y.tile == t && y.ctx == k && y.kind != .load && y.kind != .save
  !(s.xfers.any fun y => issued y && !y.ended) &&
  (List.finRange 4).all fun g =>
    let a := x.agens[g]
    (x.cfg.agen[g]).reads || ((a.user != k || a.st != .running || a.taken.isEmpty) && a.flight.all fun e => e.user != k)

/-- `fence` (R304). -/
def execFence (g : Guard) (o : FmtM) (s : State) : Result := .next (s.issue g (·.afterStoreFault (·.fenceOp o.sco)))

/-- `fencex` (R304). -/
def execFencex (g : Guard) (o : FmtM) (s : State) : Result :=
  .next (s.issue g (·.afterStoreFault fun s =>
    if !s.unitsDone s.here s.ctx then s.stall else s.fenceOp o.sco))

end Sys2Proof.Machine
end

