-- ==== Sys2Proof/Machine/Link.lean ====
section
/-! DEFINITION. The links of Dyfold (R405-R413): flits and their checks, retry, what a link that goes down and a peer's reset
do, and how a request to another package completes (R411, R416). -/

namespace Sys2Proof.Machine

/-! Flits (R405, R406). -/

/-- A function applied eight times. -/
def times8 {α : Type} (f : α → α) (x : α) : α := f (f (f (f (f (f (f (f x)))))))

/-- One bit of a CRC-16 with polynomial 0x1021. -/
def crc16Bit (c : BitVec 16) : BitVec 16 := if c.msb then c <<< 1 ^^^ 0x1021 else c <<< 1

/-- CRC-16 of bytes in rising order, the highest bit of each first (log entry 30). -/
def crc16 (bs : List Byte) : BitVec 16 :=
  bs.foldl (fun (c : BitVec 16) (b : Byte) => times8 crc16Bit (c ^^^ BitVec.shiftLeft (b.zeroExtend 16) 8)) 0xFFFF

/-- One bit of the CRC-32 of IEEE 802.3. -/
def crc32Bit (c : BitVec 32) : BitVec 32 := if c.getLsbD 0 then c >>> 1 ^^^ 0xEDB88320 else c >>> 1

/-- CRC-32 of bytes in rising order, that of IEEE 802.3 (log entry 30). -/
def crc32 (bs : List Byte) : BitVec 32 :=
  ~~~(bs.foldl (fun c b => times8 crc32Bit (c ^^^ b.zeroExtend 32)) 0xFFFFFFFF)

/-- A flit's bytes from one on. -/
def flitBytes (f : BitVec 512) (start n : Nat) : List Byte := (List.range n).map fun i => bits f (8 * (start + i)) 8

/-- KIND of a flit. -/
def flitKind (f : BitVec 512) : Nat := field f 44 4

/-- STREAM of a flit. -/
def flitStream (f : BitVec 512) : Nat := field f 34 10

/-- SEQ of a flit. -/
def flitSeq (f : BitVec 512) : BitVec 12 := bits f 22 12

/-- VER of a flit. -/
def flitVer (f : BitVec 512) : Bool := f.getLsbD 13

/-- Bytes that HCRC covers: the header below it, and for an OPEN the stream record. -/
def headerBytes (f : BitVec 512) : List Byte := flitBytes f 0 6 ++ if flitKind f = 1 then flitBytes f 8 16 else []

/-- Whether a flit passes as a header (R406). -/
def headerGood (f : BitVec 512) : Bool :=
  bits f 48 16 == crc16 (headerBytes f) && decide (flitKind f ≤ 8) && decide (field f 16 6 ≤ 52) && field f 0 13 == 0

/-- Whether a flit's FCRC matches. -/
def flitGood (f : BitVec 512) : Bool := bits f 480 32 == crc32 (flitBytes f 0 60)

/-- A port after a flit: it fails and is answered by NAK with the expected SEQ; a flit of IDLE passes; ACK and NAK are taken
by the sending side; any other is accepted in sequence and answered by ACK (R410; log entry 31). -/
def Port.receive (x : Port) (f : BitVec 512) : Port :=
  let nak := { x with answers := x.answers ++ [((5 : BitVec 4), x.rxSeq)] }
  if !headerGood f || !flitGood f then nak
  else match flitKind f with
    | 0 => x
    | 4 | 5 => { x with rx := x.rx ++ [f] }
    | _ =>
      if flitSeq f ≠ x.rxSeq then nak
      else { x with rxSeq := x.rxSeq + 1, answers := x.answers ++ [(4, flitSeq f)], rx := x.rx ++ [f] }

/-- OP of a command record (R419). -/
def recordOp (r : BitVec 512) : Nat := field r 0 16

/-- The OPs of R420. -/
def commandOps : List Nat :=
  [0x01, 0x02, 0x03, 0x10, 0x11, 0x12, 0x13, 0x14, 0x15, 0x16, 0x17] ++
  [0x20, 0x21, 0x22, 0x23, 0x24, 0x25, 0x26, 0x27, 0x30, 0x31, 0x32, 0x33, 0x34, 0x35, 0x36, 0x37, 0x38, 0x39, 0x40, 0x41]

/-- A command record that has come in whole: it is kept with what came before it on the node streams (R422). One whose OP is none
of R420's is answered BADARG (log entry 85), as R419 and R424 let it be answered. -/
def State.commandIn (s : State) (node : BitVec 12) (r : BitVec 512) : State :=
  if commandOps.contains (recordOp r) then
    { s with hub := { s.hub with cmdsIn := s.hub.cmdsIn ++ [⟨node, r, s.hub.nextIn, s.hub.hosts.contains node, s.hub.hosts.head? == some node⟩] } }
  else if s.power = .recovery && s.hub.hosts.isEmpty then s
  else s.respond node (bits r 32 32) (recordOp r) (if !s.hub.hosts.contains node then 5 else if s.power = .recovery then 2 else 3) []

/-- A CTRL flit at the head of a port's flits: its payload joins the bytes that its stream has brought in; 64 of them are a
command's record (R419). On a stream that is not open it is no command (log entry 28). -/
def State.absorbOne (s : State) (p : Fin 32) : State :=
  let x := s.hub.ports[p]
  match x.rx with
  | [] => s
  | f :: rest =>
    if flitKind f ≠ 7 then s
    else match lookupKey (flitStream f) x.streams with
      | none => { s with hub := s.hub.modPort p fun x => { x with rx := rest } }
      | some r =>
        let bs := (lookupKey (flitStream f) x.ctrl).getD [] ++ flitBytes f 8 (field f 16 6)
        let whole := decide (64 ≤ bs.length)
        let left := if whole then bs.drop 64 else bs
        let s := { s with hub := s.hub.modPort p fun x => { x with rx := rest, ctrl := putKey (flitStream f) left x.ctrl } }
        if whole then s.commandIn r.srcNode (BitVec.ofNat 512 (ofBytes (bs.take 64))) else s

/-- Every CTRL flit at the head of a port's flits. -/
def State.absorb (s : State) (p : Fin 32) : State := (s.hub.ports[p]).rx.foldl (fun s _ => s.absorbOne p) s

/-- FLIT_RECEIVE (R410), on a link that is up; a port whose lanes are all bound to circuits carries only their CIRC flits
(R405, R418). -/
def execFlitReceive (p : Fin 32) (flit : BitVec 512) (s : State) : Result :=
  if !(s.hub.ports[p]).up || (!s.hub.flitLanes p && flitKind flit != 8) then .next s.stall
  else .next (State.absorb { s with hub := s.hub.modPort p (·.receive flit) } p)

/-- The first flit of a port not yet acted on, where its KIND is the one asked for, acted on; then the CTRL flits behind it. -/
def State.onFlit (s : State) (p : Fin 32) (kind : Nat) (act : BitVec 512 → State → State) : State :=
  match (s.hub.ports[p]).rx with
  | [] => s.stall
  | f :: rest =>
    if flitKind f ≠ kind then s.stall
    else (act f { s with hub := s.hub.modPort p fun x => { x with rx := rest } }).absorb p

/-- A flit dropped at ingress and counted (R407). -/
def State.dropFlit (s : State) (p : Fin 32) : State := { s with hub := s.hub.modPort p fun x => { x with drops := x.drops + 1 } }

/-! How a request to another package completes. -/

/-- The die whose stale-reply count counts an answer that finds no requester. -/
def RemoteReq.dieOfAsker (r : RemoteReq) : Fin 8 :=
  match r.who with
  | .ctx t _ | .prefetch t _ | .stream t _ => t.dieIx
  | .place _ | .hub _ _ => dieOf ((r.region.map (·.1 / 256)).getD 0)

/-- Whether lines are still read for an owner: a region, or a queue under its present settings (R84). -/
def State.ownerCurrent (s : State) (owner : Nat) : Bool :=
  if owner < 2 ^ 20 then (s.region (owner / 256)).isSome
  else
    let k := (owner - 2 ^ 20) / 2 ^ 32
    (s.hub.queue (k % 2 ^ 14)).reads == k / 2 ^ 14

/-- The answer to what the hub, a scheduler or a feeder asked for: a line kept for its owner, or the end of a completion
record's write (R100). -/
def State.hubAnswer (s : State) (rid owner line : Nat) (a : RemoteAnswer) : State :=
  match s.hub.doneOut.find? fun d => d.rid == some rid with
  | some d => s.doneWritten d (match a with
    | .value _ => false
    | _ => true)
  | none =>
    let keep := fun (got : BitVec 8 × BitVec 512) =>
      if s.ownerCurrent owner then { s with hub := { s.hub with fetched := s.hub.fetched ++ [((owner, line), got)] } } else s
    match a with
    | .value data => keep (0, data)
    | .fail cause _ => keep (cause, 0)
    | .retry =>
      if s.ownerCurrent owner then
        { s with hub := { s.hub with retries := putKey (owner, line) (s.clockOf (.hub owner line) + 256) s.hub.retries } }
      else s

/-- An answer at the requester. -/
def State.answerAsker (s : State) (r : RemoteReq) (a : RemoteAnswer) : State :=
  match r.who with
  | .ctx t k => s.accAnswer t k r.acc a
  | .prefetch _ _ => s
  | .stream t g => s.streamAnswer t g r.acc a
  | .place id => s.xferAnswer id r.acc r.writes a
  | .hub owner line => s.hubAnswer r.rid owner line a

/-- A request completes: its answer reaches the requester, or is stale where the region that asked is gone (R102); flits that
waited for it leave (R409), and what waited for it ends. -/
def State.finishRemote (s : State) (r : RemoteReq) (a : RemoteAnswer) : State :=
  let s := { s with hub := Hub.releaseHeld { s.hub with remote := s.hub.remote.filter fun q => q.rid != r.rid } }
  let s := match r.region with
    | none => s.answerAsker r a
    | some (n, gen) =>
      let closing := s.hub.doneOut.any fun d => d.rid == some r.rid
      match s.region n with
      | some x => if x.gen = gen || closing then s.answerAsker r a else s.lateReply r.dieOfAsker n gen
      | none => if closing then s.answerAsker r a else s.lateReply r.dieOfAsker n gen
  s.settleClosing

/-- The completion of a request on a failed peer or link (R411). -/
def State.failRemote (s : State) (r : RemoteReq) : State := s.finishRemote r (.fail Cause.fabric 0)

/-! Lost peers. -/

/-- A peer lost for the bales of this package and of its loft (R367, R371, R372, R376): destinations there are lost, and what
its own bales have left here unprepared is discarded. -/
def State.balePeerLost (s : State) (node : BitVec 12) : State :=
  let s := (s.hub.bales.map (·.1)).foldl (fun s k => s.takeAnswer k node .lost) s
  let stays := fun (m : LoftMsg) => match m with
    | .decision _ _ _ => true
    | m => m.key.1 != node
  let stays := fun (m : Nat × LoftMsg) => stays m.2
  { s with hub := { s.hub with
    loft := s.hub.loft.filter fun b => b.coord != node || b.prepared
    loftIn := s.hub.loftIn.filter stays
    inbound := s.hub.inbound.filter fun q => (baleOf q.node q.req).isNone || q.node != node } }

/-- A bale whose traffic a failed link has carried, or has found no port to a node: for one of this package's the node is lost, of one of
that node's what has come here unprepared is discarded (R367, R371, R372, R409, R411). -/
def State.baleCut (s : State) (v : (BitVec 12 × Word) × BitVec 12) : State :=
  let (coord, h) := v.1
  if coord = s.hub.node then
    let k := baleIndex h
    if h = baleHandle coord k (s.hub.bale k).gen then s.takeAnswer k v.2 .lost else s
  else
    let goes := fun (m : LoftMsg) => match m with
      | .store c g _ _ _ _ _ _ | .seal c g _ => (c, g) == v.1
      | .decision _ _ _ => false
    { s with hub := { s.hub with
      loft := s.hub.loft.filter fun b => (b.coord, b.handle) != v.1 || b.prepared
      loftIn := s.hub.loftIn.filter fun m => !goes m.2
      inbound := s.hub.inbound.filter fun q => baleOf q.node q.req != some v.1 } }

/-- A flit not yet sent of a port that has gone down: it moves to another port of its stream, and a request that finds none
completes with FABRIC (R411). -/
def State.moveFlit (s : State) (f : OutFlit) : State :=
  match f.node with
  | none => s
  | some node =>
    let s := { s with hub := s.hub.route node f }
    match s.hub.remote.find? fun r => f.rid == some r.rid with
    | some r => if r.place = .nowhere then s.failRemote r else s
    | none => s

/-- A link taken down (R411): the requests sent on it complete with FABRIC; then those not yet sent move to another port; each bale that
it has carried has lost the node at its other end. -/
def State.linkDown (s : State) (p : Fin 32) : State :=
  let left := (s.hub.ports[p]).unsent
  let sent := s.hub.remote.filter fun r => r.place == .sent p
  let cut := s.hub.baleVia.filter fun v => v.2.2 == p
  let hub := s.hub.modPort p fun x => { x with up := false, replay := [], carried := [], unsent := [] }
  let s := { s with hub := { hub with
    streamPort := hub.streamPort.filter fun e => e.2.2 != p, baleVia := hub.baleVia.filter fun v => v.2.2 != p } }
  let s := sent.foldl State.failRemote s
  let s := left.foldl State.moveFlit s
  let s := cut.foldl (fun s v => s.baleCut (v.1, v.2.1)) s
  State.notify { s with hub := s.hub.releaseHeld } 0x82 [BitVec.ofNat 64 p.val]

/-- The newest incarnation recorded for a node (R412). -/
def Hub.incarnationOf (h : Hub) (node : BitVec 12) : Option (BitVec 16) := lookupKey node h.peers

/-- Serial comparison with the recorded incarnation (R413): older, equal or first, newer. -/
inductive Age where
  | older | current | newer
  deriving DecidableEq, Repr

/-- How an incarnation stands to the recorded one (R413); a node without an entry is accepted. -/
def Hub.ageOf (h : Hub) (node : BitVec 12) (inc : BitVec 16) : Age :=
  match h.incarnationOf node with
  | none => .current
  | some e =>
    let d := (inc - e).toNat
    if d = 0 then .current else if d < 2 ^ 15 then .newer else .older

/-- The newest incarnation of a node recorded. -/
def Hub.record (h : Hub) (node : BitVec 12) (inc : BitVec 16) : Hub := { h with peers := putKey node inc h.peers }

/-- A peer's reset (R413). -/
def State.peerReset (s : State) (node : BitVec 12) (inc : BitVec 16) : State :=
  let s := { s with hub := s.hub.record node inc }
  let s := (s.hub.remote.filter fun r => r.node == node).foldl State.failRemote s
  let s := { s with hub := { s.hub with ports := s.hub.ports.map fun (x : Port) =>
    let open' := x.streams.filter fun (e : Nat × StreamRec) => e.2.srcNode != node
    { x with streams := open', ctrl := x.ctrl.filter fun (e : Nat × List Byte) => (lookupKey e.1 open').isSome } } }
  (s.balePeerLost node).notify 0x83 [node.zeroExtend 64, inc.zeroExtend 64]

/-- An incarnation met: nothing changes where it is the current one, a newer one resets the peer; none where it is older
(R412, R413). -/
def State.meet (s : State) (node : BitVec 12) (inc : BitVec 16) : Option State :=
  match s.hub.ageOf node inc with
  | .older => none
  | .newer => some (s.peerReset node inc)
  | .current => some { s with hub := s.hub.record node inc }

/-! Retry (R410). -/

/-- ACK: the flit acknowledged leaves the replay buffer, and one that waited takes its room; flits that waited for its version go on
(R409, R410). -/
def Hub.acked (h : Hub) (p : Fin 32) (q : BitVec 12) : Hub :=
  let h := h.modPort p fun x => { x with replay := x.replay.filter (fun e => e.1 != q), carried := x.carried.filter fun e => e.1 != q }
  let x := h.ports[p]
  Hub.releaseHeld <| match x.unsent with
  | [] => h
  | f :: rest =>
    if 512 ≤ x.replay.length then h
    else ((h.setPlace f (.sent p)).modPort p fun x => { x with
      unsent := rest, replay := x.replay ++ [(x.txSeq, 0)], carried := x.carried ++ [(x.txSeq, f)], txSeq := x.txSeq + 1 }).noteBale
        f.bale (f.node.getD 0) p

/-- ACK (R410). -/
def execAck (p : Fin 32) (s : State) : Result :=
  .next (s.onFlit p 4 fun f s => { s with hub := s.hub.acked p (flitSeq f) })

/-- The flits of a replay buffer from a sequence number on. -/
def replayFrom (q : BitVec 12) (l : List (BitVec 12 × Nat)) : List (BitVec 12 × Nat) := l.dropWhile fun e => e.1 != q

/-- NAK_REPLAY (R410): every flit from the expected one on is replayed; one that has been replayed 8 times takes the link
down. -/
def execNakReplay (p : Fin 32) (s : State) : Result :=
  .next (s.onFlit p 5 fun f s =>
    let l := (s.hub.ports[p]).replay
    let again := replayFrom (flitSeq f) l
    if again.any fun e => decide (8 ≤ e.2) then s.linkDown p
    else { s with hub := s.hub.modPort p fun x =>
      { x with replay := l.take (l.length - again.length) ++ again.map fun (e : BitVec 12 × Nat) => (e.1, e.2 + 1) } })

/-! Streams (R407, R413). -/

/-- The stream record of an OPEN flit (R407). -/
def streamRecord (f : BitVec 512) : StreamRec where
  srcNode := bits f 64 12
  incarn := bits f 80 16
  tenant := bits f 96 12
  asid := bits f 112 16
  region := bits f 128 11
  gen := bits f 144 8
  ctx := bits f 152 2
  dstNode := bits f 160 12
  ver := flitVer f

/-- STREAM_OPEN (R407, R413). -/
def execStreamOpen (p : Fin 32) (s : State) : Result :=
  .next (s.onFlit p 1 fun f s =>
    let r := streamRecord f
    let k := flitStream f
    match s.meet r.srcNode r.incarn with
    | none => { s with hub := s.hub.modPort p fun x => { x with streams := dropKey k x.streams, ctrl := dropKey k x.ctrl } }.dropFlit p
    | some s => { s with hub := s.hub.modPort p fun x => { x with streams := putKey k r x.streams, ctrl := dropKey k x.ctrl } })

/-- STREAM_CLOSE (R407). -/
def execStreamClose (p : Fin 32) (s : State) : Result :=
  .next (s.onFlit p 3 fun f s => { s with hub := s.hub.modPort p fun x =>
    { x with streams := dropKey (flitStream f) x.streams, ctrl := dropKey (flitStream f) x.ctrl } })

/-- HELLO (R409, R412, R413): the port enters both versions of the node-to-port table for the peer, and its incarnation is
compared; the hello of an older incarnation is dropped and counted. -/
def execHello (p : Fin 32) (node : BitVec 12) (incarnation : BitVec 16) (s : State) : Result :=
  if !(s.hub.ports[p]).up then .next s.stall
  else match s.meet node incarnation with
    | none => .next (s.dropFlit p)
    | some s =>
      let enter := fun (v : Bool) (l : List ((Bool × BitVec 12) × BitVec 32)) =>
        putKey (v, node) ((lookupKey (v, node) l).getD 0 ||| (1 <<< p.val)) l
      .next { s with hub := { s.hub with nodePorts := enter true (enter false s.hub.nodePorts) } }

end Sys2Proof.Machine
end

