-- ==== Sys2Proof/Machine/Reels.lean ====
section
/-! DEFINITION. Reels (R337-R353): the feeder's sequence and loads, trains, SEAMs and swaps, the state of stages, and the
instructions of major 0xB0 (R355-R359). -/

namespace Sys2Proof.Machine

/-! The sequence of a slot (R338). -/

/-- Stages that a slot runs in one train. -/
def Reel.perTrain (f : Reel) (slot : Nat) : Nat := (f.stages - 1 - slot) / f.b + 1

/-- The n-th stage that a slot loads after `scroll`, from 0; after the last the empty configuration, then nothing (R338,
R345). -/
def Reel.stageAt (f : Reel) (slot n : Nat) : Option (Option Nat) :=
  let c := f.perTrain slot
  if n < f.trains * c then some (some (slot + f.b * (n % c))) else if n = f.trains * c then some none else none

/-- Address of a tile's state of a stage (R350). -/
def Reel.stateAt (f : Reel) (b : TileReel) (stage : Nat) : Nat := f.stateBase + (stage * f.h * f.w + b.row * f.w + b.col) * f.tstate

/-- The pieces of a tile's declared ranges, laid end to end in the state area (R350). -/
def statePieces (va : Nat) : List (Nat × Nat) → List Piece
  | [] => []
  | (start, count) :: rest =>
    if count = 0 then statePieces va rest else (16 * start, va, 16 * count) :: statePieces (va + 16 * count) rest

/-- The tiles of a slot, row by row. -/
def Region.slotTiles (r : Region) (f : Reel) (slot : Nat) : List TileId :=
  (List.range f.h).flatMap fun i => (List.range f.w).map fun j => r.slotTile f slot i j

/-- The tiles of the band. -/
def Region.bandTiles (r : Region) (f : Reel) : List TileId := (List.range f.b).flatMap (r.slotTiles f)

/-! Reel faults (R344, R389). -/

/-- A fault that the feeder meets, with what its rule gives of the entry; what it does not give is a free value (log entry
3). -/
def State.reelFault (s : State) (r : Region) (cause : BitVec 8) (place : BitVec 32) (header : Option Word) (index : Option Nat) : State :=
  let (info, s) := match header with
    | some h => (h, s)
    | none => s.freeWord
  let (loc, s) := match index with
    | some i => (BitVec.ofNat 64 i, s)
    | none => s.freeWord
  s.regionFault r.number ⟨cause, 3, place, info, loc, 0⟩

/-- What stops the feeder: it waits, asks for a line of another package, or has met a fault. -/
def State.feederStopped (s : State) (r : Region) : LoadStop → State
  | .wait => s.stall
  | .ask line node rva page => s.askLine r.owner line node rva page
  | .fault c place header index => s.reelFault r c place header index

/-! The band in reel mode (R339, R340). -/

/-- An untyped sink of one lane with a number of slots. -/
def reelSink (slots : Nat) : SinkCfg := ⟨true, 1, slots, none, none, .rne, 0⟩

/-- Sinks 24-31 of both copies set to what the reel lays there: a capacity, or nothing. -/
def Settings.reserve (c : Settings) (caps : Nat → Nat) : Settings :=
  { c with sinks := Vector.ofFn fun (k : Fin 64) =>
      if 24 ≤ k.val && k.val < 32 then (if caps k.val = 0 then ⟨false, 1, 0, none, none, .rne, 0⟩ else reelSink (caps k.val)) else c.sinks[k] }

/-- The capacity of a reel circuit that ends at a sink of a band tile (R340). -/
def Reel.capAt (f : Reel) (b : TileReel) (k : Nat) : Nat :=
  if k = 31 then (if b.slot = 0 && b.row = 0 && b.col = 0 then 15 else 0)
  else if k = 30 then (if b.row = 0 && b.col = 0 then 15 else 0)
  else match f.arcs[k - 24]? with
    | some a => if b.row = a.drow && b.col = a.dcol then a.slots else 0
    | none => 0

/-- A tile put into reel mode (R339): half 1 is the shadow. -/
def TileReel.fresh (slot row col : Nat) : TileReel where
  slot := slot
  row := row
  col := col
  half := false
  stage := none
  ranges := []
  loading := none
  framesDone := false
  segments := []
  restoreDue := false
  restores := []
  nextRanges := []
  loads := []
  forwardReady := false
  seamsOwed := []
  swaps := 0
  heldSince := none
  lateBy := none
  toSave := []
  saves := []
  slotReq := none

/-- Whether a tile has an ENABLED context, or a configured channel or operator (R344). -/
def Tile.inUse (x : Tile) : Bool :=
  x.cfg.ctxs.toList.any (·.enable) || x.cfg.switch.toList.any (·.valid) || x.cfg.sinks.toList.any (·.valid) ||
    x.cfg.ops.toList.any (·.valid)

/-- Whether the shape keeps R337 and R344: the band's limits, one die, inside the region. -/
def Reel.shapeOk (f : Reel) (r : Region) : Bool :=
  decide (2 ≤ f.b ∧ f.b ≤ 40 ∧ 1 ≤ f.h ∧ f.h ≤ 40 ∧ 1 ≤ f.w ∧ f.w ≤ 80 ∧ f.b * f.h ≤ 40 ∧
    f.b * f.h ≤ r.launch.rows ∧ f.w ≤ r.launch.cols) && r.dies.length == 1

/-- `scroll` takes effect (R339, R344): the band enters reel mode; the feeder's reads follow. Bits 95:48 of BANKS that a tile's copies
hold from before name no bank of it any more (DESIGN CHOICE, log entry 113). A shape that does not fit is reported with the place of the
tile that issued `scroll` (DESIGN CHOICE, log entry 120). -/
def State.startReel (s : State) (r : Region) (f : Reel) : State :=
  let bad := if f.shapeOk r then (r.bandTiles f).find? fun t => (s.tile t).inUse else some s.here
  match bad with
  | some t => s.reelFault r Cause.ill (r.placeOf t) none none
  | none =>
    let s := s.modRegion r.number fun r => { r with reel := some f }
    let tiles := (List.range f.b).flatMap fun j => (List.range f.h).flatMap fun i => (List.range f.w).map fun k => (j, i, k)
    (tiles.foldl (fun s p => s.modTile (r.slotTile f p.1 p.2.1 p.2.2) fun x =>
      { x with reel := some (.fresh p.1 p.2.1 p.2.2) }) s).retire

/-! What the feeder reads (R341-R344). -/

/-- The descriptor's fields put into a reel; none where one is outside its limits (R341). -/
def Reel.described (f : Reel) (v : Nat) : Option (Reel × Nat × Nat) :=
  let at' := fun (byte lo n : Nat) => natField v (8 * byte + lo) n
  let skeins := at' 0 0 56
  let base := at' 8 0 56
  let s := at' 32 0 32
  let tstate := at' 36 0 32
  let bytes := at' 40 0 32
  let wave := at' 44 0 32
  let narc := at' 52 0 32
  let arctab := at' 56 0 56
  if at' 0 56 8 ≠ 0 || at' 8 56 8 ≠ 0 || at' 16 56 8 ≠ 0 || at' 56 56 8 ≠ 0 || skeins % 32 ≠ 0 || base % 64 ≠ 0 ||
      s < f.b || 2 ^ 20 < s || tstate % 64 ≠ 0 || 0x30000 < tstate || bytes % 8 ≠ 0 || bytes < 8 || wave % 8 ≠ 0 ||
      at' 48 16 16 ≠ 0 || at' 48 6 6 ≠ 0 || 6 < narc || arctab % 8 ≠ 0 then none
  else some ({ f with
    skeins := skeins, stateBase := base, trainVa := at' 16 0 56, tstride := (BitVec.ofNat 64 (at' 24 0 64)).toInt
    stages := s, tstate := tstate, trainBytes := bytes, waveBytes := wave
    engine := ⟨at' 48 0 6 % 64, Nat.mod_lt _ (by decide)⟩, actr := ⟨at' 48 12 4 % 16, Nat.mod_lt _ (by decide)⟩ }, narc, arctab)

/-- An arc from its 8 bytes; none for a load fault (R343). -/
def Reel.arcOf (f : Reel) (v : Nat) : Option Arc :=
  let d := (BitVec.ofNat 8 (natField v 32 8)).toInt
  let a : Arc := ⟨natField v 40 4, d, natField v 26 6, natField v 19 7, natField v 13 6, natField v 6 7⟩
  let b : Int := f.b
  let ok := (decide (1 ≤ d) && decide (d ≤ b - 1)) || (decide (1 ≤ -d) && decide (-d ≤ b - 2))
  if natField v 44 20 ≠ 0 || natField v 0 6 ≠ 0 || a.slots = 0 || !ok || f.h ≤ a.srow || f.w ≤ a.scol || f.h ≤ a.drow || f.w ≤ a.dcol
  then none else some a

/-- A skein record (R342). -/
structure SkeinRec where
  frames : Nat
  nframes : Nat
  nseg : Nat
  decls : Nat

/-- A record from its 32 bytes; none for a load fault (R342). -/
def skeinOf (v : Nat) : Option SkeinRec :=
  let r : SkeinRec := ⟨natField v 0 56, natField v 64 32, natField v 96 32, natField v 128 56⟩
  if natField v 56 8 ≠ 0 || natField v 184 8 ≠ 0 || natField v 192 64 ≠ 0 || r.frames % 32 ≠ 0 || 2 ^ 20 < r.nframes ||
    2 ^ 20 < r.nseg || r.decls % 16 ≠ 0 then none else some r

/-- A fault of a format that names no frame; the entry's PLACE is 0 where no tile is named (R344, R389; DESIGN CHOICE, log entry 120). -/
def LoadStop.ill : LoadStop := .fault Cause.ill 0 none none

/-- The arcs read from the table (R343). -/
def State.readArcs (s : State) (r : Region) (f : Reel) (tab : Nat) : Nat → Except LoadStop (List Arc)
  | 0 => .ok []
  | n + 1 => match s.readArcs r f tab n with
    | .error e => .error e
    | .ok l => match s.imageBytes r none (tab + 8 * n) 8 with
      | .error e => .error e
      | .ok v => match f.arcOf v with
        | none => .error .ill
        | some a => .ok (l ++ [a])

/-- The record of a stage. -/
def State.readSkein (s : State) (r : Region) (f : Reel) (stage : Nat) : Except LoadStop SkeinRec :=
  match s.imageBytes r none (f.skeins + 32 * stage) 32 with
  | .error e => .error e
  | .ok v => match skeinOf v with
    | none => .error .ill
    | some k => .ok k

/-- The records of the first stages, which the feeder reads when `scroll` takes effect (R344). -/
def State.checkSkeins (s : State) (r : Region) (f : Reel) : Nat → Except LoadStop Unit
  | 0 => .ok ()
  | n + 1 => match s.checkSkeins r f n with
    | .error e => .error e
    | .ok _ => (s.readSkein r f n).map fun _ => ()

/-- Whether the accesses that the context of a `scroll` had issued before it have performed at package scope (R356). -/
def State.scrollFollows (s : State) (r : Region) (f : Reel) : Bool :=
  let ((row, col), k, n) := f.issuer
  let c := s.ctxAt (r.tileAt row col) k
  ({ c with stq := [], gq := c.gq.filter fun a => decide (a.id < n) } : Ctx).performed .pkg

/-- The feeder reads the descriptor, the arc table and the first records, and lays the reel's circuits (R340, R344, R356). -/
def State.layReel (s : State) (r : Region) (f : Reel) : Except LoadStop State :=
  if !s.scrollFollows r f then .error .wait else match s.imageBytes r none f.descriptor 64 with
  | .error e => .error e
  | .ok v => match f.described v with
    | none => .error .ill
    | some (f, narc, tab) => match s.readArcs r f tab narc with
      | .error e => .error e
      | .ok arcs =>
        let f := { f with arcs := arcs, laid := true, entryCredits := 15 }
        match s.checkSkeins r f f.b with
        | .error e => .error e
        | .ok _ =>
          let s := (s.modRegion r.number fun r => { r with reel := some f }).forgetLines r.owner
          let s := (r.bandTiles f).foldl (fun s t => s.modTile t fun x => match x.reel with
            | none => x
            | some b => { x with cfg := x.cfg.reserve (f.capAt b), cfgShadow := x.cfgShadow.reserve (f.capAt b) }) s
          .ok ((r.bandTiles f).foldl (fun s t => ([30, 24, 25, 26, 27, 28, 29] : List Nat).foldl (fun s e =>
            match s.reelSinkOf t e with
            | some (u, k) =>
              let cap := (s.tile u).cfg.capacity k
              s.modTile t (·.modSource e fun _ => ⟨cap, 0⟩)
            | none => s) s) s)

/-! Loads (R345). -/

/-- Whether a ROUTE frame, which has given these settings, names lanes 2 or 3, or endpoints that belong to the reel (R339). -/
def Frame.usesReel (f : Frame) (c : Settings) : Bool :=
  let group := f.unit % 32
  let ofReel := fun (k : Nat) => decide (24 ≤ k ∧ k < 32)
  let lanes := fun (dir lane width : Nat) => 1 ≤ dir && dir ≤ 4 && laneGroup lane width &&& 12 != 0
  f.kind == 2 && match f.unit / 32 with
    | 0 => (List.range 8).any fun k =>
      let w := c.switch[(8 * group + k) % 32]'(Nat.mod_lt _ (by decide))
      w.valid && (lanes w.inDir w.inLane w.width || lanes w.outDir w.outLane w.width || (w.inDir == 0 && ofReel w.inEp) ||
        (w.outDir == 0 && ofReel w.outEp))
    | 1 => (List.range 3).any fun k => ofReel (3 * group + k) && (c.sinkCfg (3 * group + k)).valid
    | _ => false

/-- A skein frame applied to the shadow copy of a band tile (R339, R342); none for a load fault. The sinks that belong to the reel
keep what it has laid. -/
def Tile.applySkein (x : Tile) (f : Frame) (last : Bool) : Option Tile :=
  if !f.shadow then none
  else match x.applyFrame f with
    | none => none
    | some y =>
      let c := y.cfgShadow
      let binds := last && f.kind == 4 && f.unit / 16 == 2 && (c.binds[ctxOf f.unit]).toList.any fun p => p == .output 30
      if f.usesReel c || binds || (f.kind == 2 && !c.conflictFree) then none
      else some { y with cfgShadow := { c with sinks := Vector.ofFn fun (k : Fin 64) =>
        if 24 ≤ k.val && k.val < 32 then x.cfgShadow.sinks[k] else c.sinks[k] } }

/-- The frames of a skein that name a tile, applied to it; a frame of any tile that breaks a rule is a load fault (R342,
R345). -/
def State.loadFrames (s : State) (r : Region) (f : Reel) (b : TileReel) (last : Bool) (va : Nat) : Nat → Tile → Except LoadStop Tile
  | 0, x => .ok x
  | n + 1, x => match s.loadFrames r f b last va n x with
    | .error e => .error e
    | .ok x => match s.imageBytes r (some n) (va + 32 * n) 32 with
      | .error e => .error e
      | .ok v =>
        let fr : Frame := BitVec.ofNat 256 v
        if fr.kind = 5 || !fr.shadow || f.h ≤ fr.row || f.w ≤ fr.col then .error (.fault Cause.ill 0 (some fr.header) (some n))
        else if fr.row ≠ b.row || fr.col ≠ b.col then .ok x
        else match x.applySkein fr last with
          | some y => .ok y
          | none => .error (.fault Cause.ill (placeWord (b.slot * f.h + b.row) b.col 0 0) (some fr.header) (some n))

/-- The segments of a skein that name a tile: what the feeder has to copy (R342, R345). -/
def State.loadSegments (s : State) (r : Region) (f : Reel) (b : TileReel) : Nat → Nat → Except LoadStop (List Piece)
  | 0, _ => .ok []
  | n + 1, va => match s.imageBytes r none va 16 with
    | .error e => .error e
    | .ok h =>
      let row := natField h 0 16
      let col := natField h 16 16
      let addr := natField h 32 32
      let len := natField h 64 32
      if natField h 96 32 ≠ 0 || len % 16 ≠ 0 || len = 0 || addr % 16 ≠ 0 || 0x30000 < addr + len || f.h ≤ row || f.w ≤ col then .error .ill
      else (s.loadSegments r f b n (va + 16 + len)).map fun l => if row = b.row && col = b.col then (addr, va + 16, len) :: l else l

/-- A tile's entry of a stage's declaration table; none for a load fault (R342). -/
def declOf16 (f : Reel) (v : Nat) : Option (List (Nat × Nat)) :=
  let ranges := (List.range 4).map fun k => (natField v (32 * k + 16) 14, natField v (32 * k) 14)
  let zero := (List.range 4).all fun k => natField v (32 * k + 30) 2 == 0 && natField v (32 * k + 14) 2 == 0
  if !zero || ranges.any (fun p => decide (0x3000 < p.1 + p.2)) || f.tstate < (ranges.foldl (fun n p => n + 16 * p.2) 0) then none
  else some ranges

/-- A tile's declared ranges of a stage. -/
def State.readDecl (s : State) (r : Region) (f : Reel) (b : TileReel) (k : SkeinRec) : Except LoadStop (List (Nat × Nat)) :=
  if k.decls = 0 then .ok []
  else match s.imageBytes r none (k.decls + 16 * (b.row * f.w + b.col)) 16 with
    | .error e => .error e
    | .ok v => match declOf16 f v with
      | none => .error .ill
      | some l => .ok l

/-- The tiles of a slot as a region of their own: a stage's circuits lie in its slot (log entry 97). -/
def Region.slotRegion (r : Region) (f : Reel) (slot : Nat) : Region :=
  { r with top := r.top + slot * f.h, launch := { r.launch with rows := f.h, cols := f.w } }

/-- Once every tile of a slot holds a stage's settings, loaded or in use, the first tile whose circuits break a rule, or of the region,
whose trees do, if any (R187, R230). A tile of another slot counts with what it has loaded, and is free until it has loaded its next stage. -/
def State.badStage (s : State) (r : Region) (f : Reel) (slot stage : Nat) : Option TileId :=
  let tiles := r.slotTiles f slot
  let held := fun (t : TileId) => (s.tile t).reel.any fun b => b.loading == some (some stage) || b.stage == some stage
  if !tiles.all held then none
  else
    let part := r.slotRegion f slot
    let takes := fun (b : TileReel) => b.loading == some (some stage) || (b.slot != slot && (b.loading.bind id).isSome)
    let v := (r.bandTiles f).foldl (fun s t =>
      if (s.tile t).reel.any takes then s.modTile t fun x => { x with cfg := x.cfgShadow } else s) s
    v.badCircuit r part (fun u => if part.encloses u then [(v.tile u).cfg] else s.copiesOf u)
      fun u => !part.encloses u && (s.tile u).reel.any (·.loading.isNone)

/-- The shadow copy as a stage's load finds it (R206). -/
def Tile.unpaired (x : Tile) : Tile := { x with cfgShadow := x.cfgShadow.unpaired }

/-- A tile's load of a stage begun: its frames applied, its segments and state still to be copied (R345). -/
def State.loadStage (s : State) (r : Region) (f : Reel) (t : TileId) (b : TileReel) (stage : Nat) : Except LoadStop State :=
  match s.readSkein r f stage with
  | .error e => .error e
  | .ok k => match s.readDecl r f b k with
    | .error e => .error e
    | .ok ranges => match s.loadFrames r f b (stage + 1 == f.stages) k.frames k.nframes (s.tile t).unpaired with
      | .error e => .error e
      | .ok x => match s.loadSegments r f b k.nseg (k.frames + 32 * k.nframes) with
        | .error e => .error e
        | .ok segs =>
          let u := (s.setTile t { x with reel := some { b with
            loading := some (some stage), framesDone := true, segments := segs, restoreDue := ranges.any fun p => p.2 != 0
            restores := [], nextRanges := ranges, loads := [] } }).forgetLines r.owner
          match u.badStage r f b.slot stage with
          | some t => .error (.fault Cause.ill (r.placeOf t) none none)
          | none => .ok u

/-- The empty configuration loaded (R345). -/
def Tile.loadEmpty (x : Tile) (f : Reel) (b : TileReel) : Tile :=
  { x with cfgShadow := Settings.cleared.reserve (f.capAt b)
           reel := some { b with loading := some none, framesDone := true, segments := [], restoreDue := false, restores := [],
                                 nextRanges := [], loads := [] } }

/-- Whether a transfer has read all of its source: no element is left. -/
def State.allRead (s : State) (id : Word) : Bool :=
  match s.xferOf id with
  | none => true
  | some x => x.st == .done || decide (x.desc.units ≤ x.pos)

/-- Whether a transfer of the feeder has ended DONE; one that has been forgotten had (R345). -/
def State.xferDone (s : State) (id : Word) : Bool := ((s.xferOf id).map fun x => x.st == .done).getD true

/-- What the feeder can do next for a tile's load, if anything (R345, R348): begin it, once the tile's save has read every
declared byte, or ask for the next segment, or for a slot for it (R247). The load of the empty configuration is then done (DEDUCED, log
entry 112). -/
def State.loadAction (s : State) (r : Region) (f : Reel) (t : TileId) : Option (Except LoadStop State) :=
  match (s.tile t).reel with
  | none => none
  | some b => match b.loading with
    | none => match f.stageAt b.slot b.swaps with
      | none => none
      | some next => if !b.toSave.isEmpty || !b.saves.all s.allRead then none else some (match next with
        | some stage => s.loadStage r f t b stage
        | none => .ok (s.modTile t fun x => x.loadEmpty f b))
    | some _ => match b.segments with
      | [] => none
      | p :: rest => match s.acceptPiece t 0 .load true false (b.swaps + 1) p with
        | some (id, u) => some (.ok (u.modTile t fun x => { x with reel := x.reel.map fun b => { b with segments := rest, loads := b.loads ++ [id] } }))
        | none => if b.slotReq.isSome then none else some (.ok (s.askPiece t 0 .load))

/-- Whether the feeder runs: its region runs, and no pre-emption holds it (R391). -/
def Region.feeds (r : Region) : Bool := r.phase == .running

/-- FEEDER_LOAD (R344, R345): the feeder reads the descriptor and lays the reel, or goes on with a load of a slot. -/
def execFeederLoad (n slot : Nat) (s : State) : Result :=
  match s.region n with
  | none => .next s.stall
  | some r => match r.reel with
    | none => .next s.stall
    | some f =>
      if !r.feeds || f.b ≤ slot then .next s.stall
      else
        let act := if f.laid then (r.slotTiles f slot).findSome? (s.loadAction r f) else some (s.layReel r f)
        match act with
        | none => .next s.stall
        | some (.ok s) => .next s
        | some (.error e) => .next (s.feederStopped r e)

/-- Pieces of a tile's save, of its restore, or of a context's copy asked for. -/
def State.copyPieces (s : State) (t : TileId) (save : Bool) : State :=
  (List.finRange 4).foldl (fun s k => match (s.ctxAt t k).wait with
    | .copy _ out _ none _ => if out = save then s.copyStep t k else s
    | _ => s) s

/-- STATE_SAVE (R350): the feeder asks for the next range of the old stage's state, from the shadow half; a `stsave` that
waits for a slot goes on. -/
def execStateSave (t : TileId) (s : State) : Result :=
  let u := s.copyPieces t true
  match (u.tile t).reel with
  | none => .next s.stall
  | some b => match b.toSave with
    | [] => .next (if u = s then s.stall else u)
    | p :: rest => match u.acceptPiece t 0 .save true true 0 p with
      | none =>
        let v := u.askPiece t 0 .save
        .next (if v = s then s.stall else v)
      | some (id, u) => .next (u.modTile t fun x => { x with reel := x.reel.map fun b => { b with toSave := rest, saves := b.saves ++ [id] } })

/-- STATE_RESTORE (R350): after the stage's segments, and once the save of the stage's previous run has performed, the feeder asks
for the next range of the stage's state; a `stload` that waits for a slot goes on. -/
def execStateRestore (t : TileId) (s : State) : Result :=
  let u := s.copyPieces t false
  let stuck := if u = s then s.stall else u
  match (u.tile t).reel, u.regionOf t with
  | some b, some r => match b.loading, r.reel with
    | some (some stage), some f =>
      let pieces := if b.restoreDue then statePieces (f.stateAt b stage) b.nextRanges else b.restores
      let may := b.segments.isEmpty && (!b.restoreDue || (b.loads.all u.xferDone && b.stage != some stage && b.toSave.isEmpty && b.saves.all u.xferDone))
      if !may then .next stuck
      else match pieces with
        | [] => .next stuck
        | p :: rest => match u.acceptPiece t 0 .load true false (b.swaps + 1) p with
          | none =>
            let v := u.askPiece t 0 .load
            .next (if v = s then s.stall else v)
          | some (id, u) => .next (u.modTile t fun x => { x with reel := x.reel.map fun b =>
              { b with restoreDue := false, restores := rest, loads := b.loads ++ [id] } })
    | _, _ => .next stuck
  | _, _ => .next stuck

/-! Trains (R346). -/

/-- An entry appended to the entry circuit, as a packet (R340). -/
def State.appendEntryCircuit (s : State) (r : Region) (f : Reel) (word : Nat) (kind : BitVec 4) (next : Reel → Reel) : State :=
  let s := s.sendWord (r.slotTile f 0 0 0) 31 ⟨BitVec.ofNat 256 word, kind, .channel⟩
  s.modRegion r.number fun r => { r with reel := r.reel.map fun f => next { f with entryCredits := f.entryCredits - 1 } }

/-- FEEDER_TRAIN_APPEND (R346): the next word, EOI or SEAM of the trains, on a credit of the entry circuit. -/
def execFeederTrainAppend (n : Nat) (s : State) : Result :=
  match s.region n with
  | none => .next s.stall
  | some r => match r.reel with
    | none => .next s.stall
    | some f =>
      if !r.feeds || !f.laid || f.trains ≤ f.train || f.entryCredits = 0 then .next s.stall
      else match f.trainTail with
        | 0 =>
          let va : Int := (f.trainVa : Int) + f.train * f.tstride + f.trainPos
          let read := if va < 0 then .error (.fault Cause.xlate 0 none none) else s.imageBytes r none va.toNat 8
          match read with
          | .error e => .next (s.feederStopped r e)
          | .ok v =>
            let pos := f.trainPos + 8
            let eoi := pos == f.trainBytes || (f.waveBytes != 0 && pos % f.waveBytes == 0)
            .next ((s.appendEntryCircuit r f v Kind.data fun f => { f with trainPos := pos, trainTail := if eoi then 1 else 0 }).forgetLines r.owner)
        | 1 => .next (s.appendEntryCircuit r f 0 Kind.eoi fun f => { f with trainTail := if f.trainPos = f.trainBytes then 2 else 0 })
        | _ => .next (s.appendEntryCircuit r f 0 Kind.seam fun f => { f with train := f.train + 1, trainPos := 0, trainTail := 0 })

/-! SEAMs and swaps (R347, R348). -/

/-- Whether a sink is sealed: a SEAM stands at its head (R347). -/
def Tile.sealed (x : Tile) (k : Nat) : Bool :=
  let y := x.sink k
  y.queue.isEmpty && (y.held.head?.map fun e => e.kind == Kind.seam).getD false

/-- Sinks that the active TILECFG binds to ports. -/
def Settings.boundSinks (c : Settings) : List Nat :=
  c.binds.toList.flatMap fun b => b.toList.filterMap fun p => match p with
    | .input k => some k
    | _ => none

/-- Source endpoints that are bound to ports, by TILECFG or by a program (R173, R201). -/
def Tile.boundSources (x : Tile) : List Nat :=
  (x.ctxs.toList.flatMap fun c => c.ports.toList.filterMap fun p => match p with
    | .output k => some k
    | _ => none).dedup

/-- Inputs of the tile's operators. -/
def Settings.opInputs (c : Settings) : List Nat := c.opList.flatMap fun o => (List.range (c.ops[o]).kind.inputs).map (opSink o)

/-- Whether a sink of a band tile ends a backward arc. -/
def Reel.backward (f : Reel) (b : TileReel) (k : Nat) : Bool :=
  decide (24 ≤ k) && match f.arcs[k - 24]? with
    | some a => decide (a.dist < 0) && b.row == a.drow && b.col == a.dcol
    | none => false

/-- The train sink of an entry tile (R340). -/
def TileReel.trainSink (b : TileReel) : List Nat :=
  if b.row = 0 && b.col = 0 then [if b.slot = 0 && b.stage = some 0 then 31 else 30] else []

/-- The inputs whose SEAMs make a tile forward-ready (R347). -/
def Tile.forwardInputs (x : Tile) (f : Reel) (b : TileReel) : List Nat :=
  (x.cfg.boundSinks.filter fun k => !f.backward b k) ++ x.cfg.opInputs ++ b.trainSink

/-- No access, transfer, stream, matrix run, `mmav` or drain of the tile is outstanding (R347, R359). -/
def State.nothingOut (s : State) (t : TileId) : Bool :=
  let x := s.tile t
  x.ctxs.toList.all (fun c => c.gq.isEmpty) &&
  !(s.xfers.any fun y => y.tile == t && y.kind != .load && y.kind != .save && y.live) &&
  x.agens.toList.all (fun a => a.st != .running && a.flight.isEmpty) && !x.matrix.run && !x.matrix.busy && !x.matrix.drain

/-- Every context is PARKED or DISABLED with no task eligible, nothing is outstanding and no spindle set is in use (R347). -/
def State.quiet (s : State) (t : TileId) : Bool :=
  let x := s.tile t
  (List.finRange 4).all (fun k => (x.ctxs[k]).run == .disabled || ((x.ctxs[k]).run == .parked && (List.finRange 16).all fun i => !x.taskReady k i)) &&
  s.nothingOut t &&
  x.spins.toList.all fun p => p.result.isNone && p.even.nlocal == 0 && p.even.nchild == 0 && p.odd.nlocal == 0 && p.odd.nchild == 0

/-- Whether the entry tile of a slot has swapped out of the stage that a tile runs, and so has sent its SEAM down the feed
lane (R347, R348). -/
def State.feedSeam (s : State) (r : Region) (f : Reel) (b : TileReel) : Bool :=
  match (s.tile (r.slotTile f b.slot 0 0)).reel with
  | some e => decide (b.swaps < e.swaps)
  | none => false

/-- Outputs on which a forward-ready tile appends a SEAM (R348): every bound source, whether or not its channel is complete yet, and every
operator output that has a channel. -/
def State.seamOutputs (s : State) (t : TileId) (f : Reel) (b : TileReel) : List Nat :=
  let x := s.tile t
  let c := x.cfg
  let ops := (c.opList.flatMap fun o => (List.range (c.ops[o]).outputs).map (opSource o)).filter fun e => (c.entryOfSource e).isSome
  let exit := if b.row + 1 = f.h && b.col = 0 && b.stage ≠ some (f.stages - 1) && !x.boundSources.contains 30 then [30] else []
  x.boundSources ++ ops ++ exit

/-- Whether a SEAM can enter the channel of an output: the channel is complete, and there is a credit. -/
def State.seamGoes (s : State) (t : TileId) (e : Nat) : Bool :=
  decide (0 < ((s.tile t).source e).credits) && ((s.sinkOf t e).isSome || (s.hub.circuitOfSource t e).isSome)

/-- SEAMs appended on the outputs that still owe one and have a credit. -/
def State.sendSeams (s : State) (t : TileId) (owed : List Nat) : State :=
  let can := owed.filter (s.seamGoes t)
  let s := can.foldl (fun s e => s.emit t e 0 Kind.seam) s
  s.modTile t fun x => { x with reel := x.reel.map fun b => { b with forwardReady := true, seamsOwed := owed.filter fun e => !can.contains e } }

/-- FORWARD_READY (R347, R348): a tile whose train has passed appends a SEAM to each output; one that waited for a credit
follows when it comes. -/
def execForwardReady (t : TileId) (s : State) : Result :=
  let x := s.tile t
  match x.reel, s.regionOf t with
  | some b, some r => match r.reel with
    | none => .next s.stall
    | some f =>
      if r.phase ≠ .running || x.snapped || b.stage.isNone then .next s.stall
      else if b.forwardReady then
        .next (if b.seamsOwed.any (s.seamGoes t) then s.sendSeams t b.seamsOwed else s.stall)
      else
        let ins := x.forwardInputs f b
        if (if ins.isEmpty then s.feedSeam r f b else ins.all x.sealed) && s.quiet t then .next (s.sendSeams t (s.seamOutputs t f b))
        else .next s.stall
  | _, _ => .next s.stall

/-- Whether a tile is loaded (R345). -/
def State.loaded (s : State) (b : TileReel) : Bool :=
  b.loading.isSome && b.framesDone && b.segments.isEmpty && !b.restoreDue && b.restores.isEmpty && b.loads.all s.xferDone

/-- Whether a tile is ready (R347, R348): before its first swap it has nothing to wait for. -/
def State.swapReady (s : State) (t : TileId) (f : Reel) (b : TileReel) : Bool :=
  b.stage.isNone || (b.forwardReady && s.quiet t &&
    ((s.tile t).cfg.boundSinks.filter (f.backward b)).all (s.tile t).sealed)

/-- The drain of R160: every queued scratch store has performed and every outstanding register write has landed. -/
def Tile.drained (x : Tile) : Bool :=
  x.ctxs.toList.all fun c => c.stq.isEmpty && c.landing.all fun p => decide (p.2 ≤ x.cycle.toNat)

/-- An index of the poisoned words, after the stores have been exchanged. -/
def otherStore (i : Nat) : Nat := if i < 2048 then i + 2048 else i - 2048

/-- What stands before a sink across a swap: what is held behind a SEAM, and what waits for a converter that the new settings do not
have, arrives anew. -/
def Sink.swapped (y : Sink) (typed : Bool) : Sink :=
  { y with held := y.held.take 1
           convIn := if typed then y.convIn else []
           convPos := if typed then y.convPos else 0
           inflight := y.held.drop 1 ++ (if typed then [] else y.convIn) ++ y.inflight }

/-- The copies exchanged, and what a swap does to the units (R351). -/
def Tile.exchange (x : Tile) : Tile :=
  let x := { x with store := x.storeShadow, storeShadow := x.store, storeBad := x.storeBad.map otherStore
                    cfg := x.cfgShadow.unpaired, cfgShadow := x.cfg.unpaired
                    sinks := x.sinks.map fun (p : Nat × Sink) => (p.1, p.2.swapped (x.cfgShadow.sinkCfg p.1).typed) }
  { x.joined with
    ctxs := Vector.ofFn fun k => x.ctxs[k].configured x.cfg k
    counters := Vector.ofFn fun (g : Fin 16) => { x.counters[g] with decl := declOf x.cfg.beacon[g] }
    matrix := { x.matrix with owner := x.cfg.matrixOwner }
    agens := Vector.replicate 4 .idle
    spins := Vector.replicate 4 .cleared }

/-- A tile's copies exchanged; a counter whose declared rate changes sends a beacon (R238, R240). -/
def State.exchangeTile (s : State) (t : TileId) : State :=
  let was := (s.tile t).counters
  let s := s.modTile t Tile.exchange
  (List.finRange 16).foldl (fun s g => if ((s.tile t).counters[g]).decl = (was[g]).decl then s else s.sendBeacon t g none) s

/-- The SEAM at a sink's head removed; what was held behind it arrives anew (R348). -/
def State.dropSeam (s : State) (t : TileId) (k : Nat) : State :=
  match ((s.tile t).sink k).held with
  | e :: rest =>
    if e.kind = Kind.seam then
      let s := s.modTile t (·.modSink k fun y => { y with held := [], inflight := rest ++ y.inflight })
      if e.origin = .channel then s.returnCredits t k 1 else s
    else s
  | [] => s

/-- Whether a circuit from a switch entry passes a tile. -/
def State.passes (s : State) : Nat → TileId → SwitchCfg → TileId → Bool
  | 0, _, _, _ => false
  | fuel + 1, u, w, t =>
    if u = t then true
    else if w.outDir = 0 || w.outDir = 5 then false
    else
      let v := neighbour u w.outDir
      match (s.tile v).cfg.switch.toList.find? fun e => e.valid && e.inDir == opposite w.outDir && e.inLane == w.outLane with
      | none => false
      | some e => State.passes s fuel v e t

/-- Sources of the slot's tiles whose channels a swap of one tile has completed or cut: a channel of the new configuration
starts with its capacity in credits, one that is not complete with none (log entry 27). -/
def State.slotCredits (s : State) (r : Region) (f : Reel) (b : TileReel) (t : TileId) : State :=
  (r.slotTiles f b.slot).foldl (fun s u =>
    let c := (s.tile u).cfg
    let srcs := c.entries.filterMap fun w =>
      if w.inDir = 0 then some (w.inEp, w) else if w.inDir = 5 then some (32 + w.inEp, w) else none
    srcs.foldl (fun s p =>
      if s.passes maxHops u p.2 t then
        let cap := match s.followOut maxHops u p.2 with
          | some (v, k) => (s.tile v).cfg.capacity k
          | none => 0
        s.modTile u (·.modSource p.1 fun _ => ⟨cap, 0⟩)
      else s) s) s

/-- The lowest id among the unfinished transfers of a slot's load for a swap, or 0 (R349). -/
def State.lowestLoad (s : State) (r : Region) (f : Reel) (slot n : Nat) : Word :=
  let loads := (r.slotTiles f slot).flatMap fun t => match (s.tile t).reel with
    | some b => if b.swaps + 1 = n then b.loads else []
    | none => []
  (loads.filter fun id => ((s.xferOf id).map fun x => !x.ended).getD false).foldl (fun m id => if m = 0 || id.toNat < m.toNat then id else m) 0

/-- A ready tile that is not loaded is held; where it is its slot's entry tile and the first of the slot to be held for the
swap, a scroll-rate LATE is recorded, whose CYCLES the swap writes (R349). -/
def State.holdReady (s : State) (t : TileId) (r : Region) (f : Reel) (b : TileReel) : State :=
  let n := b.swaps + 1
  let first := !f.heldSwap.contains (b.slot, n)
  -- a swap that every tile of its slot has made is remembered no more
  let open' := f.heldSwap.filter fun p => (r.slotTiles f p.1).any fun u => (s.tile u).reel.any fun c => decide (c.swaps < p.2)
  let s := s.modRegion r.number fun r => { r with reel := r.reel.map fun (f : Reel) => { f with
    heldSwap := if first then open' ++ [(b.slot, n)] else open' } }
  let late := first && b.row == 0 && b.col == 0
  let mark := BitVec.ofNat 48 n
  let s := s.modTile t fun x => { x with reel := x.reel.map fun b => { b with
    heldSince := some x.cycle.toNat, lateBy := if late then some (x.recorder f.actr, mark) else none } }
  if late then s.recordLate t f.actr 0 mark (s.lowestLoad r f b.slot n) else s

/-- CYCLES of an event entry, in its first word (R259). -/
def EventEntry.setCycles (e : EventEntry) (n : Nat) : EventEntry :=
  { e with w0 := BitVec.ofNat 64 (e.w0.toNat / 2 ^ 32 * 2 ^ 32 + min n (2 ^ 32 - 1)) }

/-- The CYCLES of a tile's scroll-rate LATE written at its swap (R349). -/
def State.writeHeldCycles (s : State) (t : TileId) (f : Reel) (b : TileReel) : State :=
  match b.lateBy, b.heldSince with
  | some (k, mark), some since =>
    let n := (s.tile t).cycle.toNat - since
    let mine := fun (e : EventEntry) => e.w1 == mark.zeroExtend 64 && field e.w0 52 4 == f.actr.val && field e.w0 0 32 == 0
    s.modCtx t k fun c => { c with events := c.events.map fun e => if mine e then e.setCycles n else e }
  | _, _ => s

/-- The swap of a tile (R348, R351). A slot that then has no next stage, and nothing to save, is loaded at once with the empty
configuration (R345; log entry 112). -/
def State.swapTile (s : State) (t : TileId) (r : Region) (f : Reel) (b : TileReel) : State :=
  let x := s.tile t
  let seams := if b.stage.isNone then [] else x.forwardInputs f b ++ x.cfg.boundSinks.filter (f.backward b)
  let s := s.writeHeldCycles t f b
  let s := seams.foldl (fun s k => s.dropSeam t k) s
  let s := s.exchangeTile t
  let stage := b.loading.getD none
  let save := match b.stage with
    | some st => statePieces (f.stateAt b st) b.ranges
    | none => []
  let s := s.modTile t fun x => { x with reel := some { b with
    half := !b.half, stage := stage, ranges := b.nextRanges, loading := none, framesDone := false, segments := []
    restoreDue := false, restores := [], nextRanges := [], loads := [], forwardReady := false, seamsOwed := []
    swaps := b.swaps + 1, heldSince := none, lateBy := none, toSave := save } }
  let s := if f.stageAt b.slot (b.swaps + 1) = some none && save.isEmpty && b.saves.all s.allRead then s.modTile t fun x => match x.reel with
    | some b => x.loadEmpty f b
    | none => x else s
  let s := s.slotCredits r f b t
  if b.row = 0 && b.col = 0 then
    let g := f.actr
    let was := ((s.tile t).counters[g]).value
    let v := BitVec.ofNat 48 (min (was.toNat + 1) (2 ^ 48 - 1))
    ((s.setCounter t g v true).reachMarks t g was).sendBeacon t g none
  else s

/-- REEL_SWAP (R347-R351): a ready and loaded tile drains, waits until its SEAMs have entered their channels, and swaps; a ready one that
is not loaded is held. A stage whose circuits or trees break a rule, by frames that CFG tokens have brought since it was loaded, is a
load fault there (R187, R230; log entry 97). -/
def execReelSwap (t : TileId) (s : State) : Result :=
  let x := s.tile t
  match x.reel, s.regionOf t with
  | some b, some r => match r.reel with
    | none => .next s.stall
    | some f =>
      if r.phase ≠ .running || x.snapped || !f.laid || !s.swapReady t f b then .next s.stall
      else if !s.loaded b then
        .next (if b.stage.isSome && b.heldSince.isNone then s.holdReady t r f b else s.stall)
      else if !x.drained || !b.seamsOwed.isEmpty then .next s.stall
      else match (b.loading.bind id).bind (s.badStage r f b.slot) with
        | some u => .next (s.reelFault r Cause.ill (r.placeOf u) none none)
        | none => .next (s.swapTile t r f b)
  | _, _ => .next s.stall

/-! The instructions of major 0xB0. -/

/-- Whether a tile lies in a band of a shape. -/
def Region.inBand (r : Region) (b h w : Nat) (t : TileId) : Bool := decide ((r.relative t).1 < b * h ∧ (r.relative t).2 < w)

/-- `scroll` (R356): it completes at once; the feeder's reads come after the context's accesses so far. -/
def execScroll (g : Guard) (o : FmtQ) (s : State) : Result :=
  .next (s.issue g (·.afterStoreFault fun s =>
    let a := s.getS o.s1
    let v := (s.getS o.s2).toNat
    let b := natField v 13 6
    let h := natField v 7 6
    let w := natField v 0 7
    match s.regionOf s.here with
    | none => s.stall
    | some r =>
      if a.toNat % 64 ≠ 0 then
        let (info, s) := s.freeWord
        s.trapAt a Cause.align info
      else if natField v 52 12 ≠ 0 || natField v 19 13 ≠ 0 || natField v 32 20 = 0 || r.inBand b h w s.here || r.reel.isSome then
        s.trapOpen Cause.chan
      else s.startReel r
        { descriptor := a.toNat, laid := false, skeins := 0, stateBase := 0, trainVa := 0, tstride := 0, stages := 0, tstate := 0
          trainBytes := 0, waveBytes := 0, engine := 0, actr := 0, arcs := [], b := b, h := h, w := w, trains := natField v 32 20
          issuer := (r.relative s.here, s.ctx, s.cur.nextAcc), heldSwap := [], train := 0, trainPos := 0, trainTail := 0, entryCredits := 0 }))

/-- `scroll.q` (R356); before any `scroll` it reads no trains (DEDUCED). -/
def execScrollQ (g : Guard) (o : FmtQ) (s : State) : Result :=
  .next (s.issue g fun s =>
    let f := (s.regionOf s.here).bind (·.reel)
    let stage := ((s.curTile.reel).bind (·.stage)).getD 0x1FFFFF
    s.writeS o.d (BitVec.ofNat 64 (((f.map (·.trains)).getD 0) * 2 ^ 44 + ((f.map (·.train)).getD 0) * 2 ^ 24 + stage)))

/-- `stsave` or `stload` (R357); sys.einfo of its ILL is open (log entry 3). -/
def State.copyOp (s : State) (o : FmtQ) (save : Bool) : State :=
  match s.curTile.reel, (s.regionOf s.here).bind (·.reel) with
  | some b, some f =>
    let pieces := match b.stage with
      | some st => statePieces (f.stateAt b st) b.ranges
      | none => []
    (s.modCur fun c => { c with wait := .copy o.d save pieces none 0 }).copyStep s.here s.ctx
  | _, _ => s.trapOpen Cause.ill

/-- `stsave` (R357). -/
def execStsave (g : Guard) (o : FmtQ) (s : State) : Result :=
  .next (s.issue g fun s => if s.curTile.reel.isSome && !s.cur.performed .tile then s.stall else s.copyOp o true)

/-- `stload` (R357). -/
def execStload (g : Guard) (o : FmtQ) (s : State) : Result := .next (s.issue g (·.copyOp o false))

/-- Bytes of scratch read as a load reads them, from one aligned address (R155, R163). -/
def State.readScratch (s : State) (a size : Nat) (put : Nat → State → State) : State :=
  let x := s.curTile
  match x.scratchCheck s.ctx size size 0 [a] with
  | some (_, b, cause) => s.trapAt (BitVec.ofNat 64 b) cause 0
  | none => if x.scratchPoison s.ctx a size then s.trapAt (BitVec.ofNat 64 a) Cause.poison 0
    else s.afterAcquire (put (x.scratchRead s.ctx a size))

/-- `cfgw` (R358). -/
def execCfgw (g : Guard) (o : FmtQ) (s : State) : Result :=
  .next (s.supervised fun s => s.issue g fun s => s.readScratch (s.getS o.s1).toNat 32 fun v s =>
    match s.cur.port o.port, s.writePort s.here s.ctx o.port with
    | .output _, some (room, b, _) =>
      if s.cur.viaHeld o.port || s.curTile.forwardPort s.ctx o.port then s.trapOpen Cause.chan
      else if s.curTile.drainPort s.ctx o.port || room < 32 / b then s.stall
      else (s.putPort s.here s.ctx o.port ((List.range (32 / b)).map fun i =>
        (BitVec.ofNat 256 (natField v (8 * b * i) (8 * b)), Kind.cfg))).retire
    | _, _ => s.trapChan o.port.toNat)

/-- Entries that a forced swap discards: those of port queues and of join queues (R359). -/
def Tile.entriesHeld (x : Tile) : Nat :=
  x.sinks.foldl (fun n p => n + p.2.queue.length) 0 +
  x.agens.toList.foldl (fun n a => n + a.queue.length + a.taken.length) 0 +
  x.ctxs.toList.foldl (fun n c => c.startQ.toList.foldl (fun n q => n + q.length) n) 0

/-- A sink as a forced swap leaves it: what has not reached its queue stays. -/
def Sink.emptied (k : Sink) : Sink := { k with queue := [], asked := false }

/-- The credits of every channel whose sink lies in a tile reset to its capacity (R359). -/
def State.resetCredits (s : State) (t : TileId) : State :=
  (List.range 64).foldl (fun s k => if !((s.tile t).cfg.sinkCfg k).valid then s else match s.sourceOf t k with
    | some (u, e) => s.modTile u (·.modSource e fun _ => ⟨(s.tile t).cfg.capacity k, 0⟩)
    | none => s) s

/-- Whether a tile can take its shadow copy: it is whole, and the region's circuits and trees are in order with it (R187, R230). -/
def State.swapTaken (s : State) (t : TileId) : Bool :=
  let x := s.tile t
  x.cfgShadow.conflictFree && x.cfgShadow.complete && match s.regionOf t with
    | none => true
    | some r => (s.setTile t { x with cfg := x.cfgShadow, cfgShadow := x.cfg }).swapFits r t

/-- `cfgswap` (R359). The settings that come into use have to be whole by then, and the region's circuits and trees to go on with them:
a breach of R187 or R230 is a load fault (log entry 97), whose entry but its cause and place is open, as is sys.einfo of its ILL (log
entry 3). A context that the new settings do not ENABLE becomes PARKED all the same where it is the issuing one (DESIGN CHOICE, log
entry 114). -/
def execCfgswap (g : Guard) (_ : FmtQ) (s : State) : Result :=
  .next (s.supervised fun s => s.issueJump g fun s =>
    let x := s.curTile
    let others := (List.finRange 4).all fun k => k == s.ctx || (x.ctxs[k]).run == .parked || (x.ctxs[k]).run == .disabled
    if x.reel.isSome then s.trapOpen Cause.ill
    else if !others || !s.nothingOut s.here || !x.drained then s.stall
    else if !s.swapTaken s.here then
      let (info, s) := s.freeWord
      s.loadFault s.here info
    else
      let n := x.discard.toNat + x.entriesHeld
      let s := s.modCurTile fun x => { x with
        discard := if 2 ^ 64 ≤ n then Word.ones else BitVec.ofNat 64 n
        sinks := x.sinks.map fun p => (p.1, p.2.emptied) }
      let s := (s.exchangeTile s.here).modCur fun c => { c with run := .parked, retired := c.retired + 1 }
      s.resetCredits s.here)

end Sys2Proof.Machine
end

