-- ==== Sys2Proof/Machine/Preempt.lean ====
section
/-! DEFINITION. Pre-emption (R390-R394): the snapshot of a tile, the end of a pause or an eviction, and the restore. -/

namespace Sys2Proof

/-- The bytes of a tile's part of a snapshot image, whose form the manual does not give (R393). Free value: log entry 50. -/
opaque Config.tileImage : Machine.Tile → List Byte

end Sys2Proof

namespace Sys2Proof.Machine

/-! The snapshot of a tile (R392). -/

/-- Sources of a tile that carry a channel to a sink of the package: endpoints, operator outputs, and those of the ring and of
arcs (R391). -/
def State.channelSources (s : State) (t : TileId) : List Nat :=
  let own := (s.tile t).cfg.entries.filterMap fun w =>
    if w.inDir = 0 then some w.inEp else if w.inDir = 5 then some (32 + w.inEp) else none
  (own ++ [24, 25, 26, 27, 28, 29, 30].filter fun e => !own.contains e).filter fun e => (s.sinkOf t e).isSome

/-- Whether a pool has still to perform an operation of a tile (R324). -/
def State.poolBusy (s : State) (t : TileId) : Bool := s.dies.toList.any fun d => d.poolQ.any fun o => o.tile == t

/-- Whether a request to another package is a read that the peer defers, which pre-emption purges (R296). -/
def RemoteReq.deferred (q : RemoteReq) : Bool := q.held && !q.writes

/-- Whether a request of a context is one that its snapshot still waits for: it has been sent and is no read that the peer defers. -/
def State.mustAnswer (s : State) (a : GAccess) : Bool :=
  match a.stage with
  | .sent _ rid => !s.hub.remote.any fun q => q.rid == rid && q.deferred
  | _ => false

/-- Whether the conditions of R392 hold: accepted accesses have performed, register writes have landed, scratch stores have
drained, no firing, `mmav`, pool operation or invalidation is under way, every element that a write stream has issued has performed, and every
partial that the region's sets have sent has arrived (R234). -/
def State.canSnapshot (s : State) (t : TileId) : Bool :=
  let x := s.tile t
  let inval := fun (c : Ctx) => match c.wait with
    | .inval _ => true
    | _ => false
  x.drained && x.ctxs.toList.all (fun c => !c.gq.any s.mustAnswer && !inval c) && !x.matrix.busy &&
  (((s.regionOf t).map Region.tiles).getD []).all (fun u => (s.tile u).spins.toList.all fun p => p.partials.isEmpty) &&
  !s.poolBusy t &&
  (List.finRange 4).all (fun g => (x.cfg.agen[g]).reads || (x.agen g).flight.isEmpty) &&
  !(s.hub.remote.any fun r => !r.deferred && match r.who with
    | .stream u _ => u == t
    | _ => false)

/-- A context at its snapshot: a read that a slice defers, for a word or for a bale, is left to issue again, accesses of the queue
translate afresh, a wait at a barrier or bale issues again (R296, R392), and what STEP would halt after it has not happened (R395). -/
def Ctx.snapshot (c : Ctx) : Ctx :=
  let purged := fun (a : GAccess) => a.kind.reads && match a.stage with
    | .deferred _ | .retry _ _ | .sent _ _ => true
    | _ => false
  let wait := match c.wait with
    | .access id => if c.gq.any fun a => a.id == id && purged a then Wait.none else c.wait
    | .pool | .bale _ _ | .commit _ _ => Wait.none
    | w => w
  { c with gq := (c.gq.filter fun a => !purged a).map fun a => { a with stage := .queued }
           utlb := [], wait := wait, slotReq := none
           stepDue := if c.wait != .none && wait == .none then none else c.stepDue }

/-- A generator at its snapshot: its entry goes (R285), and its reads under way are made again, from the first that has not completed
(R296). A write stream has none under way. -/
def Agen.snapshot (a : Agen) : Agen :=
  { a with leaf := none, walking := false, parts := [], spans := [], flight := [], pos := if a.flight.isEmpty then a.pos else a.completed }

/-- A tile at its snapshot. -/
def Tile.snapshot (x : Tile) : Tile :=
  { x with stopping := false, snapped := true, ctxs := x.ctxs.map Ctx.snapshot, agens := x.agens.map Agen.snapshot
           reel := x.reel.map fun b => { b with slotReq := none } }

/-- TILE_SNAPSHOT (R391, R392): at its first MARK, from a channel or from the scheduler, a tile stops; once what has issued is through,
it snapshots and appends MARK to every output that carries a channel. -/
def execTileSnapshot (t : TileId) (s : State) : Result :=
  if !s.pausing t || (s.tile t).snapped then .next s.stall
  else if !s.canSnapshot t then .next (if (s.tile t).stopping then s.stall else s.modTile t fun x => { x with stopping := true })
  else
    let outs := s.channelSources t
    let s := (s.dropWalkers [t] []).modTile t Tile.snapshot
    let s := { s with dies := s.dies.map fun (d : Die) => { d with poolWaits := d.poolWaits.filter fun o => o.tile ≠ t } }
    .next (outs.foldl (fun s e => s.launch t e ⟨0, Kind.mark, .direct⟩) s)

/-! The end of a pause or an eviction (R391). -/

/-- Whether a tile's part is complete: MARK has arrived on every input that carries a channel, and nothing is on its way from
the feeder. -/
def State.tilePart (s : State) (t : TileId) : Bool :=
  let x := s.tile t
  x.snapped && (List.range 64).all fun k =>
    !(x.cfg.sinkCfg k).valid ||
      (if (s.sourceOf t k).isSome then (x.sink k).marked else (s.hub.circuitOfSink t k).isSome || (x.sink k).inflight.isEmpty)

/-- Whether a region's transfers have let their packets land, but for reads that are deferred, or told to come again, which pre-emption
purges (R260, R296). -/
def State.enginesDone (s : State) (r : Region) : Bool :=
  let mine := fun (q : RemoteReq) (id : Word) => match q.who with
    | .place i => i == id
    | _ => false
  (s.xfers.filter fun x => x.region == r.number && x.gen == r.gen).all fun x =>
    x.packets.all (fun p => p.deferred || decide (s.dies[x.die].clock < p.again)) && !s.hub.remote.any fun q => mine q x.id && !q.deferred

/-- A transfer in the snapshot of its region: HELD and without a slot, its places' entries gone (R260, R285), and the reads that were
deferred to be made again, with those whose bytes wait for theirs (R296). -/
def Transfer.suspended (x : Transfer) : Transfer :=
  { x with st := if x.ended then x.st else .held, slot := none, srcLeaf := none, dstLeaf := none, walking := false
           asked := x.taken, got := [], packets := [], remote := [] }

/-- Coordinates in a tile's state moved by a map. -/
def Tile.moved (x : Tile) (f : TileId → TileId) : Tile :=
  let bank := fun (b : SpinBank) => { b with kids := b.kids.map fun k => (f k.1, k.2) }
  { x with spins := x.spins.map fun p => { p with
      even := bank p.even, odd := bank p.odd, result := p.result.map bank
      partials := p.partials.map fun q => { q with child := (f q.child.1, q.child.2) } } }

/-- The coordinate of a tile within its region, written as if the region began at the package's first tile. -/
def Region.toLocal (r : Region) (t : TileId) : TileId := Machine.tileAt (t.prow - r.top) (t.pcol - r.left)

/-- The tile of such a coordinate at the region's place. -/
def Region.ofLocal (r : Region) (t : TileId) : TileId := r.tileAt t.prow t.pcol

/-- The transfers of a region changed. -/
def State.mapXfers (s : State) (r : Region) (f : Transfer → Transfer) : State :=
  { s with xfers := s.xfers.map fun x => if x.region = r.number && x.gen = r.gen then f x else x }

/-- An ended transfer that nobody waits for is forgotten; its id names nothing after the restore (R260). -/
def State.forgetXfers (s : State) (r : Region) (keepCopies : Bool) : State :=
  { s with xfers := s.xfers.filter fun x => !(x.region == r.number && x.gen == r.gen && s.forgets x && !(keepCopies && x.kind == .copy)) }

/-- Bytes of a tile's save area (R390). -/
def saveBytes : Nat := 2 ^ 19

/-- A tile's part of a snapshot image: its content, in the implementation's own form, and its CRC-32 (R393; log entry 50). -/
def Tile.part (x : Tile) : List Byte :=
  let body := (Config.tileImage x).take (saveBytes - 4)
  body ++ (List.range 4).map fun i => byteOf (crc32 body).toNat i

/-- Bytes of HBM4E. -/
def Global.hbmBytes (g : Global) (pa n : Nat) : List Byte := (List.range n).map fun i => g.hbm.read (pa + i)

/-- A region's tiles written to its save area, 512 KiB for each, row by row (R390; log entry 50). -/
def State.writeImage (s : State) (saved : List ((Nat × Nat) × Tile)) (save : Nat) : State :=
  { s with mem := ((saved.map (·.2)).foldl (fun (m : Global × Nat) x =>
      let cells := (x.part.zip (List.range saveBytes)).map fun p => (m.2 + p.2, p.1)
      let whole := fun (w : Nat) => (List.range 8).all fun i => decide (m.2 ≤ 8 * w + i ∧ 8 * w + i < m.2 + x.part.length)
      ({ m.1 with hbm := m.1.hbm.writeCells cells, hbmBad := m.1.hbmBad.filter fun w => !whole w }, m.2 + saveBytes)) (s.mem, save)).1 }

/-- The tiles of a region as its snapshot holds them, by region-relative coordinate (R393). -/
def State.images (s : State) (r : Region) : List ((Nat × Nat) × Tile) := r.tiles.map fun t => (r.relative t, (s.tile t).moved r.toLocal)

/-- Whether a prepared bale holds lines of a snapshot image in a save area (R374). -/
def State.imageHeld (s : State) (saved : List ((Nat × Nat) × Tile)) (save : Nat) : Bool :=
  saved.zipIdx.any fun p => s.rangeHeld (.hbm (save + saveBytes * p.2)) p.1.2.part.length

/-- The tiles of an evicted region freed, their state written to the save area and kept by region-relative coordinate (R390,
R393); a circuit's end that it held is remembered, and what comes for it is kept back (R391). -/
def State.evictTiles (s : State) (r : Region) (save : Nat) : State :=
  let tiles := r.tiles
  let saved := s.images r
  let ends := s.hub.circuits.flatMap fun c =>
    (c.2.sink.toList.filterMap fun e => if tiles.contains e.1 then some (c.1, true, r.relative e.1, e.2) else none) ++
    (c.2.source.toList.filterMap fun e => if tiles.contains e.1 then some (c.1, false, r.relative e.1, e.2) else none)
  let s := s.mapXfers r fun x => { x with tile := r.toLocal x.tile }
  let s := { s with
    tiles := s.tiles.filter fun p => !tiles.contains p.1
    hub := { s.hub with circuits := s.hub.circuits.map fun (c : Nat × Circuit) => (c.1, { c.2 with
      lastDie := match c.2.sink with
        | some e => if tiles.contains e.1 then some e.1.dieIx else c.2.lastDie
        | none => c.2.lastDie
      sink := c.2.sink.filter fun e => !tiles.contains e.1
      source := c.2.source.filter fun e => !tiles.contains e.1 }) } }
  ((s.writeImage saved save).modRegion r.number fun r => { r with
    phase := .evicted, saved := saved, saveArea := save, ends := ends
    starts := r.starts.map fun p => (r.toLocal p.1, p.2) }).passOn r.dies

/-- SNAPSHOT_COMPLETE (R391): every tile's part is complete and the engines have finished; the region is paused or evicted,
and the command is answered OK. An image waits for lines of its save area that a bale holds (R374). -/
def execSnapshotComplete (n : Nat) (s : State) : Result :=
  match s.region n with
  | none => .next s.stall
  | some r => match r.phase with
    | .pausing ev node tag =>
      let tiles := r.tiles
      let held := match ev with
        | some save => s.imageHeld (s.images r) save
        | none => false
      if !tiles.all s.tilePart || !s.enginesDone r || held then .next s.stall
      else
        let ids := (s.xfers.filter fun x => x.region == n && x.gen == r.gen).map (·.id)
        let s := (((s.dropWalkers tiles ids).purgePeers r).mapXfers r Transfer.suspended).forgetXfers r true
        let s := { s with beacons := s.beacons.filter fun b => !tiles.contains b.tile
                          beaconsOut := s.beaconsOut.filter fun b => !tiles.contains b.tile }
        match ev with
        | none => .next ((s.modRegion n fun r => { r with phase := .paused }).respond node tag 0x31 0 [])
        | some save => .next ((s.evictTiles r save).respond node tag 0x32 0 [])
    | _ => .next s.stall

/-! The restore (R394). -/

/-- Whether an image can be read back from a save area: no uncorrectable error in it, and each tile's part as it was written, with the
CRC-32 over it (R393). A part that has been changed to another with a CRC-32 of its own is refused as well (log entry 50). -/
def State.imageGood (s : State) (r : Region) (save : Nat) : Bool :=
  (List.range r.saved.length).all fun i => match r.saved[i]? with
    | none => true
    | some p =>
      let base := save + saveBytes * i
      let n := p.2.part.length
      let body := s.mem.hbmBytes base (n - 4)
      !(s.mem.hbmBad.any fun w => decide (base < 8 * w + 8 ∧ 8 * w < base + n)) &&
        s.mem.hbm.readN (base + (n - 4)) 4 == (crc32 body).toNat && body == (Config.tileImage p.2).take (saveBytes - 4)

/-- An end of a circuit put back, with what has been held for it (R391, R417). -/
def State.replaceEnd (s : State) (r : Region) (e : Nat × Bool × (Nat × Nat) × Nat) : State :=
  let t := r.tileAt e.2.2.1.1 e.2.2.1.2
  match lookupKey e.1 s.hub.circuits with
  | none => s
  | some c =>
    if e.2.1 then
      { s with hub := s.hub.modCircuit e.1 fun c => { c with sink := some (t, e.2.2.2), heldEntries := [] } }.modTile t
        (·.modSink e.2.2.2 fun y => { y with inflight := y.inflight ++ c.heldEntries })
    else
      { s with hub := s.hub.modCircuit e.1 fun c => { c with source := some (t, e.2.2.2), heldCredits := 0 } }.modTile t
        (·.modSource e.2.2.2 fun y => { y with credits := y.credits + c.heldCredits })

/-- The tiles of an evicted region put at its place. -/
def State.placeTiles (s : State) (r : Region) : State :=
  let s := r.saved.foldl (fun s p => s.setTile (r.tileAt p.1.1 p.1.2) (p.2.moved r.ofLocal)) s
  let s := s.mapXfers r fun x =>
    let t := r.ofLocal x.tile
    { x with tile := t, die := t.dieIx }
  let s := r.ends.foldl (fun s e => s.replaceEnd r e) s
  s.modRegion r.number fun r => { r with saved := [], ends := [], starts := r.starts.map fun p => (r.ofLocal p.1, p.2) }

/-- Entries of a sink that hold credits of its channel. -/
def Sink.credited (k : Sink) : Nat :=
  (k.inflight ++ k.convIn ++ k.queue ++ k.held ++ k.cfg).countP fun e => e.origin == .channel

/-- Credits of a tile's sources recomputed from C and the saved queues (R393); those of a rendezvous come by request again. -/
def State.recredit (s : State) (t : TileId) : State :=
  (s.channelSources t).foldl (fun s e => match s.sinkOf t e with
    | none => s
    | some (u, k) =>
      let x := s.tile u
      s.modTile t (·.modSource e fun _ => ⟨x.cfg.capacity k - (x.sink k).credited, 0⟩)) s

/-- A tile that goes on, at a clock of its die: every MARK and request of a rendezvous cleared (R394). -/
def Tile.resumed (x : Tile) (clock : Int) : Tile :=
  { x with stopping := false, snapped := false, born := clock - x.cycle.toNat
           sinks := x.sinks.map fun p => (p.1, { p.2 with marked := false, asked := false })
           counters := x.counters.map fun c => { c with subs := [] } }

/-- The transfers of a region re-submitted: each waits for a slot, and what names it names it by the id that it takes with the slot
(R260). -/
def State.resubmitAll (s : State) (r : Region) : State :=
  (s.xfers.filter fun x => x.region == r.number && x.gen == r.gen && x.live && x.slot.isNone).foldl (fun s x => s.renameXfer x (waitingId x)) s

/-- The watches of a region's transfers registered again, and the beacon of each watched counter sent (R260). -/
def State.rewatch (s : State) (r : Region) : State :=
  let mine := s.xfers.filter fun x => x.region == r.number && x.gen == r.gen && x.watch == .registered && !x.ended
  let s := mine.foldl (fun s x => match s.counterTile x with
    | none => s
    | some t => s.modTile t (·.modCounter x.desc.cg fun c =>
        { c with subs := if c.subs.contains (x.die, x.engine) then c.subs else c.subs ++ [(x.die, x.engine)] })) s
  r.tiles.foldl (fun s t => (List.finRange 16).foldl (fun s g =>
    if ((s.tile t).counters[g]).subs.isEmpty then s else s.sendBeacon t g none) s) s

/-- What the contexts of a tile waited for looked at again: accesses translate afresh, waits on counters and copies may end. -/
def State.rewake (s : State) (t : TileId) : State :=
  (List.finRange 4).foldl (fun s k => ((s.translateQueue 17 t k).settleGwait t k).copyStep t k) s

/-- REGION_RESTORE (R394): the region goes on from its snapshot, at the place that a placement pass has given it, or where it
was paused, and RESUME is answered; an image that cannot be read back ends the region (R393). Lines of the save area that a bale holds
are waited for (R374). -/
def execRegionRestore (n : Nat) (s : State) : Result :=
  match s.region n with
  | none => .next s.stall
  | some r => match r.phase with
    | .restoring save true node tag =>
      let evicted := !r.saved.isEmpty
      if evicted && s.imageHeld r.saved save then .next s.stall
      else if evicted && !s.imageGood r save then
        .next (s.regionFault n ⟨Cause.poison, 4, 0, 0, 0, 0⟩)
      else
        let s := if evicted then s.placeTiles r else s
        match s.region n with
        | none => .next s.stall
        | some r =>
          let tiles := r.tiles
          let s := tiles.foldl (fun s t => s.modTile t (·.resumed s.dies[t.dieIx].clock)) s
          let s := tiles.foldl State.recredit s
          let s := (s.modRegion n fun r => { r with phase := .running, reel := r.reel.map fun (f : Reel) => { f with
              entryCredits := if f.laid then 15 - ((s.tile (r.slotTile f 0 0 0)).sink 31).credited else 0 } }).resubmitAll r
          let s := s.rewatch r
          let s := (tiles.foldl State.rewake s).forgetXfers r false
          .next (s.respond node tag 0x33 0 [])
    | _ => .next s.stall

end Sys2Proof.Machine
end

