-- ==== Sys2Proof/Machine/Dyfold.lean ====
section
/-! DEFINITION. What arrives over Dyfold: requests of peers and their admission (R407, R413-R416, R424), answers and timeouts
(R411, R416), circuits (R417, R418), and the replays of an on-package bridge (R399). -/

namespace Sys2Proof.Machine

/-! Admission (R414, R415). -/

/-- The right of an access-table entry that a request needs (R415). -/
def AccessEntry.grants (e : AccessEntry) (q : PeerRequest) : Bool :=
  match q with
  | .read _ _ _ => e.rd
  | .write _ _ _ _ => e.w
  | .atomic _ _ _ _ _ _ | .call _ _ _ _ => e.a
  | .baleStore _ _ _ _ => e.b
  | .seal _ _ | .decision _ _ | .purge _ _ => true

/-- Whether an entry admits an address of a node and tenant (R414). -/
def AccessEntry.admits (e : AccessEntry) (node tenant : BitVec 12) (va : Nat) : Bool :=
  e.v && e.srcNode == node && e.srcTenant == tenant && decide (e.base / 2 ^ 16 ≤ va / 2 ^ 16 ∧ va / 2 ^ 16 < e.base / 2 ^ 16 + e.pages)

/-- The first entry, in index order, that admits an address. -/
def Hub.admission (h : Hub) (node tenant : BitVec 12) (va : Nat) : Option AccessEntry :=
  (List.range 1024).findSome? fun i => match lookupKey i h.access with
    | some e => if e.admits node tenant va then some e else none
    | none => none

/-- A request of an open stream let in, of a class, for a tenant and ASID of this package: to a place of this package's memory, through
a page, or to wait for its walk. -/
def State.admitRequest (s : State) (r : StreamRec) (cls : Nat) (tenant : BitVec 12) (asid : BitVec 16) (q : PeerRequest)
    (place : Option (Target × Bool × Span)) : State :=
  let k := s.hub.nextIn
  let (tgt, wo, span) := place.getD (.hbm 0, false, (0, 0))
  let x : InReq :=
    { n := k, node := r.srcNode, region := r.region, gen := r.gen, asid := asid, tenant := tenant, req := q, tgt := tgt, wo := wo
      deferred := false, order := s.nextSeq, span := span, cls := cls, unwalked := place.isNone }
  match q, place with
  | .baleStore h _ n data, some _ => s.loftPut (.store r.srcNode h (⟨0, 0, 0⟩, 0) tgt n data none (some (asid, span)))
  | _, _ => { s with nextSeq := s.nextSeq + 1, hub := { s.hub with nextIn := k + 1, inbound := s.hub.inbound ++ [x] } }

/-- A request whose walk meets lines that a bale holds is deferred there: HOLD stops its timeout (R374, R416). -/
def State.deferWalk (s : State) (r : StreamRec) (cls : Nat) (e : AccessEntry) (q : PeerRequest) : State :=
  let s := s.admitRequest r cls e.locTenant e.locAsid q none
  match requestTag q with
  | some tag => s.tell (.hold r.srcNode tag)
  | none => s

/-- The reads that a node's region has deferred here discarded (R296); stores and atomics that wait perform (R318). -/
def State.purgeInbound (s : State) (node : BitVec 12) (region : BitVec 11) (gen : BitVec 8) : State :=
  { s with hub := { s.hub with inbound := s.hub.inbound.filter fun (q : InReq) =>
    !((q.deferred || q.unwalked) && !requestWrites q.req && q.node == node && q.region == region && q.gen == gen) } }

/-- A request of an open stream and a class at ingress (R414, R415). -/
def State.ingress (s : State) (r : StreamRec) (cls : Nat) (q : PeerRequest) : State :=
  match q, requestVa q with
  | .seal h count, _ => s.loftPut (.seal r.srcNode h count)
  | .decision h commit, _ => s.loftPut (.decision r.srcNode h commit)
  | .purge region gen, _ => s.purgeInbound r.srcNode region gen
  | q, none => s.refuseRequest r.srcNode q Cause.perm 10 3
  | q, some va => match s.hub.admission r.srcNode r.tenant va with
    | none => s.refuseRequest r.srcNode q Cause.perm 10 3
    | some e =>
      if !e.grants q then s.refuseRequest r.srcNode q Cause.perm 10 3
      else if s.walkHeld e.locAsid va then s.deferWalk r cls e q
      else match s.mem.requestLeaf e.locAsid va q with
        | .error f => s.refuseRequest r.srcNode q f.1 f.2.1 f.2.2
        | .ok leaf => s.admitRequest r cls e.locTenant e.locAsid q (some (leaf.target va, leaf.wo, leaf.span))

/-- A request in recovery: only a write of a listed host to the recovery window is let in (R424). -/
def State.recoveryIngress (s : State) (r : StreamRec) (cls : Nat) (q : PeerRequest) : State :=
  match q with
  | .write _ va n _ =>
    if s.hub.hosts.contains r.srcNode && decide (va + n ≤ 2 ^ 26) then
      s.admitRequest r cls r.tenant r.asid q (some (.hbm va, false, (va, va + n - 1)))
    else s.refuseRequest r.srcNode q Cause.perm 10 3
  | q => s.refuseRequest r.srcNode q Cause.perm 10 3

/-- The open stream of the flit at the head of a port, where its VER is that of the stream (R407, R409). -/
def State.headStream (s : State) (p : Fin 32) (f : BitVec 512) : Option StreamRec :=
  (lookupKey (flitStream f) (s.hub.ports[p]).streams).filter fun r => r.ver == flitVer f

/-- CLASS of a flit, the class of the packet that it carries; R245 has no class 3, which is read as 2 (R406; DESIGN CHOICE, log entry
107). -/
def flitClass (f : BitVec 512) : Nat := min 2 (field f 14 2)

/-- DATA_FLIT (R406, R407, R409, R414): a request of an open stream; without one, or with another VER, the flit is dropped and
counted. A port carries the traffic of a bale with what comes in on it (R411). -/
def execDataFlit (p : Fin 32) (q : PeerRequest) (s : State) : Result :=
  .next (s.onFlit p 2 fun f s => match s.headStream p f with
    | none => s.dropFlit p
    | some r =>
      let s := { s with hub := s.hub.noteBale (baleOf r.srcNode q) r.srcNode p }
      if s.power = .recovery then s.recoveryIngress r (flitClass f) q else s.ingress r (flitClass f) q)

/-! Answers (R411, R413, R416). -/

/-- A read of a region that is gone: where another package defers it, it is discarded there and completes no more (R102, R296). -/
def State.purgeOne (s : State) (r : RemoteReq) : State :=
  match r.region with
  | none => s
  | some (n, gen) =>
    let s := { s with hub := Hub.releaseHeld { s.hub with remote := s.hub.remote.filter fun q => q.rid != r.rid } }
    (s.tell (.request r.node (.purge (BitVec.ofNat 11 n) gen))).settleClosing

/-- Whether the region that asked, or on whose behalf a scheduler or feeder reads, is gone: its number is under another generation, or
it closes (R102). -/
def State.askerGone (s : State) (r : RemoteReq) : Bool := r.region.any fun p => !(s.region p.1).any fun x => x.gen == p.2

/-- HOLD (R416): the timeout of a request stops; for one that has completed it is dropped. Where the region that read is gone, the
read is purged (R102, R296). -/
def execHold (rid : Nat) (s : State) : Result :=
  match s.hub.remote.find? fun r => r.rid == rid with
  | none => .next s
  | some r =>
    if !r.writes && s.askerGone r then .next (s.purgeOne r)
    else .next { s with hub := { s.hub with remote := s.hub.remote.map fun (r : RemoteReq) => if r.rid = rid then { r with held := true } else r } }

/-- REMOTE_RESPONSE (R413): an answer completes its request, or matches none that has been sent and is dropped. -/
def execRemoteResponse (rid : Nat) (a : RemoteAnswer) (s : State) : Result :=
  match s.hub.remote.find? fun r => r.rid == rid with
  | none => .next s
  | some r => match r.place with
    | .sent _ => .next (s.finishRemote r a)
    | _ => .next s

/-- Whether a request has waited RTIMEOUT cycles of its die, or has no port to leave by (R409, R416). -/
def State.timedOut (s : State) (r : RemoteReq) : Bool :=
  r.place == .nowhere || (!r.held && decide (r.since + s.hub.rtimeout ≤ s.clockOf r.who))

/-- REMOTE_TIMEOUT_EXPIRY (R409, R416): the request completes with FABRIC. -/
def execRemoteTimeoutExpiry (rid : Nat) (s : State) : Result :=
  match s.hub.remote.find? fun r => r.rid == rid with
  | none => .next s.stall
  | some r => if s.timedOut r then .next (s.failRemote r) else .next s.stall

/-! Circuits (R417, R418). -/

/-- Whether an evicted region holds an end of a circuit, its sink or its source: what comes for it is held back (R391, R418). -/
def State.endAway (s : State) (circuit : Nat) (sink : Bool) : Bool :=
  s.regions.any fun r => r.inService && r.ends.any fun e => e.1 == circuit && e.2.1 == sink

/-- CREDIT_FLIT (R417): credits return to the source of a circuit; those for the source of an evicted region are kept for it. -/
def execCreditFlit (p : Fin 32) (circuit : Fin 64) (n : Nat) (s : State) : Result :=
  .next (s.onFlit p 6 fun _ s => match lookupKey circuit.val s.hub.circuits with
    | none => s
    | some c => match c.source with
      | some (t, e) => s.modTile t (·.modSource e fun y => { y with credits := y.credits + n })
      | none =>
        if s.endAway circuit.val false then { s with hub := s.hub.modCircuit circuit.val fun c => { c with heldCredits := c.heldCredits + n } }
        else s)

/-- The entries of a CIRC flit: words in payload bytes 0-47, kinds in bytes 48-50 (R418). -/
def circEntries (f : BitVec 512) (n : Nat) : List Entry :=
  (List.range n).map fun i => ⟨(bits f (64 + 64 * i) 64).zeroExtend 256, bits f (448 + 4 * i) 4, .channel⟩

/-- CIRC_FLIT (R418): the entries of a flit, one to six of them (how many the flit holds is open, log entry 32), go to the
circuit's sink; those for the sink of an evicted region are held back for it; where the region of that end is gone they are dropped
and counted. A circuit's entries come on the port that it is bound to; on another port the flit is dropped and counted there. -/
def execCircFlit (p : Fin 32) (circuit : Fin 64) (s : State) : Result :=
  .next (s.onFlit p 8 fun f s =>
    match lookupKey circuit.val s.hub.circuits with
    | none => s.dropFlit p
    | some c =>
      if c.port ≠ p then s.dropFlit p
      else
        let (n, s) := s.pick 6
        let es := circEntries f (n + 1)
        match c.sink, c.lastDie with
        | some (t, k), _ => s.modTile t (·.modSink k fun y => { y with inflight := y.inflight ++ es })
        | none, last =>
          if s.endAway circuit.val true then { s with hub := s.hub.modCircuit circuit.val fun c => { c with heldEntries := c.heldEntries ++ es } }
          else match last with
            | some d => s.modDie d fun x => { x with stale := x.stale + es.length }
            | none => s)

/-! Bridges (R399). -/

/-- The two dies that a bridge joins: 0-5 along the rows of dies, 6-9 across (log entry 33). -/
def bridgeDies (b : Nat) : Option (Nat × Nat) :=
  if b < 6 then some (4 * (b / 3) + b % 3, 4 * (b / 3) + b % 3 + 1)
  else if b < 10 then some (b - 6, b - 2)
  else none

/-- Whether a step between two tiles crosses a bridge. -/
def crosses (b : Nat) (t u : TileId) : Bool :=
  match bridgeDies b with
  | some (x, y) => (t.die, u.die) == (x, y) || (t.die, u.die) == (y, x)
  | none => false

/-- Whether the circuit that leaves a tile by a switch entry crosses a bridge on its way to its sink. -/
def State.pathCrosses (s : State) (b : Nat) : Nat → TileId → SwitchCfg → Bool
  | 0, _, _ => false
  | fuel + 1, t, w =>
    if w.outDir = 0 ∨ 5 ≤ w.outDir then false
    else
      let u := neighbour t w.outDir
      crosses b t u ||
        match (s.tile u).cfg.switch.toList.find? fun x => x.valid && x.inDir == opposite w.outDir && x.inLane == w.outLane with
        | some x => s.pathCrosses b fuel u x
        | none => false

/-- Regions with an entry on its way over a bridge. -/
def State.entryRegions (s : State) (b : Nat) : List Nat :=
  s.tiles.flatMap fun p => p.2.cfg.switch.toList.filterMap fun w =>
    if !w.valid || !(w.inDir = 0 || w.inDir = 5) || !s.pathCrosses b maxHops p.1 w then none
    else
      let e := if w.inDir = 0 then w.inEp else 32 + w.inEp
      match s.sinkOf p.1 e with
      | some (u, k) => if ((s.tile u).sink k).inflight.isEmpty then none else p.2.region
      | none => none

/-- Whether a packet between dies goes over a bridge, first along a row of dies, then across (log entry 33). The tables at the die
edges give this way in both versions: the firmware fills both from the same map, and no command writes them (R409; log entry 33). -/
def packetCrosses (b : Nat) (d e : Nat) : Bool :=
  match bridgeDies b with
  | none => false
  | some (x, y) =>
    if b < 6 then x / 4 == d / 4 && decide (min (d % 4) (e % 4) ≤ x % 4 ∧ x % 4 < max (d % 4) (e % 4))
    else x % 4 == e % 4 && y % 4 == e % 4 && d / 4 != e / 4

/-- The die of the other end of an engine's packet: that of a tile, or of the stack that a slice of HBM4E belongs to (R276). To
the hubs, which serve LPDDR 6, no path is given (log entry 33). -/
def Packet.farDie (p : Packet) (r : Region) : Option Nat :=
  match p.target, p.place with
  | some t, _ => match t.plus ((p.cells.head?.map (·.1)).getD 0) with
    | .hbm pa => some ((Target.hbm pa).slice / 128)
    | _ => none
  | none, .tile row col _ _ => some (r.tileAt row col).die
  | none, _ => none

/-- Whether what goes from a die to a piece of HBM4E crosses a bridge; to the hubs, which serve LPDDR 6, no path is given (log
entry 33). -/
def targetCrosses (b : Nat) (d : Fin 8) (t : Target) : Bool :=
  match t with
  | .hbm _ => packetCrosses b d.val (t.slice / 128)
  | _ => false

/-- Regions with a packet on its way over a bridge: of an engine, an access of a context or a stream that waits for its slice, a
beacon, or an operation of a barrier pool or an arrival at one. A region that closes still has packets under way (R102). -/
def State.packetRegions (s : State) (b : Nat) : List Nat :=
  let between := fun (t : TileId) (d : Fin 8) => if packetCrosses b t.die d.val then (s.tile t).region else none
  let goes := fun (t : TileId) (x : Tile) =>
    (x.ctxs.toList.any fun c => c.gq.any fun a => match a.stage with
      | .ready u => targetCrosses b t.dieIx u
      | _ => false) ||
    x.agens.toList.any fun y => y.flight.any fun e => e.stage == .ready && e.parts.any fun p => targetCrosses b t.dieIx p.1
  (s.xfers.filter fun x => match (s.standing x.region).filter fun r => r.gen == x.gen with
    | none => false
    | some r => x.packets.any fun p => !p.deferred && match p.farDie r with
      | none => false
      | some e => if p.kind = .response then packetCrosses b e x.die.val else packetCrosses b x.die.val e).map (·.region) ++
  s.tiles.filterMap (fun p => if goes p.1 p.2 then p.2.region else none) ++
  s.beaconsOut.filterMap (fun p => between p.tile p.die) ++
  (List.finRange 8).flatMap fun d =>
    ((s.dies[d]).poolQ.filterMap fun o => if o.granted then none else between o.tile d) ++
    (s.dies[d]).arrivals.filterMap fun a => if !a.granted && packetCrosses b a.engine.1.val d.val then some a.region else none

/-- BRIDGE_REPLAY (R399): the flit at hand on a bridge fails its CRC and is replayed; whether it is the flit of the last replay
is open (log entry 33). After 16 replays of one flit, KIND 5 with cause FABRIC for every region with something in flight
there. -/
def execBridgeReplay (b : Nat) (s : State) : Result :=
  if (bridgeDies b).isNone then .next s.stall
  else
    let (other, s) := s.pick 2
    let n := (if other = 1 then 0 else (lookupKey b s.hub.bridges).getD 0) + 1
    if n < 16 then .next { s with hub := { s.hub with bridges := putKey b n s.hub.bridges } }
    else
      let s := { s with hub := { s.hub with bridges := dropKey b s.hub.bridges } }
      .next ((s.entryRegions b ++ s.packetRegions b).dedup.foldl (fun s r => s.regionFault r ⟨Cause.fabric, 5, 0, 0, 0, 0⟩) s)

end Sys2Proof.Machine
end

