-- ==== Sys2Proof/Machine/ScalarFloat.lean ====
section
/-! DEFINITION. Scalar floating-point instructions (R132-R136). -/

namespace Sys2Proof.Machine

/-- A float instruction of two operands: the exact value rounded once (R132). -/
def State.floatOp (s : State) (o : FmtA) (f : XReal → XReal → XReal) : State :=
  s.writeS o.d (floatWord (roundFloat o.ty (f (floatOperand o.ty (s.getS o.s1)) (floatOperand o.ty (s.getS o.s2))) o.rm o.sat))

/-- A float instruction that picks or edits codes without rounding (R133, R135). -/
def State.floatCode (s : State) (o : FmtA) (f : Nat → Nat → Nat) : State :=
  let w := o.ty.width
  s.writeS o.d (floatWord (f ((s.getS o.s1).toNat % 2 ^ w) ((s.getS o.s2).toNat % 2 ^ w)))

/-- `fadd` (R132): a + b. -/
def execFadd (g : Guard) (o : FmtA) (s : State) : Result := .next (s.issue g (·.floatOp o fun a b => a.add b o.rm))

/-- `fsub` (R132): a − b. -/
def execFsub (g : Guard) (o : FmtA) (s : State) : Result := .next (s.issue g (·.floatOp o fun a b => a.add b.negate o.rm))

/-- `fmul` (R132): a × b. -/
def execFmul (g : Guard) (o : FmtA) (s : State) : Result := .next (s.issue g (·.floatOp o fun a b => a.mul b))

/-- `fma` (R132): a × b + c with one rounding. -/
def execFma (g : Guard) (o : FmtA) (s : State) : Result :=
  .next (s.issue g fun s =>
    let c := floatOperand o.ty (s.getS o.s3)
    s.floatOp o fun a b => (a.mul b).add c o.rm)

/-- `fdiv` (R132): a / b. -/
def execFdiv (g : Guard) (o : FmtA) (s : State) : Result := .next (s.issue g (·.floatOp o fun a b => a.div b))

/-- `fsqrt` (R132): √a. -/
def execFsqrt (g : Guard) (o : FmtA) (s : State) : Result := .next (s.issue g (·.floatOp o fun a _ => a.sqrt))

/-- `fmin` (R133). -/
def execFmin (g : Guard) (o : FmtA) (s : State) : Result := .next (s.issue g (·.floatCode o (floatMin o.ty)))

/-- `fmax` (R133). -/
def execFmax (g : Guard) (o : FmtA) (s : State) : Result := .next (s.issue g (·.floatCode o (floatMax o.ty)))

/-- `fcmp` (R134). -/
def execFcmp (g : Guard) (o : FmtA) (s : State) : Result :=
  .next (s.issue g fun s => s.writeS o.d
    (Word.ofBool (floatCond o.sub (floatOperand o.ty (s.getS o.s1)) (floatOperand o.ty (s.getS o.s2)))))

/-- A result of `fcvt` in its register: an integer extended by U, a float with zeros above (R136). -/
def resultWord (ty : Ty) (unsigned : Bool) (code : Nat) : Word :=
  if ty.isInt then extendTo ty.width unsigned code else floatWord code

/-- `fcvt` (R136); an S3 that names no type does not decode. A widening is exact (R76), but an FP8B value of 2^16 or more has no FP16: it
overflows by RM and SAT (DESIGN CHOICE, log entry 101). -/
def execFcvt (g : Guard) (o : FmtA) (s : State) : Result :=
  .next (s.issue g fun s =>
    let x := valueOf (o.srcTy.getD .fp32) o.srcU (s.getS o.s1).toNat
    s.writeS o.d (resultWord o.ty o.u (roundTo o.ty o.u x o.rm o.sat)))

/-- `fclass` (R135): the mask with the bit of the operand's class. -/
def execFclass (g : Guard) (o : FmtA) (s : State) : Result :=
  .next (s.issue g fun s => s.writeS o.d (BitVec.ofNat 64 (2 ^ floatClass o.ty (s.getS o.s1).toNat)))

/-- The code of a with the sign that MOD.SUB names: 0 b's, 1 its inverse, 2 the exclusive-or (R135). -/
def signInject (ty : Ty) (sub : BitVec 2) (a b : Nat) : Nat :=
  let h := 2 ^ (ty.width - 1)
  let sa := decide (a / h = 1)
  let sb := decide (b / h = 1)
  let sign := match sub.toNat with
    | 0 => sb
    | 1 => !sb
    | _ => sa ^^ sb
  ty.signed sign (a % h)

/-- `fsgnj` (R135). -/
def execFsgnj (g : Guard) (o : FmtA) (s : State) : Result := .next (s.issue g (·.floatCode o (signInject o.ty o.sub)))

end Sys2Proof.Machine
end

