-- ==== Sys2Proof/Machine/Vector.lean ====
section
/-! DEFINITION. Vector instructions (R138-R151): integer and float lanes, compares, conversions, moves and reductions. -/

namespace Sys2Proof.Machine

/-! Lanes and masks. -/

/-- Whether lane k of width w is active under a lane mask: the bit of its lowest byte (R139). -/
def activeLane (w : Nat) (mask : Word) (k : Nat) : Bool := mask.getLsbD (k * w / 8)

/-- V(D) with the active lanes replaced by `f k`; inactive lanes keep their old values (R39, R140). -/
def State.vecLanes (s : State) (d : Reg) (ty : Ty) (mask : Word) (f : Nat → Nat) : State :=
  let w := ty.width
  let old := s.getV d
  s.writeV d (vecOf w ty.lanes fun k => if activeLane w mask k then f k else laneOf old w k)

/-! Major 0x30 (R143). -/

/-- An integer lane instruction: `f w a b` is the exact result of lanes read unsigned or signed (R143). -/
def State.vecInt (s : State) (o : FmtA) (mask : Word) (unsigned : Bool) (f : Nat → Int → Int → Int) : State :=
  let w := o.ty.width
  let a := s.getV o.s1
  let b := s.getV o.s2
  s.vecLanes o.d o.ty mask fun k =>
    fit w unsigned o.sat (f w (intOf w unsigned (laneOf a w k)) (intOf w unsigned (laneOf b w k)))

/-- A lane instruction on the bits of two lanes (R143, R144, R149). -/
def State.vecBits (s : State) (o : FmtA) (mask : Word) (f : Nat → Nat → Nat → Nat) : State :=
  let w := o.ty.width
  let a := s.getV o.s1
  let b := s.getV o.s2
  s.vecLanes o.d o.ty mask fun k => f w (laneOf a w k) (laneOf b w k)

/-- `vadd` (R143): a + b. -/
def execVadd (g : Guard) (o : FmtA) (s : State) : Result :=
  .next (s.issueLanes g fun m s => s.vecInt o m o.u fun _ a b => a + b)

/-- `vsub` (R143): a − b. -/
def execVsub (g : Guard) (o : FmtA) (s : State) : Result :=
  .next (s.issueLanes g fun m s => s.vecInt o m o.u fun _ a b => a - b)

/-- `vmul` (R143): a × b. -/
def execVmul (g : Guard) (o : FmtA) (s : State) : Result :=
  .next (s.issueLanes g fun m s => s.vecInt o m o.u fun _ a b => a * b)

/-- `vmulh` (R143): ⌊a × b / 2^w⌋. -/
def execVmulh (g : Guard) (o : FmtA) (s : State) : Result :=
  .next (s.issueLanes g fun m s => s.vecInt o m o.u fun w a b => a * b / 2 ^ w)

/-- `vmin` (R143): the smaller. -/
def execVmin (g : Guard) (o : FmtA) (s : State) : Result :=
  .next (s.issueLanes g fun m s => s.vecInt o m o.u fun _ a b => min a b)

/-- `vmax` (R143): the larger. -/
def execVmax (g : Guard) (o : FmtA) (s : State) : Result :=
  .next (s.issueLanes g fun m s => s.vecInt o m o.u fun _ a b => max a b)

/-- `vabs` (R143): |a|. -/
def execVabs (g : Guard) (o : FmtA) (s : State) : Result :=
  .next (s.issueLanes g fun m s => s.vecInt o m false fun _ a _ => a.natAbs)

/-- `vand` (R143): a AND b. -/
def execVand (g : Guard) (o : FmtA) (s : State) : Result :=
  .next (s.issueLanes g fun m s => s.vecBits o m fun _ a b => a &&& b)

/-- `vor` (R143): a OR b. -/
def execVor (g : Guard) (o : FmtA) (s : State) : Result :=
  .next (s.issueLanes g fun m s => s.vecBits o m fun _ a b => a ||| b)

/-- `vxor` (R143): a XOR b. -/
def execVxor (g : Guard) (o : FmtA) (s : State) : Result :=
  .next (s.issueLanes g fun m s => s.vecBits o m fun _ a b => a ^^^ b)

/-- `vsll` (R143): a × 2^n. -/
def execVsll (g : Guard) (o : FmtA) (s : State) : Result :=
  .next (s.issueLanes g fun m s => s.vecBits o m fun w a b => a * 2 ^ (b % w))

/-- `vsrl` (R143): ⌊a / 2^n⌋, unsigned. -/
def execVsrl (g : Guard) (o : FmtA) (s : State) : Result :=
  .next (s.issueLanes g fun m s => s.vecBits o m fun w a b => a / 2 ^ (b % w))

/-- `vsra` (R143): ⌊a / 2^n⌋, signed. -/
def execVsra (g : Guard) (o : FmtA) (s : State) : Result :=
  .next (s.issueLanes g fun m s => s.vecBits o m fun w a b => wrapTo w (intOf w false a / 2 ^ (b % w)))

/-! Major 0x31 (R144, R145). -/

/-- A float lane instruction: the exact value rounded once (R144). -/
def State.vecFloat (s : State) (o : FmtA) (mask : Word) (f : XReal → XReal → XReal) : State :=
  s.vecBits o mask fun _ a b => roundFloat o.ty (f (floatOf o.ty a) (floatOf o.ty b)) o.rm o.sat

/-- `vfadd` (R144): a + b. -/
def execVfadd (g : Guard) (o : FmtA) (s : State) : Result :=
  .next (s.issueLanes g fun m s => s.vecFloat o m fun a b => a.add b o.rm)

/-- `vfsub` (R144): a − b. -/
def execVfsub (g : Guard) (o : FmtA) (s : State) : Result :=
  .next (s.issueLanes g fun m s => s.vecFloat o m fun a b => a.add b.negate o.rm)

/-- `vfmul` (R144): a × b. -/
def execVfmul (g : Guard) (o : FmtA) (s : State) : Result :=
  .next (s.issueLanes g fun m s => s.vecFloat o m fun a b => a.mul b)

/-- `vfma` (R144): a × b + c with one rounding. -/
def execVfma (g : Guard) (o : FmtA) (s : State) : Result :=
  .next (s.issueLanes g fun m s =>
    let w := o.ty.width
    let a := s.getV o.s1
    let b := s.getV o.s2
    let c := s.getV o.s3
    let at' := fun v k => floatOf o.ty (laneOf v w k)
    s.vecLanes o.d o.ty m fun k =>
      roundFloat o.ty (((at' a k).mul (at' b k)).add (at' c k) o.rm) o.rm o.sat)

/-- `vfmin` (R144): R133, per lane. -/
def execVfmin (g : Guard) (o : FmtA) (s : State) : Result :=
  .next (s.issueLanes g fun m s => s.vecBits o m fun _ a b => floatMin o.ty a b)

/-- `vfmax` (R144): R133, per lane. -/
def execVfmax (g : Guard) (o : FmtA) (s : State) : Result :=
  .next (s.issueLanes g fun m s => s.vecBits o m fun _ a b => floatMax o.ty a b)

/-- `vfabs` (R144): the sign bit cleared. -/
def execVfabs (g : Guard) (o : FmtA) (s : State) : Result :=
  .next (s.issueLanes g fun m s => s.vecBits o m fun w a _ => a % 2 ^ (w - 1))

/-- `vfneg` (R144): the sign bit inverted. -/
def execVfneg (g : Guard) (o : FmtA) (s : State) : Result :=
  .next (s.issueLanes g fun m s => s.vecBits o m fun w a _ => a ^^^ 2 ^ (w - 1))

/-- `vfrcp` (R145): 1 / a. -/
def execVfrcp (g : Guard) (o : FmtA) (s : State) : Result :=
  .next (s.issueLanes g fun m s => s.vecFloat o m fun a _ => (XReal.ofInt 1).div a)

/-- `vfrsq` (R145): 1 / √a. -/
def execVfrsq (g : Guard) (o : FmtA) (s : State) : Result :=
  .next (s.issueLanes g fun m s => s.vecFloat o m fun a _ => a.rsqrt)

/-- `vfexp2` (R145): 2^a. -/
def execVfexp2 (g : Guard) (o : FmtA) (s : State) : Result :=
  .next (s.issueLanes g fun m s => s.vecFloat o m fun a _ => a.exp2)

/-- `vflog2` (R145): log2 a. -/
def execVflog2 (g : Guard) (o : FmtA) (s : State) : Result :=
  .next (s.issueLanes g fun m s => s.vecFloat o m fun a _ => a.log2)

/-! Major 0x32 (R146). -/

/-- P(D) with the bits of every byte of an active lane set to the lane's condition (R146). -/
def State.vecCond (s : State) (o : FmtA) (mask : Word) (cond : Nat → Bool) : State :=
  let w := o.ty.width
  let old := s.getP o.d
  let bit := fun i =>
    let k := 8 * i / w
    if activeLane w mask k then cond k else old.getLsbD i
  s.writeP o.d (BitVec.ofNat 64 ((List.range 64).foldr (fun i acc => (if bit i then 1 else 0) + 2 * acc) 0))

/-- `vcmp` (R146). -/
def execVcmp (g : Guard) (o : FmtA) (s : State) : Result :=
  .next (s.issueLanes g fun m s =>
    let w := o.ty.width
    let a := s.getV o.s1
    let b := s.getV o.s2
    s.vecCond o m fun k => intCond o.sub (intOf w o.u (laneOf a w k)) (intOf w o.u (laneOf b w k)))

/-- `vfcmp` (R146). -/
def execVfcmp (g : Guard) (o : FmtA) (s : State) : Result :=
  .next (s.issueLanes g fun m s =>
    let w := o.ty.width
    let a := s.getV o.s1
    let b := s.getV o.s2
    s.vecCond o m fun k => floatCond o.sub (floatOf o.ty (laneOf a w k)) (floatOf o.ty (laneOf b w k)))

/-! Major 0x33 (R147-R149). -/

/-- One lane of `vcvt`: fitted between integers, else rounded once (R147). A widening is exact (R76); an FP8B value of 2^16 or more,
which FP16 does not have, is rounded as every other value is, and overflows by RM and SAT (log entry 101). -/
def convertLane (src : Ty) (srcU : Bool) (dst : Ty) (u sat : Bool) (rm : RM) (x : Nat) : Nat :=
  if src.isInt && dst.isInt then fit dst.width u sat (intOf src.width srcU x)
  else roundTo dst u (valueOf src srcU x) rm sat

/-- The source lane of destination lane k in part q, or none where the lane is left alone (R147). -/
def sourceLane (ls ld q k : Nat) : Option Nat :=
  if ld ≤ ls then some (q * ld + k) else if k / ls = q then some (k - q * ls) else none

/-- `vcvt` (R147). -/
def execVcvt (g : Guard) (o : FmtA) (s : State) : Result :=
  .next (s.issueLanes g fun m s =>
    let src := o.srcTy.getD .fp32
    let a := s.getV o.s1
    let old := s.getV o.d
    s.vecLanes o.d o.ty m fun k =>
      match sourceLane src.lanes o.ty.lanes o.sub.toNat k with
      | some j => convertLane src o.srcU o.ty o.u o.sat o.rm (laneOf a src.width j)
      | none => laneOf old o.ty.width k)

/-- `vscale` (R148): each lane times the FP32 scale of S(S2)[31:0]. -/
def execVscale (g : Guard) (o : FmtA) (s : State) : Result :=
  .next (s.issueLanes g fun m s =>
    let scale := floatOf .fp32 (s.getS o.s2).toNat
    s.vecBits o m fun _ a _ => roundTo o.ty o.u ((valueOf o.ty o.u a).mul scale) o.rm o.sat)

/-- `vbcast` (R149). -/
def execVbcast (g : Guard) (o : FmtA) (s : State) : Result :=
  .next (s.issueLanes g fun m s => let x := (s.getS o.s1).toNat; s.vecLanes o.d o.ty m fun _ => x)

/-- `vext` (R149): lane S(S2), if it exists and is active. -/
def execVext (g : Guard) (o : FmtA) (s : State) : Result :=
  .next (s.issueLanes g fun m s =>
    let w := o.ty.width
    let j := (s.getS o.s2).toNat
    if j < o.ty.lanes && activeLane w m j then
      s.writeS o.d (resultWord o.ty o.u (laneOf (s.getV o.s1) w j))
    else s.retire)

/-- `vins` (R149): lane S(S2) alone, if it exists and is active. -/
def execVins (g : Guard) (o : FmtA) (s : State) : Result :=
  .next (s.issueLanes g fun m s =>
    let w := o.ty.width
    let j := (s.getS o.s2).toNat
    let x := (s.getS o.s1).toNat
    let old := s.getV o.d
    s.vecLanes o.d o.ty m fun k => if k = j then x else laneOf old w k)

/-- A permutation: active lane k of V(D) takes `f L a b k` (R149). -/
def State.vecPerm (s : State) (o : FmtA) (mask : Word) (f : Nat → (Nat → Nat) → (Nat → Nat) → Nat → Nat) : State :=
  let w := o.ty.width
  let a := s.getV o.s1
  let b := s.getV o.s2
  s.vecLanes o.d o.ty mask (f o.ty.lanes (laneOf a w) (laneOf b w))

/-- `vperm` (R149): a[b[k]], or 0 beyond the last lane. -/
def execVperm (g : Guard) (o : FmtA) (s : State) : Result :=
  .next (s.issueLanes g fun m s => s.vecPerm o m fun l a b k => if b k < l then a (b k) else 0)

/-- `vslide` (R149): a[k + n] with n = S(S2) signed, or 0 outside the register. -/
def execVslide (g : Guard) (o : FmtA) (s : State) : Result :=
  .next (s.issueLanes g fun m s =>
    let n := (s.getS o.s2).toInt
    s.vecPerm o m fun l a _ k => if 0 ≤ k + n ∧ k + n < l then a (k + n).toNat else 0)

/-- `vzip` (R149): lanes of a and b interleaved, from the lower or upper half. -/
def execVzip (g : Guard) (o : FmtA) (s : State) : Result :=
  .next (s.issueLanes g fun m s => s.vecPerm o m fun l a b k => let h := if o.sub = 0 then 0 else l / 2; if k % 2 = 0 then a (h + k / 2) else b (h + k / 2))

/-- `vunzip` (R149): even or odd lanes of a, then of b. -/
def execVunzip (g : Guard) (o : FmtA) (s : State) : Result :=
  .next (s.issueLanes g fun m s => s.vecPerm o m fun l a b k => let e := if o.sub = 0 then 0 else 1; if k < l / 2 then a (2 * k + e) else b (2 * (k - l / 2) + e))

/-- `vsel` (R149): a[k] where bit Byte(k) of P(S3) is 1, else b[k]. -/
def execVsel (g : Guard) (o : FmtA) (s : State) : Result :=
  .next (s.issueLanes g fun m s =>
    let p := s.getP o.s3
    s.vecPerm o m fun _ a b k => if activeLane o.ty.width p k then a k else b k)

/-- The active lanes, in ascending order (R149). -/
def activeLanes (ty : Ty) (mask : Word) : List Nat := (List.range ty.lanes).filter (activeLane ty.width mask)

/-- `vcompress` (R149): the active lanes of a, written from lane 0 on. -/
def execVcompress (g : Guard) (o : FmtA) (s : State) : Result :=
  .next (s.issueLanes g fun m s =>
    let w := o.ty.width
    let a := s.getV o.s1
    let old := s.getV o.d
    let from' := activeLanes o.ty m
    s.vecLanes o.d o.ty Word.ones fun k => match from'[k]? with
      | some j => laneOf a w j
      | none => laneOf old w k)

/-- `vexpand` (R149): a[0], a[1], … into the active lanes. -/
def execVexpand (g : Guard) (o : FmtA) (s : State) : Result :=
  .next (s.issueLanes g fun m s =>
    let w := o.ty.width
    let a := s.getV o.s1
    s.vecLanes o.d o.ty m fun k => laneOf a w ((List.range k).countP (activeLane w m)))

/-- `vmov` (R149): a[k]. -/
def execVmov (g : Guard) (o : FmtA) (s : State) : Result :=
  .next (s.issueLanes g fun m s => s.vecBits o m fun _ a _ => a)

/-! Major 0x34 (R150, R151). -/

/-- One level of the tree (R150): neighbours added with one rounding, a lone value passed on unchanged. -/
def treeLevel (ty : Ty) (rm : RM) (sat : Bool) : List (Option XReal) → List (Option XReal)
  | some a :: some b :: rest => some (floatOf ty (roundFloat ty (a.add b rm) rm sat)) :: treeLevel ty rm sat rest
  | some a :: none :: rest => some a :: treeLevel ty rm sat rest
  | none :: b :: rest => b :: treeLevel ty rm sat rest
  | rest => rest

/-- Levels of the tree until one value remains. -/
def treeLevels (ty : Ty) (rm : RM) (sat : Bool) : Nat → List (Option XReal) → Option XReal
  | 0, x => x.headD none
  | n + 1, x => treeLevels ty rm sat n (treeLevel ty rm sat x)

/-- `Tree` of R150 over 2^n values; +0 with none present. -/
def treeSum (ty : Ty) (rm : RM) (sat : Bool) (n : Nat) (x : List (Option XReal)) : Nat :=
  match treeLevels ty rm sat n x with
  | none => 0
  | some v => roundFloat ty v rm sat

/-- Result type of an integer reduction (R151). -/
def reduceWidth (ty : Ty) : Nat :=
  match ty with
  | .i32 | .i64 => 64
  | _ => 32

/-- An integer reduction: the exact result fitted once to its result type and extended by U (R151). -/
def State.reduceInt (s : State) (o : FmtA) (r : Int) : State := s.writeS o.d (fitWord (reduceWidth o.ty) o.u o.sat r)

/-- The active lanes of V(S1), by code (R150). -/
def State.activeValues (s : State) (o : FmtA) (mask : Word) : List Nat :=
  (activeLanes o.ty mask).map (laneOf (s.getV o.s1) o.ty.width)

/-- `vredadd` (R151). -/
def execVredadd (g : Guard) (o : FmtA) (s : State) : Result :=
  .next (s.issueLanes g fun m s =>
    s.reduceInt o (((s.activeValues o m).map (intOf o.ty.width o.u)).foldl (· + ·) 0))

/-- `vredmax` (R151): with no active lane the smallest value of the element type, or the canonical NaN. -/
def execVredmax (g : Guard) (o : FmtA) (s : State) : Result :=
  .next (s.issueLanes g fun m s =>
    let vs := s.activeValues o m
    if o.ty.isInt then s.reduceInt o ((vs.map (intOf o.ty.width o.u)).foldl max (intMin o.ty.width o.u))
    else s.writeS o.d (floatWord (vs.foldl (floatMax o.ty) o.ty.nanCode)))

/-- `vredmin` (R151): with no active lane the largest value of the element type, or the canonical NaN. -/
def execVredmin (g : Guard) (o : FmtA) (s : State) : Result :=
  .next (s.issueLanes g fun m s =>
    let vs := s.activeValues o m
    if o.ty.isInt then s.reduceInt o ((vs.map (intOf o.ty.width o.u)).foldl min (intMax o.ty.width o.u))
    else s.writeS o.d (floatWord (vs.foldl (floatMin o.ty) o.ty.nanCode)))

/-- `vredfadd` (R151): the tree over the lanes, inactive ones absent (R150). -/
def execVredfadd (g : Guard) (o : FmtA) (s : State) : Result :=
  .next (s.issueLanes g fun m s =>
    let w := o.ty.width
    let a := s.getV o.s1
    let x := (List.range o.ty.lanes).map fun k => if activeLane w m k then some (floatOf o.ty (laneOf a w k)) else none
    s.writeS o.d (floatWord (treeSum o.ty o.rm o.sat (Nat.log2 o.ty.lanes) x)))

/-- `vdot` (R151): exact integer sum of products, or the tree of exact products in FP32. -/
def execVdot (g : Guard) (o : FmtA) (s : State) : Result :=
  .next (s.issueLanes g fun m s =>
    let w := o.ty.width
    let a := s.getV o.s1
    let b := s.getV o.s2
    if o.ty.isInt then
      s.reduceInt o (((activeLanes o.ty m).map fun k =>
        intOf w o.u (laneOf a w k) * intOf w o.u (laneOf b w k)).foldl (· + ·) 0)
    else
      let x := (List.range o.ty.lanes).map fun k =>
        if activeLane w m k then some ((floatOf o.ty (laneOf a w k)).mul (floatOf o.ty (laneOf b w k))) else none
      s.writeS o.d (floatWord (treeSum .fp32 o.rm o.sat (Nat.log2 o.ty.lanes) x)))

end Sys2Proof.Machine
end

