-- ==== Sys2Proof/Machine/Matrix.lean ====
section
/-! DEFINITION. The matrix array (R213-R227). -/

namespace Sys2Proof.Machine

/-! Configuration (R214-R216). -/

/-- ATY. -/
def Matrix.aty (m : Matrix) : Option Ty := Ty.ofCode (bits m.config 28 4)
/-- BTY. -/
def Matrix.bty (m : Matrix) : Option Ty := Ty.ofCode (bits m.config 24 4)
/-- WPORT. -/
def Matrix.wport (m : Matrix) : BitVec 4 := bits m.config 20 4
/-- NPORT. -/
def Matrix.nport (m : Matrix) : BitVec 4 := bits m.config 16 4
/-- EVALID. -/
def Matrix.evalid (m : Matrix) : Bool := m.config.getLsbD 15
/-- EPORT. -/
def Matrix.eport (m : Matrix) : BitVec 4 := bits m.config 8 4
/-- SVALID. -/
def Matrix.svalid (m : Matrix) : Bool := m.config.getLsbD 7
/-- SPORT. -/
def Matrix.sport (m : Matrix) : BitVec 4 := bits m.config 0 4

/-- Operand word size WB of a type pair; none where the array does not accept it (R216). -/
def pairBytes (a b : Option Ty) : Option Nat :=
  match a, b with
  | some .bf16, some .bf16 => some 32
  | some .fp16, some .fp16 => some 32
  | some .i8, some .i8 => some 16
  | some .i4, some .i4 => some 16
  | some a, some b => if a.isFp8 && b.isFp8 then some 16 else none
  | _, _ => none

/-- WB of the configured pair. -/
def Matrix.wordBytes (m : Matrix) : Nat := (pairBytes m.aty m.bty).getD 16

/-- Whether the configured pair is a float pair. -/
def Matrix.isFloat (m : Matrix) : Bool := match m.aty with
  | some t => !t.isInt
  | none => false

/-- The accumulator tile of a number. -/
def Matrix.acc (m : Matrix) (one : Bool) : Vector Vec 16 := if one then m.m1 else m.m0

/-- An accumulator tile replaced. -/
def Matrix.setAcc (m : Matrix) (one : Bool) (v : Vector Vec 16) : Matrix := if one then { m with m1 := v } else { m with m0 := v }

/-- sys.mcfg (R215). -/
def Matrix.sysreg (m : Matrix) : Word :=
  BitVec.ofNat 64 (m.config.toNat + (if m.cvalid then 2 ^ 32 else 0) + (if m.busy then 2 ^ 33 else 0) +
    ((m.owner.map (·.val)).getD 0) * 2 ^ 34 + (if m.owner.isSome then 2 ^ 36 else 0) + (if m.act then 2 ^ 37 else 0) +
    (if m.drain then 2 ^ 38 else 0) + (if m.run then 2 ^ 39 else 0) + m.fired.toNat * 2 ^ 40 + m.cause.toNat * 2 ^ 56)

/-- The array changed. -/
def State.modMatrix (s : State) (t : TileId) (f : Matrix → Matrix) : State :=
  s.modTile t fun x => { x with matrix := f x.matrix }

/-! Firing (R217). -/

/-- Element i of k-step `step` of an operand word (R216). -/
def operandElem (ty : Ty) (word i step : Nat) : Nat :=
  if ty = .i4 then word / 2 ^ (8 * i + 4 * step) % 16 else word / 2 ^ (ty.width * i) % 2 ^ ty.width

/-- One accumulator element after one product (R217). -/
def accumulate (aty bty : Ty) (acc x y : Nat) : Nat :=
  if aty.isInt then wrapTo 32 (acc + intOf aty.width false x * intOf bty.width false y)
  else roundFloat .fp32 ((floatOf .fp32 acc).add ((floatOf aty x).mul (floatOf bty y)) .rne) .rne false

/-- One k-step: every element of every row. -/
def fireStep (aty bty : Ty) (a b step : Nat) (acc : Vector Vec 16) : Vector Vec 16 :=
  (List.finRange 16).foldl (fun v (i : Fin 16) =>
    v.set i (vecOf 32 16 fun j =>
      accumulate aty bty (laneOf v[i] 32 j) (operandElem aty a i.val step) (operandElem bty b j step))) acc

/-- Fire(a, b) into the active accumulator (R217). -/
def Matrix.fire (m : Matrix) (a b : Nat) : Matrix :=
  match m.aty, m.bty with
  | some aty, some bty =>
    let acc := fireStep aty bty a b 0 (m.acc m.act)
    m.setAcc m.act (if aty = .i4 then fireStep aty bty a b 1 acc else acc)
  | _, _ => m

/-! Instructions (R220, R221, R223-R227). -/

/-- What every instruction of major 0x50 does first: ILL unless its context owns the array (R213), then the fault that
ended the last run, which trap entry clears (R220). -/
def State.matrixOp (s : State) (effect : Matrix → State → State) : State :=
  let m := s.curTile.matrix
  if m.owner ≠ some s.ctx then s.trapIll
  else if m.cause ≠ 0 then (s.modMatrix s.here fun m => { m with cause := 0 }).trap m.cause m.faultWord
  else effect m s

/-- `mma` (R224): a run of S(S1) firings, or without end for 0. -/
def execMma (g : Guard) (o : FmtQ) (s : State) : Result :=
  .next (s.issue g (·.matrixOp fun m s =>
    if !m.cvalid then s.trapOpen Cause.chan
    else if m.run || m.busy then s.stall
    else
      let n := (s.getS o.s1).toNat
      (s.modMatrix s.here fun m => { m with run := true, fired := 0, remaining := if n = 0 then none else some n }).retire))

/-- The 64/WB operand word pairs of two vector registers fired in order (R225). -/
def Matrix.fireVectors (m : Matrix) (a b : Vec) : Matrix :=
  let w := 8 * m.wordBytes
  (List.range (64 / m.wordBytes)).foldl (fun m q => m.fire (field a (w * q) w) (field b (w * q) w)) m

/-- `mmav` (R225): 64/WB word pairs from registers; BUSY for 4 cycles. -/
def execMmav (g : Guard) (o : FmtQ) (s : State) : Result :=
  .next (s.issue g (·.matrixOp fun m s =>
    if !m.cvalid then s.trap Cause.chan 0
    else if m.run || m.busy then s.stall
    else
      let a := s.getV o.s1
      let b := s.getV o.s2
      (s.modMatrix s.here fun m => { m.fireVectors a b with busy := true }).retire))

/-- MMAV_DONE (R225): BUSY ends. -/
def execMmavDone (t : TileId) (s : State) : Result :=
  if (s.tile t).matrix.busy then .next (s.modMatrix t fun m => { m with busy := false }) else .next s.stall

/-- The accumulator that IMM16 names (R223). -/
def accOf (o : FmtQ) : Bool := o.imm.toNat % 2 == 1

/-- Whether an instruction that writes the named tile has to wait (R221). -/
def Matrix.writeWaits (m : Matrix) (one : Bool) : Bool := if one = m.act then m.run || m.busy else m.drain

/-- `mzero` (R223). -/
def execMzero (g : Guard) (o : FmtQ) (s : State) : Result :=
  .next (s.issue g (·.matrixOp fun m s =>
    if m.writeWaits (accOf o) then s.stall
    else (s.modMatrix s.here (·.setAcc (accOf o) (Vector.replicate 16 0))).retire))

/-- `mswap` (R223). -/
def execMswap (g : Guard) (_ : FmtQ) (s : State) : Result :=
  .next (s.issue g (·.matrixOp fun m s =>
    if m.run || m.busy || m.drain then s.stall
    else (s.modMatrix s.here fun m => { m with act := !m.act }).retire))

/-- The row that S(S1)[3:0] names (R223). -/
def State.rowOf (s : State) (o : FmtQ) : Fin 16 := ⟨(s.getS o.s1).toNat % 16, Nat.mod_lt _ (by decide)⟩

/-- `mrd` (R223). -/
def execMrd (g : Guard) (o : FmtQ) (s : State) : Result :=
  .next (s.issue g (·.matrixOp fun m s =>
    if accOf o = m.act && (m.run || m.busy) then s.stall
    else s.writeV o.d ((m.acc (accOf o))[s.rowOf o])))

/-- `mwr` (R223). -/
def execMwr (g : Guard) (o : FmtQ) (s : State) : Result :=
  .next (s.issue g (·.matrixOp fun m s =>
    if m.writeWaits (accOf o) then s.stall
    else (s.modMatrix s.here fun m => m.setAcc (accOf o) ((m.acc (accOf o)).set (s.rowOf o) (s.getV o.s2))).retire))

/-- SRCTY of the channel that leaves a source (R177). -/
def State.sourceType (s : State) (t : TileId) (e : Nat) : Option Ty :=
  match s.sinkOf t e with
  | none => none
  | some (u, k) => ((s.tile u).cfg.sinkCfg k).srcTy

/-- Whether a drain may go to a channel of a source type (R226). -/
def Matrix.drainType (m : Matrix) (ty : Option Ty) : Bool :=
  match ty with
  | none => true
  | some ty => if m.cvalid then ty == (if m.isFloat then Ty.fp32 else Ty.i32) else ty == .fp32 || ty == .i32

/-- `mdrain` (R226). -/
def execMdrain (g : Guard) (o : FmtQ) (s : State) : Result :=
  .next (s.issue g (·.matrixOp fun m s =>
    match s.cur.port o.port with
    | .output e =>
      if s.curTile.forwardPort s.ctx o.port || !m.drainType (s.sourceType s.here e) then s.trapOpen Cause.chan
      else if m.drain || m.swapWait.isSome then s.stall
      else (s.modMatrix s.here fun m => { m with
        drain := true, drainPort := o.port, drainTok := o.tok, drainZero := o.m7.getLsbD 0, drainPos := 0 }).retire
    | _ => s.trapOpen Cause.chan))

/-- DRAIN_ENTRY (R226): the next entry of a drain, as credits allow; DRAIN ends with the last one. -/
def execDrainEntry (t : TileId) (s : State) : Result :=
  let x := s.tile t
  let m := x.matrix
  match m.drain && !x.snapped, m.owner with
  | true, some c => match x.ctxs[c].port m.drainPort with
    | .output e =>
      if (x.source e).credits = 0 then .next s.stall
      else
        let b := x.cfg.sourceBytes e
        let per := 64 / b
        let rows := 16 * per
        let p := m.drainPos
        let hasTok := m.drainTok ≠ 0
        let last := if hasTok then decide (p = rows) else decide (p + 1 = rows)
        let row := (m.acc (!m.act))[(⟨p / per % 16, Nat.mod_lt _ (by decide)⟩ : Fin 16)]
        let s := if p < rows then s.emit t e (BitVec.ofNat 256 (field row (8 * b * (p % per)) (8 * b))) Kind.data
          else s.emit t e 0 m.drainTok
        .next (s.modMatrix t fun m =>
          let m := if p + 1 = rows && m.drainZero then m.setAcc (!m.act) (Vector.replicate 16 0) else m
          { m with drainPos := p + 1, drain := !last })
    | _ => .next s.stall
  | _, _ => .next s.stall

/-- Whether a port of a context is bound as an input of a channel with a word size (R227). -/
def Tile.inputOf (x : Tile) (c : Fin 4) (k : BitVec 4) (bytes : Nat) : Bool :=
  match x.ctxs[c].port k with
  | .input e => x.cfg.sinkBytes e == bytes
  | _ => false

/-- Whether a port of a context is bound as an output of a channel with a word size (R227). -/
def Tile.outputOf (x : Tile) (c : Fin 4) (k : BitVec 4) (bytes : Nat) : Bool :=
  match x.ctxs[c].port k with
  | .output e => x.cfg.sourceBytes e == bytes
  | _ => false

/-- Whether a word is a configuration that `mcfg` accepts for an owner (R214, R216, R227). -/
def Tile.mcfgOk (x : Tile) (c : Fin 4) (w : Word) : Bool :=
  let m := { x.matrix with config := w.truncate 32 }
  let ports := [m.wport, m.nport] ++ (if m.evalid then [m.eport] else []) ++ (if m.svalid then [m.sport] else [])
  field w 32 32 == 0 && field w 12 3 == 0 && field w 4 3 == 0 &&
  match pairBytes m.aty m.bty with
  | none => false
  | some b => x.inputOf c m.wport b && x.inputOf c m.nport b && (!m.evalid || x.outputOf c m.eport b) &&
      (!m.svalid || x.outputOf c m.sport b) && decide ports.Nodup

/-- `mcfg` (R227). -/
def execMcfg (g : Guard) (o : FmtQ) (s : State) : Result :=
  .next (s.issue g (·.matrixOp fun m s =>
    let w := s.getS o.s1
    if !s.curTile.mcfgOk s.ctx w then s.trap Cause.chan w
    else if m.run || m.busy || m.drain then s.stall
    else (s.modMatrix s.here fun m => { m with config := w.truncate 32, cvalid := true }).retire))

/-- `mcfg.give` (R227). -/
def execMcfgGive (g : Guard) (o : FmtQ) (s : State) : Result :=
  .next (s.issue g (·.matrixOp fun m s =>
    let w := s.getS o.s1
    if 4 ≤ w.toNat then s.trapOpen Cause.chan
    else if m.run || m.busy || m.drain then s.stall
    else (s.modMatrix s.here fun m => { m with owner := some ⟨w.toNat % 4, Nat.mod_lt _ (by decide)⟩ }).retire))

/-! Runs (R218, R219). -/

/-- The heads of the operand ports of a running array, with its owner. -/
def Tile.operands (x : Tile) : Option (Fin 4 × Option Entry × Option Entry) :=
  let m := x.matrix
  match m.run, m.owner with
  | true, some c => some (c, (x.portQueue c m.wport.toFin).head?, (x.portQueue c m.nport.toFin).head?)
  | _, _ => none

/-- Whether an output port of the array has a credit. -/
def Tile.portCredit (x : Tile) (c : Fin 4) (k : BitVec 4) : Bool :=
  match x.ctxs[c].port k with
  | .output e => decide (0 < (x.source e).credits)
  | _ => false

/-- Whether the array can forward on both sides (R218). -/
def Tile.canForward (x : Tile) (c : Fin 4) : Bool :=
  let m := x.matrix
  (!m.evalid || x.portCredit c m.eport) && (!m.svalid || x.portCredit c m.sport)

/-- An entry forwarded on a side, where that side is valid. -/
def State.forward (s : State) (t : TileId) (c : Fin 4) (valid : Bool) (port : BitVec 4) (word : BitVec 256)
    (kind : BitVec 4) : State := if valid then s.putPort t c port [(word, kind)] else s

/-- Both heads taken and forwarded (R218, R219). -/
def State.takePair (s : State) (t : TileId) (c : Fin 4) (a b : Entry) (forward : Bool) : State :=
  let m := (s.tile t).matrix
  let s := (s.takePort t c m.wport 1).takePort t c m.nport 1
  if forward then (s.forward t c m.evalid m.eport a.word a.kind).forward t c m.svalid m.sport b.word b.kind else s

/-- MATRIX_FIRE (R218): one firing of a run. -/
def execMatrixFire (t : TileId) (s : State) : Result :=
  match (s.tile t).operands with
  | some (c, some a, some b) =>
    if (s.tile t).snapped then .next s.stall
    else if a.kind = Kind.data && b.kind = Kind.data && (s.tile t).canForward c && (s.tile t).matrix.swapWait.isNone then
      .next ((s.takePair t c a b true).modMatrix t fun m =>
        let m := { m.fire a.word.toNat b.word.toNat with fired := m.fired + 1 }
        match m.remaining with
        | none => m
        | some n => if n ≤ 1 then { m with run := false, remaining := none } else { m with remaining := some (n - 1) })
    else .next s.stall
  | _ => .next s.stall

/-- A run that ends with a fault (R219, R220). -/
def Matrix.endWith (m : Matrix) (cause : BitVec 8) (word : Word) : Matrix :=
  { m with run := false, remaining := none, cause := cause, faultWord := word }

/-- A SWAP pair taken exchanges the accumulators and is forwarded, each token with the word it came with, as the other
token pairs are (R219). -/
def State.exchange (s : State) (t : TileId) (c : Fin 4) (words : BitVec 256 × BitVec 256) : State :=
  let m := (s.tile t).matrix
  ((s.modMatrix t fun m => { m with act := !m.act, swapWait := none }).forward t c m.evalid m.eport words.1
    Kind.swap).forward t c m.svalid m.sport words.2 Kind.swap

/-- MATRIX_SWAP_TOKEN (R219): a SWAP pair is taken; the exchange waits until DRAIN = 0, and for the credits of the tokens that it
appends. -/
def execMatrixSwapToken (t : TileId) (s : State) : Result :=
  let x := s.tile t
  match x.operands with
  | some (c, a, b) =>
    if x.snapped then .next s.stall
    else match x.matrix.swapWait with
    | some words => if x.matrix.drain || !x.canForward c then .next s.stall else .next (s.exchange t c words)
    | none => match a, b with
      | some a, some b =>
        if a.kind = Kind.swap && b.kind = Kind.swap && x.canForward c then
          let s := s.takePair t c a b false
          .next (if x.matrix.drain then s.modMatrix t fun m => { m with swapWait := some (a.word, b.word) } else s.exchange t c (a.word, b.word))
        else .next s.stall
      | _, _ => .next s.stall
  | none => .next s.stall

/-- MATRIX_TOKEN_PAIR (R219): tokens other than SWAP at the operand heads, ERR heads and heads that do not go together. The
fault word of a mismatch holds the kind at WPORT in [7:4] and the kind at NPORT in [3:0] (log entry 16). -/
def execMatrixTokenPair (t : TileId) (s : State) : Result :=
  let x := s.tile t
  let m := x.matrix
  match x.operands with
  | none => .next s.stall
  | some (c, a, b) =>
    if x.snapped then .next s.stall else
    let isErr := fun (e : Option Entry) => match e with
      | some e => e.kind == Kind.err
      | none => false
    if m.swapWait.isSome then .next s.stall
    else if isErr a then
      let e := a.getD ⟨0, 0, .direct⟩
      if m.evalid && !x.portCredit c m.eport then .next s.stall
      else .next (((s.takePort t c m.wport 1).forward t c m.evalid m.eport e.word e.kind).modMatrix t
        (·.endWith Cause.poison (e.word.truncate 64)))
    else if isErr b then
      let e := b.getD ⟨0, 0, .direct⟩
      if m.svalid && !x.portCredit c m.sport then .next s.stall
      else .next (((s.takePort t c m.nport 1).forward t c m.svalid m.sport e.word e.kind).modMatrix t
        (·.endWith Cause.poison (e.word.truncate 64)))
    else match a, b with
      | some a, some b =>
        if a.kind ≠ b.kind then
          .next (s.modMatrix t (·.endWith Cause.chan (BitVec.ofNat 64 (a.kind.toNat * 16 + b.kind.toNat))))
        else if a.kind = Kind.data || a.kind = Kind.swap || !x.canForward c then .next s.stall
        else
          let s := s.takePair t c a b true
          .next (if a.kind = Kind.eoi then s.modMatrix t fun m => { m with run := false, remaining := none } else s)
      | _, _ => .next s.stall

end Sys2Proof.Machine
end

