-- ==== Sys2Proof/Machine/System.lean ====
section
/-! DEFINITION. The system registers (R379, R97, R122, R215, R246) and the instructions of major 0xC0 (R380-R386,
R395-R398). -/

namespace Sys2Proof.Machine

/-! System registers. -/

/-- sys.tile (R379). -/
def TileId.sysreg (t : TileId) : Word := BitVec.ofNat 64 (t.die % 8 * 2 ^ 16 + t.row % 64 * 2 ^ 8 + t.col % 128)

/-- The value of a system register for a context of a tile; none where the number is not listed (R379). -/
def State.readSys (s : State) (t : TileId) (k : Fin 4) (n : Nat) : Option Word :=
  let x := s.tile t
  let c := x.ctxs[k]
  let r := s.regionOf t
  match n with
  | 0x00 => some (BitVec.ofNat 64 (c.last.toNat * 2 ^ 8 + k.val))
  | 0x01 => some (TileId.sysreg t)
  | 0x02 => some (BitVec.ofNat 64 ((r.map fun (r : Region) => r.launch.cols * 2 ^ 32 + r.launch.rows * 2 ^ 16 + r.number).getD 0))
  | 0x03 => some (((r.map fun (r : Region) => r.gen).getD 0).zeroExtend 64)
  | 0x04 => some ((s.tenantOf t).zeroExtend 64)
  | 0x05 => some ((s.asidOf t).zeroExtend 64)
  | 0x10 => some c.status
  | 0x11 => some (c.cause.zeroExtend 64)
  | 0x12 => some (c.epc.zeroExtend 64)
  | 0x13 => some c.eva
  | 0x14 => some c.einfo
  | 0x15 => some (c.hvec.zeroExtend 64)
  | 0x16 => some (bits c.banks 0 64)
  | 0x17 => some ((bits c.banks 64 32).zeroExtend 64)
  | 0x20 => some x.cycle
  | 0x21 => some c.retired
  | 0x22 => some (Word.ofBool c.evmask)
  | 0x23 => some c.evpend
  | 0x24 => some (((r.map fun (r : Region) => r.horizon).getD 0).zeroExtend 64)
  | 0x25 => some x.discard
  | 0x30 => some x.matrix.sysreg
  | 0x40 => some c.dbg
  | _ => none

/-- Registers that only supervisor mode reads (R379). -/
def readNeedsSupervisor (n : Nat) : Bool := decide (0x11 ≤ n ∧ n ≤ 0x14)

/-- Registers that user mode writes (R379). -/
def userWritable (n : Nat) : Bool := n == 0x22 || n == 0x23

/-- Registers that no `syswr` writes: PRIV in user mode, ILL in supervisor mode (R379). -/
def neverWritten (n : Nat) : Bool :=
  decide (n ≤ 0x05) || n == 0x16 || n == 0x17 || n == 0x20 || n == 0x21 || n == 0x30

/-- Bits of a register that must be zero in what a `syswr` writes (R379, R246). -/
def zeroFields (n : Nat) : Word :=
  match n with
  | 0x10 => ~~~(0xF : Word)
  | 0x11 => ~~~(0xFF : Word)
  | 0x12 | 0x15 => ~~~(0x7FF : Word)
  | 0x22 => ~~~(0x1 : Word)
  | 0x23 => ~~~(0x3 : Word)
  | 0x24 => ~~~(0xFFFFFFFF : Word)
  | 0x40 => ~~~(0x7FFFF03 : Word)
  | _ => 0

/-- A register of a context written (R379): read-only fields ignore what is written. -/
def Ctx.writeSys (c : Ctx) (n : Nat) (v : Word) : Ctx :=
  match n with
  | 0x10 => { c with pmode := if v.getLsbD 1 then .supervisor else .user, trapped := v.getLsbD 2 }
  | 0x11 => { c with cause := v.truncate 8 }
  | 0x12 => { c with epc := v.truncate 11 }
  | 0x13 => { c with eva := v }
  | 0x14 => { c with einfo := v }
  | 0x15 => { c with hvec := v.truncate 11 }
  | 0x22 => { c with evmask := v.getLsbD 0 }
  | 0x23 => { c with evLate := c.evLate && !v.getLsbD 0 }
  | 0x40 => { c with brkHalt := v.getLsbD 0, dbgStep := v.getLsbD 1 }
  | _ => c

/-- A register written for a context of a tile: those held per region and per tile in their place (R379). -/
def State.writeSys (s : State) (t : TileId) (k : Fin 4) (n : Nat) (v : Word) : State :=
  match n with
  | 0x24 => match s.regionOf t with
    | some r => s.modRegion r.number fun r => { r with horizon := v.truncate 32 }
    | none => s
  | 0x25 => s.modTile t fun x => { x with discard := v }
  | _ => s.modCtx t k (·.writeSys n v)

/-- `sysrd` (R380). -/
def execSysrd (g : Guard) (o : FmtS) (s : State) : Result :=
  .next (s.issue g fun s =>
    let n := o.sreg.toNat
    if readNeedsSupervisor n && s.cur.mode == .user then s.trap Cause.priv s.curWord
    else match s.readSys s.here s.ctx n with
      | some v => s.writeS o.d v
      | none => s.trapIll)

/-- The checks and the effect of a `syswr` (R380). -/
def State.sysWrite (s : State) (o : FmtS) : State :=
  let n := o.sreg.toNat
  let v := s.getS o.s1
  if !userWritable n && s.cur.mode == .user then s.trap Cause.priv s.curWord
  else if neverWritten n || (s.readSys s.here s.ctx n).isNone then s.trapIll
  else if v &&& zeroFields n ≠ 0 then s.trapIll
  else (s.writeSys s.here s.ctx n v).retire

/-- `syswr` (R380). -/
def execSyswr (g : Guard) (o : FmtS) (s : State) : Result := .next (s.issue g (·.sysWrite o))

/-- `syswr` of sys.horizon (R246, R380). -/
def execHorizonWrite (g : Guard) (o : FmtS) (s : State) : Result := .next (s.issue g (·.sysWrite o))

/-- `syswr` of sys.evpend (R379, R380): writing 1 to LATE clears it. -/
def execEvpendWrite (g : Guard) (o : FmtS) (s : State) : Result := .next (s.issue g (·.sysWrite o))

/-! Traps, waits and halts. -/

/-- `trap` (R386): sys.epc is its own index + 1 (R382). -/
def execTrap (g : Guard) (o : FmtS) (s : State) : Result :=
  .next (s.issue g fun s => s.trapIn s.here s.ctx Cause.trap (s.cur.pc + 1) 0 (o.sreg.zeroExtend 64))

/-- `eret` (R383); sys.einfo of its ILL is open (log entry 3). -/
def execEret (g : Guard) (_ : FmtS) (s : State) : Result :=
  .next (s.issueJump g fun s =>
    if s.cur.mode = .user then s.trapOpen Cause.ill else s.modCur fun c => { c.trapReturn with retired := c.retired + 1 })

/-- The issuing context halts after its instruction, once its register writes have landed (R395). -/
def State.haltHere (s : State) (cause : BitVec 8) : State :=
  if s.cur.landing.all fun p => decide (p.2 ≤ s.curTile.cycle.toNat) then
    (s.retire).modCur fun c => c.halt cause s.cur.pc
  else s.stall

/-- `ebrk` (R386): a trap, or a halt where BRKHALT is 1. -/
def execEbrk (g : Guard) (o : FmtS) (s : State) : Result :=
  .next (if s.cur.brkHalt then s.issue g (·.haltHere 2)
         else s.issueJump g fun s => s.trap Cause.ebrk (o.sreg.zeroExtend 64))

/-- `wfe` (R385). -/
def execWfe (g : Guard) (o : FmtS) (s : State) : Result :=
  .next (s.issue g fun s =>
    let m := s.getS o.s1 &&& 3
    if m ≠ 0 && s.cur.evpend &&& m = 0 then s.stall else s.retire)

/-- The range of `tlbinv`: the aligned block that contains an address (R398). -/
def tlbRange (size : Nat) (va : Nat) : Nat × Nat :=
  let n := match size with
    | 0 => 2 ^ 16
    | 1 => 2 ^ 26
    | 2 => 2 ^ 36
    | _ => 2 ^ 56
  (va / n * n, va / n * n + n - 1)

/-- `tlbinv` (R398): an invalidation under sys.asid over every die; the context goes on when it completes. -/
def execTlbinv (g : Guard) (o : FmtS) (s : State) : Result :=
  .next (s.supervised fun s => s.issue g fun s =>
    let (lo, hi) := tlbRange (o.sreg.toNat % 4) (field (s.getS o.s1) 0 56)
    let (k, s) := s.invalidate (s.asidOf s.here) lo hi none
    s.modCur fun c => { c with wait := .inval k })

/-- `chalt` (R397). -/
def execChalt (g : Guard) (_ : FmtS) (s : State) : Result :=
  .next (s.supervised fun s => s.issue g (·.haltHere 1))

/-- `cresume` (R397). -/
def execCresume (g : Guard) (o : FmtS) (s : State) : Result :=
  .next (s.supervised fun s => s.issue g fun s =>
    let k : Fin 4 := ⟨(s.getS o.s1).toNat % 4, Nat.mod_lt _ (by decide)⟩
    (s.modCtx s.here k Ctx.resume).retire)

end Sys2Proof.Machine
end

