-- ==== Sys2Proof/Machine/Commands.lean ====
section
/-! DEFINITION. The commands of a host (R419-R422): queues, memory, routing, dies, regions, debug and circuits. -/

namespace Sys2Proof

/-- An argument as a number. -/
def Cmd.arg (c : Cmd) (i : Fin 7) : Nat := c.a[i].toNat

/-- Whether A0 and A1 name a region and a generation. -/
def Cmd.namesRegion (c : Cmd) : Bool := decide (c.arg 0 < 2048 ∧ c.arg 1 < 256)

/-- The 64-byte record of a command with an OP (R419). -/
def Cmd.record (c : Cmd) (op : Nat) : BitVec 512 :=
  BitVec.ofNat 512 (op + c.tag.toNat * 2 ^ 32 + (c.a.toList.foldr (fun w acc => w.toNat + 2 ^ 64 * acc) 0) * 2 ^ 64)

end Sys2Proof

namespace Sys2Proof.Machine

/-! How a command is answered. -/

/-- An answer to a command. -/
def State.answer (s : State) (c : Cmd) (op status : Nat) (r : List Word) : State := s.respond c.node c.tag op status r

/-- OK. -/
def State.ok (s : State) (c : Cmd) (op : Nat) : State := s.answer c op 0 []
/-- REFUSED. -/
def State.refuse (s : State) (c : Cmd) (op : Nat) : State := s.answer c op 2 []
/-- BADARG. -/
def State.badArg (s : State) (c : Cmd) (op : Nat) : State := s.answer c op 3 []
/-- BUSY. -/
def State.busy (s : State) (c : Cmd) (op : Nat) : State := s.answer c op 4 []
/-- DENIED; in recovery with an empty host list nothing is answered (R424). -/
def State.deny (s : State) (c : Cmd) (op : Nat) : State :=
  if s.power = .recovery && s.hub.hosts.isEmpty then s else s.answer c op 5 []

/-- A record without its bytes 2-3, which are zero (R419). -/
def recordFields (r : BitVec 512) : BitVec 512 := r &&& ~~~(0xFFFF0000#512)

/-- Whether what came before a command on its node stream has performed: earlier requests of the node, and its messages for the
loft (R422). -/
def State.requestsDone (s : State) (x : CmdIn) : Bool :=
  !(s.hub.inbound.any fun q => q.node == x.node && decide (q.n < x.before)) &&
  !(s.hub.loftIn.any fun m => m.2.key.1 == x.node && decide (m.1 < x.before))

/-- A command performed: the first record of its node's stream that has come in over Dyfold, once the requests before it have
performed; only for a node that the host list named when it arrived, in recovery only some, and only with arguments that are well
formed (R6, R419, R422, R424, R425). -/
def State.command (s : State) (c : Cmd) (op : Nat) (inRecovery formed : Bool) (effect : State → State) : Result :=
  .next (match s.hub.cmdsIn.find? fun x => x.node == c.node with
    | none => s.stall
    | some x =>
      if recordFields x.record ≠ c.record op || !s.requestsDone x then s.stall
      else
        let s := { s with hub := { s.hub with cmdsIn := s.hub.cmdsIn.erase x } }
        if !x.listed then s.deny c op
        else if s.power = .recovery && !inRecovery then s.refuse c op
        else if !formed || bits x.record 16 16 ≠ 0 then s.badArg c op
        else effect s)

/-! Queues (R83-R86). -/

/-- A queue's settings changed: entering ENABLED from another state starts it afresh (R84). Where settings of an ENABLED queue
change, its head record is examined anew under the new ones: it is no candidate till then, its met dependences and W are
dropped (DESIGN CHOICE, log entry 87). What was read under the earlier settings counts no more. -/
def WorkQueue.configure (w : WorkQueue) (base k : Nat) (tenant : BitVec 12) (asid : BitVec 16) (st : QState) : WorkQueue :=
  let w' := { w with base := base, k := k, tenant := tenant, asid := asid, st := st }
  let w' := if w' = w then w else { w' with met := [], cand := none, waited := 0 }
  let w' := { w' with reads := w.reads + 1 }
  if st = .enabled && w.st ≠ .enabled then { w' with head := 0, tail := 0, c := 0, ended := [], epoch := w.epoch + 1 } else w'

/-- State of a queue by its number in A4. -/
def qstateOf (n : Nat) : QState := if n = 0 then .disabled else if n = 1 then .enabled else .error

/-- QCONFIG (R83, R84, R420). -/
def execQconfig (c : Cmd) (s : State) : Result :=
  let base := c.arg 1
  s.command c 0x01 false (decide (c.arg 0 < 16384 ∧ base % 128 = 0 ∧ base < 2 ^ 56 ∧ 2 ≤ c.arg 2 ∧ c.arg 2 ≤ 16 ∧ c.arg 3 < 2 ^ 28 ∧ c.arg 4 ≤ 2))
    fun s =>
      let owned := fun (o : Nat) => decide (2 ^ 20 ≤ o) && (o - 2 ^ 20) / 2 ^ 32 % 2 ^ 14 == c.arg 0
      let s := { s with hub := { s.hub with fetched := s.hub.fetched.filter (fun f => !owned f.1.1), retries := s.hub.retries.filter fun f => !owned f.1.1 } }
      State.ok { s with hub := s.hub.modQueue (c.arg 0) (·.configure base (c.arg 2) (bits c.a[3] 16 12) (bits c.a[3] 0 16) (qstateOf (c.arg 4))) } c 0x01

/-- DOORBELL (R84, R420). -/
def execDoorbell (c : Cmd) (s : State) : Result :=
  s.command c 0x02 false (decide (c.arg 0 < 16384)) fun s =>
    let w := s.hub.queue (c.arg 0)
    if 2 ^ w.k < w.tail - w.head + c.arg 1 then s.answer c 0x02 1 []
    else State.ok { s with hub := s.hub.modQueue (c.arg 0) fun w => { w with tail := w.tail + c.arg 1 } } c 0x02

/-- QREAD (R86, R420). -/
def execQread (c : Cmd) (s : State) : Result :=
  s.command c 0x03 false (decide (c.arg 0 < 16384)) fun s =>
    let w := s.hub.queue (c.arg 0)
    s.answer c 0x03 0 [BitVec.ofNat 64 w.head, BitVec.ofNat 64 w.tail, BitVec.ofNat 64 w.c]

/-! Memory. -/

/-- ROOTBASE (R278, R420). -/
def execRootbase (c : Cmd) (s : State) : Result :=
  s.command c 0x10 false (decide (c.arg 0 % 2 ^ 19 = 0 ∧ c.arg 1 ≤ 1) && inRange (c.arg 1) (c.arg 0) (2 ^ 19)) fun s =>
    State.ok { s with mem := { s.mem with rootBase := c.arg 0, rootLpddr := c.arg 1 == 1 } } c 0x10

/-- INVAL (R284, R420): begun; answered when it is complete. -/
def execInval (c : Cmd) (s : State) : Result :=
  let lo := if c.arg 2 = 0 then 0 else c.arg 1
  let n := if c.arg 2 = 0 then 2 ^ 56 else c.arg 2
  s.command c 0x11 false (decide (c.arg 0 < 2 ^ 16 ∧ lo + n ≤ 2 ^ 56)) fun s =>
    let (k, s) := s.invalidate (BitVec.ofNat 16 (c.arg 0)) lo (lo + n - 1) (some (c.node, c.tag))
    { s with hub := { s.hub with waiting := s.hub.waiting ++ [⟨0x11, c.node, c.tag, k, []⟩] } }

/-- A page's presence bits cleared, and the host answered, once no bale holds lines of the page; an address outside a write-once page is
malformed (R294, R374). -/
def State.initPage (s : State) (asid : BitVec 16) (va : Nat) (node : BitVec 12) (tag : BitVec 32) : State :=
  match walk s.mem asid va with
  | .ok l =>
    if l.wo then State.serveHub { s with hub := { s.hub with writes := s.hub.writes ++ [.clear l.base (2 ^ l.size) node tag] } }
    else s.respond node tag 0x12 3 []
  | .error _ => s.respond node tag 0x12 3 []

/-- PAGEINIT (R294, R420): every presence bit of a write-once page cleared. While a bale holds lines of the page tables that lead to it, it
waits, and keeps no other command back (R374, R422). -/
def execPageinit (c : Cmd) (s : State) : Result :=
  s.command c 0x12 false (decide (c.arg 0 < 2 ^ 16 ∧ c.arg 1 < 2 ^ 56)) fun s =>
    let asid := BitVec.ofNat 16 (c.arg 0)
    if s.walkHeld asid (c.arg 1) then
      { s with hub := { s.hub with waiting := s.hub.waiting ++ [⟨0x12, c.node, c.tag, c.arg 0 + 2 ^ 16 * c.arg 1, []⟩] } }
    else s.initPage asid (c.arg 1) c.node c.tag

/-- Entry of the access table from A1-A3 (R414). -/
def accessEntry (w0 w1 w2 : Word) : AccessEntry where
  v := w0.getLsbD 4
  srcNode := bits w0 52 12
  srcTenant := bits w0 40 12
  locTenant := bits w0 28 12
  locAsid := bits w0 12 16
  base := w1.toNat
  pages := w2.toNat
  rd := w0.getLsbD 0
  w := w0.getLsbD 1
  a := w0.getLsbD 2
  b := w0.getLsbD 3

/-- ACCESS (R414, R420). -/
def execAccess (c : Cmd) (s : State) : Result :=
  let e := accessEntry c.a[1] c.a[2] c.a[3]
  s.command c 0x13 false (decide (c.arg 0 < 1024 ∧ field c.a[1] 5 7 = 0 ∧ e.base % 2 ^ 16 = 0 ∧ e.base < 2 ^ 56 ∧ e.pages < 2 ^ 32) && (!e.v || 0 < e.pages))
    fun s => State.ok { s with hub := { s.hub with access := putKey (c.arg 0) e s.hub.access } } c 0x13

/-! Routing and links. -/

/-- TIMEOUT (R416, R420). -/
def execTimeout (c : Cmd) (s : State) : Result :=
  s.command c 0x14 false (decide (2 ^ 16 ≤ c.arg 0)) fun s => State.ok { s with hub := { s.hub with rtimeout := c.arg 0 } } c 0x14

/-- NODEPORT (R408, R409, R420); a node stream that has taken a port under the version looks for one anew. -/
def execNodeport (c : Cmd) (s : State) : Result :=
  s.command c 0x15 true (decide (c.arg 0 < 4096 ∧ c.arg 1 < 2 ^ 32 ∧ c.arg 2 ≤ 1 ∧ c.arg 2 ≠ s.hub.version.toNat)) fun s =>
    State.ok { s with hub := { s.hub with
      streamPort := s.hub.streamPort.filter fun e => !(e.1.toNat == c.arg 0 && e.2.1 == (c.arg 2 == 1))
      nodePorts := putKey (c.arg 2 == 1, BitVec.ofNat 12 (c.arg 0)) (BitVec.ofNat 32 (c.arg 1)) s.hub.nodePorts } } c 0x15

/-- The hello of a port (R412). -/
def State.sendHello (s : State) (p : Fin 32) : State := s.tell (.hello p s.hub.node s.hub.nvm.incarnation)

/-- A port trained: its link is up, its sequence numbers start anew from 0, and the hello goes out (R411, R412; log entry 118). A
link that was up and is trained again loses nothing that is on it. -/
def State.linkUp (s : State) (p : Fin 32) : State :=
  State.sendHello { s with hub := s.hub.modPort p fun x =>
    if x.up then x else { x with up := true, txSeq := 0, rxSeq := 0, replay := [], carried := [], unsent := [] } } p

/-- LINKUP (R411, R412, R420). -/
def execLinkup (c : Cmd) (s : State) : Result :=
  s.command c 0x16 true (decide (c.arg 0 < 32)) fun s => (s.linkUp ⟨c.arg 0 % 32, Nat.mod_lt _ (by decide)⟩).ok c 0x16

/-! Routing versions (R409). Accesses, elements of streams, packets and flits that may have to find a port hold the version with which they
were stamped. Of beacons, operations of pools, words of reel circuits, requests of peers and messages for the loft, which meet no table, a
ROUTEVER lists those that are under way: what no ROUTEVER of the other version lists is stamped with the current one. -/

/-- Whether an access, an element or a packet stamped with a version is under way, or a flit that has not left. -/
def State.stamped (s : State) (ver : Bool) : Bool :=
  let access := fun (a : GAccess) => a.ver == ver && match a.stage with
    | .ready _ | .deferred _ => true
    | _ => false
  s.hub.outHeld.any (fun f => f.ver == ver) || s.hub.ports.toList.any (fun p => p.unsent.any fun f => f.ver == ver) ||
  s.tiles.any (fun p => p.2.ctxs.toList.any (fun c => c.gq.any access) ||
    p.2.agens.toList.any fun y => y.flight.any fun e => e.ver == ver && (e.stage == .ready || e.stage == .deferred) && e.fails.isNone) ||
  s.xfers.any fun x => x.packets.any fun p => p.ver == ver && (p.granted || p.again == 0)

/-- What meets no table and is under way now: beacons, operations of pools and arrivals, words of reel circuits, requests of peers,
messages for the loft. -/
def State.unroutedNow (s : State) : List InvalWait :=
  s.beaconsOut.map (fun b => .packet b.order) ++
  s.dies.toList.flatMap (fun d => d.poolQ.map (fun o => .packet o.order) ++ d.arrivals.map fun a => .packet a.order) ++
  s.tiles.flatMap (fun p => p.2.sinks.flatMap fun k => k.2.sent.map InvalWait.packet) ++
  s.hub.inbound.map (fun q => .access (.inbound q.n)) ++ s.hub.loftIn.map fun m => .loft m.1

/-- Of that, what is stamped with the current version. -/
def State.inFlight (s : State) : List InvalWait :=
  s.unroutedNow.filter fun i => !s.hub.waiting.any fun w => w.op == 0x17 && (w.arg == 1) != s.hub.version && w.waits.contains i

/-- A ROUTEVER is answered once no packet stamped with the old version is left in the package (R409). -/
def State.settleVersion (s : State) : State :=
  let still := fun (w : WaitingCmd) => w.waits.any s.underWay || s.stamped (w.arg == 1)
  let done := s.hub.waiting.filter fun w => w.op == 0x17 && !still w
  done.foldl (fun s w => { s with hub := { s.hub with waiting := s.hub.waiting.erase w } }.respond w.node w.tag 0x17 0 []) s

/-- ROUTEVER (R409, R420): answered, by `State.settleVersion` after a move, once no packet stamped with the old version is left. -/
def execRoutever (c : Cmd) (s : State) : Result :=
  s.command c 0x17 true (decide (c.arg 0 ≤ 1)) fun s =>
    let v := c.arg 0 == 1
    if v = s.hub.version then s.ok c 0x17
    else
      { s with hub := { s.hub with
        version := v, waiting := s.hub.waiting ++ [⟨0x17, c.node, c.tag, s.hub.version.toNat, s.inFlight⟩] } }

/-! Dies. -/

/-- Whether a region holds tiles of a die. -/
def State.dieHeld (s : State) (d : Nat) : Bool := s.regions.any fun r => r.holdsTiles && r.dies.contains d

/-- Whether a die may enter a state (R101); it may stay in the one it is in. -/
def State.mayEnter (s : State) (d : Fin 8) (st : DieState) : Bool :=
  let was := s.dies[d].st
  was == st || match st with
    | .run => was == .hold
    | .hold => true
    | .off => was == .hold && !s.dieHeld d.val

/-- State of a die by its number in A1. -/
def dieStateOf (n : Nat) : DieState := if n = 0 then .run else if n = 1 then .hold else .off

/-- DIESTATE (R101, R420): a change of state calls for a placement pass (R91). -/
def execDiestate (c : Cmd) (s : State) : Result :=
  s.command c 0x20 false (decide (c.arg 0 < 8 ∧ c.arg 1 ≤ 2)) fun s =>
    let d := dieOf (c.arg 0)
    let st := dieStateOf (c.arg 1)
    if !s.mayEnter d st then s.refuse c 0x20
    else if s.dies[d].st = st then s.ok c 0x20
    else ((s.modDie d fun x => { x with st := st }).passOn [d.val]).ok c 0x20

/-- STALE (R102, R420): the stale-reply count; in R1 the die's count of free barriers, which R322 lets the host read (log entry 95). -/
def execStale (c : Cmd) (s : State) : Result :=
  s.command c 0x39 false (decide (c.arg 0 < 8)) fun s =>
    let d := s.dies[dieOf (c.arg 0)]
    s.answer c 0x39 0 [BitVec.ofNat 64 d.stale, BitVec.ofNat 64 d.barriersFree]

/-! Regions (R93, R102, R390, R394). -/

/-- The region in service of a number and generation. -/
def State.regionNamed (s : State) (n gen : Nat) : Option Region := (s.region n).filter fun r => r.gen.toNat == gen

/-- Whether an earlier command naming a region still waits (R422): a pre-emption, a RESUME, or a HALT of one of its contexts. -/
def State.regionWaits (s : State) (r : Region) : Bool :=
  r.preemptDue.isSome ||
  (match r.phase with
    | .pausing _ _ _ | .restoring _ _ _ _ => true
    | .ended | .closing _ _ => false
    | _ => r.holdsTiles && r.tiles.any fun t => (s.tile t).ctxs.toList.any fun c => c.haltDue.isSome)

/-- A command for a region: BUSY while an earlier one waits, REFUSED where no region in service holds the number and
generation. -/
def State.regionCommand (s : State) (c : Cmd) (op : Nat) (formed : Bool) (effect : Region → State → State) : Result :=
  s.command c op false (c.namesRegion && formed) fun s => match s.regionNamed (c.arg 0) (c.arg 1) with
    | none => s.refuse c op
    | some r => if s.regionWaits r then s.busy c op else effect r s

/-- KILL (R102, R103, R420): REFUSED where the region has met R99. -/
def execKill (c : Cmd) (s : State) : Result :=
  s.command c 0x30 false c.namesRegion fun s => match s.regionNamed (c.arg 0) (c.arg 1) with
    | none => s.refuse c 0x30
    | some r => if s.ending r then s.refuse c 0x30 else (s.killRegion r.number 4).ok c 0x30

/-- A pause or an eviction begun (R390, R391): REFUSED where the region is paused, evicted or ending; one that is still being
installed is paused once it runs, and the command waits (R422). -/
def State.preempt (s : State) (c : Cmd) (op : Nat) (save : Option Nat) (r : Region) : State :=
  match r.phase with
  | .running =>
    if s.regionIdle r then s.refuse c op else s.modRegion r.number fun r => { r with phase := .pausing save c.node c.tag }
  | .placed | .installed => s.modRegion r.number fun r => { r with preemptDue := some (save, c.node, c.tag) }
  | _ => s.refuse c op

/-- PAUSE (R390, R420). -/
def execPause (c : Cmd) (s : State) : Result := s.regionCommand c 0x31 true fun r s => s.preempt c 0x31 none r

/-- Whether an address names a save area: 512 KiB for each tile, aligned to 4 KiB (R390). -/
def saveAreaGood (a : Nat) (tiles : Nat) : Bool := decide (a % 4096 = 0 ∧ a + 2 ^ 19 * tiles ≤ 2 ^ 40)

/-- EVICT (R390, R420). -/
def execEvict (c : Cmd) (s : State) : Result :=
  s.regionCommand c 0x32 (decide (c.arg 2 % 4096 = 0 ∧ c.arg 2 < 2 ^ 40)) fun r s =>
    if saveAreaGood (c.arg 2) (r.launch.rows * r.launch.cols) then s.preempt c 0x32 (some (c.arg 2)) r else s.badArg c 0x32

/-- RESUME (R103, R394, R420): a paused region goes on in place; an evicted one becomes a candidate of its anchor die; any
other is REFUSED. -/
def execResume (c : Cmd) (s : State) : Result :=
  s.regionCommand c 0x33 (decide (c.arg 2 % 4096 = 0 ∧ c.arg 2 < 2 ^ 40)) fun r s => match r.phase with
    | .paused =>
      if c.arg 2 ≠ 0 then s.badArg c 0x33
      else s.modRegion r.number fun r => { r with phase := .restoring 0 true c.node c.tag }
    | .evicted =>
      (s.modRegion r.number fun r => { r with phase := .restoring (c.arg 2) false c.node c.tag, waited := 0 }).passOn [r.launch.anchor]
    | _ => s.refuse c 0x33

/-- FAULTQ (R389, R420): the oldest entry of a region in service, or of an ended one whose queue is kept. -/
def execFaultq (c : Cmd) (s : State) : Result :=
  s.command c 0x38 false c.namesRegion fun s =>
    match s.regions.find? fun r => r.number == c.arg 0 && r.gen.toNat == c.arg 1 with
    | none => s.refuse c 0x38
    | some r =>
      if s.regionWaits r then s.busy c 0x38
      else match r.faults with
        | [] => s.answer c 0x38 0 [0, 0, 0, 0]
        | f :: rest =>
          let s := { s with regions := s.regions.map fun (x : Region) => if x.number = r.number && x.gen = r.gen then { x with faults := rest } else x }
          s.answer c 0x38 0 [BitVec.ofNat 64 (f.cause.toNat + f.kind.toNat * 2 ^ 8 + f.place.toNat * 2 ^ 32), f.info, f.loc, f.cycle]

/-! Debug (R395-R397). -/

/-- A command for a context: A2 and A3 name the tile and the context; a region that holds no tiles has none. -/
def State.ctxCommand (s : State) (c : Cmd) (op : Nat) (formed : Bool) (effect : TileId → Fin 4 → State → State) : Result :=
  s.regionCommand c op (formed && decide (c.arg 2 < 2 ^ 16 ∧ c.arg 3 < 4)) fun r s =>
    let row := c.arg 2 / 2 ^ 9
    let col := c.arg 2 % 2 ^ 9
    if r.launch.rows ≤ row || r.launch.cols ≤ col then s.badArg c op
    else if !r.holdsTiles then s.refuse c op
    else effect (r.tileAt row col) ⟨c.arg 3 % 4, Nat.mod_lt _ (by decide)⟩ s

/-- HALT (R395, R420): at an instruction boundary, once the register writes of the context have landed; till then it waits. A
DISABLED context has nothing to halt. -/
def execHalt (c : Cmd) (s : State) : Result :=
  s.ctxCommand c 0x34 true fun t k s =>
    let x := s.ctxAt t k
    match x.run with
    | .disabled => s.refuse c 0x34
    | .halted _ => s.ok c 0x34
    | .running | .parked =>
      (s.modCtx t k fun y => { y with haltDue := some (c.node, c.tag) }).serveHalt t k (s.tile t).cycle.toNat

/-- RELEASE (R397, R420). -/
def execRelease (c : Cmd) (s : State) : Result :=
  s.ctxCommand c 0x35 true fun t k s => (s.modCtx t k Ctx.resume).ok c 0x35

/-- What A4 selects (R420); a word of scratch, and a 64-bit part of an entry of a port's queue, by selectors of the model's own
(log entry 86). -/
inductive Selector where
  | s (i : Reg)
  | v (i : Reg) (part : Nat)
  | p (i : Nat)
  | pc
  | sreg (n : Nat)
  | scratch (a : Nat)
  | queue (port : BitVec 4) (entry part : Nat)
  deriving DecidableEq, Repr

/-- System registers of a halted context that a host reads and writes (R393, R396). -/
def hostReads (n : Nat) : Bool := decide (0x10 ≤ n ∧ n ≤ 0x15) || decide (0x21 ≤ n ∧ n ≤ 0x23) || n == 0x40

/-- The selector in A4; none where it selects nothing. Selector 5 is the 8 bytes of scratch at the address in A6, selector 6 part
A6[1:0] of entry A6[63:2] of the queue of port [3:0] (log entry 86). -/
def selectorOf (c : Cmd) : Option Selector :=
  let w := c.a[4]
  let n := field w 0 12
  if w.toNat / 2 ^ 16 ≠ 0 then none
  else match field w 12 4 with
    | 0 => if n < 32 then some (.s (BitVec.ofNat 5 n)) else none
    | 1 => if n / 16 < 16 && n % 16 < 8 then some (.v (BitVec.ofNat 5 (n / 16)) (n % 16)) else none
    | 2 => if n < 8 then some (.p n) else none
    | 3 => if n = 0 then some .pc else none
    | 4 => if hostReads n then some (.sreg n) else none
    | 5 => if n = 0 && c.arg 6 % 8 = 0 then some (.scratch (c.arg 6)) else none
    | 6 => if n < 16 then some (.queue (BitVec.ofNat 4 n) (c.arg 6 / 4) (c.arg 6 % 4)) else none
    | _ => none

/-- A selected value (R396): a value in R0; for an entry of a queue its kind in R1 and the number of entries in R2. -/
def State.select (s : State) (t : TileId) (k : Fin 4) (x : Selector) : List Word :=
  let c := s.ctxAt t k
  match x with
  | .s i => [c.getS i]
  | .v i part => [bits (c.getV i) (64 * part) 64]
  | .p i => [c.getP i]
  | .pc => [c.pc.zeroExtend 64]
  | .sreg n => [(s.readSys t k n).getD 0]
  | .scratch a => [BitVec.ofNat 64 ((s.tile t).scratchRead k a 8)]
  | .queue port i part =>
    let q := (s.tile t).portQueue k port.toFin
    let e := q.getD i ⟨0, 0, .direct⟩
    [bits e.word (64 * part) 64, e.kind.zeroExtend 64, BitVec.ofNat 64 q.length]

/-- Whether what is selected is there to be read: a context's own scratch only (R396). -/
def State.selects (s : State) (t : TileId) (k : Fin 4) (x : Selector) : Bool :=
  match x with
  | .scratch a => (s.tile t).owned k a 8
  | _ => true

/-- Whether a value may be written to what is selected: its zero fields are zero, and a port's queue is only read. -/
def Selector.accepts (x : Selector) (v : Word) : Bool :=
  match x with
  | .pc => v.toNat < 2 ^ 11
  | .sreg n => v &&& zeroFields n == 0
  | .queue _ _ _ => false
  | _ => true

/-- A selected register written: as `syswr` writes it, and with sys.status the MODE bit too; sys.retired is written whole
(R396). -/
def Ctx.put (c : Ctx) (x : Selector) (v : Word) : Ctx :=
  match x with
  | .s i => c.setS i v
  | .v i part => c.setV i (setBits (c.getV i) (64 * part) 64 v)
  | .p i => c.setP i v
  | .pc => { c with pc := v.truncate 11 }
  | .sreg 0x10 => { c.writeSys 0x10 v with mode := if v.getLsbD 0 then .supervisor else .user }
  | .sreg 0x21 => { c with retired := v }
  | .sreg n => c.writeSys n v
  | .scratch _ | .queue _ _ _ => c

/-- What is selected written (R396). -/
def State.putSelected (s : State) (t : TileId) (k : Fin 4) (x : Selector) (v : Word) : State :=
  match x with
  | .scratch a => s.modTile t fun y => y.scratchWrite (y.scratchCells a 8 v.toNat)
  | _ => s.modCtx t k (·.put x v)

/-- Whether a context is HALTED. -/
def Ctx.isHalted (c : Ctx) : Bool :=
  match c.run with
  | .halted _ => true
  | _ => false

/-- CTXRD (R396, R420). -/
def execCtxrd (c : Cmd) (s : State) : Result :=
  match selectorOf c with
  | none => s.ctxCommand c 0x36 false fun _ _ s => s
  | some x => s.ctxCommand c 0x36 true fun t k s =>
    if !(s.ctxAt t k).isHalted || !s.selects t k x then s.refuse c 0x36 else s.answer c 0x36 0 (s.select t k x)

/-- CTXWR (R396, R420). -/
def execCtxwr (c : Cmd) (s : State) : Result :=
  match selectorOf c with
  | none => s.ctxCommand c 0x37 false fun _ _ s => s
  | some x => s.ctxCommand c 0x37 (x.accepts c.a[5]) fun t k s =>
    if !(s.ctxAt t k).isHalted || !s.selects t k x then s.refuse c 0x37 else (s.putSelected t k x c.a[5]).ok c 0x37

/-! Bales and circuits. -/

/-- RESOLVE (R376, R420). -/
def execResolve (c : Cmd) (s : State) : Result :=
  s.command c 0x40 false (decide (c.arg 0 < 4096 ∧ c.arg 2 ≤ 1)) fun s =>
    (s.applyDecision (BitVec.ofNat 12 (c.arg 0)) c.a[1] (c.arg 2 == 1)).ok c 0x40

/-- Whether two groups of lanes of one port share a lane. -/
def Circuit.shares (x : Circuit) (port : Nat) (lane lanes : Nat) : Bool :=
  x.port.val == port && decide (lane < x.lane + x.lanes ∧ x.lane < lane + lanes)

/-- A port of which no lane is left for packets: node streams take another port, with what has not been sent yet; a request that
finds none completes with FABRIC (R405, R409, R418). -/
def State.clearPort (s : State) (p : Fin 32) : State :=
  if s.hub.flitLanes p then s
  else
    let left := ((s.hub.ports[p]).unsent).filter fun f => f.node.isSome
    let hub := s.hub.modPort p fun x => { x with unsent := x.unsent.filter fun f => f.node.isNone }
    left.foldl State.moveFlit { s with hub := { hub with streamPort := hub.streamPort.filter fun e => e.2.2 != p } }

/-- CIRCUIT (R418, R420): lanes that another circuit holds are REFUSED; packets leave the lanes that are bound (R405). -/
def execCircuit (c : Cmd) (s : State) : Result :=
  let k := c.arg 0
  let port := c.arg 1
  let lane := c.arg 2
  let lanes := c.arg 3
  let bound := decide (port < 32 ∧ (lanes = 1 ∨ lanes = 2 ∨ lanes = 4) ∧ lane % lanes = 0 ∧ lane + lanes ≤ 8 ∧ c.arg 4 < 4096 ∧ c.arg 5 < 64)
  s.command c 0x41 false (decide (k < 64) && (lanes == 0 || bound)) fun s =>
    if lanes = 0 then State.ok { s with hub := { s.hub with circuits := dropKey k s.hub.circuits } } c 0x41
    else if s.hub.circuits.any fun x => x.1 != k && x.2.shares port lane lanes then s.refuse c 0x41
    else
      let old := lookupKey k s.hub.circuits
      let p : Fin 32 := ⟨port % 32, Nat.mod_lt _ (by decide)⟩
      let x : Circuit :=
        { port := p, lane := lane, lanes := lanes, node := BitVec.ofNat 12 (c.arg 4), peer := c.arg 5, sink := old.bind (·.sink)
          source := old.bind (·.source), lastDie := old.bind (·.lastDie), cap := old.bind (·.cap)
          heldEntries := (old.map (·.heldEntries)).getD [], heldCredits := (old.map (·.heldCredits)).getD 0 }
      (State.clearPort { s with hub := { s.hub with circuits := putKey k x s.hub.circuits } } p).ok c 0x41

end Sys2Proof.Machine
end

