-- ==== Sys2Proof/Machine/Hash.lean ====
section
/-! DEFINITION. SHAKE256 (FIPS 202), the verification of an XMSS signature of the one parameter set that firmware uses,
XMSS-SHAKE256_20_256 (R431), and the device's signatures of the set XMSSMT-SHAKE256_40/4_256 (R433; RFC 8391, NIST SP 800-208;
PRESUMED, log entry 102). -/

namespace Sys2Proof.Machine

/-! SHAKE256. -/

/-- The state of Keccak-f[1600]: lane (x, y) at x + 5y. -/
abbrev Lanes := Vector (BitVec 64) 25

/-- Lane (x, y), both modulo 5. -/
def Lanes.at (a : Lanes) (x y : Nat) : BitVec 64 := a[(x % 5 + 5 * (y % 5)) % 25]'(Nat.mod_lt _ (by decide))

/-- Lanes from a function of x and y. -/
def Lanes.of (f : Nat → Nat → BitVec 64) : Lanes := Vector.ofFn fun (i : Fin 25) => f (i.val % 5) (i.val / 5)

/-- Rotation of lane x + 5y. -/
def keccakRotation : List Nat :=
  [0, 1, 62, 28, 27, 36, 44, 6, 55, 20, 3, 10, 43, 25, 39, 41, 45, 15, 21, 8, 18, 2, 61, 56, 14]

/-- The constants of the 24 rounds. -/
def keccakConstants : List (BitVec 64) :=
  [0x0000000000000001, 0x0000000000008082, 0x800000000000808A, 0x8000000080008000, 0x000000000000808B, 0x0000000080000001,
   0x8000000080008081, 0x8000000000008009, 0x000000000000008A, 0x0000000000000088, 0x0000000080008009, 0x000000008000000A] ++
  [0x000000008000808B, 0x800000000000008B, 0x8000000000008089, 0x8000000000008003, 0x8000000000008002, 0x8000000000000080,
   0x000000000000800A, 0x800000008000000A, 0x8000000080008081, 0x8000000000008080, 0x0000000080000001, 0x8000000080008008]

/-- One round: theta, rho with pi, chi, iota. -/
def keccakRound (a : Lanes) (rc : BitVec 64) : Lanes :=
  let p : Vector (BitVec 64) 5 := Vector.ofFn fun (x : Fin 5) =>
    a.at x.val 0 ^^^ a.at x.val 1 ^^^ a.at x.val 2 ^^^ a.at x.val 3 ^^^ a.at x.val 4
  let d : Vector (BitVec 64) 5 := Vector.ofFn fun (x : Fin 5) => p[x + 4] ^^^ (p[x + 1]).rotateLeft 1
  let a := Lanes.of fun x y => a.at x y ^^^ d[x % 5]'(Nat.mod_lt _ (by decide))
  let b := Lanes.of fun x y =>
    let u := (x + 3 * y) % 5
    (a.at u x).rotateLeft ((keccakRotation[u + 5 * x]?).getD 0)
  let e := Lanes.of fun x y => b.at x y ^^^ (~~~(b.at (x + 1) y) &&& b.at (x + 2) y)
  e.set 0 (e[0] ^^^ rc)

/-- Keccak-f[1600]. -/
def keccak (a : Lanes) : Lanes := keccakConstants.foldl keccakRound a

/-- Bytes as one number, the first lowest. -/
def numberOf (bs : List Byte) : Nat := bs.foldr (fun b acc => b.toNat + 256 * acc) 0

/-- Blocks of 136 bytes absorbed; the fuel bounds their number. -/
def absorb : Nat → Lanes → List Byte → Lanes
  | 0, a, _ => a
  | fuel + 1, a, bs =>
    let n := numberOf (bs.take 136)
    let a := keccak (Vector.ofFn fun (i : Fin 25) => if i.val < 17 then a[i] ^^^ BitVec.ofNat 64 (n / 2 ^ (64 * i.val)) else a[i])
    if bs.length ≤ 136 then a else absorb fuel a (bs.drop 136)

/-- A message with the suffix of SHAKE and its padding, whole blocks of 136 bytes. -/
def shakePad (bs : List Byte) : List Byte :=
  let n := 136 - bs.length % 136
  if n = 1 then bs ++ [0x9F] else bs ++ [0x1F] ++ List.replicate (n - 2) 0 ++ [0x80]

/-- The first 32 bytes of SHAKE256 of a message. -/
def shake256 (bs : List Byte) : List Byte :=
  let a := absorb (bs.length / 136 + 1) (Vector.replicate 25 0) (shakePad bs)
  (List.range 32).map fun i => BitVec.ofNat 8 ((a.at (i / 8) 0).toNat / 2 ^ (8 * (i % 8)))

/-! XMSS (RFC 8391, with the functions of SP 800-208 for n = 32). -/

/-- A number in big-endian order. -/
def bigEndian (n v : Nat) : List Byte := ((List.range n).map fun i => BitVec.ofNat 8 (v / 256 ^ i)).reverse

/-- A keyed function: SHAKE256 of its number in 32 bytes, the key and the message. 0 is F, 1 H, 2 H_msg, 3 PRF. -/
def keyed (k : Nat) (key msg : List Byte) : List Byte := shake256 (bigEndian 32 k ++ key ++ msg)

/-- Bytes combined one by one. -/
def xorBytes (a b : List Byte) : List Byte := List.zipWith (· ^^^ ·) a b

/-- A tree by its layer and number; XMSS has one tree, 0 of layer 0. -/
abbrev TreePlace := Nat × Nat

/-- A hash address in a tree: its type (0 OTS, 1 L-tree, 2 hash tree), its three words, and key or mask. -/
def hashAddress (tree : TreePlace) (type w1 w2 w3 mask : Nat) : List Byte :=
  bigEndian 4 tree.1 ++ bigEndian 8 tree.2 ++ [type, w1, w2, w3, mask].flatMap (bigEndian 4)

/-- A step of a WOTS+ chain. -/
def chainStep (seed : List Byte) (tree : TreePlace) (ots chain j : Nat) (x : List Byte) : List Byte :=
  let prf := fun (mask : Nat) => keyed 3 seed (hashAddress tree 0 ots chain j mask)
  keyed 0 (prf 0) (xorBytes x (prf 1))

/-- A WOTS+ chain from one of its 16 values over a number of steps. -/
def chainFrom (seed : List Byte) (tree : TreePlace) (ots chain start n : Nat) (x : List Byte) : List Byte :=
  (List.range n).foldl (fun x i => chainStep seed tree ots chain (start + i) x) x

/-- Two nodes hashed into one, under an address whose mask word is left open. -/
def randHash (seed : List Byte) (addr : Nat → List Byte) (l r : List Byte) : List Byte :=
  let prf := fun (mask : Nat) => keyed 3 seed (addr mask)
  keyed 1 (prf 0) (xorBytes l (prf 1) ++ xorBytes r (prf 2))

/-- The digits of a message digest in base 16, each byte's high digit first, with the checksum's three. -/
def wotsDigits (m : List Byte) : List Nat :=
  let digits := m.flatMap fun b => [b.toNat / 16, b.toNat % 16]
  let sum := digits.foldl (fun n d => n + (15 - d)) 0
  digits ++ [sum / 256 % 16, sum / 16 % 16, sum % 16]

/-- The public values that a WOTS+ signature leads to. -/
def wotsKey (seed : List Byte) (tree : TreePlace) (ots : Nat) (m : List Byte) (sig : List (List Byte)) : List (List Byte) :=
  ((wotsDigits m).zip (sig.zip (List.range 67))).map fun p => chainFrom seed tree ots p.2.2 p.1 (15 - p.1) p.2.1

/-- One level of an L-tree, from the node of an index on; an odd last node goes up as it is. -/
def ltreeLevel (seed : List Byte) (tree : TreePlace) (leaf height : Nat) : Nat → List (List Byte) → List (List Byte)
  | i, a :: b :: rest => randHash seed (hashAddress tree 1 leaf height i) a b :: ltreeLevel seed tree leaf height (i + 1) rest
  | _, l => l

/-- The root of an L-tree; the fuel bounds its height. -/
def ltree (seed : List Byte) (tree : TreePlace) (leaf : Nat) : Nat → Nat → List (List Byte) → List Byte
  | 0, _, l => l.headD []
  | fuel + 1, height, l => match l with
    | _ :: _ :: _ => ltree seed tree leaf fuel (height + 1) (ltreeLevel seed tree leaf height 0 l)
    | l => l.headD []

/-- The root that a leaf and its authentication path lead to. -/
def pathRoot (seed : List Byte) (tree : TreePlace) (idx : Nat) (node : List Byte) (path : List (List Byte)) : List Byte :=
  (path.zip (List.range path.length)).foldl (fun node p =>
    let addr := hashAddress tree 2 0 p.2 (idx / 2 ^ (p.2 + 1))
    if idx / 2 ^ p.2 % 2 = 0 then randHash seed addr node p.1 else randHash seed addr p.1 node) node

/-- Bytes in rows of 32. -/
def rowsOf (n : Nat) (bs : List Byte) : List (List Byte) := (List.range n).map fun i => (bs.drop (32 * i)).take 32

/-- Whether a signature of 2,820 bytes verifies for a message under a public key, root and seed (R431). -/
def xmssVerifies (root seed msg sig : List Byte) : Bool :=
  decide (sig.length = 2820) &&
    (let idx := (sig.take 4).foldl (fun n b => 256 * n + b.toNat) 0
     let m := keyed 2 ((sig.drop 4).take 32 ++ root ++ bigEndian 32 idx) msg
     let key := wotsKey seed (0, 0) idx m (rowsOf 67 (sig.drop 36))
     decide (idx < 2 ^ 20) && pathRoot seed (0, 0) idx (ltree seed (0, 0) idx 8 0 key) (rowsOf 20 (sig.drop (36 + 67 * 32))) == root)

/-! XMSS^MT: the signatures of the device (R433). -/

/-- Bytes of a word, lowest first. -/
def wordBytes {n : Nat} (w : BitVec n) (k : Nat) : List Byte := (List.range k).map fun i => bits w (8 * i) 8

/-- The public seed of the device's key. -/
def attestSeed : List Byte := wordBytes Config.attestSeed 32

/-- The start of a chain of the device's key. -/
def attestStart (tree : TreePlace) (leaf chain : Nat) : List Byte := wordBytes (Config.attestSecret tree.1 tree.2 leaf chain) 32

/-- A leaf of a tree of the device's key: the L-tree over the ends of its chains. -/
def attestLeaf (tree : TreePlace) (leaf : Nat) : List Byte :=
  ltree attestSeed tree leaf 8 0 ((List.range 67).map fun c => chainFrom attestSeed tree leaf c 0 15 (attestStart tree leaf c))

/-- A node of a tree of the device's key, by its height and its index there. -/
def attestNode (tree : TreePlace) : Nat → Nat → List Byte
  | 0, i => attestLeaf tree i
  | h + 1, i => randHash attestSeed (hashAddress tree 2 0 h i) (attestNode tree h (2 * i)) (attestNode tree h (2 * i + 1))

/-- The root of a tree of the device's key, of height 10. -/
def attestRoot (tree : TreePlace) : List Byte := attestNode tree 10 0

/-- What one layer contributes to a signature over 32 bytes: the WOTS+ signature of its leaf, and the leaf's authentication path. -/
def attestLayer (tree : TreePlace) (leaf : Nat) (m : List Byte) : List Byte :=
  (((wotsDigits m).zip (List.range 67)).flatMap fun p => chainFrom attestSeed tree leaf p.2 0 p.1 (attestStart tree leaf p.2)) ++
  (List.range 10).flatMap fun h => attestNode tree h ((leaf / 2 ^ h) ^^^ 1)

/-- The tree of a layer that a signature index uses. -/
def attestTree (index layer : Nat) : TreePlace := (layer, index / 2 ^ (10 * (layer + 1)))

/-- The signature of a message with an index: the index, the randomness, and the four layers, the lowest of which signs the message's
digest, each other one the root of the tree below. -/
def attestSignature (index : Nat) (msg : List Byte) : List Byte :=
  let r := keyed 3 (wordBytes Config.attestRandom 32) (bigEndian 32 index)
  let m := keyed 2 (r ++ attestRoot (3, 0) ++ bigEndian 32 index) msg
  bigEndian 5 index ++ r ++ (List.range 4).flatMap fun j =>
    attestLayer (attestTree index j) (index / 2 ^ (10 * j) % 2 ^ 10) (if j = 0 then m else attestRoot (attestTree index (j - 1)))

end Sys2Proof.Machine
end

