-- ==== Sys2Proof/Machine/Platform.lean ====
section
/-! DEFINITION. Bring-up, recovery, power, clock steps, temperature, repair, firmware and attestation (R11, R104, R423-R434). -/

namespace Sys2Proof.Machine

/-! Power (R11, R423, R424, R429). -/

/-- What is left when the module's power has gone: flash, the counter block, temperatures, and what has been sent (R429). -/
def State.powerOff (s : State) : State :=
  { State.reset with
    agenda := s.agenda, here := s.here, picks := s.picks, frees := s.frees, power := .off
    dies := s.dies.map fun (d : Die) => { Die.reset with temp := d.temp }
    hub := { Hub.reset with
      hosts := [], nvm := s.hub.nvm, hubTemps := s.hub.hubTemps, toHost := s.hub.toHost, toPeer := s.hub.toPeer
      nextRid := s.hub.nextRid } }

/-- Whether an image's signature verifies over the SHAKE256 digest of the whole image (R431, R432). -/
def signatureVerifies (image : List Byte) : Bool :=
  xmssVerifies (wordBytes Config.firmwareKey.1 32) (wordBytes Config.firmwareKey.2 32) (shake256 image) (Config.imageSignature image)

/-- Whether an image is accepted (R432). -/
def imageAccepted (image : List Byte) (minVersion : Nat) : Bool :=
  signatureVerifies image && decide (minVersion ≤ Config.imageVersion image ∧ image.length ≤ 2 ^ 26)

/-- Spare columns of a die that the stored repair map uses (R104, R430). -/
def sparesUsed (map : List (Nat × Nat)) (d : Nat) : Nat := map.countP fun p => p.1 == d

/-- The part brought up from flash: the incarnation counts, the image is checked, memory, dies, queues and tables are as bring-up
leaves them, and every link comes up and sends its hello; an image that fails leads into recovery (R423, R424). -/
def State.powerUp (s : State) : State :=
  let off := s.powerOff
  let nvm := { s.hub.nvm with incarnation := s.hub.nvm.incarnation + 1 }
  let good := imageAccepted nvm.image nvm.minVersion
  let t := { off with
    power := if good then .on else .recovery
    dies := Vector.ofFn fun (d : Fin 8) => { off.dies[d] with spares := sparesUsed nvm.repairMap d.val }
    hub := { off.hub with
      nvm := nvm
      firmware := if good then nvm.image else []
      hosts := if good || Config.configVerifies then nvm.hostList else [] } }
  (List.finRange 32).foldl State.sendHello t

/-- POWER_UP (R423): power comes, or the package is reset. -/
def execPowerUp (s : State) : Result := .next s.powerUp

/-- Temperature of a die, 8 and 9 being the hub dies, in 1/16 °C (R428). -/
def State.temperature (s : State) (d : Nat) : BitVec 16 :=
  if d < 8 then s.dies[dieOf d].temp else if d = 8 then s.hub.hubTemps[0] else s.hub.hubTemps[1]

/-- THERMAL_TRIP (R429): a die at 125 °C or more; the trip is counted before power falls. -/
def execThermalTrip (d : Nat) (s : State) : Result :=
  if 10 ≤ d || (s.temperature d).toInt < 2000 then .next s.stall
  else .next (State.powerOff { s with hub := { s.hub with nvm := { s.hub.nvm with trips := s.hub.nvm.trips + 1 } } })

/-- MODULE_POWER_OFF (R11). The host commands the module's power, by no command of R420: the model lets power fall at any time,
with no node named and no check of the host list (DESIGN CHOICE, log entry 88). -/
def execModulePowerOff (s : State) : Result := .next s.powerOff

/-- THERMAL (R428). -/
def execThermal (c : Cmd) (s : State) : Result :=
  s.command c 0x24 true true fun s =>
    let four := fun (a : Nat) => BitVec.ofNat 64 ((List.range 4).foldr (fun i acc => (s.temperature (a + i)).toNat + 2 ^ 16 * acc) 0)
    s.answer c 0x24 0 [four 0, four 4, BitVec.ofNat 64 ((s.temperature 8).toNat + 2 ^ 16 * (s.temperature 9).toNat),
      BitVec.ofNat 64 s.hub.nvm.trips]

/-! Clock steps (R426, R427). -/

/-- CLOCKSTEP (R426): the die stops issuing; it is answered when the clock has changed. One that comes meanwhile waits for its turn
(R422). -/
def execClockstep (c : Cmd) (s : State) : Result :=
  s.command c 0x21 false (decide (c.arg 0 < 8 ∧ c.arg 1 < 16)) fun s =>
    let d := dieOf (c.arg 0)
    let s := s.modDie d fun x => { x with clockStopped := x.clockStopped.or (some (BitVec.ofNat 4 (c.arg 1))) }
    { s with hub := { s.hub with waiting := s.hub.waiting ++ [⟨0x21, c.node, c.tag, d.val + 8 * c.arg 1, []⟩] } }

/-- CLOCKSTEP_RESUME (R426): the die goes on at its new step, and the command is answered; the next one that waits then begins. -/
def execClockstepResume (d : Fin 8) (s : State) : Result :=
  match s.dies[d].clockStopped with
  | none => .next s.stall
  | some st => match s.hub.waiting.filter fun w => w.op == 0x21 && w.arg % 8 == d.val with
    | [] => .next (s.modDie d fun x => { x with step := st, clockStopped := none })
    | w :: rest =>
      let s := s.modDie d fun x => { x with step := st, clockStopped := rest.head?.map fun v => BitVec.ofNat 4 (v.arg / 8) }
      .next ({ s with hub := { s.hub with waiting := s.hub.waiting.erase w } }.respond w.node w.tag 0x21 0 [])

/-- RATIO (R241, R427). -/
def execRatio (c : Cmd) (s : State) : Result :=
  s.command c 0x22 false (decide (c.arg 0 < 8)) fun s =>
    let entry := fun (i : Fin 16) => bits (c.a[(⟨1 + i.val / 4, by omega⟩ : Fin 7)]) (16 * (i.val % 4)) 16
    (s.modDie (dieOf (c.arg 0)) fun x => { x with ratio := Vector.ofFn entry }).ok c 0x22

/-! Repair (R104, R430). -/

/-- Whether a region that holds tiles covers a column of a die. -/
def State.columnHeld (s : State) (d col : Nat) : Bool :=
  s.regions.any fun r => r.holdsTiles && r.dies.contains d &&
    decide (r.left ≤ 80 * (d % 4) + col ∧ 80 * (d % 4) + col < r.left + r.launch.cols)

/-- REPAIR (R430): a mark set or cleared at once, a remapping begun. -/
def execRepair (c : Cmd) (s : State) : Result :=
  s.command c 0x23 false (decide (c.arg 0 < 8 ∧ c.arg 1 < 80 ∧ c.arg 2 ≤ 2)) fun s =>
    let d := dieOf (c.arg 0)
    let col := c.arg 1
    let x := s.dies[d]
    if s.columnHeld d.val col then s.refuse c 0x23
    else if x.repairing.isSome then s.busy c 0x23
    else match c.arg 2 with
      | 0 => (s.modDie d fun x => { x with failed := insertNat col x.failed }).ok c 0x23
      | 1 =>
        if 2 ≤ x.spares then s.refuse c 0x23 else s.modDie d fun x => { x with repairing := some (col, 1, c.node, c.tag) }
      | _ => ((s.modDie d fun x => { x with failed := x.failed.erase col }).passOn [d.val]).ok c 0x23

/-- REPAIR_END (R104, R430): the column is remapped and its mark cleared; the map in flash has it before the answer. -/
def execRepairEnd (d : Fin 8) (s : State) : Result :=
  match s.dies[d].repairing with
  | none => .next s.stall
  | some (col, _, node, tag) =>
    let s := s.modDie d fun x => { x with repairing := none, failed := x.failed.erase col, spares := x.spares + 1 }
    let s := { s with hub := { s.hub with nvm := { s.hub.nvm with repairMap := s.hub.nvm.repairMap ++ [(d.val, col)] } } }
    .next ((s.passOn [d.val]).respond node tag 0x23 0 [])

/-! Firmware and attestation (R425, R431-R434). -/

/-- HOSTLIST (R425): only from the first node of the list that applied when the command arrived; in recovery it is REFUSED as others are
(R424). -/
def execHostlist (c : Cmd) (s : State) : Result :=
  let nodes := ((List.range 4).map fun i => bits c.a[0] (12 * i) 12).filter fun n => n != 0xFFF
  let first := (s.hub.cmdsIn.find? fun x => x.node == c.node).any (·.first)
  s.command c 0x27 false (!first || (field c.a[0] 48 16 == 0 && !nodes.isEmpty)) fun s =>
    if !first then s.deny c 0x27
    else
      let s := s.ok c 0x27
      { s with hub := { s.hub with hosts := nodes } }

/-- Bytes of HBM4E from an address on. -/
def Memory.bytes (m : Memory) (a n : Nat) : List Byte := (List.range n).map fun i => m.read (a + i)

/-- A staged image looked at: one that is accepted goes to flash; in recovery it must lie in the recovery window, and the part then resets
itself (R424, R432). -/
def State.stageImage (s : State) (a n : Nat) (node : BitVec 12) (tag : BitVec 32) : State :=
  let recovery := s.power = .recovery
  let image := s.mem.hbm.bytes a n
  if 2 ^ 26 < n || (recovery && 2 ^ 26 < a + n) || s.mem.poisonAt (.hbm a) n ≠ [] || !imageAccepted image s.hub.nvm.minVersion then
    s.respond node tag 0x26 2 []
  else
    let nvm := { s.hub.nvm with image := image, minVersion := max s.hub.nvm.minVersion (Config.imageVersion image) }
    let s := { s with hub := { s.hub with nvm := nvm } }.respond node tag 0x26 0 []
    if recovery then s.powerUp else s

/-- FWSTAGE (R424, R432): while a bale holds lines of the image, it waits, and keeps no other command back (R374, R422). -/
def execFwstage (c : Cmd) (s : State) : Result :=
  let a := c.arg 0
  let n := c.arg 1
  s.command c 0x26 true (decide (a % 4096 = 0 ∧ a + n ≤ 2 ^ 40)) fun s =>
    if n ≤ 2 ^ 26 && s.rangeHeld (.hbm a) n then
      { s with hub := { s.hub with waiting := s.hub.waiting ++ [⟨0x26, c.node, c.tag, a + 2 ^ 40 * n, []⟩] } }
    else s.stageImage a n c.node c.tag

/-- A PAGEINIT or a FWSTAGE that has waited goes on, once the bale holds nothing back (R374). -/
def State.serveCommand (s : State) (w : WaitingCmd) : State :=
  let gone := { s with hub := { s.hub with waiting := s.hub.waiting.erase w } }
  let asid := BitVec.ofNat 16 (w.arg % 2 ^ 16)
  let a := w.arg % 2 ^ 40
  let n := w.arg / 2 ^ 40
  if !s.hub.waiting.contains w then s
  else if w.op = 0x12 && !s.walkHeld asid (w.arg / 2 ^ 16) then gone.initPage asid (w.arg / 2 ^ 16) w.node w.tag
  else if w.op = 0x26 && !s.rangeHeld (.hbm a) n then gone.stageImage a n w.node w.tag
  else s

/-- What follows every move: commands that no bale holds back any more go on (R374), a bale of which a flit has found no port to a node has
lost the node (R409, R411), and a ROUTEVER is answered once the old version has drained (R409). -/
def State.afterMove (s : State) : State :=
  let s := s.hub.waiting.foldl State.serveCommand s
  let lost := s.hub.unrouted
  let s := lost.foldl State.baleCut { s with hub := { s.hub with unrouted := [] } }
  s.settleVersion

/-- The first 128 bytes of a report (R434). -/
def State.reportHead (s : State) (c : Cmd) (index : Nat) : List Byte :=
  wordBytes c.a[0] 8 ++ wordBytes c.a[1] 8 ++ wordBytes c.a[2] 8 ++ wordBytes c.a[3] 8 ++
  shake256 s.hub.firmware ++ shake256 (Config.repairMapBytes s.hub.nvm.repairMap) ++
  wordBytes s.hub.nvm.incarnation 2 ++ wordBytes (BitVec.ofNat 48 index) 6 ++ List.replicate 24 0

/-- Length of an attestation signature (R433). -/
def signatureBytes : Nat := 9893

/-- ATTEST (R433, R434): the index is used up before the signature leaves; the report waits for lines that a bale holds (R374). -/
def execAttest (c : Cmd) (s : State) : Result :=
  let a := c.arg 4
  s.command c 0x25 false (decide (a % 64 = 0 ∧ a + 128 + signatureBytes ≤ 2 ^ 40)) fun s =>
    let index := s.hub.nvm.sigIndex
    if 2 ^ 40 ≤ index then s.refuse c 0x25
    else
      let head := s.reportHead c index
      let report := head ++ attestSignature index head
      let s := { s with hub := { s.hub with nvm := { s.hub.nvm with sigIndex := index + 1 } } }
      State.serveHub { s with hub := { s.hub with writes := s.hub.writes ++ [.report a report c.node c.tag] } }

end Sys2Proof.Machine
end

