-- ==== Sys2Proof/Machine/Slices.lean ====
section
/-! DEFINITION. Accesses of contexts, streams and peers served at slices and atomic units, in the order that R245 gives, with what the
check of their packets finds (R245, R287, R297, R316, R399). -/

namespace Sys2Proof.Machine

/-- An access served at a slice: once it is what the slice serves next, or at any time where the slice has deferred it (R245, R296). -/
def State.atSlice (s : State) (k : Nat) (a : AccRef) (deferred : Bool) (perform : State → State) : State :=
  if deferred then perform s
  else match s.servedAt k a with
    | some s => perform s
    | none => s.stall

/-- An access performed, at a slice or at an atomic unit. A header that fails its check ends the region; a peer, whose region lies in
another package, is answered POISON (R399; log entry 111). -/
def State.performRef (s : State) (r : Served) (atomic : Bool) : State :=
  let bad := r.fault == .data
  match r.acc with
  | .ctx t k id => match (s.ctxAt t k).access id with
    | none => s.stall
    | some a =>
      let go := fun (s : State) => if r.fault = .header then s.headerFault (s.regionNumber t) else s.performCtx t k a bad
      if a.kind.isAtomic ≠ atomic then s.stall
      else match a.stage with
        | .ready tgt => s.atSlice tgt.slice r.acc false go
        | .deferred tgt => s.atSlice tgt.slice r.acc true go
        | _ => s.stall
  | .inbound n => match s.hub.inbound.find? (·.n == n) with
    | none => s.stall
    | some q =>
      let go := fun (s : State) =>
        if r.fault = .header then s.answerPeer q ((requestTag q.req).getD 0) (.fail Cause.poison 0) else s.performInbound q bad
      if q.isAtomic = atomic && s.inboundTurn q then s.atSlice q.tgt.slice r.acc q.deferred go else s.stall
  | .stream t g n => match s.elemAt t g n with
    | none => s.stall
    | some e =>
      let x := s.tile t
      let go := fun (s : State) => if r.fault = .header then s.headerFault (s.regionNumber t) else s.performElem t g e bad
      if atomic || x.snapped || !(e.stage == .ready || e.stage == .deferred) || e.fails.isSome || !(x.agens[g]).elemTurn e then s.stall
      else s.atSlice (e.slice.getD 0) r.acc (e.stage == .deferred) go

/-- SLICE_PERFORM (R245, R287, R288, R291, R316): a read, a store or a `pclr` performs at its slice. -/
def execSlicePerform (a : Served) (s : State) : Result := .next (s.performRef a false)

/-- ATOMIC_PERFORM (R297, R298, R301): an atomic performs at its slice's unit. -/
def execAtomicPerform (a : Served) (s : State) : Result := .next (s.performRef a true)

/-- RETRY_RESEND (R296): a read that met a full slice is sent again after 256 cycles, in its place in its own order, stamped anew
(R409). -/
def execRetryResend (a : AccRef) (s : State) : Result :=
  match a with
  | .ctx t k id => match (s.ctxAt t k).access id with
    | some x => match x.stage with
      | .retry tgt since => .next (if since + 256 ≤ (s.tile t).cycle.toNat then s.modCtx t k fun c =>
          { c with gq := c.gq.map fun a => if a.id = id then { a with stage := .ready tgt, ver := s.hub.version } else a }
        else s.stall)
      | _ => .next s.stall
    | none => .next s.stall
  | .inbound _ => .next s.stall
  | .stream t g n => match s.elemAt t g n with
    | some e => match e.stage with
      | .retry since => .next (if since + 256 ≤ (s.tile t).cycle.toNat then s.modElem t g n fun e => { e with stage := .ready, ver := s.hub.version } else s.stall)
      | _ => .next s.stall
    | none => .next s.stall

end Sys2Proof.Machine
end

