-- ==== Sys2Proof/Machine/Spindle.lean ====
section
/-! DEFINITION. Spindle sets (R228-R233): exact sums up a tree of routers. -/

namespace Sys2Proof.Machine

/-- The bank of a round's parity (R228). -/
def SpinSet.bank (x : SpinSet) (odd : Bool) : SpinBank := if odd then x.odd else x.even

/-- The bank of a parity replaced. -/
def SpinSet.setBank (x : SpinSet) (odd : Bool) (b : SpinBank) : SpinSet := if odd then { x with odd := b } else { x with even := b }

/-- The parity of round n + k. -/
def SpinSet.parity (x : SpinSet) (k : Nat) : Bool := (x.n + k) % 2 == 1

/-- A set changed. -/
def Tile.modSpin (x : Tile) (k : Fin 4) (f : SpinSet → SpinSet) : Tile := { x with spins := x.spins.set k (f x.spins[k]) }

/-- Sixteen EXA values added into a bank; a lane that leaves the range of R79 becomes 0 and sets its bit of OVF (R232). -/
def SpinBank.addLanes (b : SpinBank) (v : Vector Exa 16) : SpinBank :=
  (List.finRange 16).foldl (fun b (j : Fin 16) =>
    let (sum, left) := (b.lanes[j]).add v[j]
    { b with lanes := b.lanes.set j (if left then { sum with v := 0 } else sum)
             ovf := if left then b.ovf ||| (1#16 <<< j.val) else b.ovf }) b

/-- The EXA values of lanes 0-15 of a vector (R233). -/
def exaLanes (ty : Ty) (v : Vec) : Vector Exa 16 :=
  (List.finRange 16).foldl (fun x (j : Fin 16) => x.set j (Exa.ofReal (valueOf ty false (laneOf v ty.width j.val))))
    (Vector.replicate 16 ⟨0, 0⟩)

/-- The set that IMM16[1:0] names (R233). -/
def setOf (o : FmtQ) : Fin 4 := ⟨o.imm.toNat % 4, Nat.mod_lt _ (by decide)⟩

/-- The type slot of format Q (R44). -/
def qType (o : FmtQ) : Ty := (Ty.ofCode (BitVec.ofNat 4 o.tyCode)).getD .fp32

/-- An instruction of major 0x52 on a set in use; else CHAN (R233). -/
def State.spinOp (s : State) (o : FmtQ) (effect : SpinCfg → SpinSet → State → State) : State :=
  let c := s.curTile.cfg.spin[setOf o]
  if !c.valid then s.trapOpen Cause.chan else effect c s.curTile.spins[setOf o] s

/-- A local contribution entered in round n or n + 1, if one of them still has room (R231). -/
def SpinSet.contribute (x : SpinSet) (nlocal : Nat) (v : Vector Exa 16) : Option SpinSet :=
  let enter := fun k =>
    let b := x.bank (x.parity k)
    if b.nlocal < nlocal then some (x.setBank (x.parity k) { b.addLanes v with nlocal := b.nlocal + 1 }) else none
  match enter 0 with
  | some y => some y
  | none => enter 1

/-- `nred` (R231, R233). -/
def execNred (g : Guard) (o : FmtQ) (s : State) : Result :=
  .next (s.issue g (·.spinOp o fun c x s =>
    match x.contribute c.nlocal (exaLanes (qType o) (s.getV o.s1)) with
    | none => s.stall
    | some y => (s.modCurTile (·.modSpin (setOf o) fun _ => y)).retire))

/-- A lane of RESULT normalised; under SAT a float that overflows from finite inputs becomes ±Max (R233). -/
def spinLane (ty : Ty) (rm : RM) (sat : Bool) (x : Exa) : Nat :=
  roundTo ty false x.value rm (sat && !x.f.getLsbD 1 && !x.f.getLsbD 2)

/-- `nres` (R233): lanes 16-31 of a 16-bit result are zero. -/
def execNres (g : Guard) (o : FmtQ) (s : State) : Result :=
  .next (s.issue g (·.spinOp o fun c x s =>
    if !c.root then s.trapOpen Cause.chan
    else match x.result with
      | none => s.stall
      | some r =>
        if r.pois then s.trap Cause.poison (BitVec.ofNat 64 (setOf o).val)
        else if r.ovf ≠ 0 then s.trap Cause.spovf (BitVec.ofNat 64 ((setOf o).val * 2 ^ 16 + r.ovf.toNat))
        else
          let ty := qType o
          let rm := RM.ofCode (bits o.m7 1 2)
          let v := vecOf ty.width 16 fun j =>
            if h : j < 16 then spinLane ty rm (o.m7.getLsbD 0) (r.lanes[j]'h) else 0
          (s.modCurTile (·.modSpin (setOf o) fun y => { y with result := none })).writeV o.d v))

/-- `nclr` (R233). -/
def execNclr (g : Guard) (o : FmtQ) (s : State) : Result :=
  .next (s.issue g (·.spinOp o fun _ _ s =>
    (s.modCurTile (·.modSpin (setOf o) fun y =>
      { y with result := none, even := .empty, odd := .empty, n := 0, credits := 2 })).retire))

/-- Whether every lane of a partial has a flag word with bits [63:3] zero (R79). -/
def Partial.flagsOk (p : Partial) : Bool := p.lanes.toList.all fun w => (Exa.ofBits w).2

/-- The fault of a flag word that is not (R79): a channel fault, whose INFO no rule gives (log entry 3). -/
def State.flagFault (s : State) (t : TileId) : State :=
  let (info, s) := s.freeWord
  s.tileFault t Cause.chan 1 0 0 info 0

/-- SPINDLE_PARTIAL_ARRIVE (R231, R232): the next partial on its way enters the bank of its parity. One that fails parity
sets POIS, contributes nothing and still counts as its child's partial (log entry 17); one with a bad flag word is a channel fault (R79).
A snapshot that has been taken no longer changes (R234). -/
def execSpindlePartialArrive (t : TileId) (k : Fin 4) (parityFail : Bool) (s : State) : Result :=
  match ((s.tile t).spins[k]).partials with
  | [] => .next s.stall
  | p :: rest => .next (if (s.tile t).snapped then s.stall
    else if !parityFail && !p.flagsOk then (s.modTile t (·.modSpin k fun y => { y with partials := rest })).flagFault t
    else s.modTile t (·.modSpin k fun y =>
      let b := y.bank p.parity
      let b := { b with nchild := b.nchild + 1, kids := b.kids ++ [p.child] }
      let b := if parityFail then { b with pois := true }
        else
          let b := b.addLanes (p.lanes.map fun w => (Exa.ofBits w).1)
          { b with ovf := b.ovf ||| p.ovf, pois := b.pois || p.pois }
      { (y.setBank p.parity b) with partials := rest }))

/-- SPINDLE_ROUND_COMPLETE (R231): a complete round goes to the parent, for a credit, or into an empty RESULT at the root;
the bank is cleared, each counted child gets its credit back, and the round counts on. A tile whose snapshot has been taken sends
none and gets none (R234). -/
def execSpindleRoundComplete (t : TileId) (k : Fin 4) (s : State) : Result :=
  let c := (s.tile t).cfg.spin[k]
  let x := (s.tile t).spins[k]
  let odd := x.parity 0
  let b := x.bank odd
  if (s.tile t).snapped || (!c.root && (s.tile (neighbour t c.parent)).snapped) || !c.valid || b.nlocal ≠ c.nlocal || b.nchild ≠ c.nchild then .next s.stall
  else if (if c.root then x.result.isSome else x.credits == 0) then .next s.stall
  else
    let s := s.modTile t (·.modSpin k fun y =>
      let y := { (y.setBank odd .empty) with n := y.n + 1 }
      if c.root then { y with result := some b } else { y with credits := y.credits - 1 })
    let s := if c.root then s
      else s.modTile (neighbour t c.parent) (·.modSpin ⟨c.pset % 4, Nat.mod_lt _ (by decide)⟩ fun y =>
        { y with partials := y.partials ++ [⟨b.lanes.map Exa.toBits, b.ovf, b.pois, odd, (t, k)⟩] })
    .next (b.kids.foldl (fun s child => s.modTile child.1 (·.modSpin child.2 fun y => { y with creditsIn := y.creditsIn + 1 })) s)

/-- SPINDLE_CREDIT_ARRIVE (R231). -/
def execSpindleCreditArrive (t : TileId) (k : Fin 4) (s : State) : Result :=
  if ((s.tile t).spins[k]).creditsIn = 0 then .next s.stall
  else .next (s.modTile t (·.modSpin k fun y => { y with credits := y.credits + 1, creditsIn := y.creditsIn - 1 }))

end Sys2Proof.Machine
end

