-- ==== Sys2Proof/Machine/Dispatch.lean ====
section
/-! DEFINITION. The table of meanings: one arm per instruction, happening and command. -/

namespace Sys2Proof.Machine

/-- One instruction, happening or command performed on a state. -/
def exec (i : Instr) (s : State) : Host.Outcome State Fault Refusal :=
  match i with
  | .br g o => Sys2Proof.Machine.execBr g o s
  | .beq g o => Sys2Proof.Machine.execBeq g o s
  | .bne g o => Sys2Proof.Machine.execBne g o s
  | .blt g o => Sys2Proof.Machine.execBlt g o s
  | .bge g o => Sys2Proof.Machine.execBge g o s
  | .bltu g o => Sys2Proof.Machine.execBltu g o s
  | .bgeu g o => Sys2Proof.Machine.execBgeu g o s
  | .bp g o => Sys2Proof.Machine.execBp g o s
  | .bnp g o => Sys2Proof.Machine.execBnp g o s
  | .jal g o => Sys2Proof.Machine.execJal g o s
  | .jalr g o => Sys2Proof.Machine.execJalr g o s
  | .yield g o => Sys2Proof.Machine.execYield g o s
  | .park g o => Sys2Proof.Machine.execPark g o s
  | .nop g o => Sys2Proof.Machine.execNop g o s
  | .add g o => Sys2Proof.Machine.execAdd g o s
  | .sub g o => Sys2Proof.Machine.execSub g o s
  | .mul g o => Sys2Proof.Machine.execMul g o s
  | .mulh g o => Sys2Proof.Machine.execMulh g o s
  | .mulhu g o => Sys2Proof.Machine.execMulhu g o s
  | .div g o => Sys2Proof.Machine.execDiv g o s
  | .divu g o => Sys2Proof.Machine.execDivu g o s
  | .rem g o => Sys2Proof.Machine.execRem g o s
  | .remu g o => Sys2Proof.Machine.execRemu g o s
  | .and g o => Sys2Proof.Machine.execAnd g o s
  | .or g o => Sys2Proof.Machine.execOr g o s
  | .xor g o => Sys2Proof.Machine.execXor g o s
  | .andn g o => Sys2Proof.Machine.execAndn g o s
  | .sll g o => Sys2Proof.Machine.execSll g o s
  | .srl g o => Sys2Proof.Machine.execSrl g o s
  | .sra g o => Sys2Proof.Machine.execSra g o s
  | .rol g o => Sys2Proof.Machine.execRol g o s
  | .min g o => Sys2Proof.Machine.execMin g o s
  | .max g o => Sys2Proof.Machine.execMax g o s
  | .minu g o => Sys2Proof.Machine.execMinu g o s
  | .maxu g o => Sys2Proof.Machine.execMaxu g o s
  | .slt g o => Sys2Proof.Machine.execSlt g o s
  | .sltu g o => Sys2Proof.Machine.execSltu g o s
  | .sel g o => Sys2Proof.Machine.execSel g o s
  | .clz g o => Sys2Proof.Machine.execClz g o s
  | .ctz g o => Sys2Proof.Machine.execCtz g o s
  | .popc g o => Sys2Proof.Machine.execPopc g o s
  | .brev g o => Sys2Proof.Machine.execBrev g o s
  | .addi g o => Sys2Proof.Machine.execAddi g o s
  | .andi g o => Sys2Proof.Machine.execAndi g o s
  | .ori g o => Sys2Proof.Machine.execOri g o s
  | .xori g o => Sys2Proof.Machine.execXori g o s
  | .slli g o => Sys2Proof.Machine.execSlli g o s
  | .srli g o => Sys2Proof.Machine.execSrli g o s
  | .srai g o => Sys2Proof.Machine.execSrai g o s
  | .slti g o => Sys2Proof.Machine.execSlti g o s
  | .sltiu g o => Sys2Proof.Machine.execSltiu g o s
  | .li g o => Sys2Proof.Machine.execLi g o s
  | .lhi g o => Sys2Proof.Machine.execLhi g o s
  | .pand g o => Sys2Proof.Machine.execPand g o s
  | .por g o => Sys2Proof.Machine.execPor g o s
  | .pxor g o => Sys2Proof.Machine.execPxor g o s
  | .pandn g o => Sys2Proof.Machine.execPandn g o s
  | .pnot g o => Sys2Proof.Machine.execPnot g o s
  | .pfrom g o => Sys2Proof.Machine.execPfrom g o s
  | .pto g o => Sys2Proof.Machine.execPto g o s
  | .icmp g o => Sys2Proof.Machine.execIcmp g o s
  | .lea g o => Sys2Proof.Machine.execLea g o s
  | .sbank g o => Sys2Proof.Machine.execSbank g o s
  | .clamp g o => Sys2Proof.Machine.execClamp g o s
  | .fadd g o => Sys2Proof.Machine.execFadd g o s
  | .fsub g o => Sys2Proof.Machine.execFsub g o s
  | .fmul g o => Sys2Proof.Machine.execFmul g o s
  | .fma g o => Sys2Proof.Machine.execFma g o s
  | .fdiv g o => Sys2Proof.Machine.execFdiv g o s
  | .fsqrt g o => Sys2Proof.Machine.execFsqrt g o s
  | .fmin g o => Sys2Proof.Machine.execFmin g o s
  | .fmax g o => Sys2Proof.Machine.execFmax g o s
  | .fcmp g o => Sys2Proof.Machine.execFcmp g o s
  | .fcvt g o => Sys2Proof.Machine.execFcvt g o s
  | .fclass g o => Sys2Proof.Machine.execFclass g o s
  | .fsgnj g o => Sys2Proof.Machine.execFsgnj g o s
  | .vadd g o => Sys2Proof.Machine.execVadd g o s
  | .vsub g o => Sys2Proof.Machine.execVsub g o s
  | .vmul g o => Sys2Proof.Machine.execVmul g o s
  | .vmulh g o => Sys2Proof.Machine.execVmulh g o s
  | .vmin g o => Sys2Proof.Machine.execVmin g o s
  | .vmax g o => Sys2Proof.Machine.execVmax g o s
  | .vabs g o => Sys2Proof.Machine.execVabs g o s
  | .vand g o => Sys2Proof.Machine.execVand g o s
  | .vor g o => Sys2Proof.Machine.execVor g o s
  | .vxor g o => Sys2Proof.Machine.execVxor g o s
  | .vsll g o => Sys2Proof.Machine.execVsll g o s
  | .vsrl g o => Sys2Proof.Machine.execVsrl g o s
  | .vsra g o => Sys2Proof.Machine.execVsra g o s
  | .vfadd g o => Sys2Proof.Machine.execVfadd g o s
  | .vfsub g o => Sys2Proof.Machine.execVfsub g o s
  | .vfmul g o => Sys2Proof.Machine.execVfmul g o s
  | .vfma g o => Sys2Proof.Machine.execVfma g o s
  | .vfmin g o => Sys2Proof.Machine.execVfmin g o s
  | .vfmax g o => Sys2Proof.Machine.execVfmax g o s
  | .vfabs g o => Sys2Proof.Machine.execVfabs g o s
  | .vfneg g o => Sys2Proof.Machine.execVfneg g o s
  | .vfrcp g o => Sys2Proof.Machine.execVfrcp g o s
  | .vfrsq g o => Sys2Proof.Machine.execVfrsq g o s
  | .vfexp2 g o => Sys2Proof.Machine.execVfexp2 g o s
  | .vflog2 g o => Sys2Proof.Machine.execVflog2 g o s
  | .vcmp g o => Sys2Proof.Machine.execVcmp g o s
  | .vfcmp g o => Sys2Proof.Machine.execVfcmp g o s
  | .vcvt g o => Sys2Proof.Machine.execVcvt g o s
  | .vscale g o => Sys2Proof.Machine.execVscale g o s
  | .vbcast g o => Sys2Proof.Machine.execVbcast g o s
  | .vext g o => Sys2Proof.Machine.execVext g o s
  | .vins g o => Sys2Proof.Machine.execVins g o s
  | .vperm g o => Sys2Proof.Machine.execVperm g o s
  | .vslide g o => Sys2Proof.Machine.execVslide g o s
  | .vzip g o => Sys2Proof.Machine.execVzip g o s
  | .vunzip g o => Sys2Proof.Machine.execVunzip g o s
  | .vsel g o => Sys2Proof.Machine.execVsel g o s
  | .vcompress g o => Sys2Proof.Machine.execVcompress g o s
  | .vexpand g o => Sys2Proof.Machine.execVexpand g o s
  | .vmov g o => Sys2Proof.Machine.execVmov g o s
  | .vredadd g o => Sys2Proof.Machine.execVredadd g o s
  | .vredmax g o => Sys2Proof.Machine.execVredmax g o s
  | .vredmin g o => Sys2Proof.Machine.execVredmin g o s
  | .vredfadd g o => Sys2Proof.Machine.execVredfadd g o s
  | .vdot g o => Sys2Proof.Machine.execVdot g o s
  | .mma g o => Sys2Proof.Machine.execMma g o s
  | .mmav g o => Sys2Proof.Machine.execMmav g o s
  | .mzero g o => Sys2Proof.Machine.execMzero g o s
  | .mswap g o => Sys2Proof.Machine.execMswap g o s
  | .mrd g o => Sys2Proof.Machine.execMrd g o s
  | .mwr g o => Sys2Proof.Machine.execMwr g o s
  | .mdrain g o => Sys2Proof.Machine.execMdrain g o s
  | .mcfg g o => Sys2Proof.Machine.execMcfg g o s
  | .mcfgGive g o => Sys2Proof.Machine.execMcfgGive g o s
  | .nred g o => Sys2Proof.Machine.execNred g o s
  | .nres g o => Sys2Proof.Machine.execNres g o s
  | .nclr g o => Sys2Proof.Machine.execNclr g o s
  | .ld g o => Sys2Proof.Machine.execLd g o s
  | .st g o => Sys2Proof.Machine.execSt g o s
  | .vld g o => Sys2Proof.Machine.execVld g o s
  | .vst g o => Sys2Proof.Machine.execVst g o s
  | .vldx g o => Sys2Proof.Machine.execVldx g o s
  | .vstx g o => Sys2Proof.Machine.execVstx g o s
  | .vlds g o => Sys2Proof.Machine.execVlds g o s
  | .vsts g o => Sys2Proof.Machine.execVsts g o s
  | .gld g o => Sys2Proof.Machine.execGld g o s
  | .gst g o => Sys2Proof.Machine.execGst g o s
  | .gvld g o => Sys2Proof.Machine.execGvld g o s
  | .gvst g o => Sys2Proof.Machine.execGvst g o s
  | .gldw g o => Sys2Proof.Machine.execGldw g o s
  | .gstw g o => Sys2Proof.Machine.execGstw g o s
  | .gprf g o => Sys2Proof.Machine.execGprf g o s
  | .pclr g o => Sys2Proof.Machine.execPclr g o s
  | .amoadd g o => Sys2Proof.Machine.execAmoadd g o s
  | .amofadd g o => Sys2Proof.Machine.execAmofadd g o s
  | .amomin g o => Sys2Proof.Machine.execAmomin g o s
  | .amomax g o => Sys2Proof.Machine.execAmomax g o s
  | .amominu g o => Sys2Proof.Machine.execAmominu g o s
  | .amomaxu g o => Sys2Proof.Machine.execAmomaxu g o s
  | .amoand g o => Sys2Proof.Machine.execAmoand g o s
  | .amoor g o => Sys2Proof.Machine.execAmoor g o s
  | .amoxor g o => Sys2Proof.Machine.execAmoxor g o s
  | .amoswap g o => Sys2Proof.Machine.execAmoswap g o s
  | .amocas g o => Sys2Proof.Machine.execAmocas g o s
  | .amocall g o => Sys2Proof.Machine.execAmocall g o s
  | .fence g o => Sys2Proof.Machine.execFence g o s
  | .fencex g o => Sys2Proof.Machine.execFencex g o s
  | .send g o => Sys2Proof.Machine.execSend g o s
  | .vsend g o => Sys2Proof.Machine.execVsend g o s
  | .recv g o => Sys2Proof.Machine.execRecv g o s
  | .vrecv g o => Sys2Proof.Machine.execVrecv g o s
  | .tsend g o => Sys2Proof.Machine.execTsend g o s
  | .tpeek g o => Sys2Proof.Machine.execTpeek g o s
  | .trecv g o => Sys2Proof.Machine.execTrecv g o s
  | .chk g o => Sys2Proof.Machine.execChk g o s
  | .bind g o => Sys2Proof.Machine.execBind g o s
  | .unbind g o => Sys2Proof.Machine.execUnbind g o s
  | .agrun g o => Sys2Proof.Machine.execAgrun g o s
  | .agstop g o => Sys2Proof.Machine.execAgstop g o s
  | .agstat g o => Sys2Proof.Machine.execAgstat g o s
  | .gadv g o => Sys2Proof.Machine.execGadv g o s
  | .gset g o => Sys2Proof.Machine.execGset g o s
  | .gget g o => Sys2Proof.Machine.execGget g o s
  | .gwait g o => Sys2Proof.Machine.execGwait g o s
  | .grate g o => Sys2Proof.Machine.execGrate g o s
  | .glate g o => Sys2Proof.Machine.execGlate g o s
  | .glatePop g o => Sys2Proof.Machine.execGlatePop g o s
  | .xfer g o => Sys2Proof.Machine.execXfer g o s
  | .xvia g o => Sys2Proof.Machine.execXvia g o s
  | .xgath g o => Sys2Proof.Machine.execXgath g o s
  | .xscat g o => Sys2Proof.Machine.execXscat g o s
  | .xcancel g o => Sys2Proof.Machine.execXcancel g o s
  | .xstat g o => Sys2Proof.Machine.execXstat g o s
  | .baralloc g o => Sys2Proof.Machine.execBaralloc g o s
  | .barfree g o => Sys2Proof.Machine.execBarfree g o s
  | .barref g o => Sys2Proof.Machine.execBarref g o s
  | .barinit g o => Sys2Proof.Machine.execBarinit g o s
  | .barrive g o => Sys2Proof.Machine.execBarrive g o s
  | .barexp g o => Sys2Proof.Machine.execBarexp g o s
  | .barwait g o => Sys2Proof.Machine.execBarwait g o s
  | .bartest g o => Sys2Proof.Machine.execBartest g o s
  | .blopen g o => Sys2Proof.Machine.execBlopen g o s
  | .blseal g o => Sys2Proof.Machine.execBlseal g o s
  | .blcommit g o => Sys2Proof.Machine.execBlcommit g o s
  | .blabort g o => Sys2Proof.Machine.execBlabort g o s
  | .blwait g o => Sys2Proof.Machine.execBlwait g o s
  | .blstat g o => Sys2Proof.Machine.execBlstat g o s
  | .blst g o => Sys2Proof.Machine.execBlst g o s
  | .blvst g o => Sys2Proof.Machine.execBlvst g o s
  | .scroll g o => Sys2Proof.Machine.execScroll g o s
  | .scrollQ g o => Sys2Proof.Machine.execScrollQ g o s
  | .stsave g o => Sys2Proof.Machine.execStsave g o s
  | .stload g o => Sys2Proof.Machine.execStload g o s
  | .cfgw g o => Sys2Proof.Machine.execCfgw g o s
  | .cfgswap g o => Sys2Proof.Machine.execCfgswap g o s
  | .sysrd g o => Sys2Proof.Machine.execSysrd g o s
  | .syswr g o => Sys2Proof.Machine.execSyswr g o s
  | .horizonWrite g o => Sys2Proof.Machine.execHorizonWrite g o s
  | .evpendWrite g o => Sys2Proof.Machine.execEvpendWrite g o s
  | .trap g o => Sys2Proof.Machine.execTrap g o s
  | .eret g o => Sys2Proof.Machine.execEret g o s
  | .ebrk g o => Sys2Proof.Machine.execEbrk g o s
  | .wfe g o => Sys2Proof.Machine.execWfe g o s
  | .tlbinv g o => Sys2Proof.Machine.execTlbinv g o s
  | .chalt g o => Sys2Proof.Machine.execChalt g o s
  | .cresume g o => Sys2Proof.Machine.execCresume g o s
  | .lateTrap => Sys2Proof.Machine.execLateTrap s
  | .illegalWord w => Sys2Proof.Machine.execIllegalWord w s
  | .dispatch t c => Sys2Proof.Machine.execDispatch t c s
  | .unitFree t isFloat => Sys2Proof.Machine.execUnitFree t isFloat s
  | .registerWriteLand t c r => Sys2Proof.Machine.execRegisterWriteLand t c r s
  | .storeQueuePerform t c => Sys2Proof.Machine.execStoreQueuePerform t c s
  | .headRecordExamine q => Sys2Proof.Machine.execHeadRecordExamine q s
  | .placementPass d => Sys2Proof.Machine.execPlacementPass d s
  | .install r => Sys2Proof.Machine.execInstall r s
  | .sourceStart r k => Sys2Proof.Machine.execSourceStart r k s
  | .governorWindow t => Sys2Proof.Machine.execGovernorWindow t s
  | .regionComplete r => Sys2Proof.Machine.execRegionComplete r s
  | .channelEntryArrive t k parityFail => Sys2Proof.Machine.execChannelEntryArrive t k parityFail s
  | .creditReturn t e => Sys2Proof.Machine.execCreditReturn t e s
  | .typedJoinConvert t k => Sys2Proof.Machine.execTypedJoinConvert t k s
  | .cfgApply t k => Sys2Proof.Machine.execCfgApply t k s
  | .steerFire t o => Sys2Proof.Machine.execSteerFire t o s
  | .mergeFire t o => Sys2Proof.Machine.execMergeFire t o s
  | .carryFire t o => Sys2Proof.Machine.execCarryFire t o s
  | .forkFire t o => Sys2Proof.Machine.execForkFire t o s
  | .readStreamElement t g => Sys2Proof.Machine.execReadStreamElement t g s
  | .writeStreamElement t g => Sys2Proof.Machine.execWriteStreamElement t g s
  | .matrixFire t => Sys2Proof.Machine.execMatrixFire t s
  | .matrixSwapToken t => Sys2Proof.Machine.execMatrixSwapToken t s
  | .matrixTokenPair t => Sys2Proof.Machine.execMatrixTokenPair t s
  | .mmavDone t => Sys2Proof.Machine.execMmavDone t s
  | .drainEntry t => Sys2Proof.Machine.execDrainEntry t s
  | .spindlePartialArrive t k parityFail => Sys2Proof.Machine.execSpindlePartialArrive t k parityFail s
  | .spindleRoundComplete t k => Sys2Proof.Machine.execSpindleRoundComplete t k s
  | .spindleCreditArrive t k => Sys2Proof.Machine.execSpindleCreditArrive t k s
  | .endWindow t g => Sys2Proof.Machine.execEndWindow t g s
  | .beaconTimeout t g => Sys2Proof.Machine.execBeaconTimeout t g s
  | .beaconArrive d e t g => Sys2Proof.Machine.execBeaconArrive d e t g s
  | .enginePacketIssue d e => Sys2Proof.Machine.execEnginePacketIssue d e s
  | .packetArbiterGrant a => Sys2Proof.Machine.execPacketArbiterGrant a s
  | .holdReevaluate d e => Sys2Proof.Machine.execHoldReevaluate d e s
  | .watchRegister id => Sys2Proof.Machine.execWatchRegister id s
  | .watchRetry id => Sys2Proof.Machine.execWatchRetry id s
  | .transferPacketLand id l => Sys2Proof.Machine.execTransferPacketLand id l s
  | .transferDone id => Sys2Proof.Machine.execTransferDone id s
  | .completionEntryAppend id => Sys2Proof.Machine.execCompletionEntryAppend id s
  | .transferError id => Sys2Proof.Machine.execTransferError id s
  | .walkComplete d asid page => Sys2Proof.Machine.execWalkComplete d asid page s
  | .slicePerform a => Sys2Proof.Machine.execSlicePerform a s
  | .atomicPerform a => Sys2Proof.Machine.execAtomicPerform a s
  | .retryResend a => Sys2Proof.Machine.execRetryResend a s
  | .invalidationComplete k => Sys2Proof.Machine.execInvalidationComplete k s
  | .barrierOperation d => Sys2Proof.Machine.execBarrierOperation d s
  | .transferArrival d => Sys2Proof.Machine.execTransferArrival d s
  | .loftStoreArrive l => Sys2Proof.Machine.execLoftStoreArrive l s
  | .sealSend h => Sys2Proof.Machine.execSealSend h s
  | .sealArrive k => Sys2Proof.Machine.execSealArrive k s
  | .baleReply h node r => Sys2Proof.Machine.execBaleReply h node r s
  | .baleCommitDecision h => Sys2Proof.Machine.execBaleCommitDecision h s
  | .baleDecisionApply k => Sys2Proof.Machine.execBaleDecisionApply k s
  | .baleDoneReply h node => Sys2Proof.Machine.execBaleDoneReply h node s
  | .feederLoad r slot => Sys2Proof.Machine.execFeederLoad r slot s
  | .feederTrainAppend r => Sys2Proof.Machine.execFeederTrainAppend r s
  | .forwardReady t => Sys2Proof.Machine.execForwardReady t s
  | .reelSwap t => Sys2Proof.Machine.execReelSwap t s
  | .stateSave t => Sys2Proof.Machine.execStateSave t s
  | .stateRestore t => Sys2Proof.Machine.execStateRestore t s
  | .tileSnapshot t => Sys2Proof.Machine.execTileSnapshot t s
  | .snapshotComplete r => Sys2Proof.Machine.execSnapshotComplete r s
  | .regionRestore r => Sys2Proof.Machine.execRegionRestore r s
  | .flitReceive p flit => Sys2Proof.Machine.execFlitReceive p flit s
  | .nakReplay p => Sys2Proof.Machine.execNakReplay p s
  | .streamOpen p => Sys2Proof.Machine.execStreamOpen p s
  | .streamClose p => Sys2Proof.Machine.execStreamClose p s
  | .dataFlit p q => Sys2Proof.Machine.execDataFlit p q s
  | .hello p node incarnation => Sys2Proof.Machine.execHello p node incarnation s
  | .creditFlit p circuit n => Sys2Proof.Machine.execCreditFlit p circuit n s
  | .circFlit p circuit => Sys2Proof.Machine.execCircFlit p circuit s
  | .hold rid => Sys2Proof.Machine.execHold rid s
  | .remoteResponse rid a => Sys2Proof.Machine.execRemoteResponse rid a s
  | .remoteTimeoutExpiry rid => Sys2Proof.Machine.execRemoteTimeoutExpiry rid s
  | .bridgeReplay b => Sys2Proof.Machine.execBridgeReplay b s
  | .qconfig c => Sys2Proof.Machine.execQconfig c s
  | .doorbell c => Sys2Proof.Machine.execDoorbell c s
  | .qread c => Sys2Proof.Machine.execQread c s
  | .rootbase c => Sys2Proof.Machine.execRootbase c s
  | .inval c => Sys2Proof.Machine.execInval c s
  | .pageinit c => Sys2Proof.Machine.execPageinit c s
  | .access c => Sys2Proof.Machine.execAccess c s
  | .timeout c => Sys2Proof.Machine.execTimeout c s
  | .nodeport c => Sys2Proof.Machine.execNodeport c s
  | .linkup c => Sys2Proof.Machine.execLinkup c s
  | .routever c => Sys2Proof.Machine.execRoutever c s
  | .diestate c => Sys2Proof.Machine.execDiestate c s
  | .kill c => Sys2Proof.Machine.execKill c s
  | .pause c => Sys2Proof.Machine.execPause c s
  | .evict c => Sys2Proof.Machine.execEvict c s
  | .resume c => Sys2Proof.Machine.execResume c s
  | .halt c => Sys2Proof.Machine.execHalt c s
  | .release c => Sys2Proof.Machine.execRelease c s
  | .ctxrd c => Sys2Proof.Machine.execCtxrd c s
  | .ctxwr c => Sys2Proof.Machine.execCtxwr c s
  | .faultq c => Sys2Proof.Machine.execFaultq c s
  | .stale c => Sys2Proof.Machine.execStale c s
  | .resolve c => Sys2Proof.Machine.execResolve c s
  | .circuit c => Sys2Proof.Machine.execCircuit c s
  | .clockstep c => Sys2Proof.Machine.execClockstep c s
  | .ratio c => Sys2Proof.Machine.execRatio c s
  | .repair c => Sys2Proof.Machine.execRepair c s
  | .thermal c => Sys2Proof.Machine.execThermal c s
  | .attest c => Sys2Proof.Machine.execAttest c s
  | .fwstage c => Sys2Proof.Machine.execFwstage c s
  | .hostlist c => Sys2Proof.Machine.execHostlist c s
  | .powerUp => Sys2Proof.Machine.execPowerUp s
  | .thermalTrip d => Sys2Proof.Machine.execThermalTrip d s
  | .repairEnd d => Sys2Proof.Machine.execRepairEnd d s
  | .ack p => Sys2Proof.Machine.execAck p s
  | .clockstepResume d => Sys2Proof.Machine.execClockstepResume d s
  | .modulePowerOff => Sys2Proof.Machine.execModulePowerOff s

end Sys2Proof.Machine
end

