-- ==== Sys2Proof/Machine/Fetch.lean ====
section
/-! DEFINITION. How a move is taken, and a state in which the next step issues a given word. -/

namespace Sys2Proof.Machine

/-- Whether only the issue slot of a tile performs it: an instruction, a pending LATE, a word that fails its checks. -/
def issuedOnly (i : Instr) : Bool :=
  match i with
  | .lateTrap => true
  | .illegalWord _ => true
  | i => i.isCode

/-- The move at the head of the agenda, or a cycle of the last tile where it is empty (log entry 1). -/
def State.nextMove (s : State) : Move :=
  match s.agenda with
  | [] => .cycle s.here
  | m :: _ => m

/-- A result, with what follows every move. -/
def Result.settled (r : Result) : Result :=
  match r with
  | .next s => .next s.afterMove
  | r => r

/-- A move taken: a cycle of a tile, or a happening or command; with no power only POWER_UP can happen (R429). -/
def State.take (ex : Instr → State → Result) (s : State) : Result :=
  let t := { s with agenda := s.agenda.tail, stalled := false }
  match s.nextMove with
  | .cycle x => if s.power = .off then .fault .noPower else (t.tileCycle ex x).settled
  | .happen i =>
    if issuedOnly i then .next t.stall
    else if s.power = .off && i != .powerUp then .fault .noPower
    else (ex i t).settled

/-- The launch of the region that `withFetchWord` runs in: one tile, tenant and ASID 0. -/
def Launch.bare : Launch where
  image := 0
  frames := 1
  segments := 0
  tenant := 0
  asid := 0
  cls := 0
  argw := 1
  affinity := 0xFF
  cols := 1
  rows := 1
  winlog := 0
  words := 0
  doneKind := 0
  doneVa := 0
  deps := []
  args := Vector.replicate 7 0

/-- A running region of one tile. -/
def Region.bare (number top left : Nat) : Region where
  number := number
  gen := 0
  phase := .running
  launch := .bare
  queue := 0
  seq := 1
  epoch := 0
  top := top
  left := left
  horizon := 0xFFFFFFFF
  faults := []
  first := none
  overrun := 0
  outcome := 0
  starts := []
  reel := none
  saved := []
  saveArea := 0
  ends := []
  waited := 0
  preemptDue := none

/-- The context made ready to issue the word at its program counter, with nothing before it. -/
def Ctx.readied (c : Ctx) : Ctx :=
  { c with
    run := .running, wait := .none, stepDue := none, landing := [], evLate := false, busyUntil := 0, haltDue := none, slotReq := none }

/-- The tile made ready to issue `w` in context 0 in its next cycle, in the region of a number. -/
def Tile.readied (x : Tile) (number : Nat) (w : Word) : Tile :=
  let c := x.ctxs[(0 : Fin 4)].readied
  let x := x.setCtx 0 c
  { x with awake := true, stopping := false, snapped := false, region := some number, k := 0, divUntil := 0, fdivUntil := 0
           counters := x.counters.map fun y => { y with windows := max y.windows (x.cycle.toNat / 1024) }
           store := putKey c.pc.toNat w x.store
           storeBad := x.storeBad.filter fun n => n != c.pc.toNat }

/-- The state in which the next step issues `w`: in context 0 of the tile at hand, in its running region, or in a region
of that one tile where it has none. -/
def State.issuing (s : State) (w : Word) : State :=
  let s := { s with agenda := [], power := .on, ctx := 0 }.modDie s.here.dieIx fun d => { d with clockStopped := none }
  match s.regionOf s.here with
  | some r =>
    let s := s.modRegion r.number fun r => { r with phase := .running }
    s.modTile s.here fun x => x.readied r.number w
  | none =>
    let r := Region.bare (256 * s.here.die) s.here.prow s.here.pcol
    let s := { s with regions := r :: s.regions.filter fun x => x.number != r.number }
    s.modTile s.here fun x => x.readied r.number w

end Sys2Proof.Machine
end

