-- ==== Sys2Proof/Machine/Step.lean ====
section
/-! DEFINITION. One step: the move at the head of the agenda is taken. -/

namespace Sys2Proof.Machine

/-- One step of the machine: a cycle of a tile, a happening or a command of a host (log entry 1). -/
def step (s : State) : Host.Outcome State Fault Refusal := s.take exec

/-- `s` with the instruction word `w` (numbered as the opcode table numbers bits) placed where the next step issues its
instruction: at the program counter of context 0 of the tile at hand, made ready to issue. How a program comes to run
from reset without it: log entry 11. -/
def State.withFetchWord (s : State) (nbits w : Nat) : State := s.issuing (BitVec.ofNat 64 (w % 2 ^ nbits))

end Sys2Proof.Machine
end

