-- ==== Sys2Proof/Safety.lean ====
section
/-! DEFINITION. The terms in which claims are made: when an instruction has its effect, what a move leaves unchanged,
and the condition on memory that holds of every safe state. -/

namespace Sys2Proof

open Sys2Proof.Machine

/-- The memories of the package keep their canonical form, those of evicted regions' tiles with them. -/
def MemoryWf (s : State) : Prop :=
  s.mem.hbm.wf = true ∧ s.mem.lpddr.wf = true ∧ (∀ p ∈ s.tiles, p.2.scratch.wf = true) ∧
    ∀ r ∈ s.regions, ∀ p ∈ r.saved, p.2.scratch.wf = true

/-- The move has a next state, and that state is as said. -/
def Completes (i : Instr) (s : State) (r : State → Prop) : Prop := ∃ t, exec i s = .next t ∧ r t

/-- The happening takes place: it has a next state, it is not held back, and that state is as said. -/
def Happens (i : Instr) (s : State) (r : State → Prop) : Prop := ∃ t, exec i s = .next t ∧ t.stalled = s.stalled ∧ r t

/-- The move cannot take place now: nothing differs but the mark that says so. -/
def Stalls (i : Instr) (s : State) : Prop := exec i s = .next s.stall

/-- The instruction has its own effect: its index is not the last one (R55) and its guard is on (R38). -/
def Runs (s : State) (g : Guard) : Prop := s.cur.pc ≠ 2047 ∧ s.cur.guardOn g = true

/-- Every byte of global memory and of every tile's scratch reads as before. -/
def MemorySame (s t : State) : Prop :=
  (∀ a, t.mem.hbm.read a = s.mem.hbm.read a) ∧ (∀ a, t.mem.lpddr.read a = s.mem.lpddr.read a) ∧
    ∀ k a, (t.tile k).scratch.read a = (s.tile k).scratch.read a

/-- Nothing but the issuing context differs: no other context, tile, region, die, memory or unit of the hub. -/
def OnlyContext (s t : State) : Prop := t = (s.modCur fun _ => t.cur) ∧ MemorySame s t

/-- The instruction retired with no other effect: the next index, one more instruction counted (R38, R122). -/
def Retired (s t : State) : Prop :=
  t.cur = { s.cur with pc := s.cur.pc + 1, retired := s.cur.retired + 1 } ∧ OnlyContext s t

/-- The instruction changes its tile as said and retires; nothing else differs. -/
def TileStep (s t : State) (f : Tile → Tile) : Prop := t = (s.modCurTile f).retire ∧ MemorySame s t

/-- One tile is changed as said; nothing else differs. -/
def TileOnly (s t : State) (k : TileId) (f : Tile → Tile) : Prop := t = s.modTile k f ∧ MemorySame s t

/-- One context of one tile is changed as said; nothing else differs. -/
def CtxOnly (s t : State) (k : TileId) (c : Fin 4) (f : Ctx → Ctx) : Prop := t = s.modCtx k c f ∧ MemorySame s t

/-- S(d) := v and nothing else; s0 discards the write and reads zero (R35). -/
def WroteS (s t : State) (d : Reg) (v : Word) : Prop :=
  t.getS d = (if d = 0 then 0 else v) ∧ (∀ r, r ≠ d → t.getS r = s.getS r) ∧
    t.cur = { s.cur with s := t.cur.s, pc := s.cur.pc + 1, retired := s.cur.retired + 1 } ∧ OnlyContext s t

/-- V(d) := x and nothing else. -/
def WroteV (s t : State) (d : Reg) (x : Vec) : Prop :=
  t.getV d = x ∧ (∀ r, r.toNat % 16 ≠ d.toNat % 16 → t.getV r = s.getV r) ∧
    t.cur = { s.cur with v := t.cur.v, pc := s.cur.pc + 1, retired := s.cur.retired + 1 } ∧ OnlyContext s t

/-- P(d) := v and nothing else; p0 discards the write and reads all ones (R35). -/
def WroteP (s t : State) (d : Reg) (v : Word) : Prop :=
  t.getP d = (if d.toNat % 8 = 0 then Word.ones else v) ∧ (∀ r, r.toNat % 8 ≠ d.toNat % 8 → t.getP r = s.getP r) ∧
    t.cur = { s.cur with p := t.cur.p, pc := s.cur.pc + 1, retired := s.cur.retired + 1 } ∧ OnlyContext s t

/-- The active lanes of V(d) take `f k` at their width, the inactive ones keep their values, and nothing else is
written (R39, R140). -/
def WroteLanes (s t : State) (d : Reg) (ty : Ty) (mask : Word) (f : Nat → Nat) : Prop :=
  (∀ k, k < ty.lanes → laneOf (t.getV d) ty.width k =
    if activeLane ty.width mask k then f k % 2 ^ ty.width else laneOf (s.getV d) ty.width k) ∧
  (∀ r, r.toNat % 16 ≠ d.toNat % 16 → t.getV r = s.getV r) ∧
  t.cur = { s.cur with v := t.cur.v, pc := s.cur.pc + 1, retired := s.cur.retired + 1 } ∧ OnlyContext s t

/-- The context goes on at an index, and nothing else differs. -/
def WentTo (s t : State) (index : Nat) : Prop :=
  t.cur = { s.cur with pc := BitVec.ofNat 11 index, retired := s.cur.retired + 1 } ∧ OnlyContext s t

/-- Trap entry in the issuing context (R381): the cause, the saved index and mode, supervisor mode, and the handler's
index; nothing retires, and no register of R35, memory or other context differs. -/
def Trapped (s t : State) (cause : BitVec 8) (eva einfo : Word) : Prop :=
  t.cur = { s.cur with cause := cause, epc := s.cur.pc, eva := eva, einfo := einfo, pmode := s.cur.mode
                       mode := .supervisor, trapped := true, pc := s.cur.hvec, wait := .none } ∧ OnlyContext s t

/-- A host's command with an operation code is performed now: its record is the first of its node's stream that has come in, with
bytes 2-3 zero, the node's earlier requests have performed, the host list named the node when the record arrived, and the part is not in
recovery (R419, R422, R424, R425). -/
def Serves (s : State) (c : Cmd) (op : Nat) : Prop :=
  ∃ x, s.hub.cmdsIn.find? (fun y => y.node == c.node) = some x ∧ recordFields x.record = c.record op ∧ bits x.record 16 16 = 0 ∧
    s.requestsDone x = true ∧ x.listed = true ∧ s.power ≠ .recovery

/-- The state with the first record of a command's node taken. -/
def Taken (s : State) (c : Cmd) : State :=
  match s.hub.cmdsIn.find? fun y => y.node == c.node with
  | some x => { s with hub := { s.hub with cmdsIn := s.hub.cmdsIn.erase x } }
  | none => s

/-- The state with its hub changed. -/
def WithHub (s : State) (f : Hub → Hub) : State := { s with hub := f s.hub }

/-- The hub's answer to a command: an operation code, a status and results (R421). -/
def Answers (s : State) (c : Cmd) (op status : Nat) (r : List Word) : State := s.respond c.node c.tag op status r

/-! Instructions by the way their guard works. -/

/-- Instructions that their guard governs whole and that go on at the next index (R38, R55). -/
def wholeForms (g : Guard) (a : FmtA) (b : FmtB) (m : FmtM) (q : FmtQ) (r : FmtS) : List Instr :=
  [Instr.yield g b, .nop g b, .add g a, .sub g a, .mul g a, .mulh g a, .mulhu g a, .div g a, .divu g a, .rem g a,
   .remu g a, .and g a, .or g a, .xor g a, .andn g a, .sll g a, .srl g a, .sra g a, .rol g a, .min g a, .max g a,
   .minu g a, .maxu g a, .slt g a, .sltu g a, .sel g a, .clz g a, .ctz g a, .popc g a, .brev g a, .addi g b, .andi g
   b, .ori g b, .xori g b, .slli g b, .srli g b, .srai g b, .slti g b, .sltiu g b, .li g b, .lhi g b, .pand g a, .por
   g a, .pxor g a, .pandn g a, .pnot g a, .pfrom g a, .pto g a, .icmp g a, .lea g a, .sbank g a, .clamp g a, .fadd g
   a, .fsub g a, .fmul g a, .fma g a, .fdiv g a, .fsqrt g a, .fmin g a, .fmax g a, .fcmp g a, .fcvt g a, .fclass g a,
   .fsgnj g a, .mma g q, .mmav g q, .mzero g q, .mswap g q, .mrd g q, .mwr g q, .mdrain g q, .mcfg g q, .mcfgGive g q,
   .nred g q, .nres g q, .nclr g q, .ld g m, .st g m, .vld g m, .vst g m, .vldx g m, .vstx g m, .vlds g m, .vsts g m,
   .gld g m, .gst g m, .gvld g m, .gvst g m, .gldw g m, .gstw g m, .gprf g m, .pclr g m, .amoadd g m, .amofadd g m,
   .amomin g m, .amomax g m, .amominu g m, .amomaxu g m, .amoand g m, .amoor g m, .amoxor g m, .amoswap g m, .amocas g
   m, .amocall g m, .fence g m, .fencex g m, .send g q, .vsend g q, .recv g q, .vrecv g q, .tsend g q, .tpeek g q,
   .trecv g q, .chk g q, .bind g q, .unbind g q, .agrun g q, .agstop g q, .agstat g q, .gadv g q, .gset g q, .gget g
   q, .gwait g q, .grate g q, .glate g q, .glatePop g q, .xfer g q, .xvia g q, .xgath g q, .xscat g q, .xcancel g q,
   .xstat g q, .baralloc g q, .barfree g q, .barref g q, .barinit g q, .barrive g q, .barexp g q, .barwait g q,
   .bartest g q, .blopen g q, .blseal g q, .blcommit g q, .blabort g q, .blwait g q, .blstat g q, .blst g m, .blvst g
   m, .scroll g q, .scrollQ g q, .stsave g q, .stload g q, .cfgw g q, .sysrd g r, .syswr g r, .horizonWrite g r,
   .evpendWrite g r, .trap g r, .wfe g r, .tlbinv g r, .chalt g r, .cresume g r]

/-- Instructions that their guard governs whole and that, executed, go on elsewhere or nowhere, or do so on some of their operands (R38, R55). -/
def jumpForms (g : Guard) (b : FmtB) (c : FmtC) (q : FmtQ) (r : FmtS) : List Instr :=
  [Instr.br g c, .beq g c, .bne g c, .blt g c, .bge g c, .bltu g c, .bgeu g c, .bp g c, .bnp g c, .jal g b, .jalr g b,
   .park g b, .cfgswap g q, .eret g r, .ebrk g r]

/-- Instructions whose guard selects lanes (R39). -/
def laneForms (g : Guard) (a : FmtA) : List Instr :=
  [Instr.vadd g a, .vsub g a, .vmul g a, .vmulh g a, .vmin g a, .vmax g a, .vabs g a, .vand g a, .vor g a, .vxor g a,
   .vsll g a, .vsrl g a, .vsra g a, .vfadd g a, .vfsub g a, .vfmul g a, .vfma g a, .vfmin g a, .vfmax g a, .vfabs g a,
   .vfneg g a, .vfrcp g a, .vfrsq g a, .vfexp2 g a, .vflog2 g a, .vcmp g a, .vfcmp g a, .vcvt g a, .vscale g a,
   .vbcast g a, .vext g a, .vins g a, .vperm g a, .vslide g a, .vzip g a, .vunzip g a, .vsel g a, .vcompress g a,
   .vexpand g a, .vmov g a, .vredadd g a, .vredmax g a, .vredmin g a, .vredfadd g a, .vdot g a]

/-- Instructions of supervisor mode (R51). -/
def supervisorForms (g : Guard) (m : FmtM) (q : FmtQ) (r : FmtS) : List Instr :=
  [Instr.pclr g m, .cfgw g q, .cfgswap g q, .tlbinv g r, .chalt g r, .cresume g r]

/-- Instructions of majors 0x01 to 0x34: control flow, scalar and vector computation. -/
def computeForms (g : Guard) (a : FmtA) (b : FmtB) (c : FmtC) : List Instr :=
  [Instr.br g c, .beq g c, .bne g c, .blt g c, .bge g c, .bltu g c, .bgeu g c, .bp g c, .bnp g c, .jal g b, .jalr g b,
   .yield g b, .park g b, .nop g b, .add g a, .sub g a, .mul g a, .mulh g a, .mulhu g a, .div g a, .divu g a, .rem g
   a, .remu g a, .and g a, .or g a, .xor g a, .andn g a, .sll g a, .srl g a, .sra g a, .rol g a, .min g a, .max g a,
   .minu g a, .maxu g a, .slt g a, .sltu g a, .sel g a, .clz g a, .ctz g a, .popc g a, .brev g a, .addi g b, .andi g
   b, .ori g b, .xori g b, .slli g b, .srli g b, .srai g b, .slti g b, .sltiu g b, .li g b, .lhi g b, .pand g a, .por
   g a, .pxor g a, .pandn g a, .pnot g a, .pfrom g a, .pto g a, .icmp g a, .lea g a, .sbank g a, .clamp g a, .fadd g
   a, .fsub g a, .fmul g a, .fma g a, .fdiv g a, .fsqrt g a, .fmin g a, .fmax g a, .fcmp g a, .fcvt g a, .fclass g a,
   .fsgnj g a, .vadd g a, .vsub g a, .vmul g a, .vmulh g a, .vmin g a, .vmax g a, .vabs g a, .vand g a, .vor g a,
   .vxor g a, .vsll g a, .vsrl g a, .vsra g a, .vfadd g a, .vfsub g a, .vfmul g a, .vfma g a, .vfmin g a, .vfmax g a,
   .vfabs g a, .vfneg g a, .vfrcp g a, .vfrsq g a, .vfexp2 g a, .vflog2 g a, .vcmp g a, .vfcmp g a, .vcvt g a, .vscale
   g a, .vbcast g a, .vext g a, .vins g a, .vperm g a, .vslide g a, .vzip g a, .vunzip g a, .vsel g a, .vcompress g a,
   .vexpand g a, .vmov g a, .vredadd g a, .vredmax g a, .vredmin g a, .vredfadd g a, .vdot g a]

end Sys2Proof
end

