-- ==== Sys2Proof/Certificates/Slice0/Obligations.lean ====
section
/-! DEFINITION. The statements: what the rules of the manual say of this model. -/

open Sys2Proof Sys2Proof.Machine

/-! Branches and context controls. -/

/-- R55, R123: a branch that is taken goes to its own index plus OFF32, one that is not to the next index; the condition
of each is that of the table of R123. Nothing but the issuing context's index and its count of retired instructions
changes. Where the index that it would go to is none of 0 to 2047, it raises ILL, taken or not. R124: `jal` and `jalr`
go to their target and leave the index after their own in S(D); s0 discards it. A target that is no index raises ILL
before any write (R55). R114, R115, R124: `nop` retires alone; `park` leaves the context PARKED where no store fault
is held (R289); `yield` retires alone where no other task may be dispatched, and else sets its task aside to resume at
the next index. Where the rules leave it open, as the model reads or chooses it: log entries 12 and 64. -/
def Obligations.ControlFlow : Prop :=
  (∀ (g : Guard) (o : FmtC) (s : State), s.cur.guardOn g = true →
     let goes := fun (i : Instr) (taken : Prop) => ∀ target : Int,
       (taken ∧ target = s.cur.pc.toNat + o.off.toInt) ∨ (¬ taken ∧ target = s.cur.pc.toNat + 1) →
       (∀ index : Nat, index ≤ 2047 → target = index → Completes i s fun t => WentTo s t index) ∧
       (target < 0 ∨ 2047 < target → s.cur.trapped = false → Completes i s fun t => Trapped s t Cause.ill 0 s.curWord)
     goes (.br g o) True ∧ goes (.beq g o) (s.getS o.s1 = s.getS o.s2) ∧ goes (.bne g o) (s.getS o.s1 ≠ s.getS o.s2) ∧
     goes (.blt g o) ((s.getS o.s1).toInt < (s.getS o.s2).toInt) ∧ goes (.bge g o) ((s.getS o.s2).toInt ≤ (s.getS o.s1).toInt) ∧
     goes (.bltu g o) ((s.getS o.s1).toNat < (s.getS o.s2).toNat) ∧ goes (.bgeu g o) ((s.getS o.s2).toNat ≤ (s.getS o.s1).toNat) ∧
     goes (.bp g o) (s.getP o.s1 ≠ 0) ∧ goes (.bnp g o) (s.getP o.s1 = 0)) ∧
  (∀ (g : Guard) (o : FmtB) (s : State), s.cur.guardOn g = true →
     let jumps := fun (i : Instr) (target : Int) =>
       (∀ index : Nat, index ≤ 2047 → (index : Int) = target → Completes i s fun t =>
         t.getS o.d = (if o.d = 0 then 0 else BitVec.ofNat 64 (s.cur.pc.toNat + 1)) ∧
         (∀ r, r ≠ o.d → t.getS r = s.getS r) ∧
         t.cur = { s.cur with s := t.cur.s, pc := BitVec.ofNat 11 index, retired := s.cur.retired + 1 } ∧ OnlyContext s t) ∧
       (target < 0 ∨ 2047 < target → s.cur.trapped = false → Completes i s fun t => Trapped s t Cause.ill 0 s.curWord)
     jumps (.jal g o) (s.cur.pc.toNat + o.imm.toInt) ∧ jumps (.jalr g o) ((s.getS o.s1).toNat + o.imm.toInt)) ∧
  ((∀ (g : Guard) (o : FmtB) (s : State), Runs s g → Completes (.nop g o) s fun t => Retired s t) ∧
   (∀ (g : Guard) (o : FmtB) (s : State), s.cur.guardOn g = true → s.cur.psf = none → Completes (.park g o) s fun t =>
     t.cur = { s.cur with run := .parked, retired := s.cur.retired + 1 } ∧ OnlyContext s t) ∧
   (∀ (g : Guard) (o : FmtB) (s : State), Runs s g → s.otherTask = false → Completes (.yield g o) s fun t => Retired s t) ∧
   (∀ (g : Guard) (o : FmtB) (s : State), Runs s g → s.otherTask = true → Completes (.yield g o) s fun t =>
     t = s.modCurTile (·.yieldTask s.ctx)))

/-! Scalar instructions. -/

/-- R125: sums, differences and products are exact, then fitted to the type's width by the MOD bits, whichever signedness
U gives; `mulh` and `mulhu` give the upper half of the exact product; minima, maxima, comparisons and `sel` choose
among their operands. R130: `clamp` gives its operand, raised to the lower bound and then lowered to the upper one.
R125: bitwise instructions and counts work on the low w bits of their operands; shift counts are S(S2) mod w. R127:
the instructions with an immediate; `li` sign-extends IMM32, and `lhi` puts it above the low half of S(S1). -/
def Obligations.IntegerResults : Prop :=
  (∀ (g : Guard) (o : FmtA) (s : State), Runs s g →
     let w := o.ty.width
     let a := fun u => intOperand w u (s.getS o.s1)
     let b := fun u => intOperand w u (s.getS o.s2)
     let gives := fun (i : Instr) (u : Bool) (r : Int) => Completes i s fun t => WroteS s t o.d (fitWord w u o.sat r)
     gives (.add g o) o.u (a o.u + b o.u) ∧ gives (.sub g o) o.u (a o.u - b o.u) ∧ gives (.mul g o) o.u (a o.u * b o.u) ∧
     gives (.mulh g o) false (a false * b false / 2 ^ w) ∧ gives (.mulhu g o) true (a true * b true / 2 ^ w) ∧
     gives (.min g o) false (min (a false) (b false)) ∧ gives (.max g o) false (max (a false) (b false)) ∧
     gives (.minu g o) true (min (a true) (b true)) ∧ gives (.maxu g o) true (max (a true) (b true)) ∧
     gives (.slt g o) false (if a false < b false then 1 else 0) ∧ gives (.sltu g o) true (if a true < b true then 1 else 0) ∧
     gives (.sel g o) o.u (if s.getS o.s3 ≠ 0 then a o.u else b o.u) ∧
     gives (.clamp g o) o.u (min (max (a o.u) (b o.u)) (intOperand w o.u (s.getS o.s3)))) ∧
  (∀ (g : Guard) (o : FmtA) (s : State), Runs s g →
     let w := o.ty.width
     let a := (s.getS o.s1).toNat % 2 ^ w
     let b := (s.getS o.s2).toNat % 2 ^ w
     let n := (s.getS o.s2).toNat % w
     let bitsOf := fun (i : Instr) (r : Nat) => Completes i s fun t => WroteS s t o.d (fitWord w o.u false r)
     let gives := fun (i : Instr) (u : Bool) (r : Int) => Completes i s fun t => WroteS s t o.d (fitWord w u o.sat r)
     bitsOf (.and g o) (a &&& b) ∧ bitsOf (.or g o) (a ||| b) ∧ bitsOf (.xor g o) (a ^^^ b) ∧
     bitsOf (.andn g o) (a &&& (b ^^^ (2 ^ w - 1))) ∧ bitsOf (.rol g o) ((a * 2 ^ n + a / 2 ^ (w - n)) % 2 ^ w) ∧
     bitsOf (.clz g o) (leadingZeros w a) ∧ bitsOf (.ctz g o) (trailingZeros w a) ∧ bitsOf (.popc g o) (onesCount w a) ∧
     bitsOf (.brev g o) (reverseBits w a 0) ∧
     gives (.sll g o) o.u (intOperand w o.u (s.getS o.s1) * 2 ^ n) ∧
     gives (.srl g o) true (intOperand w true (s.getS o.s1) / 2 ^ n) ∧
     gives (.sra g o) false (intOperand w false (s.getS o.s1) / 2 ^ n)) ∧
  (∀ (g : Guard) (o : FmtB) (s : State), Runs s g →
     let w := o.mod4.width
     let a := fun u => intOperand w u (s.getS o.s1)
     let b := fun u => intOperand w u (o.imm.signExtend 64)
     let x := (s.getS o.s1).toNat % 2 ^ w
     let y := (o.imm.signExtend 64).toNat % 2 ^ w
     let gives := fun (i : Instr) (u : Bool) (r : Int) => Completes i s fun t => WroteS s t o.d (fitWord w u false r)
     gives (.addi g o) false (a false + b false) ∧ gives (.andi g o) false (x &&& y : Nat) ∧
     gives (.ori g o) false (x ||| y : Nat) ∧ gives (.xori g o) false (x ^^^ y : Nat) ∧
     gives (.slli g o) false (a false * 2 ^ o.imm.toNat) ∧ gives (.srli g o) true (a true / 2 ^ o.imm.toNat) ∧
     gives (.srai g o) false (a false / 2 ^ o.imm.toNat) ∧ gives (.slti g o) false (if a false < b false then 1 else 0) ∧
     gives (.sltiu g o) true (if a true < b true then 1 else 0) ∧
     (Completes (.li g o) s fun t => WroteS s t o.d (o.imm.signExtend 64)) ∧
     (Completes (.lhi g o) s fun t => WroteS s t o.d (o.imm ++ (s.getS o.s1).truncate 32)))

/-- R126: division truncates toward zero, the remainder has the dividend's sign, and the two satisfy a = q × b + r; by zero
the quotient is all ones and the remainder the dividend. No division traps. -/
def Obligations.DivisionResults : Prop :=
  ∀ (g : Guard) (o : FmtA) (s : State), Runs s g →
    let w := o.ty.width
    let a := fun u => intOperand w u (s.getS o.s1)
    let b := fun u => intOperand w u (s.getS o.s2)
    let divides := fun (i j : Instr) (u : Bool) => ∃ q r : Int,
      (Completes i s fun t => WroteS s t o.d (fitWord w u o.sat q)) ∧
      (Completes j s fun t => WroteS s t o.d (fitWord w u o.sat r)) ∧
      (b u = 0 → q = -1 ∧ r = a u) ∧
      (b u ≠ 0 → a u = q * b u + r ∧ r.natAbs < (b u).natAbs ∧ (r = 0 ∨ r.sign = (a u).sign))
    divides (.div g o) (.rem g o) false ∧ divides (.divu g o) (.remu g o) true

/-- R125, R127 on 64-bit operands: without SAT, sums, differences and products are those of 64-bit words, whatever U is,
and `addi` adds the sign-extended immediate. -/
def Obligations.WideArithmeticWraps : Prop :=
  ∀ (g : Guard) (o : FmtA) (p : FmtB) (s : State), Runs s g → o.ty = .i64 → o.sat = false → p.mod4.width = 64 →
    (Completes (.add g o) s fun t => WroteS s t o.d (s.getS o.s1 + s.getS o.s2)) ∧
    (Completes (.sub g o) s fun t => WroteS s t o.d (s.getS o.s1 - s.getS o.s2)) ∧
    (Completes (.mul g o) s fun t => WroteS s t o.d (s.getS o.s1 * s.getS o.s2)) ∧
    (Completes (.addi g p) s fun t => WroteS s t p.d (s.getS p.s1 + p.imm.signExtend 64))

/-- R128 to R131: predicate instructions are bitwise on 64-bit predicates, `icmp` writes all ones or all zeros, `lea` adds a
scaled index. `sbank` counts owned granules of 16 bytes: below the granule of S(S1) it gives the S(S2)-th one, or the end of the
addresses where there are fewer; above it for a negative S(S2) the one of that number, or what follows the highest owned granule,
or the end where the context owns none. -/
def Obligations.PredicateAndAddressResults : Prop :=
  ∀ (g : Guard) (o : FmtA) (s : State), Runs s g →
    let p := fun (i : Instr) (v : Word) => Completes i s fun t => WroteP s t o.d v
    let x := intOperand o.ty.width o.u (s.getS o.s1)
    let y := intOperand o.ty.width o.u (s.getS o.s2)
    p (.pand g o) (s.getP o.s1 &&& s.getP o.s2) ∧ p (.por g o) (s.getP o.s1 ||| s.getP o.s2) ∧
    p (.pxor g o) (s.getP o.s1 ^^^ s.getP o.s2) ∧ p (.pandn g o) (s.getP o.s1 &&& ~~~(s.getP o.s2)) ∧
    p (.pnot g o) (~~~(s.getP o.s1)) ∧ p (.pfrom g o) (s.getS o.s1) ∧
    (Completes (.pto g o) s fun t => WroteS s t o.d (s.getP o.s1)) ∧
    (∀ c : Prop, (o.sub = 0 ∧ (c ↔ x = y)) ∨ (o.sub = 1 ∧ (c ↔ x ≠ y)) ∨ (o.sub = 2 ∧ (c ↔ x < y)) ∨ (o.sub = 3 ∧ (c ↔ y ≤ x)) →
      (c → p (.icmp g o) Word.ones) ∧ (¬ c → p (.icmp g o) 0)) ∧
    (Completes (.lea g o) s fun t => WroteS s t o.d (s.getS o.s1 + s.getS o.s2 <<< o.sub.toNat)) ∧
    (let limit := if s.curTile.reel.isSome then 0x3000 else 0x6000
     let banks := if s.curTile.reel.isSome then 48 else 96
     let owned := fun (k : Nat) => decide (k < limit) && s.cur.banks.getLsbD (k % banks)
     let count := fun (lo hi : Nat) => (((List.range limit).countP fun j => decide (lo ≤ j ∧ j < hi) && owned j : Nat) : Int)
     let at' := (s.getS o.s1).toNat / 16
     let n := (s.getS o.s2).toInt
     let place := fun (k : Nat) => BitVec.ofNat 64 (16 * k)
     Completes (.sbank g o) s fun t => ∃ v, WroteS s t o.d v ∧ (n = 0 → v = place at') ∧
      (0 < n → (∀ k < at', owned k = true → count k at' = n → v = place k) ∧ (count 0 at' < n → v = place limit)) ∧
      (n < 0 → (∀ k, at' < k → owned k = true → count (at' + 1) (k + 1) = -n → v = place k) ∧
        (count (at' + 1) limit < -n → (∀ k, owned k = true → count (k + 1) limit = 0 → v = place (k + 1)) ∧
          (count 0 limit = 0 → v = place limit))))

/-- R132 to R136: a scalar float result is the exact value rounded once by RM and SAT; `fmin`, `fmax` and `fsgnj` choose
or edit codes without rounding; `fcmp` gives 0 or 1, `fclass` the mask of one class. Where the rules leave it open, as
the model reads or chooses it: log entry 101. -/
def Obligations.ScalarFloatResults : Prop :=
  ∀ (g : Guard) (o : FmtA) (s : State), Runs s g →
    let a := floatOf o.ty (s.getS o.s1).toNat
    let b := floatOf o.ty (s.getS o.s2).toNat
    let c := floatOf o.ty (s.getS o.s3).toNat
    let rounds := fun (i : Instr) (x : XReal) => Completes i s fun t =>
      WroteS s t o.d (BitVec.ofNat 64 (roundFloat o.ty x o.rm o.sat))
    let codes := fun (i : Instr) (f : Nat → Nat → Nat) => Completes i s fun t =>
      WroteS s t o.d (BitVec.ofNat 64 (f ((s.getS o.s1).toNat % 2 ^ o.ty.width) ((s.getS o.s2).toNat % 2 ^ o.ty.width)))
    rounds (.fadd g o) (a.add b o.rm) ∧ rounds (.fsub g o) (a.add b.negate o.rm) ∧ rounds (.fmul g o) (a.mul b) ∧
    rounds (.fma g o) ((a.mul b).add c o.rm) ∧ rounds (.fdiv g o) (a.div b) ∧ rounds (.fsqrt g o) a.sqrt ∧
    codes (.fmin g o) (floatMin o.ty) ∧ codes (.fmax g o) (floatMax o.ty) ∧ codes (.fsgnj g o) (signInject o.ty o.sub) ∧
    (Completes (.fcmp g o) s fun t => WroteS s t o.d (if floatCond o.sub a b then 1 else 0)) ∧
    (Completes (.fclass g o) s fun t => WroteS s t o.d (BitVec.ofNat 64 (2 ^ floatClass o.ty (s.getS o.s1).toNat))) ∧
    (∀ src, o.srcTy = some src → Completes (.fcvt g o) s fun t => WroteS s t o.d
      (resultWord o.ty o.u (roundTo o.ty o.u (valueOf src o.srcU (s.getS o.s1).toNat) o.rm o.sat)))

/-! Vector instructions. -/

/-- R139, R140, R143: an integer lane instruction writes the active lanes of V(D), each with the exact result fitted to
the lane's width, and leaves the inactive lanes as they are. R144, R145, R148: a float lane instruction rounds the
exact value once per active lane; `vfmin`, `vfmax`, `vfabs` and `vfneg` work on codes; `vscale` multiplies by the FP32
value of S(S2)[31:0]. -/
def Obligations.VectorLanes : Prop :=
  (∀ (g : Guard) (o : FmtA) (s : State), s.cur.pc ≠ 2047 →
     let w := o.ty.width
     let x := laneOf (s.getV o.s1) w
     let y := laneOf (s.getV o.s2) w
     let lanes := fun (i : Instr) (f : Nat → Nat) => Completes i s fun t => WroteLanes s t o.d o.ty (s.cur.laneMask g) f
     let fits := fun (i : Instr) (u : Bool) (f : Int → Int → Int) =>
       lanes i fun k => fit w u o.sat (f (intOf w u (x k)) (intOf w u (y k)))
     fits (.vadd g o) o.u (· + ·) ∧ fits (.vsub g o) o.u (· - ·) ∧ fits (.vmul g o) o.u (· * ·) ∧
     fits (.vmulh g o) o.u (fun a b => a * b / 2 ^ w) ∧ fits (.vmin g o) o.u min ∧ fits (.vmax g o) o.u max ∧
     fits (.vabs g o) false (fun a _ => |a|) ∧
     lanes (.vand g o) (fun k => x k &&& y k) ∧ lanes (.vor g o) (fun k => x k ||| y k) ∧
     lanes (.vxor g o) (fun k => x k ^^^ y k) ∧ lanes (.vsll g o) (fun k => x k * 2 ^ (y k % w)) ∧
     lanes (.vsrl g o) (fun k => x k / 2 ^ (y k % w)) ∧
     lanes (.vsra g o) (fun k => wrapTo w (intOf w false (x k) / 2 ^ (y k % w)))) ∧
  (∀ (g : Guard) (o : FmtA) (s : State), s.cur.pc ≠ 2047 →
     let w := o.ty.width
     let x := laneOf (s.getV o.s1) w
     let y := laneOf (s.getV o.s2) w
     let z := laneOf (s.getV o.s3) w
     let lanes := fun (i : Instr) (f : Nat → Nat) => Completes i s fun t => WroteLanes s t o.d o.ty (s.cur.laneMask g) f
     let rounds := fun (i : Instr) (f : XReal → XReal → XReal → XReal) =>
       lanes i fun k => roundFloat o.ty (f (floatOf o.ty (x k)) (floatOf o.ty (y k)) (floatOf o.ty (z k))) o.rm o.sat
     rounds (.vfadd g o) (fun a b _ => a.add b o.rm) ∧ rounds (.vfsub g o) (fun a b _ => a.add b.negate o.rm) ∧
     rounds (.vfmul g o) (fun a b _ => a.mul b) ∧ rounds (.vfma g o) (fun a b c => (a.mul b).add c o.rm) ∧
     lanes (.vfmin g o) (fun k => floatMin o.ty (x k) (y k)) ∧ lanes (.vfmax g o) (fun k => floatMax o.ty (x k) (y k)) ∧
     lanes (.vfabs g o) (fun k => x k % 2 ^ (w - 1)) ∧ lanes (.vfneg g o) (fun k => x k ^^^ 2 ^ (w - 1)) ∧
     rounds (.vfrcp g o) (fun a _ _ => (XReal.ofInt 1).div a) ∧ rounds (.vfrsq g o) (fun a _ _ => a.rsqrt) ∧
     rounds (.vfexp2 g o) (fun a _ _ => a.exp2) ∧ rounds (.vflog2 g o) (fun a _ _ => a.log2) ∧
     lanes (.vscale g o) (fun k => roundTo o.ty o.u
       ((valueOf o.ty o.u (x k)).mul (floatOf .fp32 (s.getS o.s2).toNat)) o.rm o.sat))

/-- R146: `vcmp` and `vfcmp` set every bit of an active lane's bytes in P(D) to the lane's condition and leave the bits of
inactive lanes as they are; p0 discards the write. A compare of I4 lanes does not decode, so the width is 8 at least. -/
def Obligations.VectorComparesWriteLaneBits : Prop :=
  ∀ (g : Guard) (o : FmtA) (s : State), s.cur.pc ≠ 2047 → 8 ≤ o.ty.width →
    let w := o.ty.width
    let x := laneOf (s.getV o.s1) w
    let y := laneOf (s.getV o.s2) w
    let sets := fun (i : Instr) (cond : Nat → Bool) => Completes i s fun t =>
      (∃ v, WroteP s t o.d v) ∧ ∀ j, j < 64 → o.d.toNat % 8 ≠ 0 → (t.getP o.d).getLsbD j =
        if activeLane w (s.cur.laneMask g) (8 * j / w) then cond (8 * j / w) else (s.getP o.d).getLsbD j
    sets (.vcmp g o) (fun k => intCond o.sub (intOf w o.u (x k)) (intOf w o.u (y k))) ∧
    sets (.vfcmp g o) (fun k => floatCond o.sub (floatOf o.ty (x k)) (floatOf o.ty (y k)))

/-- R149: the moves and permutations of lanes: broadcast, insert, permute, slide, zip, unzip, select, compress, expand,
move and extract. R147: `vcvt` converts the source lane of each active destination lane that part MOD.SUB covers, and
leaves the others. R150, R151: reductions over the active lanes: exact sums and dot products of integers fitted once,
the least and greatest value, and the fixed tree of float additions. Where the rules leave it open, as the model reads
or chooses it: log entry 101. -/
def Obligations.VectorMovesConversionsAndReductions : Prop :=
  (∀ (g : Guard) (o : FmtA) (s : State), s.cur.pc ≠ 2047 →
     let w := o.ty.width
     let l := o.ty.lanes
     let m := s.cur.laneMask g
     let x := laneOf (s.getV o.s1) w
     let y := laneOf (s.getV o.s2) w
     let old := laneOf (s.getV o.d) w
     let n := (s.getS o.s2).toInt
     let j := (s.getS o.s2).toNat
     let lanes := fun (i : Instr) (mask : Word) (f : Nat → Nat) => Completes i s fun t => WroteLanes s t o.d o.ty mask f
     lanes (.vbcast g o) m (fun _ => (s.getS o.s1).toNat) ∧
     lanes (.vins g o) m (fun k => if k = j then (s.getS o.s1).toNat else old k) ∧
     lanes (.vperm g o) m (fun k => if y k < l then x (y k) else 0) ∧
     lanes (.vslide g o) m (fun k => if 0 ≤ k + n ∧ k + n < l then x (k + n).toNat else 0) ∧
     lanes (.vzip g o) m (fun k => (if k % 2 = 0 then x else y) ((if o.sub = 0 then 0 else l / 2) + k / 2)) ∧
     lanes (.vunzip g o) m (fun k => if k < l / 2 then x (2 * k + if o.sub = 0 then 0 else 1)
       else y (2 * (k - l / 2) + if o.sub = 0 then 0 else 1)) ∧
     lanes (.vsel g o) m (fun k => if activeLane w (s.getP o.s3) k then x k else y k) ∧
     lanes (.vcompress g o) Word.ones (fun k => (((activeLanes o.ty m)[k]?).map x).getD (old k)) ∧
     lanes (.vexpand g o) m (fun k => x ((List.range k).countP (activeLane w m))) ∧ lanes (.vmov g o) m x ∧
     (j < l → activeLane w m j = true → Completes (.vext g o) s fun t => WroteS s t o.d (resultWord o.ty o.u (x j))) ∧
     (l ≤ j ∨ activeLane w m j = false → Completes (.vext g o) s fun t => Retired s t)) ∧
  (∀ (g : Guard) (o : FmtA) (s : State) (src : Ty), s.cur.pc ≠ 2047 → o.srcTy = some src →
     Completes (.vcvt g o) s fun t => WroteLanes s t o.d o.ty (s.cur.laneMask g) fun k =>
       match sourceLane src.lanes o.ty.lanes o.sub.toNat k with
       | some j => convertLane src o.srcU o.ty o.u o.sat o.rm (laneOf (s.getV o.s1) src.width j)
       | none => laneOf (s.getV o.d) o.ty.width k) ∧
  (∀ (g : Guard) (o : FmtA) (s : State), s.cur.pc ≠ 2047 →
     let w := o.ty.width
     let m := s.cur.laneMask g
     let x := laneOf (s.getV o.s1) w
     let y := laneOf (s.getV o.s2) w
     let act := activeLanes o.ty m
     let gives := fun (i : Instr) (v : Word) => Completes i s fun t => WroteS s t o.d v
     let int := fun (r : Int) => fitWord (reduceWidth o.ty) o.u o.sat r
     gives (.vredadd g o) (int (act.map fun k => intOf w o.u (x k)).sum) ∧
     (o.ty.isInt = true →
       gives (.vredmax g o) (int ((act.map fun k => intOf w o.u (x k)).foldl max (intMin w o.u))) ∧
       gives (.vredmin g o) (int ((act.map fun k => intOf w o.u (x k)).foldl min (intMax w o.u))) ∧
       gives (.vdot g o) (int (act.map fun k => intOf w o.u (x k) * intOf w o.u (y k)).sum)) ∧
     (o.ty.isInt = false →
       gives (.vredmax g o) (BitVec.ofNat 64 ((act.map x).foldl (floatMax o.ty) o.ty.nanCode)) ∧
       gives (.vredmin g o) (BitVec.ofNat 64 ((act.map x).foldl (floatMin o.ty) o.ty.nanCode)) ∧
       gives (.vdot g o) (BitVec.ofNat 64 (treeSum .fp32 o.rm o.sat (Nat.log2 o.ty.lanes)
         ((List.range o.ty.lanes).map fun k => if activeLane w m k then some ((floatOf o.ty (x k)).mul (floatOf o.ty (y k))) else none)))) ∧
     gives (.vredfadd g o) (BitVec.ofNat 64 (treeSum o.ty o.rm o.sat (Nat.log2 o.ty.lanes)
       ((List.range o.ty.lanes).map fun k => if activeLane w m k then some (floatOf o.ty (x k)) else none))))

/-! The matrix array and the spindle. -/

/-- R213, R215, R221, R223-R227: where the issuing context owns the array, no fault of a run is held and the array is free
for it, each instruction of major 0x50 does to the array what its rule says, retires, and changes nothing else: `mma`
starts a run, `mmav` fires the word pairs of two registers, `mzero` clears and `mwr` writes the named accumulator,
`mswap` inverts ACT, `mdrain` starts a drain, `mcfg` configures, `mcfg.give` hands the array on; `mrd` writes V(D)
alone. R213, R220: an instruction of major 0x50 raises ILL in a context that does not own the array; in the owner,
after a run that a fault ended, it takes that fault as its trap and clears it. Where the rules leave it open, as the
model reads or chooses it: log entries 39 and 81. -/
def Obligations.MatrixInstructions : Prop :=
  (∀ (g : Guard) (o : FmtQ) (s : State), Runs s g →
     let x := s.curTile
     let m := x.matrix
     let w := s.getS o.s1
     let one := o.imm.toNat % 2 == 1
     let row := s.rowOf o
     let becomes := fun (i : Instr) (m' : Matrix) => Completes i s fun t => TileStep s t fun x => { x with matrix := m' }
     m.owner = some s.ctx → m.cause = 0 →
     (m.cvalid = true → m.run = false → m.busy = false →
       becomes (.mma g o) { m with run := true, fired := 0, remaining := if w = 0 then none else some w.toNat } ∧
       becomes (.mmav g o) { m.fireVectors (s.getV o.s1) (s.getV o.s2) with busy := true }) ∧
     ((one = m.act → m.run = false ∧ m.busy = false) → (one ≠ m.act → m.drain = false) →
       becomes (.mzero g o) (m.setAcc one (Vector.replicate 16 0)) ∧
       becomes (.mwr g o) (m.setAcc one ((m.acc one).set row (s.getV o.s2)))) ∧
     (m.run = false → m.busy = false → m.drain = false →
       becomes (.mswap g o) { m with act := !m.act } ∧
       (x.mcfgOk s.ctx w = true → becomes (.mcfg g o) { m with config := w.truncate 32, cvalid := true }) ∧
       (∀ c : Fin 4, w = BitVec.ofNat 64 c.val → becomes (.mcfgGive g o) { m with owner := some c })) ∧
     ((one = m.act → m.run = false ∧ m.busy = false) →
       Completes (.mrd g o) s fun t => WroteV s t o.d (m.acc one)[row]) ∧
     (∀ e, s.cur.port o.port = .output e → x.forwardPort s.ctx o.port = false → m.drainType (s.sourceType s.here e) = true →
       m.drain = false → m.swapWait = none →
       becomes (.mdrain g o) { m with drain := true, drainPort := o.port, drainTok := o.tok, drainZero := o.m7.getLsbD 0, drainPos := 0 })) ∧
  (∀ (g : Guard) (o : FmtQ) (s : State) (i : Instr), Runs s g → s.cur.trapped = false →
     i ∈ [Instr.mma g o, .mmav g o, .mzero g o, .mswap g o, .mrd g o, .mwr g o, .mdrain g o, .mcfg g o, .mcfgGive g o] →
     let m := s.curTile.matrix
     (m.owner ≠ some s.ctx → Completes i s fun t => Trapped s t Cause.ill 0 s.curWord) ∧
     (m.owner = some s.ctx → m.cause ≠ 0 → Completes i s fun t =>
       Trapped (s.modCurTile fun x => { x with matrix := { m with cause := 0 } }) t m.cause 0 m.faultWord))

/-- R217-R219, R225, R226: the array's own happenings. A firing takes both operand words and adds their products into the
active accumulator; a pair of equal tokens is taken and forwarded, EOI ending the run; a SWAP pair inverts ACT where
no drain is under way, and else waits for that; heads that do not go together end the run; an ERR head is taken alone
and forwarded on its own side, and the run ends with POISON; BUSY ends; a drain sends its next entry, 64/b for each
row and then the token, for a credit, and zeroes the accumulator where it is to. Where the rules leave it open, as the
model reads or chooses it: log entries 16 and 34. -/
def Obligations.MatrixHappenings : Prop :=
  ∀ (k : TileId) (s : State),
    let x := s.tile k
    let m := x.matrix
    (m.busy = true → Happens (.mmavDone k) s fun t => TileOnly s t k fun x => { x with matrix := { m with busy := false } }) ∧
    (∀ c a b, x.operands = some (c, some a, some b) → x.snapped = false → x.canForward c = true → m.swapWait = none →
      (a.kind = Kind.data → b.kind = Kind.data → Happens (.matrixFire k) s fun t =>
        t = (s.takePair k c a b true).modMatrix k fun m =>
          let m := { m.fire a.word.toNat b.word.toNat with fired := m.fired + 1 }
          match m.remaining with
          | none => m
          | some n => if n ≤ 1 then { m with remaining := none, run := false } else { m with remaining := some (n - 1) }) ∧
      (a.kind = Kind.swap → b.kind = Kind.swap →
        (m.drain = false → Happens (.matrixSwapToken k) s fun t => t = (s.takePair k c a b false).exchange k c (a.word, b.word)) ∧
        (m.drain = true → Happens (.matrixSwapToken k) s fun t =>
          t = (s.takePair k c a b false).modMatrix k fun m => { m with swapWait := some (a.word, b.word) })) ∧
      (a.kind = b.kind → a.kind ≠ Kind.data → a.kind ≠ Kind.swap → a.kind ≠ Kind.err → Happens (.matrixTokenPair k) s fun t =>
        t = if a.kind = Kind.eoi then (s.takePair k c a b true).modMatrix k fun m => { m with run := false, remaining := none }
          else s.takePair k c a b true)) ∧
    (∀ c a b, x.operands = some (c, some a, b) → x.snapped = false → m.swapWait = none → a.kind = Kind.err →
      (m.evalid = true → x.portCredit c m.eport = true) → Happens (.matrixTokenPair k) s fun t =>
        t = ((s.takePort k c m.wport 1).forward k c m.evalid m.eport a.word a.kind).modMatrix k fun m =>
          { m with run := false, remaining := none, cause := Cause.poison, faultWord := a.word.truncate 64 }) ∧
    (∀ c a b, x.operands = some (c, a, some b) → x.snapped = false → m.swapWait = none → b.kind = Kind.err →
      (∀ e, a = some e → e.kind ≠ Kind.err) → (m.svalid = true → x.portCredit c m.sport = true) →
      Happens (.matrixTokenPair k) s fun t =>
        t = ((s.takePort k c m.nport 1).forward k c m.svalid m.sport b.word b.kind).modMatrix k fun m =>
          { m with run := false, remaining := none, cause := Cause.poison, faultWord := b.word.truncate 64 }) ∧
    (∀ c a b, x.operands = some (c, some a, some b) → x.snapped = false → m.swapWait = none → a.kind ≠ b.kind → a.kind ≠ Kind.err →
      b.kind ≠ Kind.err → Happens (.matrixTokenPair k) s fun t => TileOnly s t k fun x => { x with matrix :=
        { x.matrix with run := false, remaining := none, cause := Cause.chan, faultWord := BitVec.ofNat 64 (a.kind.toNat * 16 + b.kind.toNat) } }) ∧
    (∀ c a b words, x.operands = some (c, a, b) → x.snapped = false → m.swapWait = some words → m.drain = false → x.canForward c = true →
      Happens (.matrixSwapToken k) s fun t => t = s.exchange k c words) ∧
    (∀ c e, m.drain = true → x.snapped = false → m.owner = some c → x.ctxs[c].port m.drainPort = .output e →
      (x.source e).credits ≠ 0 → Happens (.drainEntry k) s fun t =>
        let per := 64 / x.cfg.sourceBytes e
        let p := m.drainPos
        let row := (m.acc (!m.act))[(⟨p / per % 16, Nat.mod_lt _ (by decide)⟩ : Fin 16)]
        let n := 8 * x.cfg.sourceBytes e
        let sent := if p < 16 * per then s.emit k e (BitVec.ofNat 256 (field row (n * (p % per)) n)) Kind.data
          else s.emit k e 0 m.drainTok
        t = sent.modMatrix k fun m =>
          let m := if p + 1 = 16 * per && m.drainZero then m.setAcc (!m.act) (Vector.replicate 16 0) else m
          { m with drainPos := p + 1, drain := !decide (p + (if m.drainTok = 0 then 1 else 0) = 16 * per) })

/-- R231, R233: in a set that is in use, `nred` enters its sixteen EXA values in the first of rounds n and n + 1 that
still has room, `nclr` empties the set, and at the root `nres` takes the result, each lane normalised to the type,
lanes 16 to 31 of a 16-bit result zero. `nred` waits while neither round has room, and `nres` while there is no
result; `nres` of a set that is no root traps CHAN, of a result with POIS traps POISON with the set, of one with an
overflow SPOVF with the set and the lanes; a set that is not in use traps CHAN. R231: a partial on its way enters the
bank of its parity and counts as its child's; a complete round is counted, its bank cleared, each child counted gets a
credit, and its sums become RESULT at the root and elsewhere go to the parent for a credit; a credit on its way
arrives. A partial whose parity fails adds nothing and sets POIS. R79: a partial travels as EXA bits; one with a
nonzero bit [63:3] in a lane's flag word is a CHAN fault of the region, KIND 1, and adds nothing. Where the rules
leave it open, as the model reads or chooses it: log entries 3 and 17. -/
def Obligations.Spindles : Prop :=
  (∀ (g : Guard) (o : FmtQ) (s : State), Runs s g →
     let k := setOf o
     let c := s.curTile.cfg.spin[k]
     let y := s.curTile.spins[k]
     (c.valid = false → s.cur.trapped = false → ∀ i ∈ [Instr.nred g o, .nres g o, .nclr g o], Completes i s fun t =>
       ∃ info, Trapped { s with frees := s.frees + 1 } t Cause.chan 0 info) ∧
     (c.valid = true →
     (∀ y', y.contribute c.nlocal (exaLanes (qType o) (s.getV o.s1)) = some y' →
       Completes (.nred g o) s fun t => TileStep s t (·.modSpin k fun _ => y')) ∧
     (Completes (.nclr g o) s fun t => TileStep s t (·.modSpin k fun y =>
       { y with result := none, even := .empty, odd := .empty, n := 0, credits := 2 })) ∧
     (∀ r, c.root = true → y.result = some r → r.pois = false → r.ovf = 0 → 16 ≤ (qType o).width → (qType o).width ≤ 32 →
       Completes (.nres g o) s fun t =>
         (t.curTile.spins[k]).result = none ∧
         (∀ j : Fin 16, laneOf (t.getV o.d) (qType o).width j.val =
           spinLane (qType o) (RM.ofCode (bits o.m7 1 2)) (o.m7.getLsbD 0) r.lanes[j] % 2 ^ (qType o).width) ∧
         (∀ j, 16 ≤ j → laneOf (t.getV o.d) (qType o).width j = 0) ∧
         WroteV (s.modCurTile (·.modSpin k fun y => { y with result := none })) t o.d (t.getV o.d)) ∧
     (y.contribute c.nlocal (exaLanes (qType o) (s.getV o.s1)) = none → Stalls (.nred g o) s) ∧
     (c.root = true → y.result = none → Stalls (.nres g o) s) ∧
     (s.cur.trapped = false →
       (c.root = false → Completes (.nres g o) s fun t => ∃ info, Trapped { s with frees := s.frees + 1 } t Cause.chan 0 info) ∧
       (∀ r, c.root = true → y.result = some r →
         (r.pois = true → Completes (.nres g o) s fun t => Trapped s t Cause.poison 0 (BitVec.ofNat 64 k.val)) ∧
         (r.pois = false → r.ovf ≠ 0 → Completes (.nres g o) s fun t =>
           Trapped s t Cause.spovf 0 (BitVec.ofNat 64 (k.val * 2 ^ 16 + r.ovf.toNat))))))) ∧
  (∀ (k : TileId) (j : Fin 4) (s : State),
     let x := s.tile k
     let c := x.cfg.spin[j]
     let y := x.spins[j]
     let odd := y.parity 0
     let b := y.bank odd
     let paid := fun (s : State) => b.kids.foldl (fun s child => s.modTile child.1 (·.modSpin child.2 fun y => { y with creditsIn := y.creditsIn + 1 })) s
     (∀ p rest fail, y.partials = p :: rest → x.snapped = false → p.flagsOk = true → let lanes := p.lanes.map fun w => (Exa.ofBits w).1
       Happens (.spindlePartialArrive k j fail) s fun t =>
       let y' := (t.tile k).spins[j]
       y'.partials = rest ∧ (y'.bank p.parity).nchild = (y.bank p.parity).nchild + 1 ∧
         (fail = true → (y'.bank p.parity).pois = true ∧ (y'.bank p.parity).lanes = (y.bank p.parity).lanes ∧
           (y'.bank p.parity).ovf = (y.bank p.parity).ovf) ∧
         (fail = false → (y'.bank p.parity).pois = ((y.bank p.parity).pois || p.pois) ∧
           (y'.bank p.parity).lanes = ((y.bank p.parity).addLanes lanes).lanes ∧
           (y'.bank p.parity).ovf = ((y.bank p.parity).addLanes lanes).ovf ||| p.ovf) ∧
         (y'.bank p.parity).kids = (y.bank p.parity).kids ++ [p.child] ∧
         y'.bank (!p.parity) = y.bank (!p.parity)) ∧
     (∀ p rest, y.partials = p :: rest → x.snapped = false → p.flagsOk = false →
       Happens (.spindlePartialArrive k j false) s fun t => ∃ info : Word,
         t = { s.modTile k (·.modSpin j fun y => { y with partials := rest }) with frees := s.frees + 1 }.tileFault k Cause.chan 1 0 0 info 0) ∧
     (x.snapped = false → c.valid = true → b.nlocal = c.nlocal → b.nchild = c.nchild → c.root = true → y.result = none →
       Happens (.spindleRoundComplete k j) s fun t => t = paid (s.modTile k (·.modSpin j fun y =>
         { y.setBank odd .empty with n := y.n + 1, result := some b }))) ∧
     (x.snapped = false → c.valid = true → b.nlocal = c.nlocal → b.nchild = c.nchild → c.root = false → 0 < y.credits →
       (s.tile (neighbour k c.parent)).snapped = false → Happens (.spindleRoundComplete k j) s fun t =>
         t = paid ((s.modTile k (·.modSpin j fun y =>
           { y.setBank odd .empty with n := y.n + 1, credits := y.credits - 1 })).modTile (neighbour k c.parent)
             (·.modSpin ⟨c.pset % 4, Nat.mod_lt _ (by decide)⟩ fun y =>
               { y with partials := y.partials ++ [⟨b.lanes.map Exa.toBits, b.ovf, b.pois, odd, (k, j)⟩] }))) ∧
     (0 < y.creditsIn → Happens (.spindleCreditArrive k j) s fun t => TileOnly s t k (·.modSpin j fun y =>
       { y with credits := y.credits + 1, creditsIn := y.creditsIn - 1 })))

/-! Scratch. -/

/-- R155, R161-R163: where every element is aligned, lies in banks that the context owns and meets no uncorrectable error, a
scratch load reads its elements as the context sees them, its own queued stores included: `ld` extends the value, the
vector loads put element k in lane k. Nothing is stored. No earlier access of the context has still to acquire (R299). -/
def Obligations.ScratchLoadsRead : Prop :=
  ∀ (g : Guard) (o : FmtM) (s : State), Runs s g → o.ty.isInt = true → o.ty ≠ .i4 → s.cur.acqPending = false →
    let x := s.curTile
    let loads := fun (i : Instr) (f : ScratchForm) => let n := f.size o
      (∀ a ∈ s.cur.elements f o, a % f.align o = 0 ∧ x.owned s.ctx a n = true ∧ x.scratchPoison s.ctx a n = false) →
      Completes i s fun t => WroteV s t o.d (t.getV o.d) ∧
        ∀ k a, (s.cur.elements f o)[k]? = some a → laneOf (t.getV o.d) (8 * n) k = x.scratchRead s.ctx a n
    ((∀ a ∈ s.cur.elements .scalar o, a % tyBytes o.ty = 0 ∧ x.owned s.ctx a (tyBytes o.ty) = true ∧
        x.scratchPoison s.ctx a (tyBytes o.ty) = false) →
      Completes (.ld g o) s fun t => WroteS s t o.d
        (extendTo o.ty.width (o.sub == 1) (x.scratchRead s.ctx (s.cur.indexedAddr o).toNat (tyBytes o.ty)))) ∧
    loads (.vld g o) .whole ∧ loads (.vldx g o) .gather ∧ loads (.vlds g o) .stride

/-- R159, R163, R164: a scratch store whose elements are aligned and owned enters the context's store queue, at the places
of its elements, lane k at element k, a later element over an earlier one; no byte of memory changes before it
performs. With ORD 10 or 11 the context holds no store fault and its earlier accesses have performed; none has still
to acquire (R299). R161, R163: the lowest element that fails a check decides the trap of a scratch access: ALIGN, then
SCRATCH, its address in sys.eva and its number in sys.einfo; nothing is loaded or stored. Where the rules leave it
open, as the model reads or chooses it: log entries 39 and 45. -/
def Obligations.ScratchStoresQueueAndChecksTrap : Prop :=
  (∀ (g : Guard) (o : FmtM) (s : State), Runs s g → s.cur.acqPending = false →
     let x := s.curTile
     let stores := fun (i : Instr) (f : ScratchForm) (data : Nat) => let n := f.size o
       (∀ a ∈ s.cur.elements f o, a % f.align o = 0 ∧ x.owned s.ctx a n = true) →
       (o.ord.getLsbD 1 = true → s.cur.psf = none ∧ s.cur.performed .tile = true) → s.cur.stq.length < 8 →
       Completes i s fun t =>
         t.cur = { s.cur with pc := s.cur.pc + 1, retired := s.cur.retired + 1, stq := s.cur.stq ++
           [(s.cur.elements f o).zipIdx.flatMap fun p => (List.range n).map fun j =>
             (x.place x.half (p.1 + j), byteOf (data / 2 ^ (8 * n * p.2) % 2 ^ (8 * n)) j)] } ∧ OnlyContext s t
     stores (.st g o) .scalar (s.getS o.d).toNat ∧ stores (.vst g o) .whole (s.getV o.d).toNat ∧
     stores (.vstx g o) .gather (s.getV o.d).toNat ∧ stores (.vsts g o) .stride (s.getV o.d).toNat) ∧
  (∀ (g : Guard) (o : FmtM) (s : State) (k a : Nat), Runs s g → s.cur.trapped = false →
     let x := s.curTile
     let traps := fun (i : Instr) (f : ScratchForm) => let n := f.size o
       (s.cur.elements f o)[k]? = some a →
       (∀ j < k, ∀ b, (s.cur.elements f o)[j]? = some b → b % f.align o = 0 ∧ x.owned s.ctx b n = true) →
       (o.ord.getLsbD 1 = true → s.cur.psf = none) →
       (a % f.align o ≠ 0 → Completes i s fun t => Trapped s t Cause.align (BitVec.ofNat 64 a) (BitVec.ofNat 64 k)) ∧
       (a % f.align o = 0 → x.owned s.ctx a n = false → Completes i s fun t =>
         Trapped s t Cause.scratch (BitVec.ofNat 64 a) (BitVec.ofNat 64 k))
     traps (.ld g o) .scalar ∧ traps (.st g o) .scalar ∧ traps (.vld g o) .whole ∧ traps (.vst g o) .whole ∧
     traps (.vldx g o) .gather ∧ traps (.vstx g o) .gather ∧ traps (.vlds g o) .stride ∧ traps (.vsts g o) .stride)

/-- R159, R161: the oldest queued store performs: its bytes, and no other byte of any memory, change, and it leaves the queue; a word
that it covers whole loses an uncorrectable error, and no word gains one. -/
def Obligations.QueuedStorePerforms : Prop :=
  ∀ (k : TileId) (c : Fin 4) (s : State) (st : ScratchStore) (rest : List ScratchStore),
    (s.ctxAt k c).stq = st :: rest → (s.tile k).scratch.wf = true →
    Happens (.storeQueuePerform k c) s fun t =>
      (∀ a, (t.tile k).scratch.read a = (lookupKey a st.reverse).getD ((s.tile k).scratch.read a)) ∧
      (∃ l, t.ctxAt k c = { s.ctxAt k c with stq := rest, covered := l }) ∧
      (∀ w ∈ (t.tile k).scratchBad, w ∈ (s.tile k).scratchBad ∧ ∃ j < 8, lookupKey (8 * w + j) st = none) ∧ (∀ j, j ≠ c → t.ctxAt k j = s.ctxAt k j) ∧
      (∀ j, j ≠ k → t.tile j = s.tile j) ∧ t.mem = s.mem

/-- R111, R113, R114: a register write that is due lands, a unit that is due is free, and a parked context of a running
tile that finds a task starts it: a pending task at its resume index, another at its entry. Where the rules leave it
open, as the model reads or chooses it: log entry 1. -/
def Obligations.IssueHappenings : Prop :=
  ∀ (k : TileId) (c : Fin 4) (s : State),
    let x := s.tile k
    (∀ r n, (r, n) ∈ x.ctxs[c].landing → n ≤ x.cycle.toNat → Happens (.registerWriteLand k c r) s fun t =>
      CtxOnly s t k c fun y => { y with landing := y.landing.filter fun p => !(p.1 == r && decide (p.2 ≤ x.cycle.toNat)) }) ∧
    (0 < x.divUntil → x.divUntil ≤ x.cycle.toNat → Happens (.unitFree k false) s fun t => TileOnly s t k fun x => { x with divUntil := 0 }) ∧
    (0 < x.fdivUntil → x.fdivUntil ≤ x.cycle.toNat → Happens (.unitFree k true) s fun t => TileOnly s t k fun x => { x with fdivUntil := 0 }) ∧
    (∀ j : Fin 16, s.tileRuns k = true → x.stopping = false → x.ctxs[c].run = .parked → x.ctxs[c].scanOrder.find? (x.taskReady c) = some j →
      Happens (.dispatch k c) s fun t => TileOnly s t k (fun x => x.setCtx c (x.ctxs[c].dispatch j)) ∧
        (t.ctxAt k c).run = .running ∧ (t.ctxAt k c).last = BitVec.ofNat 4 j.val ∧
        (t.ctxAt k c).pc = if x.ctxs[c].tasks[j].pend then x.ctxs[c].tasks[j].resume else x.ctxs[c].tasks[j].entry)

/-! Global memory. -/

/-- R275, R286, R290, R291, R295, R299: an access whose address is aligned and below 2^56 enters its context's queue of 16
under the next number, with its index, its mode and its data. A context whose access returns a value waits for it; any
other instruction retires. The queue then translates in order. With ORD 10 or 11 no store fault is held and the
context's earlier accesses have performed at the scope. `pclr` is for supervisor mode and takes a length of whole
words. R275, R281, R291, R299: an access at an address that is not a multiple of its size raises ALIGN, one beyond
2^56 − 1 raises XLATE, with REASON 2, the access's KIND, and a LEVEL that no rule gives; sys.eva holds the address,
and nothing enters the queue. Where the rules leave it open, as the model reads or chooses it: log entries 39 and 40. -/
def Obligations.GlobalAccessesIssue : Prop :=
  (∀ (g : Guard) (o : FmtM) (s : State), Runs s g → s.cur.gq.length < 16 →
     (o.ord.getLsbD 1 = true → s.cur.psf = none ∧ s.cur.performed o.sco = true) →
     let enters := fun (i : Instr) (kind : GKind) (align : Nat) (va : Word) (data : BitVec 512) =>
       va.toNat % align = 0 → va.toNat < 2 ^ 56 → Completes i s fun t =>
         let a : GAccess := ⟨s.cur.nextAcc, kind, o.d, va.toNat, data, s.getS o.d, o.ord, o.sco, s.cur.pc, s.cur.mode == .user, .queued, 0, (0, 0), false⟩
         t = State.translateQueue 17 (s.modCur fun c =>
           let c := { c with gq := c.gq ++ [a], nextAcc := c.nextAcc + 1 }
           if kind.returns then { c with wait := Wait.access a.id } else c.retire) s.here s.ctx
     let n := tyBytes o.ty
     let va := s.cur.indexedAddr o
     let base := s.cur.baseAddr o
     let x := (s.getS o.x).zeroExtend 512
     let amo := fun (i : Instr) (fn : BitVec 4) => enters i (.atomic fn o.ty (o.sub.getLsbD 0)) n base x
     enters (.gld g o) (.load n (o.sub == 1)) n va 0 ∧ enters (.gst g o) (.store n) n va ((s.getS o.d).zeroExtend 512) ∧
     enters (.gvld g o) .loadV 64 va 0 ∧ enters (.gvst g o) .storeV 64 va (s.getV o.d) ∧
     enters (.gldw g o) .loadOnce 8 va 0 ∧ enters (.gstw g o) .storeOnce 8 va ((s.getS o.d).zeroExtend 512) ∧
     (s.cur.mode = .supervisor → (s.getS o.x).toNat % 8 = 0 → enters (.pclr g o) (.clear (s.getS o.x).toNat) 8 base 0) ∧
     amo (.amoadd g o) 0 ∧ amo (.amofadd g o) 1 ∧ amo (.amomin g o) 2 ∧ amo (.amomax g o) 3 ∧ amo (.amominu g o) 4 ∧
     amo (.amomaxu g o) 5 ∧ amo (.amoand g o) 6 ∧ amo (.amoor g o) 7 ∧ amo (.amoxor g o) 8 ∧ amo (.amoswap g o) 9 ∧
     amo (.amocas g o) 10 ∧ enters (.amocall g o) (.call (bits o.sub 1 2) (o.sub.getLsbD 0)) 16 base x) ∧
  (∀ (g : Guard) (o : FmtM) (s : State), Runs s g → s.cur.trapped = false → (o.ord.getLsbD 1 = true → s.cur.psf = none) →
     let checks := fun (i : Instr) (kind : GKind) (align : Nat) (va : Word) =>
       (va.toNat % align ≠ 0 → Completes i s fun t => Trapped s t Cause.align va 0) ∧
       (va.toNat % align = 0 → 2 ^ 56 ≤ va.toNat → Completes i s fun t => ∃ level, level < 16 ∧
         Trapped { s with frees := s.frees + 1 } t Cause.xlate va (BitVec.ofNat 64 (2 * 2 ^ 12 + level * 2 ^ 8 + kind.code)))
     let n := tyBytes o.ty
     let va := s.cur.indexedAddr o
     let base := s.cur.baseAddr o
     let amo := fun (i : Instr) (fn : BitVec 4) => checks i (.atomic fn o.ty (o.sub.getLsbD 0)) n base
     checks (.gld g o) (.load n (o.sub == 1)) n va ∧ checks (.gst g o) (.store n) n va ∧ checks (.gvld g o) .loadV 64 va ∧
     checks (.gvst g o) .storeV 64 va ∧ checks (.gldw g o) .loadOnce 8 va ∧ checks (.gstw g o) .storeOnce 8 va ∧
     (s.cur.mode = .supervisor → (s.getS o.x).toNat % 8 = 0 → checks (.pclr g o) (.clear (s.getS o.x).toNat) 8 base) ∧
     amo (.amoadd g o) 0 ∧ amo (.amofadd g o) 1 ∧ amo (.amomin g o) 2 ∧ amo (.amomax g o) 3 ∧ amo (.amominu g o) 4 ∧
     amo (.amomaxu g o) 5 ∧ amo (.amoand g o) 6 ∧ amo (.amoor g o) 7 ∧ amo (.amoxor g o) 8 ∧ amo (.amoswap g o) 9 ∧
     amo (.amocas g o) 10 ∧ checks (.amocall g o) (.call (bits o.sub 1 2) (o.sub.getLsbD 0)) 16 base)

/-- R245, R277, R287, R291, R294, R295: an access that is what its slice serves next, at a place of local memory of which
no prepared bale holds a line, performs there: a load gives its bytes, extended, to the register of the context that
waits, which goes on; a store changes its own bytes and no others; a write-once store makes its word present; `pclr`
clears presence alone. Reads deferred on words that have become present then perform. Where the rules leave it open,
as the model reads or chooses it: log entry 107. -/
def Obligations.GlobalAccessesPerformAtTheirSlice : Prop :=
  ∀ (k : TileId) (c : Fin 4) (s : State) (a : GAccess) (tgt : Target),
    (s.ctxAt k c).access a.id = some a → a.stage = .ready tgt → tgt.isRemote = false → (s.ctxAt k c).mayPerform a tgt = true →
    s.lineHeld tgt a.kind.size = false → s.rangeHeld tgt a.kind.size = false →
    ∀ w, s.nextClaim (8 + tgt.slice) = some w → w.claim = .access (.ctx k c a.id) →
    let performs := fun (mem : Global) (put : Ctx → Ctx) => Completes (.slicePerform ⟨.ctx k c a.id, .clean⟩) s fun t =>
      t = State.serveDeferred ({ s.countPassed (8 + tgt.slice) w with mem := mem }.modCtx k c fun y =>
        let y := y.dropAccess a.id
        if y.wait = Wait.access a.id then { put y with wait := .none }.retire else y)
    (s.mem.poisonAt tgt a.kind.size = [] →
      (∀ n zx, a.kind = .load n zx → performs s.mem (·.setS a.dst (extendTo (8 * n) zx (s.mem.readAt tgt n)))) ∧
      (a.kind = .loadV → performs s.mem (·.setV a.dst (BitVec.ofNat 512 (s.mem.readAt tgt 64)))) ∧
      (a.kind = .loadOnce → s.mem.presentAt tgt = true →
        performs s.mem (·.setS a.dst (BitVec.ofNat 64 (s.mem.readAt tgt 8))))) ∧
    (∀ n, a.kind = .store n → performs (s.mem.writeAt tgt n a.data.toNat) id) ∧
    (a.kind = .storeV → performs (s.mem.writeAt tgt 64 a.data.toNat) id) ∧
    (a.kind = .storeOnce → s.mem.presentAt tgt = false → performs ((s.mem.writeAt tgt 8 a.data.toNat).setPresent tgt) id) ∧
    (∀ len, a.kind = .clear len → performs (s.mem.clearPresent tgt len) id)

/-- R245, R297-R301: an atomic that is what its slice serves next performs whole at the slice's unit: the old value goes
to the register unless NR, the new value to memory; AMOCALL runs the owner program that its tenant has loaded there.
Where the rules leave it open, as the model reads or chooses it: log entries 107 and 110. -/
def Obligations.AtomicsPerformWhole : Prop :=
  ∀ (k : TileId) (c : Fin 4) (s : State) (a : GAccess) (tgt : Target),
    (s.ctxAt k c).access a.id = some a → a.stage = .ready tgt → tgt.isRemote = false → (s.ctxAt k c).mayPerform a tgt = true →
    s.rangeHeld tgt a.kind.size = false → s.mem.poisonAt tgt a.kind.size = [] →
    ∀ w, s.nextClaim (8 + tgt.slice) = some w → w.claim = .access (.ctx k c a.id) →
    let performs := fun (mem : Global) (put : Ctx → Ctx) => Completes (.atomicPerform ⟨.ctx k c a.id, .clean⟩) s fun t =>
      t = State.serveDeferred ({ s.countPassed (8 + tgt.slice) w with mem := mem }.modCtx k c fun y =>
        let y := y.dropAccess a.id
        if y.wait = Wait.access a.id then { put y with wait := .none }.retire else y)
    (∀ fn ty nr, a.kind = .atomic fn ty nr →
      let m := s.mem.readAt tgt (ty.width / 8)
      performs (s.mem.writeAt tgt (ty.width / 8) (amoValue fn ty m (a.data.toNat % 2 ^ ty.width) (a.compare.toNat % 2 ^ ty.width)))
        fun y => if nr then y else y.setS a.dst (amoResult fn ty m)) ∧
    (∀ prog nr p, a.kind = .call prog nr → s.mem.program tgt (s.tenantOf k) prog = some p →
      performs (s.mem.writeAt tgt 16 (p.run (s.mem.readAt tgt 16) (a.data.setWidth 64)).1)
        fun y => if nr then y else y.setS a.dst (p.run (s.mem.readAt tgt 16) (a.data.setWidth 64)).2)

/-- A store to global memory changes the bytes of its place and no others, and a read of them gives what was stored; words
that it covers whole lose an uncorrectable error, in HBM4E as in LPDDR 6 (R15, R277). -/
def Obligations.GlobalStoresChangeTheirBytes : Prop :=
  ∀ (m : Global) (pa n v : Nat), m.hbm.wf = true → m.lpddr.wf = true →
    (m.writeAt (.hbm pa) n v).readAt (.hbm pa) n = v % 256 ^ n ∧ (m.writeAt (.lpddr pa) n v).readAt (.lpddr pa) n = v % 256 ^ n ∧
    (∀ a, a < pa ∨ pa + n ≤ a → (m.writeAt (.hbm pa) n v).hbm.read a = m.hbm.read a ∧
      (m.writeAt (.lpddr pa) n v).lpddr.read a = m.lpddr.read a) ∧
    (m.writeAt (.hbm pa) n v).lpddr = m.lpddr ∧ (m.writeAt (.lpddr pa) n v).hbm = m.hbm ∧
    (∀ w, w ∈ (m.writeAt (.hbm pa) n v).hbmBad ↔ w ∈ m.hbmBad ∧ ¬ (pa ≤ 8 * w ∧ 8 * w + 8 ≤ pa + n)) ∧
    (∀ w, w ∈ (m.writeAt (.lpddr pa) n v).lpddrBad ↔ w ∈ m.lpddrBad ∧ ¬ (pa ≤ 8 * w ∧ 8 * w + 8 ≤ pa + n)) ∧
    (m.writeAt (.hbm pa) n v).lpddrBad = m.lpddrBad ∧ (m.writeAt (.lpddr pa) n v).hbmBad = m.hbmBad ∧
    (m.writeAt (.hbm pa) n v).hbm.wf = true ∧ (m.writeAt (.lpddr pa) n v).lpddr.wf = true

/-- R292, R296, R304: `gprf` retires and at most queues a walk; `fence` retires once the context's earlier accesses have
performed at the scope, and `fencex` once its transfers have ended and its write streams have performed as well; a
read told to come again is sent again after 256 cycles, stamped with the routing version of that moment (R409). R307,
R308: the scopes nest; within tile and die scope lie the parties of the same tile and die. Where the rules leave it
open, as the model reads or chooses it: log entries 39 and 65. -/
def Obligations.PrefetchFencesAndRetries : Prop :=
  (∀ (g : Guard) (o : FmtM) (s : State), Runs s g →
    let va := s.cur.indexedAddr o
    (va.toNat % 8 = 0 → (2 ^ 56 ≤ va.toNat ∨ (tlbFind s.cur.utlb va.toNat).isSome = true) →
      Completes (.gprf g o) s fun t => Retired s t) ∧
    (va.toNat % 8 = 0 → va.toNat < 2 ^ 56 → tlbFind s.cur.utlb va.toNat = none → Completes (.gprf g o) s fun t =>
      t = ((s.requestWalk s.here.dieIx (s.asidOf s.here) va.toNat (.prefetch s.here s.ctx)).getD s).retire) ∧
    (s.cur.psf = none → s.cur.performed o.sco = true → Completes (.fence g o) s fun t => Retired s t) ∧
    (s.cur.psf = none → s.cur.performed o.sco = true → s.unitsDone s.here s.ctx = true →
      Completes (.fencex g o) s fun t => Retired s t) ∧
    (∀ (k : TileId) (c : Fin 4) (a : GAccess) (tgt : Target) (since : Nat), (s.ctxAt k c).access a.id = some a →
      a.stage = .retry tgt since → since + 256 ≤ (s.tile k).cycle.toNat →
      Happens (.retryResend (.ctx k c a.id)) s fun t => CtxOnly s t k c fun y => { y with
        gq := y.gq.map fun b => if b.id = a.id then { b with stage := .ready tgt, ver := s.hub.version } else b })) ∧
  (∀ x y : Party, (scopeHolds .tile x y = true → scopeHolds .die x y = true) ∧ (scopeHolds .die x y = true → scopeHolds .pkg x y = true) ∧
    scopeHolds .fab x y = true ∧ (scopeHolds .pkg x y = true ↔ x ≠ .outside ∧ y ≠ .outside) ∧
    (∀ t k u j, x = .context t k → y = .context u j → (scopeHolds .tile x y = true ↔ t = u) ∧
      (scopeHolds .die x y = true ↔ t.dieIx = u.dieIx)))

/-- R278, R283-R285: a walk among the first 64 of its die's queue ends: its requesters, and those of every other walk that
a leaf larger than 64 KiB covers, get the leaf or the fault, the entries it read are kept, and accesses that found the
queue full try again. An invalidation that nothing under way still relies on is complete: the host that asked is
answered OK, or the context that waits for it retires. Where the rules leave it open, as the model reads or chooses
it: log entries 2, 66 and 93. -/
def Obligations.WalksAndInvalidationsComplete : Prop :=
  ∀ (d : Fin 8) (s : State),
    (∀ w, (s.dies[d].walks.take 64).find? (fun v => v.asid == w.asid && v.page == w.page) = some w →
      let r := s.dies[d].walk s.mem w.asid (w.page * 2 ^ 16)
      (∀ t ∈ r.reads, s.lineHeld t 8 = false) → Completes (.walkComplete d w.asid w.page) s fun t => ∃ ends : List Walk,
        (match r.found with
          | .ok leaf => if 16 < leaf.size then ends = s.dies[d].walks.filter fun v => v.asid == w.asid && leaf.covers (v.page * 2 ^ 16)
              else ends = [w]
          | .error _ => ends = [w]) ∧
        t = (ends.foldl (fun u v => v.who.foldl (fun u who => u.walkAnswer v.page r.found who) u)
          ((s.cacheNodes d r.nodes).modDie d fun x => { x with walks := x.walks.filter fun v => !ends.contains v })).retryMisses d) ∧
    (∀ v ∈ s.mem.invals, s.mem.invals.find? (·.k == v.k) = some v → (∀ w ∈ v.waits, s.underWay w = false) →
      (∀ node tag, v.cmd = some (node, tag) → Happens (.invalidationComplete v.k) s fun t =>
        t = (WithHub { s with mem := { s.mem with invals := s.mem.invals.filter fun w => w.k != v.k } } fun h =>
          { h with waiting := h.waiting.filter fun w => !(w.node == node && w.tag == tag && w.op == 0x11) }).respond node tag 0x11 0 []) ∧
      (∀ k c, v.cmd = none → (s.tiles.map (·.1)).Nodup → k ∈ s.tiles.map (·.1) → (s.ctxAt k c).wait = .inval v.k →
        Happens (.invalidationComplete v.k) s fun t => t.ctxAt k c = { s.ctxAt k c with wait := .none }.retire))

/-! Channels. -/

/-- R196, R197, R199, R200: on a port of the right kind that no run, drain or via transfer holds, `send` and `tsend` write
one entry as soon as the channel has room for it, `vsend` writes 64/b words as soon as it has room for all of them;
`recv` and `vrecv` take DATA entries, `trecv` takes an entry of any kind, `tpeek` answers the head's kind and takes
nothing; `chk` sets every lane's bit when the port's queue holds an entry of the kind asked for, or when an output has
room. R196, R197, R199, R201: on a port that it does not accept, and with a vector that its channel can never hold, a
channel instruction raises CHAN with the port in sys.einfo; a token that is not DATA raises CHAN with its kind, an ERR
raises POISON with the ERR word; nothing is taken or sent. `chk` of a token on an output raises CHAN. Where the rules
leave it open, as the model reads or chooses it: log entries 13, 80, 81 and 100. -/
def Obligations.ChannelInstructions : Prop :=
  (∀ (g : Guard) (o : FmtQ) (s : State), Runs s g → s.cur.viaHeld o.port = false →
     (∀ room b cap, s.writePort s.here s.ctx o.port = some (room, b, cap) → s.curTile.forwardPort s.ctx o.port = false →
       s.seamed o.port = false → s.curTile.drainPort s.ctx o.port = false →
       (o.ord.getLsbD 1 = true → s.cur.psf = none ∧ s.cur.performed o.sco = true) →
       let sends := fun (i : Instr) (es : List (BitVec 256 × BitVec 4)) => es.length ≤ room → Completes i s fun t =>
         t = (s.putPort s.here s.ctx o.port es).retire ∧ MemorySame s t
       sends (.send g o) [((s.getS o.s1).zeroExtend 256, 0)] ∧ sends (.tsend g o) [((s.getS o.s1).zeroExtend 256, o.tok)] ∧
       (64 / b ≤ cap → sends (.vsend g o)
         ((List.range (64 / b)).map fun j => (BitVec.ofNat 256 (field (s.getV o.s1) (8 * b * j) (8 * b)), 0)))) ∧
     (∀ q b cap, s.curTile.readPort s.ctx o.port = some (q, b, cap) → s.curTile.operandPort s.ctx o.port = false →
       (∀ e rest, q = e :: rest →
         let takes := fun (i : Instr) => Completes i s fun t =>
           t = (s.takePort s.here s.ctx o.port 1).writeS o.d (e.word.truncate 64) ∧ MemorySame s t
         takes (.trecv g o) ∧ (e.kind = 0 → takes (.recv g o)) ∧
         Completes (.tpeek g o) s fun t => WroteS s t o.d (e.kind.zeroExtend 64)) ∧
       (64 / b ≤ cap → 64 / b ≤ q.length → (∀ e ∈ q.take (64 / b), e.kind = 0) → Completes (.vrecv g o) s fun t =>
         t = (s.takePort s.here s.ctx o.port (64 / b)).writeV o.d (joinWords b (q.take (64 / b))) ∧ MemorySame s t)) ∧
     (∀ q b cap, s.curTile.readPort s.ctx o.port = some (q, b, cap) →
       Completes (.chk g o) s fun t => WroteP s t o.d (Word.mask (q.any fun e => e.kind == o.tok))) ∧
     (s.cur.port o.port = .closed → Completes (.chk g o) s fun t => WroteP s t o.d 0) ∧
     (∀ room b cap, s.curTile.readPort s.ctx o.port = none → s.cur.port o.port ≠ .closed → o.tok = 0 →
       s.writePort s.here s.ctx o.port = some (room, b, cap) →
       Completes (.chk g o) s fun t => WroteP s t o.d (Word.mask (decide (0 < room))))) ∧
  (∀ (g : Guard) (o : FmtQ) (s : State), Runs s g → s.cur.trapped = false → s.cur.viaHeld o.port = false →
     let chan := fun (i : Instr) (info : Nat) => Completes i s fun t => Trapped s t Cause.chan 0 (BitVec.ofNat 64 info)
     let port := o.port.toNat
     ((o.ord.getLsbD 1 = true → s.cur.psf = none) →
       (s.writePort s.here s.ctx o.port = none → chan (.send g o) port ∧ chan (.vsend g o) port ∧ chan (.tsend g o) port) ∧
       (∀ room b cap, s.writePort s.here s.ctx o.port = some (room, b, cap) → cap < 64 / b → chan (.vsend g o) port)) ∧
     (s.curTile.readPort s.ctx o.port = none →
       chan (.recv g o) port ∧ chan (.vrecv g o) port ∧ chan (.trecv g o) port ∧ chan (.tpeek g o) port) ∧
     (∀ q b cap, s.curTile.readPort s.ctx o.port = some (q, b, cap) →
       (cap < 64 / b → chan (.vrecv g o) port) ∧
       (s.curTile.operandPort s.ctx o.port = false → ∀ e rest, q = e :: rest →
         (e.kind = 12 → Completes (.recv g o) s fun t => Trapped s t Cause.poison 0 (e.word.truncate 64)) ∧
         (e.kind ≠ 0 → e.kind ≠ 12 → chan (.recv g o) e.kind.toNat))) ∧
     (∀ e, s.cur.port o.port = .output e → o.tok ≠ 0 → chan (.chk g o) port))

/-- R201, R212: `bind` gives a closed port, or a start port whose queue is empty, a valid endpoint that no port of the
tile holds; `unbind` closes a port whose sink's queue is empty or whose stream is not running; both raise CHAN
otherwise. `agrun` starts the generator of a bound stream afresh, at S1's 56-bit base if it names one, which its
descriptor keeps; `agstop` ends its run, drops what it has not issued, with the word that is not yet full, and leaves
issued stores to perform; `agstat` reads it; all three raise CHAN for a stream that no port of the context is bound
to. Where the rules leave it open, as the model reads or chooses it: log entries 14, 91, 108 and 109. -/
def Obligations.PortsBindAndStreamsRun : Prop :=
  ∀ (g : Guard) (o : FmtQ) (s : State), Runs s g →
    let kind := o.m7.toNat % 4
    let n := o.imm.toNat % 4096
    let b := bindingOf kind n
    let free := s.cur.port o.port = .closed ∨ (s.cur.port o.port = .start ∧ s.cur.startQ[o.port.toNat] = [])
    (s.cur.viaHeld o.port = false →
      (free → s.curTile.endpointValid kind n = true → s.curTile.holds b = false → Completes (.bind g o) s fun t =>
        t.cur = { s.cur with ports := s.cur.ports.set o.port.toNat b, startPorts := s.cur.startPorts &&& ~~~(1#16 <<< o.port.toNat)
                             pc := s.cur.pc + 1, retired := s.cur.retired + 1 } ∧ OnlyContext s t) ∧
      ((∃ e, s.cur.port o.port = .output e) ∨ (∃ e, s.cur.port o.port = .input e ∧ (s.curTile.sink e).queue = []) ∨
        (∃ a, s.cur.port o.port = .stream a ∧ (s.curTile.agen a).st ≠ .running) → Completes (.unbind g o) s fun t =>
        t.cur = { s.cur with ports := s.cur.ports.set o.port.toNat .unbound
                             pc := s.cur.pc + 1, retired := s.cur.retired + 1 } ∧ OnlyContext s t) ∧
      (s.cur.trapped = false → ¬ free ∨ s.curTile.holds b = true ∨
          (s.curTile.endpointValid kind n = false ∧ s.outerSource kind n = false) →
        Completes (.bind g o) s fun t => Trapped s t Cause.chan 0 (o.port.zeroExtend 64)) ∧
      (s.cur.trapped = false → s.cur.port o.port = .closed ∨ s.cur.port o.port = .start ∨
          (∃ e, s.cur.port o.port = .input e ∧ (s.curTile.sink e).queue ≠ []) ∨
          (∃ a, s.cur.port o.port = .stream a ∧ (s.curTile.agen a).st = .running) →
        Completes (.unbind g o) s fun t => Trapped s t Cause.chan 0 (o.port.zeroExtend 64))) ∧
    let k := genOf o
    let a := s.curTile.cfg.agen[k]
    (s.cur.hasStream k = true →
      (s.cur.psf = none → (s.curTile.agen k).st ≠ .running → s.cur.performed a.scope = true → Completes (.agrun g o) s fun t =>
        let base := if o.s1 = 0 then a.base else (s.getS o.s1).toNat % 2 ^ 56
        TileStep s t fun x => Tile.modAgen { x with cfg := x.cfg.setAgenBase k base } k fun y => { y with
          st := .running, cause := 0, completed := 0, pos := 0, base := base, acc := 0, accN := 0, walking := false
          parts := [], spans := [], taken := [], user := s.ctx }) ∧
      ((s.curTile.agen k).st = .running → Completes (.agstop g o) s fun t =>
        TileStep s t (·.modAgen k (·.stop a.reads)) ∧ (t.curTile.agen k).st = .idle ∧ (t.curTile.agen k).taken = [] ∧
        (t.curTile.agen k).queue = (s.curTile.agen k).queue ∧
        (a.reads = true → (t.curTile.agen k).flight = []) ∧
        (a.reads = false → (t.curTile.agen k).flight = (s.curTile.agen k).flight.map fun e => { e with own := false })) ∧
      ((s.curTile.agen k).st ≠ .running → Completes (.agstop g o) s fun t => Retired s t) ∧
      Completes (.agstat g o) s fun t => WroteS s t o.d (s.curTile.agen k).status) ∧
    (s.cur.hasStream k = false → s.cur.trapped = false →
      let chan := fun (i : Instr) => Completes i s fun t => ∃ info, t.cur = s.cur.trapEntry Cause.chan s.cur.pc 0 info ∧ MemorySame s t
      chan (.agstop g o) ∧ chan (.agstat g o) ∧ (s.cur.psf = none → chan (.agrun g o)))

/-- R170-R172, R175, R178: the first entry in flight to a plain valid sink reaches its queue, one of a reserved kind or
with failing parity as an ERR; one that interrupts a CFG group at a port is a load fault (R176), in a band tile a SEAM
as well; a credit under way reaches its source, and a rendezvous source gets one when its sink asks for an entry; a
typed join packs the converted elements of a DATA entry, delivers a full word, adopts a valid SCALE, delivers a part
of a word before a token, and then passes the token on; in a band tile it holds a SEAM (R347). R178, R179: a typed
join's element is its source element's exact value times the scale, rounded once to the destination type, and is
packed beside those already there. Where the rules leave it open, as the model reads or chooses it: log entries 98 and
99. -/
def Obligations.ChannelsDeliver : Prop :=
  ((∀ (t : TileId) (k : Fin 64) (bad : Bool) (s : State) (e : Entry) (rest : List Entry),
     let x := s.tile t
     (x.sink k.val).inflight = e :: rest → (x.sink k.val).sent.length < (x.sink k.val).inflight.length → (x.cfg.sinkCfg k).valid = true → (x.cfg.sinkCfg k).typed = false →
     s.hub.circuitOfSink t k = none → x.reel = none → (((e.routed bad).kind ≠ 7 ∧ (e.routed bad).kind ≠ 11) ∨ 32 ≤ k.val) →
     ((e.routed bad).kind = 9 → Happens (.channelEntryArrive t k bad) s fun u =>
       (((u.tile t).sink k.val).marked = true) ∧ ((u.tile t).sink k.val).queue = (x.sink k.val).queue ∧ MemorySame s u) ∧
     ((e.routed bad).kind ≠ 9 → (x.sink k.val).cfg = [] → Happens (.channelEntryArrive t k bad) s fun u =>
       ((u.tile t).sink k.val).inflight = rest ∧ MemorySame s u ∧
       ((u.tile t).sink k.val).queue = (x.sink k.val).queue ++ [e.routed bad]) ∧
     (k.val < 32 → (x.sink k.val).cfg ≠ [] → (x.sink k.val).cfg.length < x.cfg.cfgGroup k.val → (e.routed bad).kind ≠ 9 →
       Happens (.channelEntryArrive t k bad) s fun u => ∃ f ∈ (x.sink k.val).cfg.head?,
         u = ((s.letIn t 0).modTile t (·.modSink k fun y => { y with inflight := rest })).loadFault t ((f.word.truncate 32).zeroExtend 64))) ∧
   (∀ (e : Entry), e.routed true = { e with word := errWord Cause.poison 0, kind := 12 } ∧
     (e.kind.toNat < 13 → e.routed false = e) ∧
     (13 ≤ e.kind.toNat → e.routed false = { e with word := errWord Cause.chan e.kind.toNat, kind := 12 })) ∧
   (∀ (t : TileId) (e : Nat) (s : State),
     (0 < ((s.tile t).source e).returning → Happens (.creditReturn t e) s fun u => TileOnly s u t (·.modSource e fun y =>
       { y with credits := y.credits + 1, returning := y.returning - 1 })) ∧
     (∀ u k, ((s.tile t).source e).returning = 0 → s.sinkOf t e = some (u, k) → (s.tile u).cfg.capacity k = 0 →
       (s.tile u).sinkAsks k = true → ((s.tile u).sink k).asked = false →
       Happens (.creditReturn t e) s fun v => v = (s.modTile u (·.modSink k fun y => { y with asked := true })).modTile t
         (·.modSource e fun y => { y with credits := y.credits + 1 }))) ∧
   (∀ (t : TileId) (k : Fin 64) (s : State) (e : Entry) (rest : List Entry) (a b : Ty),
     let y := (s.tile t).sink k
     (s.tile t).frozen = false → y.held = [] → y.convIn = e :: rest → ((s.tile t).cfg.sinkCfg k).srcTy = some a →
     ((s.tile t).cfg.sinkCfg k).dstTy = some b →
     let consumed := fun (s : State) => (s.modTile t (·.modSink k fun y => { y with convIn := rest, convPos := 0 })).returnCredits t k
       (if e.origin = .channel then 1 else 0)
     (e.kind = 0 → y.used < (s.tile t).cfg.capacity k →
       let w := 64 * ((s.tile t).cfg.sinkCfg k).lanes
       let r := packElements a b y.scale ((s.tile t).cfg.sinkCfg k).rm e.word.toNat (w / a.width) (w / b.width) (w / a.width)
         y.convPos y.acc y.accN
       let joined := if r.2.2 = w / b.width then (s.modTile t (·.modSink k fun y => { y with acc := 0, accN := 0 })).deliver t k
           ⟨r.2.1, 0, .joined⟩
         else s.modTile t (·.modSink k fun y => { y with acc := r.2.1, accN := r.2.2 })
       Completes (.typedJoinConvert t k) s fun u => u = if w / a.width ≤ r.1 then consumed joined else
         joined.modTile t (·.modSink k fun y => { y with convPos := r.1 })) ∧
     (e.kind = 10 → scaleValid e.word = true → Completes (.typedJoinConvert t k) s fun u =>
       u = consumed (s.modTile t (·.modSink k fun y => { y with scale := e.word.truncate 32 }))) ∧
     (e.kind ≠ 0 → e.kind ≠ 10 → y.used < (s.tile t).cfg.capacity k → (s.tile t).cfgFull k e = false →
       (y.accN ≠ 0 → Completes (.typedJoinConvert t k) s fun u =>
         u = (s.modTile t (·.modSink k fun y => { y with acc := 0, accN := 0 })).deliver t k ⟨y.acc, 0, .joined⟩) ∧
       (y.accN = 0 → (e.kind ≠ 11 ∨ (s.tile t).reel = none) → Completes (.typedJoinConvert t k) s fun u =>
         u = (consumed s).deliver t k { e with origin := .joined })) ∧
     (e.kind = 11 → y.accN = 0 → (s.tile t).reel.isSome = true → y.cfg = [] → Completes (.typedJoinConvert t k) s fun u =>
       TileOnly s u t (·.modSink k fun y => { y with convIn := rest, held := [e] })) ∧
     (e.kind = 11 → y.accN = 0 → (s.tile t).reel.isSome = true → k.val < 32 → y.cfg ≠ [] → y.cfg.length < (s.tile t).cfg.cfgGroup k →
       Completes (.typedJoinConvert t k) s fun u => ∃ f ∈ y.cfg.head?, u = s.loadFault t ((f.word.truncate 32).zeroExtend 64)))) ∧
  (∀ (src dst : Ty) (scale : BitVec 32) (rm : RM) (word n pos : Nat) (acc : BitVec 256) (total room : Nat),
     pos < total → n < room →
     packElements src dst scale rm word total room 1 pos acc n = (pos + 1,
       acc ||| (BitVec.ofNat 256 (roundTo dst false
         ((valueOf src false (word / 2 ^ (src.width * pos) % 2 ^ src.width)).mul (floatOf .fp32 scale.toNat)) rm) <<< (dst.width * n)), n + 1))

/-- R181-R184: what an operator takes and writes when it fires. Steer: the data entry to output 1 if the control word's
bit 0 is set, to output 0 otherwise; equal tokens to both. Merge: from the input that control selects; equal tokens once.
Carry: from input 0 before the loop, in the loop from input 1 while control says so, and a false control word ends the
loop. Fork: the entry to every output. A control head that is an ERR is a POISON fault of the operator. -/
def Obligations.OperatorsFire : Prop :=
  ∀ (t : TileId) (o : Fin 8) (s : State),
    let x := s.tile t
    let takes := fun (is : List Nat) (s : State) => is.foldl (fun s i => s.takeSink t (32 + 4 * o.val + i) 1) s
    let puts := fun (js : List Nat) (e : Entry) (s : State) => js.foldl (fun s j => s.emit t (32 + 4 * o.val + j) e.word e.kind) s
    x.frozen = false →
    ((x.cfg.ops[o]).kind = .steer → ∀ d c, x.opHead o 0 = some d → x.opHead o 1 = some c →
      (d.isData = true → c.kind = 0 → let j := if c.word.getLsbD 0 then 1 else 0
        x.opCredit o j = true → Completes (.steerFire t o) s fun u => u = puts [j] d (takes [0, 1] s)) ∧
      (d.isData = false → c.kind = d.kind → x.opCredit o 0 = true → x.opCredit o 1 = true →
        Completes (.steerFire t o) s fun u => u = puts [0, 1] d (takes [0, 1] s))) ∧
    ((x.cfg.ops[o]).kind = .merge → ∀ c, x.opHead o 2 = some c → x.opCredit o 0 = true →
      (c.kind = 0 → let i := if c.word.getLsbD 0 then 1 else 0
        ∀ d, x.opHead o i = some d → d.isData = true → Completes (.mergeFire t o) s fun u => u = puts [0] d (takes [2, i] s)) ∧
      (c.kind ≠ 0 → c.kind ≠ 12 → ∀ d e, x.opHead o 0 = some d → x.opHead o 1 = some e → d.kind = c.kind → e.kind = c.kind →
        Completes (.mergeFire t o) s fun u => u = puts [0] d (takes [0, 1, 2] s))) ∧
    ((x.cfg.ops[o]).kind = .carry →
      (x.loops[o] = false → ∀ d, x.opHead o 0 = some d → x.opCredit o 0 = true → Completes (.carryFire t o) s fun u =>
        u = (puts [0] d (takes [0] s)).modTile t fun x => { x with loops := x.loops.set o d.isData }) ∧
      (x.loops[o] = true → ∀ c, x.opHead o 2 = some c → c.kind = 0 →
        (c.word.getLsbD 0 = false → Completes (.carryFire t o) s fun u =>
          u = (takes [2] s).modTile t fun x => { x with loops := x.loops.set o false }) ∧
        (c.word.getLsbD 0 = true → ∀ d, x.opHead o 1 = some d → d.isData = true → x.opCredit o 0 = true →
          Completes (.carryFire t o) s fun u => u = puts [0] d (takes [2, 1] s)))) ∧
    ((x.cfg.ops[o]).kind = .fork → ∀ d, x.opHead o 0 = some d →
      (∀ j, j < (x.cfg.ops[o]).nout → x.opCredit o j = true) →
      Completes (.forkFire t o) s fun u => u = puts (List.range (x.cfg.ops[o]).nout) d (takes [0] s)) ∧
    ((x.cfg.ops[o]).kind = .steer → ∀ c, x.opHead o 1 = some c → c.kind = 12 →
      Completes (.steerFire t o) s fun u => u = s.tileFault t Cause.poison 1 0 o.val (c.word.truncate 64) 0)

/-- R207-R210, R316: a running stream issues its next element. A read stream's generated value, and what it reads of
scratch, go into its port's word at once; a write stream's value goes to scratch at once, and a token is discarded. An
element of a global stream is translated and then performs at its slices, in the order of each slice and once the
slice serves it next (R245); elements complete in their own order, a read with its value in the port's word; the last
ends the run. Where the rules leave it open, as the model reads or chooses it: log entries 14, 48 and 91. -/
def Obligations.StreamsMoveElements : Prop :=
  (∀ (t : TileId) (g : Fin 4) (s : State),
    let x := s.tile t
    let a := x.cfg.agen[g]
    let y := x.agen g
    let va := a.address y.base y.pos
    let n := elementBytes a.ty
    let ends := fun (u : State) (v : State) (f : Agen → Agen) =>
      u = { v.modTile t (·.modAgen g f) with nextSeq := s.nextSeq + 1 }
    let global := fun (i : Instr) (value : Nat) (f : Agen → Agen) => ∀ leaf, 3 ≤ a.mode → va + n ≤ 2 ^ 56 → y.leaf = some leaf →
      leaf.covers va = true → va + n ≤ leaf.vbase + 2 ^ leaf.size → y.parts = [] → y.spans = [] →
      leaf.refuses (if a.reads then .unitRead else .unitWrite) true = none →
      let serial := (leaf.target va).isRemote || (!a.reads && leaf.wo)
      (serial = false ∨ ∀ e ∈ y.flight, e.own = false) → Completes i s fun u =>
        u = s.pushElem t g { y.elem a value with parts := [(leaf.target va, 0, n, leaf.wo)], spans := [leaf.span], serial := serial } f
    x.frozen = false → s.dies[t.dieIx].clockStopped = none → y.mayIssue a = true →
    (a.reads = true → y.out = [] → y.queue.length < 4 →
      (a.mode = 0 → y.flight = [] → Completes (.readStreamElement t g) s fun u => MemorySame s u ∧
        ends u s fun y => Agen.gather { y with parts := [], spans := [], pos := y.pos + 1 } a va) ∧
      (a.mode = 1 → y.flight = [] → x.streamOwns y.user va n = true → x.scratchBadAt x.half va n = false →
        Completes (.readStreamElement t g) s fun u => MemorySame s u ∧
          ends u s fun y => Agen.gather { y with parts := [], spans := [], pos := y.pos + 1 } a (x.scratchPlain x.half va n)) ∧
      global (.readStreamElement t g) 0 id) ∧
    (a.reads = false → ∀ e rest, y.taken = e :: rest →
      let value := e.word.toNat / 2 ^ (a.ty.width * y.accN) % 2 ^ a.ty.width
      (e.kind ≠ 0 → e.kind ≠ 12 → Completes (.writeStreamElement t g) s fun u =>
        TileOnly s u t (·.modAgen g fun y => { y with taken := rest })) ∧
      (e.kind = 0 → a.mode = 2 → y.flight = [] → x.streamOwns y.user va n = true → Completes (.writeStreamElement t g) s fun u =>
        let v := if a.ty = .i4 then lowHalf (x.scratchPlain x.half va 1) value else value
        ends u (s.modTile t fun x => x.scratchWrite (x.scratchCells va n v)) fun y =>
          Agen.stored { y.took a with parts := [], spans := [], pos := y.pos + 1 } a) ∧
      (e.kind = 0 → global (.writeStreamElement t g) value (·.took a)))) ∧
  (∀ (t : TileId) (g : Fin 4) (s : State) (e : Elem),
    let a := (s.tile t).cfg.agen[g]
    let y := (s.tile t).agen g
    ∀ s' : State, s.elemAt t g e.n = some e →
    (e.stage = .ready ∧ s.servedAt (e.slice.getD 0) (.stream t g e.n) = some s') ∨ (e.stage = .deferred ∧ s' = s) →
    e.fails = none → (s.tile t).snapped = false → y.elemTurn e = true → (∀ p ∈ e.parts, p.1.isRemote = false ∧ s.lineHeld p.1 p.2.2.1 = false) →
    (∀ v, a.reads = true → s.mem.unitRead e.parts = .ok v → Completes (.slicePerform ⟨.stream t g e.n, .clean⟩) s fun u =>
      u = s'.modElem t g e.n fun e => { e with data := e.data + v, stage := .done }) ∧
    (∀ m, a.reads = false → a.ty ≠ .i4 → s.mem.unitWrite e.data e.parts = .ok m → Completes (.slicePerform ⟨.stream t g e.n, .clean⟩) s fun u =>
      u = (State.modElem { s' with mem := m } t g e.n fun e => { e with stage := .done }).serveDeferred)) ∧
  (∀ (y : Agen) (a : AgenCfg) (e : Elem) (rest : List Elem) (fuel : Nat),
    y.flight = e :: rest → e.own = true → e.fails = none → (∀ x ∈ rest, x.n ≠ e.n) →
    (e.stage = .done → y.settle a (fuel + 1) =
      Agen.settle (if a.reads then Agen.gather { y with flight := rest } a e.data else Agen.stored { y with flight := rest } a) a fuel) ∧
    (e.stage ≠ .done → y.settle a (fuel + 1) = y))

/-! Progress counters and transfers. -/

/-- R236, R239, R240, R262-R267: the owner's `gadv` adds to VALUE, saturating; `gset` sets it; `gget` reads VALUE, the
rate in use or the declared rate; `grate` declares a rate and sends a beacon; `gwait` raises VALUE to its mark, and
waits for the watches it covers, a FAILED one of which makes it trap after its effect; it retires when it ends
otherwise (R122). Another context's instruction raises ILL. `glate` reads the oldest event, `glate.pop` drops it.
R237, R239, R240: at the end of a window the estimate moves an eighth of the way to the work of the window, within 64
and 2^32 − 1, and ACC is zero; a beacon follows if the rate in use changes. A change of VALUE that no beacon has told
for 2,048 cycles is told to every subscriber. A beacon granted reaches its engine with age 0, in place of the one
held; one whose packet's data fail their parity leaves the one held, and one whose header fails is a region fault
(R399). Where the rules leave it open, as the model reads or chooses it: log entries 19 and 111. -/
def Obligations.Counters : Prop :=
  (∀ (g : Guard) (o : FmtQ) (s : State), Runs s g →
     let k := counterOf o
     let c := s.curTile.counters[k]
     let n := (s.getS o.s1 + o.imm.zeroExtend 64).toNat
     let v := BitVec.ofNat 48 (max c.value.toNat (min n (2 ^ 48 - 1)))
     (s.curTile.cfg.counterOwner[k] = some s.ctx →
       (Completes (.gadv g o) s fun t => (t.curTile.counters[k]).value = BitVec.ofNat 48 (min (c.value.toNat + n) (2 ^ 48 - 1)) ∧
         t.cur.pc = s.cur.pc + 1 ∧ t.cur.s = s.cur.s ∧ MemorySame s t) ∧
       ((s.getS o.s1).setWidth 48 ≠ c.value → Completes (.gset g o) s fun t =>
         (t.curTile.counters[k]).value = (s.getS o.s1).setWidth 48 ∧ (t.curTile.counters[k]).acc = c.acc ∧
         t.cur.pc = s.cur.pc + 1 ∧ t.cur.s = s.cur.s ∧ MemorySame s t) ∧
       ((s.getS o.s1).setWidth 48 = c.value → Completes (.gset g o) s fun t => Retired s t) ∧
       (Completes (.gget g o) s fun t => WroteS s t o.d (if o.m7.toNat % 4 = 0 then c.value.zeroExtend 64
         else if o.m7.toNat % 4 = 1 then c.rate.zeroExtend 64 else c.decl.zeroExtend 64)) ∧
       (Completes (.grate g o) s fun t => (t.curTile.counters[k]).decl = (s.getS o.s1).setWidth 32 ∧
         (t.curTile.counters[k]).value = c.value ∧ t.cur.pc = s.cur.pc + 1 ∧
         t.beaconsOut.length = s.beaconsOut.length + c.subs.length ∧ MemorySame s t) ∧
       (s.curTile.snapped = false → (∀ w ∈ s.curTile.watches, w.coveredBy k v = false) → Completes (.gwait g o) s fun t =>
           (t.curTile.counters[k]).value = v ∧ t.cur.wait = .none ∧ t.cur.pc = s.cur.pc + 1 ∧ t.cur.retired = s.cur.retired + 1 ∧
           MemorySame s t) ∧
       ((∃ w ∈ s.curTile.watches, w.coveredBy k v = true ∧ w.failed = false) → Completes (.gwait g o) s fun t =>
           (t.curTile.counters[k]).value = v ∧ t.cur.pc = s.cur.pc + 1 ∧ t.cur.retired = s.cur.retired ∧
           (∃ seen since, t.cur.wait = .gwait k seen since) ∧
           (∀ w ∈ t.curTile.watches, w.coveredBy k v = true → w.late = true) ∧ MemorySame s t) ∧
       (s.curTile.snapped = false → s.cur.trapped = false → (∀ w ∈ s.curTile.watches, w.coveredBy k v = true → w.failed = true) →
         (∃ w ∈ s.curTile.watches, w.coveredBy k v = true) → Completes (.gwait g o) s fun t =>
           (t.curTile.counters[k]).value = v ∧ (∃ w ∈ s.curTile.watches, w.coveredBy k v = true ∧ t.cur.einfo = w.id) ∧
           t.cur.cause = Cause.xfer ∧ t.cur.epc = s.cur.pc + 1 ∧ t.cur.pc = s.cur.hvec ∧ t.cur.trapped = true ∧
           t.cur.retired = s.cur.retired ∧ MemorySame s t)) ∧
     (s.curTile.cfg.counterOwner[k] ≠ some s.ctx → s.cur.trapped = false →
       ∀ i ∈ [Instr.gadv g o, .gset g o, .gget g o, .gwait g o, .grate g o],
         Completes i s fun t => Trapped s t Cause.ill 0 s.curWord) ∧
     (∀ e rest, s.cur.events = e :: rest → Completes (.glate g o) s fun t => WroteS s t o.d
       (if o.imm.toNat % 4 = 0 then e.w0 else if o.imm.toNat % 4 = 1 then e.w1 else if o.imm.toNat % 4 = 2 then e.w2 else e.w3)) ∧
     (s.cur.events = [] → Completes (.glate g o) s fun t => WroteS s t o.d 0) ∧
     (Completes (.glatePop g o) s fun t =>
       t.cur = ({ s.cur with events := s.cur.events.tail, lost := 0 }.setS o.d
         (BitVec.ofNat 64 (s.cur.lost.toNat * 2 ^ 8 + s.cur.events.tail.length))).retire ∧ OnlyContext s t)) ∧
  ((∀ (t : TileId) (g : Fin 16) (s : State),
     let x := s.tile t
     let c := x.counters[g]
     (x.awake = true → x.snapped = false → c.windows < x.cycle.toNat / 1024 → Happens (.endWindow t g) s fun u =>
       let est : Int := c.est.toNat + (min c.acc.toNat 65535 * 2 ^ 16 - (c.est.toNat : Int)).tdiv 8
       let c' := { c with est := BitVec.ofInt 32 (min (2 ^ 32 - 1) (max 64 est)), acc := 0, windows := c.windows + 1 }
       let told := s.modTile t (·.modCounter g fun _ => c')
       (c'.rate = c.rate → u = told) ∧ (c'.rate ≠ c.rate → u = told.sendBeacon t g none)) ∧
     (∀ since, c.dirty = some since → x.snapped = false → since + 2048 ≤ x.cycle.toNat → Happens (.beaconTimeout t g) s fun u =>
       u = s.sendBeacon t g none)) ∧
   (∀ (d : Fin 8) (e : Fin 64) (t : TileId) (g : Fin 16) (s : State) (b : Beacon),
     let mine := fun (b : Beacon) => b.die == d && b.engine == e && b.tile == t && b.g == g
     s.beaconsOut.find? mine = some b → b.granted = true →
       (Happens (.beaconArrive d e t ⟨g, .clean⟩) s fun u =>
         u.beaconsOut = s.beaconsOut.erase b ∧ u.beacons = (s.beacons.filter fun b => !mine b) ++ [{ b with age := 0 }] ∧
         u.tiles = s.tiles ∧ u.mem = s.mem) ∧
       (Happens (.beaconArrive d e t ⟨g, .data⟩) s fun u => u = { s with beaconsOut := s.beaconsOut.erase b }) ∧
       (∀ n, (s.tile t).region = some n → Completes (.beaconArrive d e t ⟨g, .header⟩) s fun u =>
         u = State.regionFault { s with beaconsOut := s.beaconsOut.erase b } n ⟨Cause.poison, 5, 0, 0, 0, 0⟩)))

/-- R247-R250, R252, R253, R270-R272: a transfer instruction reads its descriptor from scratch, and a gather or scatter
its offsets; with no rule broken and a slot for its request, the transfer is accepted and its id goes to the register,
while a via transfer's ports are held; without a slot the form that does not wait answers 0, and the other has asked
for one, in the order of requests; a broken rule raises XFER with the lowest byte offset. `xstat` reads a transfer's
status, 0 for an id that names none; `xcancel` ends one that has not ended. Where the rules leave it open, as the
model reads or chooses it: log entries 2, 47 and 89. -/
def Obligations.TransfersAreAccepted : Prop :=
  ∀ (g : Guard) (o : FmtQ) (s : State), Runs s g →
    (∀ r, s.regionOf s.here = some r → s.cur.acqPending = false → (o.ord.getLsbD 1 = true → s.cur.psf = none ∧ s.cur.performed o.sco = true) →
      let readable := fun (a size n : Nat) => ∀ i, i < n → (a + size * i) % size = 0 ∧
        s.curTile.owned s.ctx (a + size * i) size = true ∧ s.curTile.scratchPoison s.ctx (a + size * i) size = false
      let a := (s.getS o.s1).toNat
      readable a 64 1 →
      let v := s.curTile.scratchRead s.ctx a 64
      let d := descOf v
      let b := (s.getS o.s2).toNat
      let os := (List.range d.count1).map fun i => BitVec.ofNat 64 (s.curTile.scratchRead s.ctx (b + 8 * i) 8)
      let forms := fun (i : Instr) (f : XForm) (kind : XKind) (os : List Word) =>
        let broken := lowestBroken (s.brokenFields r f v ++ if f = .gather ∨ f = .scatter then s.brokenOffsets r f v os else [])
        (broken = none → s.slotFree s.here.dieIx (engineOf o) r.number (s.cur.slotOrder (engineOf o)) = true → Completes i s fun t =>
          let p := s.accept s.here.dieIx (engineOf o) s.here s.ctx r kind d os
          t = (if d.vvalid then p.2.modCur fun c => { c with viaPorts := c.viaPorts ||| (1#16 <<< d.vin) ||| (1#16 <<< d.vret) }
            else p.2).writeS o.d p.1 ∧ MemorySame s t) ∧
        (broken = none → s.slotFree s.here.dieIx (engineOf o) r.number (s.cur.slotOrder (engineOf o)) = false →
          (o.m7.getLsbD 0 = true → Completes i s fun t => WroteS s t o.d 0) ∧
          (o.m7.getLsbD 0 = false → Completes i s fun t => t = (s.askSlot (engineOf o)).stall)) ∧
        (s.cur.trapped = false → ∀ off, broken = some off → Completes i s fun t => Trapped s t Cause.xfer 0 (BitVec.ofNat 64 off))
      forms (.xfer g o) .plain .plain [] ∧ forms (.xvia g o) .via .via [] ∧
      (readable b 8 d.count1 → forms (.xgath g o) .gather .gather os ∧ forms (.xscat g o) .scatter .scatter os)) ∧
    (∀ x, s.named (s.getS o.s1) = some x →
      (Completes (.xstat g o) s fun t => WroteS s t o.d x.status) ∧
      (x.ended = true → Completes (.xcancel g o) s fun t => Retired s t) ∧
      (x.ended = false → Completes (.xcancel g o) s fun t => t = (s.endTransfer x .cancelled 0).retire)) ∧
    (s.named (s.getS o.s1) = none →
      (Completes (.xstat g o) s fun t => WroteS s t o.d 0) ∧ (Completes (.xcancel g o) s fun t => Retired s t))

/-- R244: in one cycle of an engine its transfers prepare, in the order of their slack; of those that may issue the one of
least slack, the earliest accepted of equal slack, that has a packet ready issues it, and no other does; then its
beacons' ages grow. While the clock of the die changes the engine does nothing (R426). Where the rules leave it open,
as the model reads or chooses it: log entry 18. -/
def Obligations.EnginesServeTheLeastSlack : Prop :=
  ∀ (d : Fin 8) (e : Fin 64) (s : State),
    let u := (s.candidatesOf d e).foldl (fun s a => s.prepare a.2.id) s
    let offers := fun (x : Transfer) (k : Int) => x ∈ u.xfers ∧ x.die = d ∧ x.engine = e ∧ u.mayIssue x = true ∧ u.slackOf x = some k
    let aged := fun (t : State) => { (if e = 0 then t.modDie d fun x => { x with clock := x.clock + 1 } else t) with
      beacons := t.beacons.map fun b => if b.die = d ∧ b.engine = e then { b with age := b.age + 1 } else b }
    (s.dies[d].clockStopped.isSome = true → Stalls (.enginePacketIssue d e) s) ∧
    (s.dies[d].clockStopped = none → Completes (.enginePacketIssue d e) s fun t =>
      (t = aged u ∧ ∀ x k, offers x k → x.ready k u.nextSeq u.hub.version = none) ∨
      ∃ x k p y, offers x k ∧ x.ready k u.nextSeq u.hub.version = some (p, y) ∧ p.order = u.nextSeq ∧ p.granted = false ∧ p.ver = u.hub.version ∧
        t = aged { u.modXfer y.id fun _ => y with nextSeq := u.nextSeq + 1 } ∧
        ∀ z j, offers z j → j < k ∨ (j = k ∧ z.seq < x.seq) → z.ready j u.nextSeq u.hub.version = none)

/-- R244, R245: of what waits at an arbiter it grants the lowest class first, within class 2 the least slack field, and in
arrival order what is equal; but where a class has waited through 16 grants to other classes, the oldest of the
highest-numbered such class (the reading of log entry 90). Where that is an access that waits at a memory slice, the
slice serves it, and the arbiter grants nothing else till then, as it grants nothing while a packet that it has
granted is still to be served there. Where the rules leave it open, as the model reads or chooses it: log entries 18,
90 and 107. -/
def Obligations.ArbitersGrantInOrder : Prop :=
  ∀ (a : Nat) (s : State),
    let l := if s.serving a then [] else s.claims a
    let starved := fun (c : Nat) => (∃ w ∈ l, w.cls = c) ∧ 16 ≤ (lookupKey (a, c) s.passed).getD 0
    let granted := fun (w : Waiting) => w ∈ l ∧
      ((∀ r, w.claim ≠ .access r) → Happens (.packetArbiterGrant a) s fun t => t = (s.countPassed a w).grant w) ∧
      (∀ r, w.claim = .access r → Stalls (.packetArbiterGrant a) s ∧ 8 ≤ a ∧ s.servedAt (a - 8) r = some (s.countPassed a w))
    (l ≠ [] → (∀ c < 3, ¬ starved c) → ∃ w, granted w ∧
      ∀ v ∈ l, w.cls < v.cls ∨ (w.cls = v.cls ∧ (w.slack < v.slack ∨ (w.slack = v.slack ∧ w.order ≤ v.order)))) ∧
    (∀ c < 3, starved c → (∀ k < 3, c < k → ¬ starved k) → ∃ w, granted w ∧ w.cls = c ∧
      ∀ v ∈ l, v.cls = c → w.order ≤ v.order) ∧
    (∀ w ∈ l, w.cls < 3) ∧
    (l = [] → Stalls (.packetArbiterGrant a) s)

/-- R98, R102, R251, R254-R256: while its region runs an accepted transfer's watch is entered at its counter, which tells
its engine a beacon, unless the counter has no owner (XFER) or its table is full (tried again); a granted write lands
whole in memory or in scratch, a granted read comes back as a response, and a response's bytes are put to use, or with
a parity error end the transfer with POISON, or count as stale where the region is gone; a header with an
uncorrectable error is a region fault of KIND 5; a transfer whose packets have all landed ends DONE, one that has
failed ends in ERROR; a completion entry that waits is appended once its queue has room. R246: after a change of its
inputs an engine looks anew at each of its transfers that is held or may be held, and holds or frees it by its slack
and the region's horizon. Where the rules leave it open, as the model reads or chooses it: log entries 20 and 45. -/
def Obligations.TransfersProgress : Prop :=
  ∀ (id : Word) (s : State) (x : Transfer), s.xferOf id = some x →
    (x.ended = false → s.carried x = true → ∀ i w, (i, w) ∈ [(Instr.watchRegister id, WatchSt.wanted), (.watchRetry id, .refused)] → x.watch = w →
      ∀ t, s.counterTile x = some t →
        let g := x.desc.cg
        let y := s.tile t
        let c := y.counters[g]
        (x.kind ≠ .load → y.cfg.counterOwner[g] = none → Completes i s fun u =>
          u = s.modXfer x.id fun x => { x with failing := some (x.failing.getD Cause.xfer), watch := .none }) ∧
        ((x.kind = .load ∨ y.cfg.counterOwner[g] ≠ none) → 128 ≤ y.watches.length → Completes i s fun u =>
          u = s.modXfer x.id fun x => { x with watch := .refused }) ∧
        ((x.kind = .load ∨ y.cfg.counterOwner[g] ≠ none) → y.watches.length < 128 → Completes i s fun u =>
          (u.tile t).watches = y.watches ++ [⟨g, x.desc.mark, x.id, decide (x.desc.mark.toNat ≤ c.value.toNat), false, false⟩] ∧
          ((u.tile t).counters[g]).value = c.value ∧ (x.die, x.engine) ∈ ((u.tile t).counters[g]).subs ∧
          (∃ b, u.beaconsOut = s.beaconsOut ++ [b] ∧ b.die = x.die ∧ b.engine = x.engine ∧ b.tile = t ∧ b.g = g ∧
            b.value = c.value ∧ b.rate = c.rate) ∧ MemorySame s u)) ∧
    (∀ k p, x.packets[k]? = some p → p.granted = true → (∀ r, s.region x.region = some r → r.gen = x.gen) →
      let gone := fun (s : State) (f : Transfer → Transfer) => s.dropPacket id k f
      (p.kind = .write →
        (∀ tgt m, p.target = some tgt → tgt.isRemote = false → (∀ c ∈ p.cells, s.lineHeld (tgt.plus c.1) 1 = false) →
          s.mem.landCells tgt p.wo p.cells = .ok m → Completes (.transferPacketLand id ⟨k, .clean⟩) s fun u =>
            u = (State.serveDeferred (gone { s with mem := m } fun x => { x with landed := x.landed + p.cells.length })).settleClosing) ∧
        (∀ row col sh off r, p.target = none → p.place = .tile row col sh off → s.region x.region = some r →
          let t := r.tileAt row col
          let y := s.tile t
          let units := if x.desc.src.isTile then 0 else (p.cells.length + 7) / 8 - p.inside
          ((∀ c ∈ p.cells, y.reachable sh c.1 1 = true) → units ≤ s.admits t units → Completes (.transferPacketLand id ⟨k, .clean⟩) s fun u =>
            u = (gone ((s.letIn t units).modTile t fun y => y.scratchWrite (p.cells.map fun c => (y.place (y.halfOf sh) c.1, c.2)))
              fun x => { x with landed := x.landed + p.cells.length }).settleClosing) ∧
          ((∃ c ∈ p.cells, y.reachable sh c.1 1 = false) → Completes (.transferPacketLand id ⟨k, .clean⟩) s fun u =>
            u = (gone s (·.fails Cause.xfer)).settleClosing))) ∧
      (p.kind = .read → ∀ r, s.region x.region = some r →
        (∀ tgt v, p.target = some tgt → tgt.isRemote = false → s.lineHeld tgt p.len = false →
          s.mem.unitRead [(tgt, 0, p.len, p.wo)] = .ok v → Completes (.transferPacketLand id ⟨k, .clean⟩) s fun u => u = s.respondRead id k v) ∧
        (∀ row col sh off, p.target = none → p.place = .tile row col sh off →
          let y := s.tile (r.tileAt row col)
          y.reachable sh p.start p.len = true → y.scratchBadAt (y.halfOf sh) p.start p.len = false →
          Completes (.transferPacketLand id ⟨k, .clean⟩) s fun u => u = s.respondRead id k (y.scratchPlain (y.halfOf sh) p.start p.len))) ∧
      (p.kind = .response → ∀ r, s.region x.region = some r →
        (Completes (.transferPacketLand id ⟨k, .clean⟩) s fun u =>
          u = (gone s fun x => Transfer.drain { x with got := x.got ++ p.cells }).settleClosing) ∧
        Completes (.transferPacketLand id ⟨k, .data⟩) s fun u => u = (gone s (·.fails Cause.poison)).settleClosing) ∧
      (p.kind = .response → s.region x.region = none → Completes (.transferPacketLand id ⟨k, .clean⟩) s fun u =>
        u = ((gone s fun x => x).lateReply x.die x.region x.gen).settleClosing) ∧
      (∀ r, s.standing x.region = some r → r.gen = x.gen → Completes (.transferPacketLand id ⟨k, .header⟩) s fun u =>
        u = ((gone s fun x => x).regionFault x.region ⟨Cause.poison, 5, 0, 0, 0, 0⟩).settleClosing)) ∧
    (x.ended = false → x.slot.isSome = true → x.packets = [] → s.remoteFor id = false →
      (x.failing = none → x.out = [] → x.landed = x.desc.dstBytes → (x.kind = .via → x.viaBack = true) → Completes (.transferDone id) s fun u =>
        u = (s.endTransfer x .done 0).afterEnd x 0) ∧
      (∀ c, x.failing = some c → Completes (.transferError id) s fun u => u = (s.endTransfer x .error c).afterEnd x c)) ∧
    (∀ e, x.action = some e →
      (∀ t k, s.entrySink x = some (t, k) → ((s.tile t).sink k).queue.length < max ((s.tile t).cfg.capacity k) 1 →
        Completes (.completionEntryAppend id) s fun u =>
          u = (s.modTile t (·.modSink k fun q => { q with queue := q.queue ++ [e] })).modXfer id fun x => { x with action := none }) ∧
      (s.entrySink x = none → Completes (.completionEntryAppend id) s fun u =>
        u = (s.stale x.die).modXfer id fun x => { x with action := none })) ∧
    (∀ d e, s.restoreWaits d e = false → Happens (.holdReevaluate d e) s fun u => u = { s with
      xfers := s.xfers.map fun x => if x.die = d ∧ x.engine = e then s.reheld x else x })

/-! Barriers and bales. -/

/-- R319, R324, R328: a barrier instruction's operation goes to the queue of the pool that its handle names, behind those that have
reached it; one from another die waits for an arbiter. Its context waits for the reply; that of `baralloc`, whose operation goes to
the pool of its own die, goes on, with its registers outstanding. `barrive` as a release waits first. -/
def Obligations.BarrierInstructionsGoToTheirPool : Prop :=
  ∀ (g : Guard) (o : FmtQ) (s : State), Runs s g →
    let h := s.getS o.s1
    let sends := fun (i : Instr) (d : Fin 8) (kind : BarKind) (h : Word) (f : Ctx → Ctx) => Completes i s fun t =>
      let key := s.regionKey s.here
      let op := fun (near : Bool) => (⟨s.here, s.ctx, key.1, key.2, kind, h, s.nextSeq, near, s.nextSeq⟩ : BarOp)
      let put := fun (l : List BarOp) =>
        if d = s.here.dieIx then l.filter (·.granted) ++ op true :: (l.filter fun p => !p.granted) else l ++ [op false]
      MemorySame s t ∧ t = State.modCur { s.modDie d (fun x => { x with poolQ := put x.poolQ }) with nextSeq := s.nextSeq + 1 } f
    let goes := fun (i : Instr) (d : Fin 8) (kind : BarKind) => sends i d kind h fun c => { c with wait := .pool }
    let d : Fin 8 := ⟨field h 20 3 % 8, Nat.mod_lt _ (by decide)⟩
    sends (.baralloc g o) s.here.dieIx (.alloc o.d o.s2) 0 (fun c =>
      { c with landing := c.landing ++ (allocRegs o.d o.s2).map fun r => (r, never) }.retire) ∧
    goes (.barfree g o) d .free ∧ goes (.barref g o) d .ref ∧
    goes (.barinit g o) d (.init (s.getS o.s2)) ∧ goes (.barexp g o) d (.exp (s.getS o.s2)) ∧
    ((o.ord.getLsbD 1 = true → s.cur.psf = none ∧ s.cur.performed o.sco = true) → goes (.barrive g o) d (.arrive o.d o.imm)) ∧
    goes (.barwait g o) d (.wait ((s.getS o.s2).setWidth 32)) ∧ goes (.bartest g o) d (.test o.d ((s.getS o.s2).setWidth 32))

/-- R320, R322-R325, R328: a pool with no context waiting performs the first operation of its queue, unless an arrival has
reached it before, on the barrier that its handle names, and the context gets its reply: the barrier changes as the
operation says, its phase completes when it is due, and `barrive`, whose amount is signed, answers the phase to wait
for. A `barwait` whose phase has not been reached waits at the pool. A handle that names no barrier of the context's
region raises BARGEN, an amount outside its range BAROVF; an allocation that finds none free, or its region's 2,048 in
use, answers 0. An operation of another die whose packet's data fail their parity traps POISON and is not performed;
one whose header fails is a region fault (R399). R320, R325, R326: a completed transfer's bytes, and its error if it
is the phase's first, reach the barrier; one whose handle names no barrier is dropped and counted; one of another die
whose packet's data fail their parity brings the error POISON (R399). A phase is complete exactly when EXPECT is at
least 1, ARRIVED equals it and no bytes are due; a phase counts as reached where it lies less than 2^31 phases back,
modulo 2^32. Where the rules leave it open, as the model reads or chooses it: log entries 2, 3, 94 and 111. -/
def Obligations.BarrierPools : Prop :=
  (∀ (d : Fin 8) (s : State) (o : BarOp) (rest : List BarOp), s.dies[d].poolQ = o :: rest → o.granted = true → s.dies[d].poolWaits = [] →
     (∀ a, s.dies[d].arrivals.head? = some a → a.granted = true → o.reached ≤ a.reached) →
     let region := some o.region
     let u := s.modDie d fun x => { x with poolQ := rest, poolWaits := [] }
     let ends := fun (t : State) (x : Barrier) (put : Ctx → Ctx) =>
       t = (u.modDie d fun y => { y.setBarrier (barIndex o.handle) x with poolWaits := [] }).modCtx o.tile o.ctx
         fun c => { put c with wait := .none }.retire
     let performs := Instr.barrierOperation ⟨d, .clean⟩
     let replies := fun (put : Ctx → Ctx) => Completes performs s fun t =>
       t = u.modCtx o.tile o.ctx fun c => { put c with wait := .none }.retire
     let traps := fun (cause : BitVec 8) (info : Word) => Completes performs s fun t =>
       t = u.trapIn o.tile o.ctx cause (u.ctxAt o.tile o.ctx).pc 0 info
     (barDie o.handle = d →
       (∀ b, s.barrierOf o.handle = some b → b.held = region →
         (o.kind = .free → b.ref = 1 → Completes performs s fun t => ends t b.freed id) ∧
         (o.kind = .free → b.ref ≠ 1 → Completes performs s fun t => ends t { b with ref := b.ref - 1 }.settle id) ∧
         (o.kind = .ref → (b.ref = 65535 → traps Cause.barovf o.handle) ∧
           (b.ref ≠ 65535 → Completes performs s fun t => ends t { b with ref := b.ref + 1 }.settle id)) ∧
         (∀ n, o.kind = .init n →
           (n = 0 ∨ 65535 < n.toNat ∨ b.arrived ≠ 0 ∨ b.bytes ≠ 0 → traps Cause.barovf o.handle) ∧
           (n ≠ 0 → n.toNat ≤ 65535 → b.arrived = 0 → b.bytes = 0 → Completes performs s fun t =>
             ends t { b with expect := n.setWidth 16, err := 0, errId := 0 }.settle id)) ∧
         (∀ r n, o.kind = .arrive r n →
           let sum := (b.arrived.toNat : Int) + n.toInt
           (b.expect = 0 ∨ (b.expect.toNat : Int) < sum → traps Cause.barovf o.handle) ∧
           (∀ a : BitVec 16, b.expect ≠ 0 → sum ≤ b.expect.toNat → (a.toNat : Int) = sum → Completes performs s fun t =>
             ends t { b with arrived := a }.settle (·.setS r ((b.phase + 1).zeroExtend 64))) ∧
           (b.expect ≠ 0 → sum < 0 → Completes performs s fun t => ∃ a : BitVec 16,
             t.dies[d].barrier (barIndex o.handle) = { b with arrived := a }.settle ∧ t.mem = s.mem)) ∧
         (∀ n, o.kind = .exp n →
           (2 ^ 47 - 1 < b.bytes + n.toNat → traps Cause.barovf o.handle) ∧
           (b.bytes + n.toNat ≤ 2 ^ 47 - 1 → Completes performs s fun t =>
             ends t { b with bytes := b.bytes + n.toNat }.settle id)) ∧
         (∀ p, o.kind = .wait p →
           (b.reached p = true → b.err = 0 → replies id) ∧ (b.reached p = true → b.err ≠ 0 → traps b.err b.errId) ∧
           (b.reached p = false → Completes performs s fun t => t = u.modDie d fun x => { x with poolWaits := [o] })) ∧
         (∀ r p, o.kind = .test r p → (b.reached p = true → b.err = 0 → replies (·.setS r 1)) ∧
           (b.reached p = true → b.err ≠ 0 → traps b.err b.errId) ∧ (b.reached p = false → replies (·.setS r 0)))) ∧
       ((∀ r p, o.kind ≠ .alloc r p) → (s.barrierOf o.handle = none ∨ ∃ b, s.barrierOf o.handle = some b ∧ b.held ≠ region) →
         traps Cause.bargen o.handle)) ∧
     (∀ r p, o.kind = .alloc r p →
       s.regionKey o.tile = (o.region, o.gen) →
       let mine := s.dies[d].barriers.countP fun b => b.2.held.isSome && b.2.held == region
       let gets := fun (h ok : Word) (c : Ctx) =>
         let c := (c.setS r h).setP p.toNat ok
         { c with landing := c.landing.filter fun l => !(l.2 == never && (allocRegs r p).contains l.1) }
       ((∀ k < 4096, (s.dies[d].barrier k).held ≠ none) ∨ 2048 ≤ mine → Completes performs s fun t =>
         t = u.modCtx o.tile o.ctx (gets 0 0)) ∧
       (∀ k0 < 4096, (s.dies[d].barrier k0).held = none → mine < 2048 → Completes performs s fun t =>
         ∃ k < 4096, (s.dies[d].barrier k).held = none ∧
           t.dies[d].barrier k = { Barrier.free with held := region, gen := (s.dies[d].barrier k).gen, ref := 1 } ∧
           t.ctxAt o.tile o.ctx = gets (BitVec.ofNat 64 (d.val * 2 ^ 20 + k * 2 ^ 8 + (s.dies[d].barrier k).gen.toNat)) Word.ones
             (s.ctxAt o.tile o.ctx))) ∧
     (o.tile.dieIx ≠ d →
       ((∀ r p, o.kind ≠ .alloc r p) → Completes (.barrierOperation ⟨d, .data⟩) s fun t => ∃ info,
         t = State.trapIn { u with frees := s.frees + 1 } o.tile o.ctx Cause.poison (u.ctxAt o.tile o.ctx).pc 0 info) ∧
       Completes (.barrierOperation ⟨d, .header⟩) s fun t => t = u.regionFault o.region ⟨Cause.poison, 5, 0, 0, 0, 0⟩)) ∧
  ((∀ (d : Fin 8) (s : State) (a : Arrival) (rest : List Arrival) (f : PacketFault),
     s.dies[d].arrivals = a :: rest → a.granted = true → s.dies[d].poolWaits = [] →
     (∀ o, s.dies[d].poolQ.head? = some o → o.granted = true → a.reached < o.reached) → f ≠ .header →
     let cause := if f = .data ∧ a.engine.1 ≠ d ∧ a.cause = 0 then Cause.poison else a.cause
     let u := s.modDie d fun x => { x with arrivals := rest }
     (s.barrierOf a.handle = none → Happens (.transferArrival ⟨d, f⟩) s fun t => t = u.stale d) ∧
     (∀ b, s.barrierOf a.handle = some b → barDie a.handle = d → -(2 ^ 47) ≤ b.bytes - a.bytes → Happens (.transferArrival ⟨d, f⟩) s fun t =>
       t.dies[d].barrier (barIndex a.handle) = { b with
         bytes := b.bytes - a.bytes
         err := if cause ≠ 0 ∧ b.err = 0 then cause else b.err
         errId := if cause ≠ 0 ∧ b.err = 0 then a.id else b.errId }.settle ∧
       t.dies[d].arrivals = rest ∧ t.tiles = s.tiles ∧ t.mem = s.mem)) ∧
   (∀ b : Barrier, (1 ≤ b.expect.toNat ∧ b.arrived = b.expect ∧ b.bytes ≤ 0 → b.settle.phase = b.phase + 1 ∧ b.settle.arrived = 0 ∧
       b.settle.bytes = 0 ∧ (b.bytes < 0 → b.err = 0 → b.settle.err = Cause.barovf)) ∧
     (¬ (1 ≤ b.expect.toNat ∧ b.arrived = b.expect ∧ b.bytes ≤ 0) → b.settle = b) ∧
     ∀ p, b.reached p = true ↔ (b.phase - p).toNat < 2 ^ 31))

/-- R364, R365, R368, R369, R371, R372, R377: `blopen` gives a free record to the region, or 0 with its 64 in use;
`blseal` seals an open bale; `blcommit` of a sealed bale asks for the commit and waits, and answers a decision made;
`blabort` aborts an undecided bale; `blwait` waits for the end, `blstat` reads the status; a tagged store of an open
bale enters the global queue. A handle that names no record, or one in another state, raises BALE; a tagged store at
an address that is no multiple of its size raises ALIGN, one beyond the address space raises XLATE and dooms its bale.
Where the rules leave it open, as the model reads or chooses it: log entries 2 and 40. -/
def Obligations.BaleInstructions : Prop :=
  (∀ (g : Guard) (o : FmtQ) (s : State), Runs s g →
    let h := s.getS o.s1
    let k := baleIndex h
    let named := s.baleFor h (s.regionOf s.here)
    (∀ r, s.regionOf s.here = some r →
      let mine := s.hub.bales.countP fun p => p.2.st.isSome && p.2.region == r.number && p.2.rgen == r.gen
      ((∀ k < 256, (s.hub.bale k).st ≠ none) ∨ 64 ≤ mine → Completes (.blopen g o) s fun t =>
        t = s.modCur fun c => ((c.setS o.d 0).setP o.s2.toNat 0).retire) ∧
      (∀ k0 < 256, (s.hub.bale k0).st = none → mine < 64 → Completes (.blopen g o) s fun t => ∃ k < 256, (s.hub.bale k).st = none ∧
        t.hub.bale k = { Bale.free with gen := (s.hub.bale k).gen, st := some .opened, region := r.number, rgen := r.gen } ∧
        t.cur = ((s.cur.setS o.d (baleHandle s.hub.node k (s.hub.bale k).gen)).setP o.s2.toNat Word.ones).retire ∧ MemorySame s t)) ∧
    (∀ b, named = some b →
      (b.st = some .opened → Completes (.blseal g o) s fun t => t =
        State.retire { s with hub := s.hub.modBale k fun b => { b with st := some .sealed } }) ∧
      (s.cur.psf = none → b.st = some .sealed → s.cur.performed .fab = true → Completes (.blcommit g o) s fun t => t =
        State.modCur { s with hub := s.hub.modBale k fun b => { b with commitAsked := true } } fun c => { c with wait := .commit o.d h }) ∧
      (s.cur.psf = none → b.st = some .aborting ∨ b.st = some .aborted → s.cur.performed .fab = true →
        Completes (.blcommit g o) s fun t => WroteS s t o.d 0) ∧
      (s.cur.psf = none → b.st = some .committing ∨ b.st = some .committed ∨ b.st = some .peerLost → s.cur.performed .fab = true →
        Completes (.blcommit g o) s fun t => WroteS s t o.d 1) ∧
      (b.st = some .opened ∨ b.st = some .sealed → Completes (.blabort g o) s fun t => t = (s.decideAbort k 8 0).retire) ∧
      (b.st ≠ some .opened → b.st ≠ some .sealed → Completes (.blabort g o) s fun t => Retired s t) ∧
      (Completes (.blwait g o) s fun t => t = (s.modCur fun c => { c with wait := .bale o.d h }).wakeBale k) ∧
      (Completes (.blstat g o) s fun t => WroteS s t o.d b.status)) ∧
    (s.cur.trapped = false →
      let traps := fun (i : Instr) => Completes i s fun t => Trapped s t Cause.bale 0 h
      (named = none → traps (.blseal g o) ∧ traps (.blabort g o) ∧ traps (.blwait g o) ∧ traps (.blstat g o) ∧
        (s.cur.psf = none → traps (.blcommit g o))) ∧
      (∀ b, named = some b → (b.st ≠ some .opened → traps (.blseal g o)) ∧
        (b.st = some .opened → s.cur.psf = none → traps (.blcommit g o))))) ∧
  (∀ (g : Guard) (o : FmtM) (s : State), Runs s g →
    let h := s.getS o.x
    let va := s.cur.baseAddr o
    let stores := fun (i : Instr) (n : Nat) (data : BitVec 512) =>
      (∀ b, s.baleFor h (s.regionOf s.here) = some b → b.st = some .opened → va.toNat % n = 0 → va.toNat < 2 ^ 56 → s.cur.gq.length < 16 →
        s.cur.acqPending = false → Completes i s fun t =>
          let a : GAccess := ⟨s.cur.nextAcc, .tagged h n, 0, va.toNat, data, 0, 0, .tile, s.cur.pc, s.cur.mode == .user, .queued, 0, (0, 0), false⟩
          t = State.translateQueue 17 (s.modCur fun c =>
            { c with gq := c.gq ++ [a], nextAcc := c.nextAcc + 1, wait := Wait.access a.id }) s.here s.ctx) ∧
      (s.baleFor h (s.regionOf s.here) = none → s.cur.trapped = false → Completes i s fun t => Trapped s t Cause.bale 0 h) ∧
      (∀ b, s.baleFor h (s.regionOf s.here) = some b → b.st = some .opened → va.toNat % n ≠ 0 → s.cur.trapped = false →
        Completes i s fun t => Trapped s t Cause.align va 0) ∧
      (∀ b, s.baleFor h (s.regionOf s.here) = some b → b.st = some .opened → va.toNat % n = 0 → 2 ^ 56 ≤ va.toNat → s.cur.trapped = false →
        Completes i s fun t => ∃ level, level < 16 ∧
          Trapped { s.doom s.here h with frees := s.frees + 1 } t Cause.xlate va (BitVec.ofNat 64 (2 * 2 ^ 12 + level * 2 ^ 8 + 2)))
    stores (.blst g o) (tyBytes o.ty) ((s.getS o.d).zeroExtend 512) ∧ stores (.blvst g o) 64 (s.getV o.d))

/-- R366, R369, R371, R372, R374, R399: the loft of a package takes a tagged store, or marks its bale when it is full; one
whose data come with an error it keeps as such, and one whose header fails ends the region of this package's bale, or
marks a peer's with POISON; a SEAL whose count its stores match makes the bale prepared and is answered READY; a
decision is applied: on a commit every store reaches memory in order, on an abort none does, and the bale leaves the
loft. R365, R371, R372: the coordinator sends a sealed bale's SEALs once its stores to this package have reached the
loft; it counts the answers, and an answer that refuses aborts the bale, as does a store that failed or a destination
that was lost; it commits when that is asked for, no store failed and every destination has answered READY; every
destination's DONE, the last of which ends the bale, is counted once. Where the rules leave it open, as the model
reads or chooses it: log entries 52, 92, 111 and 123. -/
def Obligations.LoftsAndCoordinators : Prop :=
  (∀ (k : Nat) (s : State) (hub : Hub) (m : LoftMsg), s.hub.loftTake k = some (m, hub) →
     (∀ c h who tgt n data page, m = .store c h who tgt n data none page →
       ∀ b, (hub.loftBale c h).getD ⟨c, h, [], none, false, []⟩ = b → b.mark = none →
       let full := (hub.loftBale c h = none ∧ 1024 ≤ hub.loftIndex) ∨ 2 ^ 31 < hub.loftUsed + loftBytes n
       (∀ f, f ≠ .header → (full → Happens (.loftStoreArrive ⟨k, f⟩) s fun t => t = { s with hub := hub.putLoft { b with mark := some 4 } }) ∧
         let kept := { b with stores := b.stores ++ [(tgt, n, data, f == .data)], pages := (page.toList ++ b.pages).dedup }
         (¬ full → Happens (.loftStoreArrive ⟨k, f⟩) s fun t => t = { s with hub := hub.putLoft kept })) ∧
       (c ≠ s.hub.node → Happens (.loftStoreArrive ⟨k, .header⟩) s fun t => t = { s with hub := hub.putLoft { b with mark := some 10 } })) ∧
     (∀ h who tgt n data refuse page, m = .store s.hub.node h who tgt n data refuse page →
       let record := s.hub.bale (baleIndex h)
       (record.st.isSome = true → bits h 0 8 = record.gen → Completes (.loftStoreArrive ⟨k, .header⟩) s fun t =>
         t = State.regionFault { s with hub := hub } record.region ⟨Cause.poison, 5, 0, 0, 0, 0⟩)) ∧
     (∀ c h count, m = .seal c h count →
       (∀ b, hub.loftBale c h = some b → b.mark = none → count = b.stores.length → Completes (.sealArrive k) s fun t =>
         t = State.loftReply { s with hub := hub.putLoft { b with prepared := true } } c h .ready) ∧
       (∀ b, hub.loftBale c h = some b → b.mark = none → count ≠ b.stores.length → Completes (.sealArrive k) s fun t =>
         t = State.loftReply { s with hub := hub } c h (.refuse 5)) ∧
       (∀ b cause, hub.loftBale c h = some b → b.mark = some cause → Completes (.sealArrive k) s fun t =>
         t = State.loftReply { s with hub := hub } c h (.refuse cause)) ∧
       (hub.loftBale c h = none → Completes (.sealArrive k) s fun t =>
         t = State.loftReply { s with hub := hub } c h (if count = 0 then .ready else .refuse 5))) ∧
     (∀ c h commit b, m = .decision c h commit → hub.loftBale c h = some b → Completes (.baleDecisionApply k) s fun t =>
       ∃ u, t = (if c = s.hub.node then { u with hub := { u.hub with baleDones := u.hub.baleDones ++ [h] } } else u.tell (.baleDone c h)) ∧
         u = State.serveDeferred { s with
           mem := if commit then b.stores.foldl (fun m p => m.storeAt p.1 p.2.1 p.2.2.1.toNat p.2.2.2) s.mem else s.mem
           hub := Hub.pruneBales { hub with loft := hub.loft.filter fun e => !(e.coord == c && e.handle == h) } })) ∧
  (∀ (h : Word) (s : State),
     let k := baleIndex h
     let b := s.hub.bale k
     h = baleHandle s.hub.node k b.gen →
     (b.st = some .sealed → b.sealsSent = false →
       (∀ j g who tgt n data why page, (j, LoftMsg.store s.hub.node g who tgt n data why page) ∈ s.hub.loftIn → g ≠ h) →
       let sent := b.counts.foldl (fun s p => if p.1 = s.hub.node then s.loftPut (.seal s.hub.node h p.2) else s.tell (.seal p.1 h p.2))
         { s with hub := s.hub.modBale k fun b => { b with sealsSent := true } }
       (b.doom = false → b.lost = [] → Completes (.sealSend h) s fun t => t = sent) ∧
       (b.doom = true → b.lost = [] → Completes (.sealSend h) s fun t => t = sent.decideAbort k 7 0) ∧
       (∀ node rest lost, b.lost = lost → lost = node :: rest → Completes (.sealSend h) s fun t =>
         t = sent.decideAbort k 6 node)) ∧
     (∀ node r, b.st.isSome = true → b.sealsSent = true ∨ r = .lost →
       (node ≠ s.hub.node → Completes (.baleReply h node r) s fun t => t = s.takeAnswer k node r) ∧
       (node = s.hub.node → (h, r) ∈ s.hub.baleAnswers → Completes (.baleReply h node r) s fun t =>
         t = State.takeAnswer { s with hub := { s.hub with baleAnswers := s.hub.baleAnswers.erase (h, r) } } k node r)) ∧
     (∀ node, b.st = some .sealed → (∃ p ∈ b.counts, p.1 = node) →
       (s.takeAnswer k node .ready = { s with hub := s.hub.modBale k fun b =>
         { b with ready := if b.ready.contains node then b.ready else b.ready ++ [node] } }) ∧
       ∀ cause, s.takeAnswer k node (.refuse cause) = s.decideAbort k cause node) ∧
     (b.st = some .sealed → b.sealsSent = true → b.commitAsked = true → b.doom = false → (∀ p ∈ b.counts, p.1 ∈ b.ready) →
       Completes (.baleCommitDecision h) s fun t =>
         let u := { s with hub := s.hub.modBale k fun b => { b with st := some .committing } }
         t = ((u.sendDecision k true).wakeCommit h true).settleBale k) ∧
     (b.doom = true ∨ b.commitAsked = false ∨ (∃ p ∈ b.counts, p.1 ∉ b.ready) → Stalls (.baleCommitDecision h) s) ∧
     (∀ node, b.st = some .committing ∨ b.st = some .aborting → (∃ p ∈ b.counts, p.1 = node) → node ∉ b.done →
       (node ≠ s.hub.node → Completes (.baleDoneReply h node) s fun t =>
         t = State.settleBale { s with hub := s.hub.modBale k fun b => { b with done := b.done ++ [node] } } k) ∧
       (node = s.hub.node → h ∈ s.hub.baleDones → Completes (.baleDoneReply h node) s fun t =>
         let hub : Hub := { s.hub with baleDones := s.hub.baleDones.erase h }
         t = State.settleBale { s with hub := hub.modBale k fun b => { b with done := b.done ++ [node] } } k)))

/-! System registers, traps, and the instructions of reel mode. -/

/-- R379, R380: `sysrd` reads every listed register, 0x11 to 0x14 (cause, epc, eva, einfo) only in supervisor mode; `syswr` writes a
register that may be written (user mode evmask and evpend alone; none of 0x00 to 0x05, 0x16, 0x17, 0x20, 0x21 and 0x30), where every bit
that its layout keeps zero is zero, and changes the fields that may be written: of sys.status PMODE and TRAP, of sys.cause, sys.epc and
sys.hvec their 8 and 11 bits, sys.eva and sys.einfo whole, sys.evmask.LATE, sys.evpend.LATE cleared by a 1, of sys.dbg BRKHALT and STEP,
sys.horizon for the region and sys.discard for the tile. A user's access to what is the supervisor's raises PRIV, any other that
fails raises ILL. -/
def Obligations.SystemRegistersReadAndWrite : Prop :=
  ∀ (g : Guard) (o : FmtS) (s : State), Runs s g →
    let n := o.sreg.toNat
    let v := s.getS o.s1
    let c := s.cur
    let listed := n ∈ [0, 1, 2, 3, 4, 5, 0x10, 0x11, 0x12, 0x13, 0x14, 0x15, 0x16, 0x17, 0x20, 0x21, 0x22, 0x23, 0x24, 0x25, 0x30, 0x40]
    let fixed := n ∈ [0, 1, 2, 3, 4, 5, 0x16, 0x17, 0x20, 0x21, 0x30]
    let formed := (n = 0x10 → v.toNat < 16) ∧ (n = 0x11 → v.toNat < 256) ∧ (n = 0x12 ∨ n = 0x15 → v.toNat < 2048) ∧
      (n = 0x22 → v.toNat < 2) ∧ (n = 0x23 → v.toNat < 4) ∧ (n = 0x24 → v.toNat < 2 ^ 32) ∧
      (n = 0x40 → v.toNat < 2 ^ 27 ∧ v.toNat / 4 % 64 = 0)
    let hidden := 0x11 ≤ n ∧ n ≤ 0x14 ∧ c.mode = .user
    let mine := n = 0x22 ∨ n = 0x23 ∨ c.mode = .supervisor
    let after : Ctx :=
      if n = 0x10 then { c with pmode := if v.getLsbD 1 then .supervisor else .user, trapped := v.getLsbD 2 }
      else if n = 0x11 then { c with cause := v.truncate 8 } else if n = 0x12 then { c with epc := v.truncate 11 }
      else if n = 0x13 then { c with eva := v } else if n = 0x14 then { c with einfo := v }
      else if n = 0x15 then { c with hvec := v.truncate 11 } else if n = 0x22 then { c with evmask := v.getLsbD 0 }
      else if n = 0x23 then { c with evLate := c.evLate && !v.getLsbD 0 }
      else { c with brkHalt := v.getLsbD 0, dbgStep := v.getLsbD 1 }
    (listed ↔ s.readSys s.here s.ctx n ≠ none) ∧
    (∀ w, s.readSys s.here s.ctx n = some w → ¬ hidden → Completes (.sysrd g o) s fun t => WroteS s t o.d w) ∧
    (∀ i ∈ [Instr.syswr g o, .horizonWrite g o, .evpendWrite g o],
      (mine → listed → ¬ fixed → formed →
        (n ≠ 0x24 → n ≠ 0x25 → Completes i s fun t => t.cur = after.retire ∧ OnlyContext s t) ∧
        (n = 0x24 → Completes i s fun t => t = (match s.regionOf s.here with
          | some r => s.modRegion r.number fun r => { r with horizon := v.truncate 32 }
          | none => s).retire ∧ MemorySame s t) ∧
        (n = 0x25 → Completes i s fun t => TileStep s t fun x => { x with discard := v })) ∧
      (c.trapped = false → ¬ mine → Completes i s fun t => Trapped s t Cause.priv 0 s.curWord) ∧
      (c.trapped = false → mine → fixed ∨ ¬ listed ∨ ¬ formed → Completes i s fun t => Trapped s t Cause.ill 0 s.curWord)) ∧
    (c.trapped = false → hidden → Completes (.sysrd g o) s fun t => Trapped s t Cause.priv 0 s.curWord) ∧
    (c.trapped = false → ¬ hidden → ¬ listed → Completes (.sysrd g o) s fun t => Trapped s t Cause.ill 0 s.curWord) ∧
    (s.readSys s.here s.ctx 0x11 = some (c.cause.zeroExtend 64) ∧ s.readSys s.here s.ctx 0x12 = some (c.epc.zeroExtend 64) ∧
      s.readSys s.here s.ctx 0x13 = some c.eva ∧ s.readSys s.here s.ctx 0x14 = some c.einfo ∧
      s.readSys s.here s.ctx 0x15 = some (c.hvec.zeroExtend 64) ∧ s.readSys s.here s.ctx 0x20 = some s.curTile.cycle ∧
      s.readSys s.here s.ctx 0x21 = some c.retired ∧ s.readSys s.here s.ctx 0x25 = some s.curTile.discard)

/-- R381, R382, R384, R386, R54: `trap`, `ebrk` without BRKHALT, a pending LATE that is not masked, and a word that does
not decode enter the handler: cause, the saved index (for `trap` the next one) and mode, the information, supervisor
mode, and the handler's index. A trap met while one is being handled is an unrecoverable fault of the region, KIND 2,
with the cause and values of that trap (R387). With BRKHALT 1 `ebrk` halts its context once its writes have landed,
and retires. R289: a pending store fault is taken as a trap, instead of the effect of the instruction, by the next
`park`, fence, `agrun`, `blcommit` or `scroll`, and by the next access with ORD 10 or 11, `.rel` send, transfer or
`barrive`; sys.epc holds that instruction's index, and the fault is pending no more. Where the rules leave it open, as
the model reads or chooses it: log entries 35 and 39. -/
def Obligations.TrapsEnterTheHandler : Prop :=
  ((∀ (s : State) (cause : BitVec 8) (eva info : Word), s.cur.trapped = true → ∀ r, s.regionOf s.here = some r →
     s.trapAt eva cause info = s.regionFault r.number ⟨cause, 2, placeWord (r.relative s.here).1 (r.relative s.here).2 s.ctx.val 0, info,
       s.cur.pc.zeroExtend 64, s.curTile.cycle⟩) ∧
   ∀ (g : Guard) (o : FmtS) (s : State), s.cur.trapped = false →
     (Runs s g → Completes (.trap g o) s fun t => t.cur = { s.cur with
       cause := Cause.trap, epc := s.cur.pc + 1, eva := 0, einfo := o.sreg.zeroExtend 64, pmode := s.cur.mode
       mode := .supervisor, trapped := true, pc := s.cur.hvec, wait := .none } ∧ OnlyContext s t) ∧
     (s.cur.brkHalt = false → s.cur.guardOn g = true → Completes (.ebrk g o) s fun t =>
       Trapped s t Cause.ebrk 0 (o.sreg.zeroExtend 64)) ∧
     (s.cur.brkHalt = true → Runs s g → (∀ p ∈ s.cur.landing, p.2 ≤ s.curTile.cycle.toNat) → Completes (.ebrk g o) s fun t =>
       t.cur = (s.cur.retire).halt 2 s.cur.pc ∧ OnlyContext s t) ∧
     (s.cur.evLate = true → s.cur.evmask = true → Completes .lateTrap s fun t =>
       Trapped s t Cause.late 0 (BitVec.ofNat 64 s.cur.events.length)) ∧
     (∀ w, s.curTile.storeBad.contains s.cur.pc.toNat = true → Completes (.illegalWord w) s fun t =>
       Trapped s t Cause.poison 0 (s.cur.pc.zeroExtend 64)) ∧
     (∀ w, s.curTile.storeBad.contains s.cur.pc.toNat = false →
       (majOf w = 0 → Completes (.illegalWord w) s fun t => Trapped s t Cause.zero 0 w) ∧
       (majOf w ≠ 0 → Completes (.illegalWord w) s fun t => Trapped s t Cause.ill 0 w))) ∧
  (∀ (g : Guard) (b : FmtB) (m : FmtM) (q : FmtQ) (s : State) (f : StoreFault), Runs s g → s.cur.psf = some f → s.cur.trapped = false →
     let takes := fun (i : Instr) => Completes i s fun t => Trapped (s.modCur fun c => { c with psf := none }) t f.cause f.va f.info
     takes (.park g b) ∧ (∀ i ∈ [Instr.fence g m, .fencex g m, .agrun g q, .blcommit g q, .scroll g q], takes i) ∧
     (m.ord.getLsbD 1 = true →
       (∀ i ∈ [Instr.st g m, .vst g m, .vstx g m, .vsts g m, .gst g m, .gvst g m, .gstw g m, .amoadd g m,
         .amofadd g m, .amomin g m, .amomax g m, .amominu g m, .amomaxu g m, .amoand g m, .amoor g m, .amoxor g m, .amoswap g m, .amocas g m, .amocall g m], takes i) ∧
       (s.cur.mode = .supervisor → takes (.pclr g m))) ∧
     (q.ord.getLsbD 1 = true →
       ∀ i ∈ [Instr.send g q, .vsend g q, .tsend g q, .xfer g q, .xvia g q, .xgath g q, .xscat g q, .barrive g q], takes i))

/-- R383: `eret`, FN 0x03 of major 0xC0, in supervisor mode goes on at the saved index in the saved mode, no longer in a trap, and
retires, and touches no memory; in user mode it raises ILL, with the sys.einfo left open. -/
def Obligations.EretReturns : Prop :=
  ∀ (g : Guard) (o : FmtS) (s : State), s.cur.guardOn g = true →
    (s.cur.mode = .supervisor → Completes (.eret g o) s fun t =>
      t.cur = { s.cur with pc := s.cur.epc, mode := s.cur.pmode, trapped := false, retired := s.cur.retired + 1 } ∧ OnlyContext s t) ∧
    (s.cur.mode = .user → s.cur.trapped = false → Completes (.eret g o) s fun t =>
      ∃ info, Trapped { s with frees := s.frees + 1 } t Cause.ill 0 info) ∧
    encode (.eret g ⟨0, 0, 0⟩) = some (0xC000C00000000000#64 ||| g.g.zeroExtend 64 <<< 53 ||| (BitVec.ofBool g.n).zeroExtend 64 <<< 52)

/-- R385: `wfe` retires when an event that S1 selects is pending, or when it selects none, and changes nothing; otherwise its context
is not eligible: nothing happens. Bits of S1 above the two do not matter, nor does another context's record. -/
def Obligations.WfeWaitsForItsEvents : Prop :=
  ∀ (g : Guard) (o : FmtS) (s : State), Runs s g →
    let m := s.getS o.s1 &&& 3
    (m = 0 ∨ s.cur.evpend &&& m ≠ 0 → Completes (.wfe g o) s fun t => Retired s t) ∧
    (m ≠ 0 → s.cur.evpend &&& m = 0 → Stalls (.wfe g o) s) ∧
    encode (.wfe g ⟨0, o.s1, 0⟩) = some (0xC001400000000000#64 ||| g.g.zeroExtend 64 <<< 53 ||| (BitVec.ofBool g.n).zeroExtend 64 <<< 52 |||
      o.s1.zeroExtend 64 <<< 36)

/-- R397, R398: `chalt` halts its context after its writes have landed; `cresume` resumes a context of the tile; `tlbinv` begins an
invalidation for which its context waits. -/
def Obligations.HaltsAndInvalidations : Prop :=
  ∀ (g : Guard) (o : FmtS) (s : State), Runs s g → s.cur.mode = .supervisor →
    ((∀ p ∈ s.cur.landing, p.2 ≤ s.curTile.cycle.toNat) → Completes (.chalt g o) s fun t =>
      t.cur = (s.cur.retire).halt 1 s.cur.pc ∧ OnlyContext s t) ∧
    (Completes (.cresume g o) s fun t =>
      t = (s.modCtx s.here ⟨(s.getS o.s1).toNat % 4, Nat.mod_lt _ (by decide)⟩ Ctx.resume).retire ∧ MemorySame s t) ∧
    (Completes (.tlbinv g o) s fun t =>
      let r := tlbRange (o.sreg.toNat % 4) (field (s.getS o.s1) 0 56)
      let p := s.invalidate (s.asidOf s.here) r.1 r.2 none
      t = p.2.modCur fun c => { c with wait := .inval p.1 })

/-- R356-R359: `scroll` with a well-formed descriptor and no band in the way starts its region's reel at once, whatever
its context has under way, and notes the context's accesses so far, which the feeder's reads follow; `scroll.q` reads
the trains asked for, the trains sent and the stage; `stsave` and `stload` in a band tile begin a copy of the stage's
declared ranges, and raise ILL elsewhere; `cfgw` sends 32 bytes of scratch as CFG entries; `cfgswap` in a tile that
does nothing else exchanges the two copies of its settings, where the region's circuits and trees are in order with
those that come into use, and parks its context; in a band tile it raises ILL. No rule gives the sys.einfo of these
ILL. Where the rules leave it open, as the model reads or chooses it: log entries 3, 53, 55, 97, 113, 114 and 120. -/
def Obligations.ReelInstructions : Prop :=
  ∀ (g : Guard) (o : FmtQ) (s : State), Runs s g →
    (∀ r, s.regionOf s.here = some r → s.cur.psf = none →
      let v := (s.getS o.s2).toNat
      let b := natField v 13 6
      let h := natField v 7 6
      let w := natField v 0 7
      (s.getS o.s1).toNat % 64 = 0 → natField v 52 12 = 0 → natField v 19 13 = 0 → natField v 32 20 ≠ 0 → r.inBand b h w s.here = false →
      r.reel = none → Completes (.scroll g o) s fun t => t = s.startReel r
        { descriptor := (s.getS o.s1).toNat, laid := false, skeins := 0, stateBase := 0, trainVa := 0, tstride := 0, stages := 0, tstate := 0
          trainBytes := 0, waveBytes := 0, engine := 0, actr := 0, arcs := [], b := b, h := h, w := w, trains := natField v 32 20
          issuer := (r.relative s.here, s.ctx, s.cur.nextAcc), heldSwap := [], train := 0, trainPos := 0, trainTail := 0, entryCredits := 0 }) ∧
    (∀ r f, s.regionOf s.here = some r → r.reel = some f → Completes (.scrollQ g o) s fun t => WroteS s t o.d
      (BitVec.ofNat 64 (f.trains * 2 ^ 44 + f.train * 2 ^ 24 + (s.curTile.reel.bind (·.stage)).getD 0x1FFFFF))) ∧
    (∀ b r f, s.curTile.reel = some b → s.regionOf s.here = some r → r.reel = some f →
      let pieces := match b.stage with
        | some st => statePieces (f.stateAt b st) b.ranges
        | none => []
      (s.cur.performed .tile = true → Completes (.stsave g o) s fun t =>
        t = (s.modCur fun c => { c with wait := .copy o.d true pieces none 0 }).copyStep s.here s.ctx) ∧
      (Completes (.stload g o) s fun t =>
        t = (s.modCur fun c => { c with wait := .copy o.d false pieces none 0 }).copyStep s.here s.ctx)) ∧
    (s.curTile.reel = none → s.cur.trapped = false →
      ∀ i ∈ [Instr.stsave g o, .stload g o], Completes i s fun t => ∃ info, Trapped { s with frees := s.frees + 1 } t Cause.ill 0 info) ∧
    (s.cur.mode = .supervisor →
      (∀ e room b cap, s.cur.port o.port = .output e → s.writePort s.here s.ctx o.port = some (room, b, cap) →
        let a := (s.getS o.s1).toNat
        a % 32 = 0 → s.curTile.owned s.ctx a 32 = true → s.curTile.scratchPoison s.ctx a 32 = false →
        s.cur.acqPending = false → s.cur.viaHeld o.port = false → s.curTile.forwardPort s.ctx o.port = false →
        s.curTile.drainPort s.ctx o.port = false → 32 / b ≤ room → Completes (.cfgw g o) s fun t =>
          t = (s.putPort s.here s.ctx o.port ((List.range (32 / b)).map fun i =>
            (BitVec.ofNat 256 (natField (s.curTile.scratchRead s.ctx a 32) (8 * b * i) (8 * b)), 7))).retire) ∧
      (s.curTile.reel = none → (∀ k : Fin 4, k = s.ctx ∨ (s.curTile.ctxs[k]).run = .parked ∨ (s.curTile.ctxs[k]).run = .disabled) →
        s.nothingOut s.here = true → s.curTile.drained = true → s.swapTaken s.here = true → Completes (.cfgswap g o) s fun t =>
          t.curTile.cfg = s.curTile.cfgShadow.unpaired ∧ t.curTile.cfgShadow = s.curTile.cfg.unpaired ∧
          t.curTile.store = s.curTile.storeShadow ∧ t.curTile.storeShadow = s.curTile.store ∧
          t.cur.run = .parked ∧ t.cur.pc = s.cur.pc ∧ t.cur.retired = s.cur.retired + 1 ∧ t.curTile.scratch = s.curTile.scratch) ∧
      (s.curTile.reel ≠ none → s.cur.trapped = false → Completes (.cfgswap g o) s fun t =>
        ∃ info, Trapped { s with frees := s.frees + 1 } t Cause.ill 0 info))

/-- R340, R344-R351: the feeder of a running region lays the reel, whose fields are the descriptor's, with 15 entry
credits and each circuit's capacity as credits of its source, or goes on with a tile's load: it begins one of the
stage due, which changes no copy in use, or has the next segment copied or asks for a slot for it; and it appends the
trains' words, EOIs and SEAMs while it has credits; a tile whose inputs are sealed and which is quiet appends its
SEAMs, those that find no room once they have it; a tile that is ready, loaded and drained, and owes no SEAM, swaps:
its copies are exchanged, its scratch half changes, the stage's declared state is to be saved, and at its slot's entry
tile ACTR counts on by one; where the stage's circuits break a rule it is a load fault; one that is ready and not
loaded is held; an old stage's state is saved and a new one's restored, one range at a time. Where the rules leave it
open, as the model reads or chooses it: log entries 27, 70, 97 and 112. -/
def Obligations.ReelHappenings : Prop :=
  ∀ (s : State) (r : Region) (f : Reel), s.region r.number = some r → r.reel = some f → r.phase = .running →
    (∀ slot u, slot < f.b → (f.laid = false → s.layReel r f = .ok u) → (f.laid = true →
        (r.slotTiles f slot).findSome? (s.loadAction r f) = some (.ok u)) →
      Completes (.feederLoad r.number slot) s fun t => t = u) ∧
    (∀ u, s.layReel r f = .ok u → ∃ v d narc tab arcs, s.imageBytes r none f.descriptor 64 = .ok v ∧
      f.described v = some (d, narc, tab) ∧ s.readArcs r d tab narc = .ok arcs ∧
      (u.region r.number).bind (·.reel) = some { d with arcs := arcs, laid := true, entryCredits := 15 } ∧ MemorySame s u ∧
      ∀ t ∈ r.bandTiles d, ∀ e, 24 ≤ e → e < 31 → ∀ k j, u.reelSinkOf t e = some (k, j) →
        (u.tile t).source e = ⟨(u.tile k).cfg.capacity j, 0⟩) ∧
    (∀ t u, s.regionOf t = some r → s.loadAction r f t = some (.ok u) → MemorySame s u ∧ ∃ b c : TileReel,
      (s.tile t).reel = some b ∧ (u.tile t).reel = some c ∧ (u.tile t).cfg = (s.tile t).cfg ∧ (u.tile t).store = (s.tile t).store ∧
      ((b.loading = none ∧ b.toSave = [] ∧ c.loading = f.stageAt b.slot b.swaps ∧ c.loading ≠ none ∧ c.framesDone = true ∧ c.loads = []) ∨
        ∃ p rest, b.loading ≠ none ∧ b.segments = p :: rest ∧ c.loading = b.loading ∧
          ((c.segments = rest ∧ ∃ id, c.loads = b.loads ++ [id]) ∨
            (c.segments = b.segments ∧ c.loads = b.loads ∧ b.slotReq = none ∧ c.slotReq ≠ none)))) ∧
    (f.laid = true → f.train < f.trains → 0 < f.entryCredits →
      (f.trainTail = 0 → ∀ v, s.imageBytes r none (f.trainVa + f.train * f.tstride + f.trainPos).toNat 8 = .ok v →
        0 ≤ (f.trainVa : Int) + f.train * f.tstride + f.trainPos → Completes (.feederTrainAppend r.number) s fun t =>
          let pos := f.trainPos + 8
          let eoi := pos = f.trainBytes ∨ (f.waveBytes ≠ 0 ∧ pos % f.waveBytes = 0)
          t = (s.appendEntryCircuit r f v 0 fun f => { f with trainPos := pos, trainTail := if eoi then 1 else 0 }).forgetLines r.owner) ∧
      (f.trainTail = 1 → Completes (.feederTrainAppend r.number) s fun t =>
        t = s.appendEntryCircuit r f 0 5 fun f => { f with trainTail := if f.trainPos = f.trainBytes then 2 else 0 }) ∧
      (f.trainTail = 2 → Completes (.feederTrainAppend r.number) s fun t =>
        t = s.appendEntryCircuit r f 0 11 fun f => { f with train := f.train + 1, trainPos := 0, trainTail := 0 })) ∧
    (∀ t b, s.regionOf t = some r → (s.tile t).reel = some b → (s.tile t).snapped = false →
      let x := s.tile t
      (b.stage.isSome = true → b.forwardReady = false → s.quiet t = true →
        (if (x.forwardInputs f b).isEmpty then s.feedSeam r f b else (x.forwardInputs f b).all x.sealed) = true →
        Completes (.forwardReady t) s fun u => u = s.sendSeams t (s.seamOutputs t f b) ∧
          ∀ c, (u.tile t).reel = some c → c.forwardReady = true) ∧
      (b.stage.isSome = true → b.forwardReady = true → (∃ e ∈ b.seamsOwed, s.seamGoes t e = true) → Completes (.forwardReady t) s fun u =>
        u = s.sendSeams t b.seamsOwed) ∧
      (f.laid = true → s.swapReady t f b = true →
        (s.loaded b = true → x.drained = true → b.seamsOwed = [] →
          (∀ k, (b.loading.bind id).bind (s.badStage r f b.slot) = some k → Completes (.reelSwap t) s fun u =>
            u = s.reelFault r Cause.ill (r.placeOf k) none none) ∧
          ((b.loading.bind id).bind (s.badStage r f b.slot) = none → Completes (.reelSwap t) s fun u => u = s.swapTile t r f b ∧
            (u.tile t).cfg = x.cfgShadow.unpaired ∧ (u.tile t).store = x.storeShadow ∧ (u.tile t).storeShadow = x.store ∧
            (∃ c : TileReel, (u.tile t).reel = some c ∧ c.half = !b.half ∧ c.stage = b.loading.getD none ∧ c.ranges = b.nextRanges ∧
              c.swaps = b.swaps + 1 ∧ c.forwardReady = false ∧ c.heldSince = none ∧ c.toSave = match b.stage with
                | some st => statePieces (f.stateAt b st) b.ranges
                | none => []) ∧
            ∀ g, ((u.tile t).counters[g]).value = if b.row = 0 ∧ b.col = 0 ∧ g = f.actr then
              BitVec.ofNat 48 (min ((x.counters[g]).value.toNat + 1) (2 ^ 48 - 1)) else (x.counters[g]).value)) ∧
        (s.loaded b = false → b.stage.isSome = true → b.heldSince = none → Completes (.reelSwap t) s fun u => u = s.holdReady t r f b ∧
          ∃ c : TileReel, (u.tile t).reel = some c ∧ c.heldSince = some x.cycle.toNat)) ∧
      (∀ p rest id u, s.copyPieces t true = s → b.toSave = p :: rest → s.acceptPiece t 0 .save true true 0 p = some (id, u) →
        Completes (.stateSave t) s fun v => v = u.modTile t fun x =>
          { x with reel := x.reel.map fun b => { b with toSave := rest, saves := b.saves ++ [id] } }) ∧
      (∀ stage p rest id u, s.copyPieces t false = s → b.loading = some (some stage) → b.segments = [] →
        b.restoreDue = false → b.restores = p :: rest → s.acceptPiece t 0 .load true false (b.swaps + 1) p = some (id, u) →
        Completes (.stateRestore t) s fun v => v = u.modTile t fun x =>
          { x with reel := x.reel.map fun b => { b with restoreDue := false, restores := rest, loads := b.loads ++ [id] } }))

/-! Commands of a host. -/

/-- R419, R425: a command of a node that the host list did not name when it arrived is answered DENIED, and does nothing
else. Where the rules leave it open, as the model reads or chooses it: log entry 61. -/
def Obligations.UnlistedNodesAreDenied : Prop :=
  ∀ (c : Cmd) (s : State) x, s.power ≠ .recovery → s.hub.cmdsIn.find? (fun y => y.node == c.node) = some x → x.listed = false →
    s.requestsDone x = true →
    ∀ i op, (i, op) ∈ [(Instr.qconfig c, 0x01), (.doorbell c, 0x02), (.qread c, 0x03), (.rootbase c, 0x10), (.inval c, 0x11),
      (.pageinit c, 0x12), (.access c, 0x13), (.timeout c, 0x14), (.nodeport c, 0x15), (.linkup c, 0x16), (.routever c, 0x17),
      (.diestate c, 0x20), (.clockstep c, 0x21), (.ratio c, 0x22), (.repair c, 0x23), (.thermal c, 0x24), (.attest c, 0x25),
      (.fwstage c, 0x26), (.hostlist c, 0x27), (.kill c, 0x30), (.pause c, 0x31), (.evict c, 0x32), (.resume c, 0x33),
      (.halt c, 0x34), (.release c, 0x35), (.ctxrd c, 0x36), (.ctxwr c, 0x37), (.faultq c, 0x38), (.stale c, 0x39),
      (.resolve c, 0x40), (.circuit c, 0x41)] → recordFields x.record = c.record op →
      Completes i s fun t => t = Answers (Taken s c) c op 5 []

/-- R84, R86, R278, R284, R294, R409, R411, R414, R416, R420, R422: a command on queues, memory, access, links and routing
of a listed node, with arguments that are well formed, changes what it names and is answered OK: QCONFIG, which also
drops what has been read of the queue, DOORBELL (status 1 where the ring has no room), QREAD, ROOTBASE, ACCESS,
TIMEOUT, NODEPORT, LINKUP, which lets the sequence numbers of a link that was down start from 0, PAGEINIT of a page of
which, as of the tables that lead to it, no bale holds a line, which waits while one holds a line of the tables and
holds no other command back; INVAL and ROUTEVER begin, and are answered when they are complete: ROUTEVER once nothing
stamped with the old version is left. Where the rules leave it open, as the model reads or chooses it: log entries 41,
67, 74, 87 and 118. -/
def Obligations.QueueMemoryAndLinkCommands : Prop :=
  ∀ (c : Cmd) (s : State),
    let v := Taken s c
    let base := c.arg 1
    (Serves s c 0x01 → c.arg 0 < 16384 → base % 128 = 0 → base < 2 ^ 56 → 2 ≤ c.arg 2 → c.arg 2 ≤ 16 → c.arg 3 < 2 ^ 28 → c.arg 4 ≤ 2 →
      Completes (.qconfig c) s fun t => ∃ lines, t = Answers (WithHub v fun h => { h with fetched := lines, queues := (h.modQueue (c.arg 0)
        (·.configure base (c.arg 2) (bits c.a[3] 16 12) (bits c.a[3] 0 16) (qstateOf (c.arg 4)))).queues }) c 0x01 0 [] ∧
        ∀ f ∈ lines, f ∈ s.hub.fetched) ∧
    (c.arg 0 < 16384 →
      let w := s.hub.queue (c.arg 0)
      (Serves s c 0x02 → w.tail - w.head + c.arg 1 ≤ 2 ^ w.k → Completes (.doorbell c) s fun t =>
        t = Answers (WithHub v fun h => h.modQueue (c.arg 0) fun w => { w with tail := w.tail + c.arg 1 }) c 0x02 0 []) ∧
      (Serves s c 0x02 → 2 ^ w.k < w.tail - w.head + c.arg 1 → Completes (.doorbell c) s fun t => t = Answers v c 0x02 1 []) ∧
      (Serves s c 0x03 → Completes (.qread c) s fun t =>
        t = Answers v c 0x03 0 [BitVec.ofNat 64 w.head, BitVec.ofNat 64 w.tail, BitVec.ofNat 64 w.c])) ∧
    (Serves s c 0x10 → c.arg 0 % 2 ^ 19 = 0 → c.arg 1 ≤ 1 → inRange (c.arg 1) (c.arg 0) (2 ^ 19) = true →
      Completes (.rootbase c) s fun t =>
        t = Answers { v with mem := { s.mem with rootBase := c.arg 0, rootLpddr := c.arg 1 == 1 } } c 0x10 0 []) ∧
    (let lo := if c.arg 2 = 0 then 0 else c.arg 1;
      let n := if c.arg 2 = 0 then 2 ^ 56 else c.arg 2;
      Serves s c 0x11 → c.arg 0 < 2 ^ 16 → lo + n ≤ 2 ^ 56 → Completes (.inval c) s fun t =>
        let p := v.invalidate (BitVec.ofNat 16 (c.arg 0)) lo (lo + n - 1) (some (c.node, c.tag))
        t = WithHub p.2 fun h => { h with waiting := h.waiting ++ [⟨0x11, c.node, c.tag, p.1, []⟩] }) ∧
    (∀ l, Serves s c 0x12 → walk s.mem (BitVec.ofNat 16 (c.arg 0)) (c.arg 1) = .ok l → l.wo = true → c.arg 0 < 2 ^ 16 →
      c.arg 1 < 2 ^ 56 → s.walkHeld (BitVec.ofNat 16 (c.arg 0)) (c.arg 1) = false → s.lineHeld l.base (2 ^ l.size) = false → s.hub.writes = [] → s.hub.doneOut = [] →
      Completes (.pageinit c) s fun t => t = Answers { v with mem := s.mem.clearPresent l.base (2 ^ l.size) } c 0x12 0 []) ∧
    (Serves s c 0x12 → c.arg 0 < 2 ^ 16 → c.arg 1 < 2 ^ 56 →
      (s.walkHeld (BitVec.ofNat 16 (c.arg 0)) (c.arg 1) = true → Completes (.pageinit c) s fun t => t = WithHub v fun h =>
        { h with waiting := h.waiting ++ [⟨0x12, c.node, c.tag, c.arg 0 + 2 ^ 16 * c.arg 1, []⟩] }) ∧
      (s.walkHeld (BitVec.ofNat 16 (c.arg 0)) (c.arg 1) = false →
        (∀ l, walk s.mem (BitVec.ofNat 16 (c.arg 0)) (c.arg 1) = .ok l → l.wo = false) →
        Completes (.pageinit c) s fun t => t = Answers v c 0x12 3 [])) ∧
    (let e := accessEntry c.a[1] c.a[2] c.a[3];
      Serves s c 0x13 → c.arg 0 < 1024 → field c.a[1] 5 7 = 0 → e.base % 2 ^ 16 = 0 → e.base < 2 ^ 56 → e.pages < 2 ^ 32 →
      (e.v = true → 0 < e.pages) →
      Completes (.access c) s fun t => t = Answers (WithHub v fun h => { h with access := putKey (c.arg 0) e h.access }) c 0x13 0 []) ∧
    (Serves s c 0x14 → 2 ^ 16 ≤ c.arg 0 → Completes (.timeout c) s fun t =>
      t = Answers (WithHub v fun h => { h with rtimeout := c.arg 0 }) c 0x14 0 []) ∧
    (Serves s c 0x15 → c.arg 0 < 4096 → c.arg 1 < 2 ^ 32 → c.arg 2 ≤ 1 → c.arg 2 ≠ s.hub.version.toNat →
      Completes (.nodeport c) s fun t => t = Answers (WithHub v fun h => { h with
        streamPort := h.streamPort.filter fun e => !(e.1.toNat == c.arg 0 && e.2.1 == (c.arg 2 == 1))
        nodePorts := putKey (c.arg 2 == 1, BitVec.ofNat 12 (c.arg 0)) (BitVec.ofNat 32 (c.arg 1)) h.nodePorts }) c 0x15 0 []) ∧
    (∀ p : Fin 32, Serves s c 0x16 → c.arg 0 = p.val → Completes (.linkup c) s fun t => t = Answers ((WithHub v fun h => h.modPort p fun x =>
      if x.up then x else { x with up := true, txSeq := 0, rxSeq := 0, replay := [], carried := [], unsent := [] }).sendHello p) c 0x16 0 []) ∧
    (Serves s c 0x17 → c.arg 0 ≤ 1 →
      ((c.arg 0 == 1) = s.hub.version → Completes (.routever c) s fun t => t = Answers v c 0x17 0 []) ∧
      ((c.arg 0 == 1) ≠ s.hub.version → Completes (.routever c) s fun t => t = (WithHub v fun h => { h with
        version := c.arg 0 == 1, waiting := h.waiting ++ [⟨0x17, c.node, c.tag, h.version.toNat, v.inFlight⟩] }))) ∧
    (∀ (u : State) (w : WaitingCmd), u.hub.waiting = [w] → w.op = 0x17 →
      ((∀ i ∈ w.waits, u.underWay i = false) → u.stamped (w.arg == 1) = false →
        u.settleVersion = (WithHub u fun h => { h with waiting := [] }).respond w.node w.tag 0x17 0 []) ∧
      ((∃ i ∈ w.waits, u.underWay i = true) ∨ u.stamped (w.arg == 1) = true → u.settleVersion = u)) ∧
    (∀ (u : State) (w : WaitingCmd), w ∈ u.hub.waiting → w.op = 0x12 →
      let asid := BitVec.ofNat 16 (w.arg % 2 ^ 16)
      let va := w.arg / 2 ^ 16
      (u.walkHeld asid va = true → u.serveCommand w = u) ∧
      (u.walkHeld asid va = false →
        u.serveCommand w = (WithHub u fun h => { h with waiting := h.waiting.erase w }).initPage asid va w.node w.tag))

/-- R101, R102, R104, R241, R422, R425-R428, R430, R432, R434: a command on dies, clocks, repair, temperature, hosts,
firmware and attestation of a listed node, with arguments that are well formed: DIESTATE along a permitted change,
STALE, which also answers the die's count of free barriers (R322), CLOCKSTEP (answered when the clock has changed),
RATIO, REPAIR of a column that no region holds, THERMAL, HOSTLIST from the node that the list named first when the
command arrived, FWSTAGE of an image that no bale holds up, which waits for the bale otherwise, is REFUSED where the
image is too long or has an uncorrectable error, and goes on once no bale holds a line of it, ATTEST with an index
left, whose report no bale holds up. Where the rules leave it open, as the model reads or chooses it: log entries 72,
73, 76 and 95. -/
def Obligations.DieAndPlatformCommands : Prop :=
  ∀ (c : Cmd) (s : State),
    let v := Taken s c
    let d := dieOf (c.arg 0)
    (c.arg 0 < 8 →
      (Serves s c 0x20 → c.arg 1 ≤ 2 → let st := dieStateOf (c.arg 1)
        (s.mayEnter d st = true → s.dies[d].st ≠ st → Completes (.diestate c) s fun t =>
          t = Answers ((v.modDie d fun x => { x with st := st }).passOn [d.val]) c 0x20 0 []) ∧
        (s.mayEnter d st = true → s.dies[d].st = st → Completes (.diestate c) s fun t => t = Answers v c 0x20 0 []) ∧
        (s.mayEnter d st = false → Completes (.diestate c) s fun t => t = Answers v c 0x20 2 [])) ∧
      (Serves s c 0x39 → Completes (.stale c) s fun t => 
        t = Answers v c 0x39 0 [BitVec.ofNat 64 s.dies[d].stale, BitVec.ofNat 64 s.dies[d].barriersFree]) ∧
      (Serves s c 0x21 → c.arg 1 < 16 → s.dies[d].clockStopped = none → Completes (.clockstep c) s fun t =>
        t = WithHub (v.modDie d fun x => { x with clockStopped := some (BitVec.ofNat 4 (c.arg 1)) })
          fun h => { h with waiting := h.waiting ++ [⟨0x21, c.node, c.tag, d.val + 8 * c.arg 1, []⟩] }) ∧
      (Serves s c 0x22 → Completes (.ratio c) s fun t => ∃ u, t = Answers u c 0x22 0 [] ∧
        u = v.modDie d (fun x => { x with ratio := u.dies[d].ratio }) ∧
        ∀ (j i : Nat) (hj : j < 4) (hi : i < 4),
          (u.dies[d].ratio[4 * j + i]'(by omega)) = bits (c.a[(⟨1 + j, by omega⟩ : Fin 7)]) (16 * i) 16) ∧
      (Serves s c 0x23 → c.arg 1 < 80 → s.columnHeld d.val (c.arg 1) = false → s.dies[d].repairing = none →
        (c.arg 2 = 0 → Completes (.repair c) s fun t =>
          t = Answers (v.modDie d fun x => { x with failed := insertNat (c.arg 1) x.failed }) c 0x23 0 []) ∧
        (c.arg 2 = 1 → s.dies[d].spares < 2 → Completes (.repair c) s fun t =>
          t = v.modDie d fun x => { x with repairing := some (c.arg 1, 1, c.node, c.tag) }) ∧
        (c.arg 2 = 1 → 2 ≤ s.dies[d].spares → Completes (.repair c) s fun t => t = Answers v c 0x23 2 []) ∧
        (c.arg 2 = 2 → Completes (.repair c) s fun t =>
          t = Answers ((v.modDie d fun x => { x with failed := x.failed.erase (c.arg 1) }).passOn [d.val]) c 0x23 0 []))) ∧
    (let four := fun (a : Nat) => BitVec.ofNat 64 ((List.range 4).foldr (fun i acc => (s.temperature (a + i)).toNat + 2 ^ 16 * acc) 0);
      Serves s c 0x24 → Completes (.thermal c) s fun t => t = Answers v c 0x24 0 [four 0, four 4,
        BitVec.ofNat 64 ((s.temperature 8).toNat + 2 ^ 16 * (s.temperature 9).toNat), BitVec.ofNat 64 s.hub.nvm.trips]) ∧
    (let nodes := ((List.range 4).map fun i => bits c.a[0] (12 * i) 12).filter fun n => n != 0xFFF;
      let first := (s.hub.cmdsIn.find? fun x => x.node == c.node).any (·.first);
      Serves s c 0x27 → (first = true → field c.a[0] 48 16 = 0 → nodes ≠ [] → Completes (.hostlist c) s fun t =>
        t = WithHub (Answers v c 0x27 0 []) fun h => { h with hosts := nodes }) ∧
      (first = false → Completes (.hostlist c) s fun t => t = Answers v c 0x27 5 [])) ∧
    (let a := c.arg 0;
      let n := c.arg 1;
      let image := s.mem.hbm.bytes a n;
      Serves s c 0x26 → s.rangeHeld (.hbm a) n = false → a % 4096 = 0 → a + n ≤ 2 ^ 40 → n ≤ 2 ^ 26 → s.mem.poisonAt (.hbm a) n = [] →
      (imageAccepted image s.hub.nvm.minVersion = true → Completes (.fwstage c) s fun t => t = Answers (WithHub v fun h => { h with
        nvm := { h.nvm with image := image, minVersion := max h.nvm.minVersion (Config.imageVersion image) } }) c 0x26 0 []) ∧
      (imageAccepted image s.hub.nvm.minVersion = false → Completes (.fwstage c) s fun t => t = Answers v c 0x26 2 [])) ∧
    (Serves s c 0x26 → c.arg 0 % 4096 = 0 → c.arg 0 + c.arg 1 ≤ 2 ^ 40 →
      (c.arg 1 ≤ 2 ^ 26 → s.rangeHeld (.hbm (c.arg 0)) (c.arg 1) = true → Completes (.fwstage c) s fun t => t = WithHub v fun h =>
        { h with waiting := h.waiting ++ [⟨0x26, c.node, c.tag, c.arg 0 + 2 ^ 40 * c.arg 1, []⟩] }) ∧
      (2 ^ 26 < c.arg 1 ∨ (s.rangeHeld (.hbm (c.arg 0)) (c.arg 1) = false ∧ s.mem.poisonAt (.hbm (c.arg 0)) (c.arg 1) ≠ []) →
        Completes (.fwstage c) s fun t => t = Answers v c 0x26 2 [])) ∧
    (∀ (u : State) (w : WaitingCmd), w ∈ u.hub.waiting → w.op = 0x26 →
      (u.rangeHeld (.hbm (w.arg % 2 ^ 40)) (w.arg / 2 ^ 40) = true → u.serveCommand w = u) ∧
      (u.rangeHeld (.hbm (w.arg % 2 ^ 40)) (w.arg / 2 ^ 40) = false → u.serveCommand w =
        (WithHub u fun h => { h with waiting := h.waiting.erase w }).stageImage (w.arg % 2 ^ 40) (w.arg / 2 ^ 40) w.node w.tag)) ∧
    (let a := c.arg 4;
      Serves s c 0x25 → a % 64 = 0 → a + 128 + signatureBytes ≤ 2 ^ 40 → s.hub.nvm.sigIndex < 2 ^ 40 →
      s.lineHeld (.hbm a) (128 + signatureBytes) = false → s.hub.writes = [] → s.hub.doneOut = [] →
      Completes (.attest c) s fun t => ∃ m, t = Answers { WithHub v (fun h => { h with nvm := { h.nvm with sigIndex := h.nvm.sigIndex + 1 } }) with
        mem := m } c 0x25 0 [] ∧ m.lpddr = s.mem.lpddr ∧
        (∀ x, x < a ∨ a + 128 + signatureBytes ≤ x → m.hbm.read x = s.mem.hbm.read x))

/-- R102, R103, R389, R390, R394, R420, R422: the commands on a region in service for which no earlier command waits: KILL
ends it, REFUSED once it has met R99: the region is in service no more, its transfers are cancelled, but for the
packets that go on (R318), its barriers are free, its owner programs gone, its tiles' state discarded and what engines
held of their beacons dropped; PAUSE and EVICT of a running region begin, and of one that is still being installed
wait till it runs; RESUME of a paused region goes on in place, of an evicted one as a candidate of its anchor die;
FAULTQ takes the oldest fault entry. A number and generation that no region in service holds are REFUSED, and a region
for which an earlier command waits is BUSY. Where the rules leave it open, as the model reads or chooses it: log
entries 26 and 58. -/
def Obligations.RegionCommands : Prop :=
  ∀ (c : Cmd) (s : State), c.arg 0 < 2048 → c.arg 1 < 256 →
    let v := Taken s c
    (∀ r, s.regionNamed (c.arg 0) (c.arg 1) = some r →
      (Serves s c 0x30 → s.ending r = false → Completes (.kill c) s fun t => t = Answers (v.killRegion r.number 4) c 0x30 0 []) ∧
      (Serves s c 0x30 → s.ending r = true → Completes (.kill c) s fun t => t = Answers v c 0x30 2 []) ∧
      (s.regionWaits r = false → r.phase = .running → s.regionIdle r = false →
        (Serves s c 0x31 → Completes (.pause c) s fun t => t = v.modRegion r.number fun r => { r with phase := .pausing none c.node c.tag }) ∧
        (Serves s c 0x32 → saveAreaGood (c.arg 2) (r.launch.rows * r.launch.cols) = true → c.arg 2 < 2 ^ 40 →
          Completes (.evict c) s fun t =>
            t = v.modRegion r.number fun r => { r with phase := .pausing (some (c.arg 2)) c.node c.tag })) ∧
      (s.regionWaits r = false → r.phase = .placed ∨ r.phase = .installed →
        (Serves s c 0x31 → Completes (.pause c) s fun t =>
          t = v.modRegion r.number fun r => { r with preemptDue := some (none, c.node, c.tag) }) ∧
        (Serves s c 0x32 → saveAreaGood (c.arg 2) (r.launch.rows * r.launch.cols) = true → c.arg 2 < 2 ^ 40 →
          Completes (.evict c) s fun t => t = v.modRegion r.number fun r => { r with preemptDue := some (some (c.arg 2), c.node, c.tag) })) ∧
      (s.regionWaits r = false → r.phase = .paused ∨ r.phase = .evicted ∨ (r.phase = .running ∧ s.regionIdle r = true) →
        Serves s c 0x31 → Completes (.pause c) s fun t => t = Answers v c 0x31 2 []) ∧
      (Serves s c 0x33 → s.regionWaits r = false → r.phase = .paused → c.arg 2 = 0 → Completes (.resume c) s fun t =>
        t = v.modRegion r.number fun r => { r with phase := .restoring 0 true c.node c.tag }) ∧
      (Serves s c 0x33 → s.regionWaits r = false → r.phase = .evicted → c.arg 2 % 4096 = 0 → c.arg 2 < 2 ^ 40 →
        Completes (.resume c) s fun t =>
          t = (v.modRegion r.number fun r => { r with phase := .restoring (c.arg 2) false c.node c.tag, waited := 0 }).passOn [r.launch.anchor]) ∧
      (s.regionWaits r = true → c.arg 2 % 4096 = 0 → c.arg 2 < 2 ^ 40 →
        (Serves s c 0x31 → Completes (.pause c) s fun t => t = Answers v c 0x31 4 []) ∧
        (Serves s c 0x32 → Completes (.evict c) s fun t => t = Answers v c 0x32 4 []) ∧
        (Serves s c 0x33 → Completes (.resume c) s fun t => t = Answers v c 0x33 4 []))) ∧
    (s.regionNamed (c.arg 0) (c.arg 1) = none → (Serves s c 0x30 → Completes (.kill c) s fun t => t = Answers v c 0x30 2 []) ∧
      (Serves s c 0x31 → Completes (.pause c) s fun t => t = Answers v c 0x31 2 []) ∧
      (c.arg 2 % 4096 = 0 → c.arg 2 < 2 ^ 40 →
        (Serves s c 0x32 → Completes (.evict c) s fun t => t = Answers v c 0x32 2 []) ∧
        (Serves s c 0x33 → Completes (.resume c) s fun t => t = Answers v c 0x33 2 []))) ∧
    (∀ (r : Region) (outcome : BitVec 8), s.region r.number = some r →
      let t := s.killRegion r.number outcome
      let its := fun (x : Transfer) => x.region = r.number ∧ x.gen = r.gen
      (∀ q, t.region r.number = some q → q.gen ≠ r.gen) ∧
      (∀ x ∈ t.xfers, its x → x.ended = true ∧ x.action = none ∧ ∀ p ∈ x.packets, p.outlives = true) ∧
      (∀ d : Fin 8, ∀ k, (t.dies[d].barrier k).held ≠ some r.number) ∧ (∀ p ∈ t.mem.programs, p.region ≠ r.number) ∧
      (r.holdsTiles = true → (∀ b ∈ t.beacons, b.tile ∉ r.tiles) ∧ ∀ p ∈ t.tiles, p.1 ∈ r.tiles →
        p.2 = { Tile.cleared with awake := true, region := some r.number })) ∧
    (∀ r, Serves s c 0x38 → s.regions.find? (fun r => r.number == c.arg 0 && r.gen.toNat == c.arg 1) = some r → s.regionWaits r = false →
      (r.faults = [] → Completes (.faultq c) s fun t => t = Answers v c 0x38 0 [0, 0, 0, 0]) ∧
      (∀ f rest, r.faults = f :: rest → Completes (.faultq c) s fun t => t = Answers { v with
        regions := s.regions.map fun x => if x.number = r.number ∧ x.gen = r.gen then { x with faults := rest } else x } c 0x38 0
          [BitVec.ofNat 64 (f.cause.toNat + f.kind.toNat * 2 ^ 8 + f.place.toNat * 2 ^ 32), f.info, f.loc, f.cycle]))

/-- R376, R395-R397, R418, R420: HALT halts a running or parked context once its writes have landed, and waits till then;
RELEASE resumes a context; CTXRD reads, and CTXWR writes, what is selected of a halted context, and is REFUSED for any
other; RESOLVE applies a decision at the loft; CIRCUIT sets or clears a circuit, and is REFUSED where another holds
its lanes; packets leave the lanes that it binds (R405). Where the rules leave it open, as the model reads or chooses
it: log entries 71, 75 and 86. -/
def Obligations.DebugBaleAndCircuitCommands : Prop :=
  ∀ (c : Cmd) (s : State),
    let v := Taken s c
    (∀ (r : Region) (k : Fin 4), c.arg 0 < 2048 → c.arg 1 < 256 → c.arg 2 < 2 ^ 16 → c.arg 3 = k.val →
      s.regionNamed (c.arg 0) (c.arg 1) = some r → s.regionWaits r = false → r.holdsTiles = true →
      c.arg 2 / 2 ^ 9 < r.launch.rows → c.arg 2 % 2 ^ 9 < r.launch.cols →
      let t := r.tileAt (c.arg 2 / 2 ^ 9) (c.arg 2 % 2 ^ 9)
      let x := s.ctxAt t k
      let due := v.modCtx t k fun y => { y with haltDue := some (c.node, c.tag) }
      (Serves s c 0x34 → x.run = .running ∨ x.run = .parked →
        Completes (.halt c) s fun u => u = due.serveHalt t k (s.tile t).cycle.toNat) ∧
      (Serves s c 0x34 → x.run = .disabled → Completes (.halt c) s fun u => u = Answers v c 0x34 2 []) ∧
      (Serves s c 0x35 → Completes (.release c) s fun u => u = Answers (v.modCtx t k Ctx.resume) c 0x35 0 []) ∧
      (∀ q, selectorOf c = some q →
        (x.isHalted = true → s.selects t k q = true →
          (Serves s c 0x36 → Completes (.ctxrd c) s fun u => u = Answers v c 0x36 0 (s.select t k q)) ∧
          (Serves s c 0x37 → q.accepts c.a[5] = true → Completes (.ctxwr c) s fun u =>
            u = Answers (v.putSelected t k q c.a[5]) c 0x37 0 [])) ∧
        (x.isHalted = false → (Serves s c 0x36 → Completes (.ctxrd c) s fun u => u = Answers v c 0x36 2 []) ∧
          (Serves s c 0x37 → q.accepts c.a[5] = true → Completes (.ctxwr c) s fun u => u = Answers v c 0x37 2 [])))) ∧
    (Serves s c 0x40 → c.arg 0 < 4096 → c.arg 2 ≤ 1 → Completes (.resolve c) s fun u =>
      u = Answers (v.applyDecision (BitVec.ofNat 12 (c.arg 0)) c.a[1] (c.arg 2 == 1)) c 0x40 0 []) ∧
    (Serves s c 0x41 → c.arg 0 < 64 → c.arg 3 = 0 → Completes (.circuit c) s fun u =>
      u = Answers (WithHub v fun h => { h with circuits := dropKey (c.arg 0) h.circuits }) c 0x41 0 []) ∧
    (∀ p : Fin 32, Serves s c 0x41 → c.arg 0 < 64 → c.arg 1 = p.val → c.arg 3 ∈ [1, 2, 4] → c.arg 2 % c.arg 3 = 0 →
      c.arg 2 + c.arg 3 ≤ 8 → c.arg 4 < 4096 → c.arg 5 < 64 →
      let clash := ∃ x ∈ s.hub.circuits, x.1 ≠ c.arg 0 ∧ x.2.port = p ∧ c.arg 2 < x.2.lane + x.2.lanes ∧ x.2.lane < c.arg 2 + c.arg 3
      (clash → Completes (.circuit c) s fun u => u = Answers v c 0x41 2 []) ∧
      let old := lookupKey (c.arg 0) s.hub.circuits
      (¬ clash → Completes (.circuit c) s fun u => ∃ x, u = Answers ((WithHub v fun h =>
        { h with circuits := putKey (c.arg 0) x h.circuits }).clearPort p) c 0x41 0 [] ∧ x.port = p ∧ x.lane = c.arg 2 ∧
        x.lanes = c.arg 3 ∧ x.node.toNat = c.arg 4 ∧ x.peer = c.arg 5 ∧ x.sink = old.bind (·.sink) ∧ x.source = old.bind (·.source)))

/-! Links, regions and the platform. -/

/-- R405-R407, R410-R413, R419: a port accepts a good flit in sequence and answers it with ACK, answers a bad or
unexpected one with NAK and the number it expects, and leaves a NAK's flits to be sent again, the link going down at
the ninth sending; ACK frees the replay buffer, and a flit that waited takes its room. The payload of CTRL flits of an
open stream joins to command records of 64 bytes. OPEN enters a stream unless its node's incarnation is older, CLOSE
removes it; a hello enters the port for its node in both tables. Where the rules leave it open, as the model reads or
chooses it: log entries 28, 31, 59, 63 and 85. -/
def Obligations.PortsReceiveFlits : Prop :=
  ∀ (p : Fin 32) (s : State),
    let x := s.hub.ports[p]
    let given := fun (f : Port → Port) => WithHub s fun h => h.modPort p f
    (∀ f, x.up = true → s.hub.flitLanes p = true ∨ flitKind f = 8 →
      let nak := fun (x : Port) => { x with answers := x.answers ++ [(5, x.rxSeq)] }
      (headerGood f = false ∨ flitGood f = false → Completes (.flitReceive p f) s fun t => t = (given nak).absorb p) ∧
      (headerGood f = true → flitGood f = true → flitKind f ∉ [0, 4, 5] →
        (flitSeq f ≠ x.rxSeq → Completes (.flitReceive p f) s fun t => t = (given nak).absorb p) ∧
        (flitSeq f = x.rxSeq → Completes (.flitReceive p f) s fun t => t = (given fun x =>
          { x with rxSeq := x.rxSeq + 1, answers := x.answers ++ [(4, flitSeq f)], rx := x.rx ++ [f] }).absorb p) ∧
        (∀ r, flitSeq f = x.rxSeq → flitKind f = 7 → x.rx = [] → lookupKey (flitStream f) x.streams = some r →
          let bs := (lookupKey (flitStream f) x.ctrl).getD [] ++ flitBytes f 8 (field f 16 6)
          let kept := fun (left : List Byte) => given fun x => { x with
            rxSeq := x.rxSeq + 1, answers := x.answers ++ [(4, flitSeq f)], ctrl := putKey (flitStream f) left x.ctrl }
          (bs.length < 64 → Completes (.flitReceive p f) s fun t => t = kept bs) ∧
          (64 ≤ bs.length → Completes (.flitReceive p f) s fun t =>
            t = (kept (bs.drop 64)).commandIn r.srcNode (BitVec.ofNat 512 (ofBytes (bs.take 64))))))) ∧
    (∀ f rest, x.rx = f :: rest →
      let u := given fun x => { x with rx := rest }
      let kept := x.replay.filter fun e => e.1 != flitSeq f
      let left := x.carried.filter fun e => e.1 != flitSeq f
      let l := x.replay
      let again := l.dropWhile fun e => e.1 != flitSeq f
      (flitKind f = 4 →
        (x.unsent = [] → Completes (.ack p) s fun t =>
          t = (WithHub s fun h => (h.modPort p fun x =>
            { x with rx := rest, replay := kept, carried := left }).releaseHeld).absorb p) ∧
        (∀ g more, x.unsent = g :: more → kept.length < 512 → Completes (.ack p) s fun t =>
          t = (WithHub s fun h => (((h.setPlace g (.sent p)).modPort p fun x =>
            { x with rx := rest, replay := kept ++ [(x.txSeq, 0)], carried := left ++ [(x.txSeq, g)], txSeq := x.txSeq + 1, unsent := more }).noteBale
              g.bale (g.node.getD 0) p).releaseHeld).absorb p)) ∧
      (flitKind f = 5 →
        ((∀ e ∈ again, e.2 < 8) → Completes (.nakReplay p) s fun t => t = State.absorb (given fun x => { x with
          rx := rest, replay := l.take (l.length - again.length) ++ again.map fun e => (e.1, e.2 + 1) }) p) ∧
        ((∃ e ∈ again, 8 ≤ e.2) → Completes (.nakReplay p) s fun t => t = (u.linkDown p).absorb p)) ∧
      (flitKind f = 1 →
        (∀ v, u.meet (streamRecord f).srcNode (streamRecord f).incarn = some v → Completes (.streamOpen p) s fun t =>
          t = State.absorb (WithHub v fun h => h.modPort p fun x => { x with
            streams := putKey (flitStream f) (streamRecord f) x.streams, ctrl := dropKey (flitStream f) x.ctrl }) p) ∧
        (u.meet (streamRecord f).srcNode (streamRecord f).incarn = none → Completes (.streamOpen p) s fun t =>
          t = State.absorb (given fun x => { x with rx := rest, drops := x.drops + 1
                                                    streams := dropKey (flitStream f) x.streams
                                                    ctrl := dropKey (flitStream f) x.ctrl }) p)) ∧
      (flitKind f = 3 → Completes (.streamClose p) s fun t => t = State.absorb (given fun x => { x with
        rx := rest, streams := dropKey (flitStream f) x.streams, ctrl := dropKey (flitStream f) x.ctrl }) p)) ∧
    (∀ node inc, x.up = true →
      (s.meet node inc = none → Completes (.hello p node inc) s fun t => t = given fun x => { x with drops := x.drops + 1 }) ∧
      (∀ v, s.meet node inc = some v → Completes (.hello p node inc) s fun t => ∀ b : Bool,
        lookupKey (b, node) t.hub.nodePorts = some ((lookupKey (b, node) v.hub.nodePorts).getD 0 ||| (1 <<< p.val))))

/-- R399, R406, R407, R409, R413-R418: a request in a DATA flit of an open stream with the stream's VER is looked up in
the access table: the first entry, in index order, with V set, the stream's node and tenant and a range that holds the
address decides; without one, or where it lacks the right that the request needs (RD, W, A or B), it is refused with
PERM, a bale store by the mark of its bale; else the entry's local tenant and ASID walk, and the leaf admits it, with
the flit's class, or refuses it with the walk's cause, an address of a further package with XLATE; while a bale holds
lines of the walk it is deferred. A SEAL, a decision and a purge need no entry; a flit of no open stream or another
VER is dropped and counted; HOLD stops a request's timeout; an answer completes a request that has been sent, an
expired one completes with FABRIC; circuit credits and entries reach their ends, or are kept for an end in an evicted
region, entries only on the circuit's own port; a bridge flit that fails is sent again, and the replays of one flit
are counted: the 16th is a fault, KIND 5 and cause FABRIC, of every region with entries or packets on the bridge.
Where the rules leave it open, as the model reads or chooses it: log entries 29, 32, 33 and 107. -/
def Obligations.DyfoldTrafficArrives : Prop :=
  ∀ (s : State),
    (∀ (p : Fin 32) f rest, (s.hub.ports[p]).rx = f :: rest →
      let x := s.hub.ports[p]
      let u := WithHub s fun h => h.modPort p fun x => { x with rx := rest }
      let dropped := WithHub s fun h => h.modPort p fun x => { x with rx := rest, drops := x.drops + 1 }
      (flitKind f = 2 → ∀ q,
        (∀ r, lookupKey (flitStream f) x.streams = some r → r.ver = flitVer f → s.power ≠ .recovery →
          let w := WithHub u fun h => h.noteBale (baleOf r.srcNode q) r.srcNode p
          let gives := fun (v : State) => Completes (.dataFlit p q) s fun t => t = v.absorb p
          let refused := fun (cause : BitVec 8) (reason mark : Nat) =>
            (∀ tag, requestTag q = some tag → gives (w.tell (.answer r.srcNode tag (.fail cause reason)))) ∧
            (∀ h va n data, q = .baleStore h va n data →
              gives (w.loftPut (.store r.srcNode h (⟨0, 0, 0⟩, 0) (.hbm 0) n data (some mark) none)))
          let named := fun (e : AccessEntry) (va : Nat) => e.v = true ∧ e.srcNode = r.srcNode ∧ e.srcTenant = r.tenant ∧
            e.base / 2 ^ 16 ≤ va / 2 ^ 16 ∧ va / 2 ^ 16 < e.base / 2 ^ 16 + e.pages
          (∀ h n, q = .seal h n → gives (w.loftPut (.seal r.srcNode h n))) ∧
          (∀ h c, q = .decision h c → gives (w.loftPut (.decision r.srcNode h c))) ∧
          (∀ n gen, q = .purge n gen → gives (w.purgeInbound r.srcNode n gen)) ∧
          ∀ va, requestVa q = some va →
            ((∀ i < 1024, ∀ e, lookupKey i s.hub.access = some e → ¬ named e va) → refused Cause.perm 10 3) ∧
            ∀ i e, i < 1024 → lookupKey i s.hub.access = some e → named e va →
              (∀ j < i, ∀ d, lookupKey j s.hub.access = some d → ¬ named d va) →
              let right := match q with
                | .read _ _ _ => e.rd
                | .write _ _ _ _ => e.w
                | .atomic _ _ _ _ _ _ | .call _ _ _ _ => e.a
                | _ => e.b
              (right = false → refused Cause.perm 10 3) ∧
              (right = true → s.walkHeld e.locAsid va = true → gives (w.deferWalk r (flitClass f) e q)) ∧
              (right = true → s.walkHeld e.locAsid va = false →
                (∀ l, walk s.mem e.locAsid va = .error (.poison l) → refused Cause.poison 0 10) ∧
                (∀ reason l, walk s.mem e.locAsid va = .error (.xlate reason l) → refused Cause.xlate reason 1) ∧
                (∀ leaf, walk s.mem e.locAsid va = .ok leaf →
                  (leaf.base.isRemote = true → refused Cause.xlate 1 1) ∧
                  (leaf.base.isRemote = false → ∀ reason, leaf.refuses (requestAccess q) true = some reason → refused Cause.perm reason 2) ∧
                  (leaf.base.isRemote = false → leaf.refuses (requestAccess q) true = none →
                    (∀ h n data, q = .baleStore h va n data → gives (w.loftPut
                      (.store r.srcNode h (⟨0, 0, 0⟩, 0) (leaf.target va) n data none (some (e.locAsid, leaf.span))))) ∧
                    ((∃ tag, requestTag q = some tag) → gives { w with
                      nextSeq := s.nextSeq + 1
                      hub := { w.hub with
                        nextIn := s.hub.nextIn + 1
                        inbound := s.hub.inbound ++ [{ n := s.hub.nextIn, node := r.srcNode, region := r.region, gen := r.gen
                                                       asid := e.locAsid, tenant := e.locTenant, req := q, tgt := leaf.target va
                                                       wo := leaf.wo, deferred := false, order := s.nextSeq, span := leaf.span
                                                       cls := flitClass f, unwalked := false }] } }))))) ∧
        (lookupKey (flitStream f) x.streams = none → Completes (.dataFlit p q) s fun t => t = dropped.absorb p) ∧
        (∀ r, lookupKey (flitStream f) x.streams = some r → r.ver ≠ flitVer f →
          Completes (.dataFlit p q) s fun t => t = dropped.absorb p)) ∧
      (flitKind f = 6 → ∀ (k : Fin 64) n c, lookupKey k.val s.hub.circuits = some c →
        (∀ t e, c.source = some (t, e) → Completes (.creditFlit p k n) s fun v =>
          v = (u.modTile t (·.modSource e fun y => { y with credits := y.credits + n })).absorb p) ∧
        (c.source = none → s.endAway k.val false = true → Completes (.creditFlit p k n) s fun v =>
          v = State.absorb (WithHub u fun h => h.modCircuit k.val fun c => { c with heldCredits := c.heldCredits + n }) p)) ∧
      (flitKind f = 8 → ∀ (k : Fin 64) c, lookupKey k.val s.hub.circuits = some c →
        let v := { u with picks := u.picks + 1 }
        (c.port = p →
          (∀ t j, c.sink = some (t, j) → Completes (.circFlit p k) s fun w => ∃ n, 1 ≤ n ∧ n ≤ 6 ∧ w = State.absorb (v.modTile t
            (·.modSink j fun y => { y with inflight := y.inflight ++ circEntries f n })) p) ∧
          (c.sink = none → s.endAway k.val true = true → Completes (.circFlit p k) s fun w => ∃ n, 1 ≤ n ∧ n ≤ 6 ∧ w = State.absorb (WithHub v
            fun h => h.modCircuit k.val fun c => { c with heldEntries := c.heldEntries ++ circEntries f n }) p)) ∧
        (c.port ≠ p → Completes (.circFlit p k) s fun w => w = dropped.absorb p))) ∧
    (∀ rid, (∀ r, s.hub.remote.find? (fun q => q.rid == rid) = some r → r.writes = true ∨ s.askerGone r = false) → Happens (.hold rid) s fun t =>
      t = WithHub s fun h => { h with remote := h.remote.map fun r => if r.rid = rid then { r with held := true } else r }) ∧
    (∀ r, s.hub.remote.find? (fun q => q.rid == r.rid) = some r →
      (∀ a p, r.place = .sent p → Completes (.remoteResponse r.rid a) s fun t => t = s.finishRemote r a) ∧
      (∀ a, (∀ p, r.place ≠ .sent p) → Happens (.remoteResponse r.rid a) s fun t => t = s) ∧
      (s.timedOut r = true → Completes (.remoteTimeoutExpiry r.rid) s fun t => t = s.finishRemote r (.fail Cause.fabric 0)) ∧
      (s.timedOut r = false → Stalls (.remoteTimeoutExpiry r.rid) s)) ∧
    (∀ rid a, (∀ r ∈ s.hub.remote, r.rid ≠ rid) → Happens (.remoteResponse rid a) s fun t => t = s) ∧
    (∀ b, b < 10 →
      let n := (lookupKey b s.hub.bridges).getD 0
      let u := { s with picks := s.picks + 1 }
      let v := WithHub u fun h => { h with bridges := dropKey b h.bridges }
      (n < 15 → Completes (.bridgeReplay b) s fun t => ∃ m, (m = 1 ∨ m = n + 1) ∧
        t = WithHub u fun h => { h with bridges := putKey b m h.bridges }) ∧
      (15 ≤ n → Completes (.bridgeReplay b) s fun t => (t = WithHub u fun h => { h with bridges := putKey b 1 h.bridges }) ∨
        t = (v.entryRegions b ++ v.packetRegions b).dedup.foldl (fun s r => s.regionFault r ⟨Cause.fabric, 5, 0, 0, 0, 0⟩) v))

/-- R85, R90-R96, R98, R99, R176, R187: the hub takes a well-formed head record and goes on with its launch; a placement
pass tries its candidates in order, the effective class first; a placed region's image is installed, after which its
start ports get their arguments, one after another, and it runs. A whole CFG group that names its tile, and is for the
shadow copy, is applied; one for the active copy is applied before the region's sources have started, and is a load
fault from then on (R58, R59; log entry 121), as is one whose circuits break a rule. A governor's window ends. A
region that has met R99 closes, its outcome OK, its bales and its tiles ended. Where the rules leave it open, as the
model reads or chooses it: log entries 2, 84, 96, 97, 116 and 121. -/
def Obligations.RegionsComeAndGo : Prop :=
  ∀ (s : State),
    (∀ q v, let w := s.hub.queue q
      let l := launchOf v
      w.st = .enabled → w.head ≠ w.tail → w.cand = none →
      s.unitBytes (queueOwner w.reads q w.headSeq) w.asid (w.base + 128 * (w.head % 2 ^ w.k)) 128 = .value v →
      recordFormed w q w.headSeq v = true → doneFormed v = true → 
      (l.doneKind = 0 ∨ (s.walkHeld w.asid l.doneVa = false ∧ s.doneWritable { l with asid := w.asid } = true)) →
      Completes (.headRecordExamine q) s fun t => t = s.headLaunch q w l) ∧
    (∀ d : Fin 8, s.dies[d].st = .run → s.dies[d].passDue = true → Completes (.placementPass d) s fun t =>
      t = (s.candidates d).foldl (fun s c => s.tryPlace d c) (s.modDie d fun x => { x with passDue := false })) ∧
    (∀ (d : Fin 8) (c : Candidate),
      let place := fun n => positionOf d.val n
      let fits := fun n => s.freeAt c.launch (place n) = true ∧ s.oneDie c (place n) = true
      let runs := fun n => ∀ e ∈ diesOf (place n).1 (place n).2 c.launch.rows c.launch.cols, s.dies[dieOf e].st = .run
      let fails := s.tryPlace d c = match c.evicted with
        | some n => s.modRegion n fun r => { r with waited := min 255 (r.waited + 1) }
        | none => WithHub s fun h => h.modQueue c.queue fun w => { w with waited := min 255 (w.waited + 1) }
      ((∀ n < 3200, ¬ fits n) → fails) ∧
      (∀ n < 3200, fits n → (∀ m < n, ¬ fits m) →
        (¬ runs n → fails) ∧
        (runs n → c.evicted = none → s.freeNumbers d = [] → fails) ∧
        (runs n → c.evicted = none → ∀ k ∈ s.freeNumbers d, ∃ i ∈ s.freeNumbers d, ∃ r : Region,
          let t := s.tryPlace d c
          t.regions = (s.regions.filter fun x => x.number ≠ 256 * d.val + i) ++ [r] ∧ r.number = 256 * d.val + i ∧ r.phase = .placed ∧
          r.gen = (lookupKey i s.dies[d].gens).getD 0 ∧ r.launch = c.launch ∧ (r.top, r.left) = place n ∧ r.queue = c.queue ∧
          (t.hub.queue c.queue).head = (s.hub.queue c.queue).head + 1 ∧ (t.hub.queue c.queue).cand = none ∧ t.tiles = s.tiles ∧ t.mem = s.mem) ∧
        (runs n → ∀ k, c.evicted = some k → s.tryPlace d c = s.modRegion k fun r => match r.phase with
          | .restoring save _ node tag => { r with phase := .restoring save true node tag, top := (place n).1, left := (place n).2, waited := 0 }
          | _ => r))) ∧
    (∀ d : Fin 8, (s.candidates d).Pairwise fun a b => ¬ (b.class < a.class)) ∧
    (∀ r, s.region r.number = some r →
      (r.phase = .placed → ∀ u, s.loadImage r = .ok u → Completes (.install r.number) s fun t =>
        t = (u.forgetLines r.owner).modRegion r.number fun x => { x with phase := .installed, starts := (u.forgetLines r.owner).startPorts r }) ∧
      (∀ u, s.loadImage r = .ok u → u.mem.hbm = s.mem.hbm ∧ u.mem.lpddr = s.mem.lpddr ∧ u.regions = s.regions ∧
        (∀ t, t ∉ r.tiles → u.tile t = s.tile t) ∧
        ∀ t ∈ r.tiles, (u.tile t).awake = true ∧ (u.tile t).region = some r.number ∧ (u.tile t).cycle = 0 ∧
          (∀ k : Fin 4, (u.tile t).ctxs[k] = (Tile.cleared.ctxs[k]).configured (u.tile t).cfg k) ∧
          (∀ g : Fin 16, (u.tile t).counters[g] = Counter.installed (u.tile t).cfg.beacon[g]) ∧
          (∀ p ∈ u.channelsFrom t, ∃ q ∈ u.channelsFrom t, q.1 = p.1 ∧ (u.tile t).source p.1 = ⟨q.2.2, 0⟩)) ∧
      (r.phase = .installed ∨ r.phase = .running → ∀ k tile c (port : Fin 16), r.starts[k]? = some (tile, c, port) →
        (s.ctxAt tile c).startPorts.getLsbD port.val = true → Completes (.sourceStart r.number k) s fun t =>
          let words := (r.launch.args.toList.take r.launch.argw).map fun w => Entry.mk (w.zeroExtend 256) 0 .direct
          t = (s.modCtx tile c fun y => { y with startQ := y.startQ.set port (y.startQ[port] ++ words) }).modRegion r.number
            fun r => { r.started with starts := r.starts.eraseIdx k }) ∧
      (r.phase = .installed → r.starts = [] → ∀ k, Completes (.sourceStart r.number k) s fun t => t = s.modRegion r.number Region.started) ∧
      (r.preemptDue = none → r.started.phase = .running) ∧
      (r.phase = .running → s.regionIdle r = true → Completes (.regionComplete r.number) s fun t =>
        ∃ u : State, t = ((u.endBales r).beginClose r r.tiles 0).settleClosing ∧ u.tiles = s.tiles ∧ u.regions = s.regions ∧ u.hub = s.hub ∧
          u.mem = s.mem ∧ ∀ b ∈ u.beacons, b.tile ∉ r.tiles)) ∧
    (∀ t r, s.regionOf t = some r →
      let n := (s.tile t).cycle.toNat / 2 ^ (r.launch.winlog + 6)
      (s.tile t).windows < n → Happens (.governorWindow t) s fun u => TileOnly s u t fun x => { x with admitted := 0, windows := n }) ∧
    (∀ t r (k : Fin 64), s.regionOf t = some r → k.val < 32 →
      let x := s.tile t
      let n := x.cfg.cfgGroup k.val
      0 < n → n ≤ (x.sink k.val).cfg.length →
      let f : Frame := BitVec.ofNat 256 (frameOf (x.cfg.sinkBytes k.val) ((x.sink k.val).cfg.take n))
      let u := s.modTile t (·.modSink k.val fun y => { y with cfg := y.cfg.drop n })
      (∀ y, f.kind ≠ 5 → u.frameNames r t f = true → f.shadow = true → (u.tile t).applyFrame f = some y →
        let v := u.setTile t y
        (v.routeOk r t f = true → Completes (.cfgApply t k) s fun w => w = v) ∧
        (v.routeOk r t f = false → Completes (.cfgApply t k) s fun w => w = u.loadFault t f.header)) ∧
      (r.phase ≠ .installed → f.shadow = false → Completes (.cfgApply t k) s fun w => w = u.loadFault t f.header) ∧
      (∀ y, r.phase = .installed → f.shadow = false → f.kind ≠ 5 → u.frameNames r t f = true → (u.tile t).applyFrame f = some y →
        (f.kind ≠ 2 → f.kind ≠ 4 → Completes (.cfgApply t k) s fun w => w = u.setTile t (y.reconfigured (u.tile t).cfg f.kind)) ∧
        (f.kind = 2 ∨ f.kind = 4 → Completes (.cfgApply t k) s fun w => w = (u.applyActive r t y f).getD (u.loadFault t f.header))))

/-- R390-R394: a tile of a region that pauses stops issuing, snapshots once nothing of it is under way, and sends MARK on
every channel that leaves it; when every tile's part is complete and the engines have finished, the region is paused
or evicted and the command is answered OK; a region to be restored that was paused in place runs on, and RESUME is
answered; a saved image that cannot be read back ends the region with KIND 4. Where the rules leave it open, as the
model reads or chooses it: log entries 50 and 70. -/
def Obligations.RegionsPauseAndResume : Prop :=
  ∀ (s : State),
    (∀ t r ev node tag, s.regionOf t = some r → r.phase = .pausing ev node tag → (s.tile t).snapped = false →
      (s.canSnapshot t = false → (s.tile t).stopping = false → Completes (.tileSnapshot t) s fun u =>
        TileOnly s u t fun x => { x with stopping := true }) ∧
      (s.canSnapshot t = true → Completes (.tileSnapshot t) s fun u =>
        let v := (s.dropWalkers [t] []).modTile t Tile.snapshot
        u = (s.channelSources t).foldl (fun s e => s.launch t e ⟨0, 9, .direct⟩) { v with
          dies := v.dies.map fun d => { d with poolWaits := d.poolWaits.filter fun o => o.tile ≠ t } })) ∧
    (∀ t c, (s.tile t).stopping = true → Stalls (.dispatch t c) s) ∧
    (∀ r node tag ev, s.region r.number = some r → r.phase = .pausing ev node tag → (∀ t ∈ r.tiles, s.tilePart t = true) →
      s.enginesDone r = true → (∀ a, ev = some a → s.imageHeld (s.images r) a = false) → Completes (.snapshotComplete r.number) s fun u => ∃ v : State, v.tiles = s.tiles ∧
        (∀ b ∈ v.beacons, b.tile ∉ r.tiles) ∧
        (ev = none → u = (v.modRegion r.number fun r => { r with phase := .paused }).respond node tag 0x31 0 []) ∧
        ∀ a, ev = some a → u = (v.evictTiles r a).respond node tag 0x32 0 []) ∧
    (∀ r save node tag, s.region r.number = some r → r.phase = .restoring save true node tag →
      (r.saved ≠ [] → s.imageHeld r.saved save = false → s.imageGood r save = false → Completes (.regionRestore r.number) s fun u =>
        u = s.regionFault r.number ⟨Cause.poison, 4, 0, 0, 0, 0⟩) ∧
      (r.saved = [] → Completes (.regionRestore r.number) s fun u =>
        let awake := fun (s : State) t => s.modTile t (·.resumed s.dies[t.dieIx].clock)
        let w := r.tiles.foldl State.recredit (r.tiles.foldl awake s)
        let w := (w.modRegion r.number fun r => { r with phase := .running, reel := r.reel.map fun f => { f with
          entryCredits := if f.laid then 15 - ((w.tile (r.slotTile f 0 0 0)).sink 31).credited else 0 } }).resubmitAll r
        let w := w.rewatch r
        u = ((r.tiles.foldl State.rewake w).forgetXfers r false).respond node tag 0x33 0 []))

/-- R11, R104, R423, R426, R429, R430: power coming brings the part up from flash, the incarnation one higher; a die at
125 °C or more, and power going, leave flash and the counters, and nothing else; a clock step ends with its die at the
new step, the first command that waited for it answered and the next one begun; a remapping ends with the column's
mark cleared and one spare fewer. Where the rules leave it open, as the model reads or chooses it: log entries 7, 10,
76, 77 and 88. -/
def Obligations.PlatformHappenings : Prop :=
  ∀ (s : State),
    (Completes .powerUp s fun t => t.hub.nvm.incarnation = s.hub.nvm.incarnation + 1 ∧ t.tiles = [] ∧ t.regions = [] ∧ t.mem = State.reset.mem ∧
      (t.power = if imageAccepted s.hub.nvm.image s.hub.nvm.minVersion then .on else .recovery)) ∧
    (∀ n, n < 10 → 2000 ≤ (s.temperature n).toInt → Completes (.thermalTrip n) s fun t =>
      t.hub.nvm = { s.hub.nvm with trips := s.hub.nvm.trips + 1 } ∧ t.power = .off ∧ t.tiles = [] ∧ t.regions = [] ∧ t.mem = State.reset.mem) ∧
    (Completes .modulePowerOff s fun t => t.hub.nvm = s.hub.nvm ∧ t.power = .off ∧ t.tiles = [] ∧ t.regions = [] ∧ t.mem = State.reset.mem) ∧
    (∀ (d : Fin 8) st, s.dies[d].clockStopped = some st →
      let waiting := s.hub.waiting.filter fun w => w.op == 0x21 && w.arg % 8 == d.val
      (waiting = [] → Happens (.clockstepResume d) s fun t => t = s.modDie d fun x => { x with step := st, clockStopped := none }) ∧
      ∀ w rest, waiting = w :: rest → Happens (.clockstepResume d) s fun t =>
        t.dies[d].step = st ∧ t.dies[d].clockStopped = rest.head?.map (fun v => BitVec.ofNat 4 (v.arg / 8)) ∧ t.tiles = s.tiles ∧
        t.hub.toHost = s.hub.toHost ++ [(w.node, HostMsg.record ⟨w.node, 0x21, 0, w.tag, []⟩)]) ∧
    (∀ (d : Fin 8) col n node tag, s.dies[d].repairing = some (col, n, node, tag) → Happens (.repairEnd d) s fun t =>
      t.dies[d].repairing = none ∧ t.dies[d].failed = s.dies[d].failed.erase col ∧ t.dies[d].spares = s.dies[d].spares + 1 ∧
      t.hub.nvm.repairMap = s.hub.nvm.repairMap ++ [(d.val, col)] ∧
      t.hub.toHost = s.hub.toHost ++ [(node, HostMsg.record ⟨node, 0x23, 0, tag, []⟩)])

/-! Issue, traps, decoding and memory. -/

/-- R38, R51, R53, R55: an instruction whose guard is off retires with no effect; the last index raises ILL, whatever the
guard of an instruction that goes on at the next index, and for any whose guard is off; a supervisor instruction
raises PRIV in user mode, whatever its guard. Where the rules leave it open, as the model reads or chooses it: log
entries 36 and 39. -/
def Obligations.GuardsPrivilegeAndTheLastIndex : Prop :=
  ∀ (g : Guard) (a : FmtA) (b : FmtB) (c : FmtC) (m : FmtM) (q : FmtQ) (r : FmtS) (s : State) (i : Instr),
    let whole := i ∈ wholeForms g a b m q r
    let jump := i ∈ jumpForms g b c q r
    let lanes := i ∈ laneForms g a
    let allowed := i ∈ supervisorForms g m q r → s.cur.mode = .supervisor
    (whole ∨ jump → allowed → s.cur.guardOn g = false → s.cur.pc ≠ 2047 → Completes i s fun t => Retired s t) ∧
    (s.cur.trapped = false →
      (whole ∨ jump → allowed → s.cur.guardOn g = false → s.cur.pc = 2047 → Completes i s fun t => Trapped s t Cause.ill 0 s.curWord) ∧
      (whole ∨ lanes → allowed → s.cur.pc = 2047 → Completes i s fun t => Trapped s t Cause.ill 0 s.curWord) ∧
      (i ∈ supervisorForms g m q r → s.cur.mode = .user → Completes i s fun t => Trapped s t Cause.priv 0 s.curWord))

/-- R108, R109, R384, R395: when a tile that runs takes a cycle and the context that its counter names can issue, has its
instruction ready, and holds at its index a word that decodes, the step executes that instruction; it then marks its
result and unit busy, notes the halt of STEP, lets no request for a slot outlive the instruction, gives the next
context its turn, ends the cycle, halts contexts that a HALT waits for, and counts the cycle on the die's clock. A
LATE that is not masked is taken in place of the instruction, also where the context stands at a `blwait` or
`blcommit` that is not eligible yet. A happening at the head of the agenda is executed as it stands. What follows a
move changes nothing where no command waits and no flit of a bale has found its node without a port. Where the rules
leave it open, as the model reads or chooses it: log entries 1, 79, 103 and 104. -/
def Obligations.StepRunsTheDecodedInstruction : Prop :=
  (∀ (s : State) (t : TileId) (i : Instr) (u : State), s.nextMove = .cycle t → s.power ≠ .off →
    let v := { s with agenda := s.agenda.tail, stalled := false, here := t }
    let x := { v with ctx := (v.tile t).k }
    let closes := fun (z : State) =>
      let w := if z.cur.slotReq = x.cur.slotReq then z.modCur fun d => { d with slotReq := none } else z
      let e := (w.modCurTile fun a => { a with k := w.ctx + 1 }).modTile t fun a => if a.awake then a.endCycle else a
      let now := (e.tile t).cycle.toNat
      step s = .next (((List.finRange 4).foldl (fun u c => u.serveHalt t c now) e).modDie t.dieIx
        (·.tick ((e.tile t).born + now))).afterMove
    v.tileRuns t = true → (v.tile t).stopping = false → x.cur.run = .running → x.cur.stepDue = none → x.cur.haltDue = none →
    x.cur.busyUntil ≤ x.curTile.cycle.toNat → u.stalled = false → u.curTile.awake = true →
    (x.cur.wait = .none → x.ready i x.curWord = true → (x.cur.evLate && x.cur.evmask && !x.cur.trapped) = false →
      x.curTile.storeBad.contains x.cur.pc.toNat = false → decode x.curWord = .ok i → exec i x = .next u →
      let entered := u.cur.trapped = true ∧ x.cur.trapped = false
      let y := if ¬ entered ∧ x.cur.executes x.curWord = true then
        u.modCurTile (·.occupy u.ctx x.curWord (x.curTile.conflicts x.ctx i)) else u
      closes (if x.cur.dbgStep = true ∧ y.cur.wait.unissued = false then y.modCur fun d => match d.run with
          | .halted _ => d
          | _ => { d with stepDue := some x.cur.pc } else y)) ∧
    (x.cur.wait = .none ∨ (∃ d h, x.cur.wait = .bale d h ∨ x.cur.wait = .commit d h) →
      x.cur.evLate = true → x.cur.evmask = true → x.cur.trapped = false → exec .lateTrap x = .next u → closes u)) ∧
  (∀ (s u : State) (i : Instr) (rest : List Move), s.agenda = .happen i :: rest → issuedOnly i = false → s.power ≠ .off ∨ i = .powerUp →
    exec i { s with agenda := rest, stalled := false } = .next u → step s = .next u.afterMove) ∧
  (∀ u : State, u.hub.waiting = [] → u.hub.unrouted = [] → u.afterMove = u)

/-- R37-R53: words written out from the formats decode to the instructions that they stand for, and words with an unlisted COND, a
reserved bit set, a vector register beyond v15 or a zero MAJ to none. -/
def Obligations.WordsDecode : Prop :=
  decode 0x01031900FFFFFFFA = .ok (.blt ⟨0, false⟩ ⟨3, 4, 0xFFFFFFFA⟩) ∧
  decode 0x70004A60510FFFF8 = .ok (.gst ⟨0, false⟩ ⟨5, 6, 0, 2, .pkg, .i32, 0, 0xFFFF8⟩) ∧
  decode 0x8000005008500000 = .ok (.send ⟨0, false⟩ ⟨0, 5, 0, 1, 0, 0x50, 0⟩) ∧
  decode 0xC0000E0001100000 = .ok (.sysrd ⟨0, false⟩ ⟨7, 0, 0x11⟩) ∧
  decode 0xC071C00000000000 = .ok (.chalt ⟨3, true⟩ ⟨0, 0, 0⟩) ∧
  decode 0x1000064280C00001 = .error .ill ∧ decode 0x010A000000000000 = .error .ill ∧ decode 0x3000220000000000 = .error .ill ∧
  decode 0x00000000000000FF = .error .zero ∧ decode 0xFF00000000000000 = .error .ill

/-- R37-R53: the decoder reads every operand of a well-formed instruction from the word that the encoder makes of it. -/
def Obligations.DecodeOfEncode : Prop :=
  ∀ (i : Instr) (w : Word), encode i = some w → i.wf = true → decode w = .ok i

/-- R37-R53: a word that decodes to an instruction is the word that the encoder makes of it: two words never stand for one
instruction, and no bit of a word is ignored. -/
def Obligations.EncodeOfDecode : Prop :=
  ∀ (i : Instr) (w : Word), decode w = .ok i → encode i = some w

/-- After reset the memories of the package have their canonical form; nothing is listed in them (log entry 7). -/
def Obligations.ResetMemoryIsCanonical : Prop :=
  MemoryWf State.reset ∧ State.reset.mem.hbm = [] ∧ State.reset.mem.lpddr = [] ∧ State.reset.tiles = []

/-- Computation and control flow, the traps they take, and what writes memory keep the memories in their canonical form, so that equal
memories stay equal data: a queued scratch store, what a slice or an atomic unit performs, a packet of a transfer, a bale's decision, an
element of a stream, PAGEINIT, ATTEST, CTXWR, RESOLVE, an install, an eviction, a restoration, and power coming or going. -/
def Obligations.MemoryStaysCanonical : Prop :=
  ∀ (g : Guard) (a : FmtA) (b : FmtB) (c : FmtC) (i : Instr) (s t : State),
    (i ∈ computeForms g a b c ∨ (∃ k n, i = .storeQueuePerform k n) ∨ (∃ r, i = .slicePerform r ∨ i = .atomicPerform r) ∨
      (∃ id l, i = .transferPacketLand id l) ∨ (∃ k, i = .baleDecisionApply k) ∨
      (∃ k n, i = .readStreamElement k n ∨ i = .writeStreamElement k n) ∨
      (∃ cmd, i ∈ [Instr.pageinit cmd, .attest cmd, .ctxwr cmd, .resolve cmd]) ∨
      (∃ n, i ∈ [Instr.install n, .snapshotComplete n, .regionRestore n]) ∨ i = .powerUp ∨ i = .modulePowerOff ∨ ∃ n, i = .thermalTrip n) →
    MemoryWf s → exec i s = .next t → MemoryWf t
end

