-- ==== Sys2Proof/Laws/Encoding.lean ====
section
/-! SUPPORT. The fields of an encoded word: what the encoder places, the decoder's extractions give back. -/

namespace Sys2Proof

theorem extract_or {n s m : Nat} (a b : BitVec n) : (a ||| b).extractLsb' s m = a.extractLsb' s m ||| b.extractLsb' s m := by
  apply BitVec.eq_of_getLsbD_eq
  intro i hi
  simp [hi]

/-- A field placed and read at one place. -/
theorem extract_place_same {n : Nat} (x : BitVec n) (lo : Nat) (h : lo + n ≤ 64) : (place x lo).extractLsb' lo n = x := by
  apply BitVec.eq_of_getLsbD_eq
  intro i hi
  simp only [BitVec.getLsbD_extractLsb', place, BitVec.getLsbD_shiftLeft, BitVec.getLsbD_setWidth, BitVec.truncate_eq_setWidth, hi]
  have h1 : ¬ lo + i < lo := by omega
  have h2 : lo + i < 64 := by omega
  have h3 : lo + i - lo = i := by omega
  have h4 : i < 64 := by omega
  simp [h1, h2, h3, h4]

/-- A field placed below or above the bits read. -/
theorem extract_place_other {n : Nat} (x : BitVec n) (lo s m : Nat) (h : lo + n ≤ s ∨ s + m ≤ lo) : (place x lo).extractLsb' s m = 0#m := by
  apply BitVec.eq_of_getLsbD_eq
  intro i hi
  simp only [BitVec.getLsbD_extractLsb', place, BitVec.getLsbD_shiftLeft, BitVec.getLsbD_setWidth, BitVec.truncate_eq_setWidth, hi]
  rcases h with h | h
  · have : n ≤ s + i - lo := by omega
    simp [BitVec.getLsbD_of_ge x _ this]
  · have h1 : s + i < lo := by omega
    simp [h1]

theorem getLsbD_place_same (b : Bool) (lo : Nat) (h : lo < 64) : (placeBit b lo).getLsbD lo = b := by
  simp only [placeBit, place, BitVec.getLsbD_shiftLeft, BitVec.getLsbD_setWidth, BitVec.truncate_eq_setWidth]
  simp [h]

theorem getLsbD_place_other {n : Nat} (x : BitVec n) (lo s : Nat) (h : lo + n ≤ s ∨ s < lo) : (place x lo).getLsbD s = false := by
  simp only [place, BitVec.getLsbD_shiftLeft, BitVec.getLsbD_setWidth, BitVec.truncate_eq_setWidth]
  rcases h with h | h
  · have : n ≤ s - lo := by omega
    simp [BitVec.getLsbD_of_ge x _ this]
  · simp [h]

theorem extract_placeBit_other (b : Bool) (lo s m : Nat) (h : lo + 1 ≤ s ∨ s + m ≤ lo) : (placeBit b lo).extractLsb' s m = 0#m :=
  extract_place_other _ lo s m h

theorem getLsbD_placeBit_other (b : Bool) (lo s : Nat) (h : lo + 1 ≤ s ∨ s < lo) : (placeBit b lo).getLsbD s = false :=
  getLsbD_place_other _ lo s h

theorem Ty.ofCode_code (t : Ty) : Ty.ofCode t.code = some t := by cases t <;> decide
theorem RM.ofCode_code (r : RM) : RM.ofCode r.code = r := by cases r <;> decide
theorem Scope.ofCode_code (c : Scope) : Scope.ofCode c.code = c := by cases c <;> decide

/-! Format by format. -/

theorem majOf_encA (maj fn : Nat) (g : Guard) (o : FmtA) : majOf (encA maj fn g o) = maj % 256 := by
  simp [majOf, encA, encHead, encFn, extract_or, extract_place_same, extract_place_other, extract_placeBit_other]

theorem guardOf_encA (maj fn : Nat) (g : Guard) (o : FmtA) : guardOf (encA maj fn g o) = g := by
  simp (disch := decide) only [guardOf, encA, encHead, encFn, extract_or, BitVec.getLsbD_or, extract_place_same,
    extract_place_other, extract_placeBit_other, getLsbD_place_same, getLsbD_place_other, getLsbD_placeBit_other,
    BitVec.zero_or, BitVec.or_zero, Bool.false_or, Bool.or_false]

theorem fieldsA_encA (maj fn : Nat) (g : Guard) (o : FmtA) : fieldsA (encA maj fn g o) = some o := by
  simp (disch := decide) only [fieldsA, encA, encHead, encFn, extract_or, BitVec.getLsbD_or, extract_place_same,
    extract_place_other, extract_placeBit_other, getLsbD_place_same, getLsbD_place_other, getLsbD_placeBit_other,
    Ty.ofCode_code, RM.ofCode_code, BitVec.zero_or, BitVec.or_zero, Bool.false_or, Bool.or_false,
    if_pos]

theorem fnOf_encA (maj fn : Nat) (g : Guard) (o : FmtA) : fnOf (encA maj fn g o) = fn % 64 := by
  simp [fnOf, encA, encHead, encFn, extract_or, extract_place_same, extract_place_other, extract_placeBit_other]

theorem majOf_encB (maj fn : Nat) (g : Guard) (o : FmtB) : majOf (encB maj fn g o) = maj % 256 := by
  simp [majOf, encB, encHead, encFn, extract_or, extract_place_same, extract_place_other, extract_placeBit_other]

theorem guardOf_encB (maj fn : Nat) (g : Guard) (o : FmtB) : guardOf (encB maj fn g o) = g := by
  simp (disch := decide) only [guardOf, encB, encHead, encFn, extract_or, BitVec.getLsbD_or, extract_place_same,
    extract_place_other, extract_placeBit_other, getLsbD_place_same, getLsbD_place_other,
    BitVec.zero_or, BitVec.or_zero, Bool.false_or, Bool.or_false]

theorem fieldsB_encB (maj fn : Nat) (g : Guard) (o : FmtB) : fieldsB (encB maj fn g o) = some o := by
  simp (disch := decide) only [fieldsB, encB, encHead, encFn, extract_or, extract_place_same,
    extract_place_other, extract_placeBit_other,
    Ty.ofCode_code, BitVec.zero_or, BitVec.or_zero]

theorem fnOf_encB (maj fn : Nat) (g : Guard) (o : FmtB) : fnOf (encB maj fn g o) = fn % 64 := by
  simp [fnOf, encB, encHead, encFn, extract_or, extract_place_same, extract_place_other, extract_placeBit_other]

theorem majOf_encC (maj cond : Nat) (g : Guard) (o : FmtC) : majOf (encC maj cond g o) = maj % 256 := by
  simp [majOf, encC, encHead, extract_or, extract_place_same, extract_place_other, extract_placeBit_other]

theorem guardOf_encC (maj cond : Nat) (g : Guard) (o : FmtC) : guardOf (encC maj cond g o) = g := by
  simp (disch := decide) only [guardOf, encC, encHead, extract_or, BitVec.getLsbD_or, extract_place_same,
    extract_place_other, extract_placeBit_other, getLsbD_place_same, getLsbD_place_other,
    BitVec.zero_or, BitVec.or_zero, Bool.false_or, Bool.or_false]

theorem fieldsC_encC (maj cond : Nat) (g : Guard) (o : FmtC) : fieldsC (encC maj cond g o) = some o := by
  simp (disch := decide) only [fieldsC, encC, encHead, extract_or, extract_place_same,
    extract_place_other, extract_placeBit_other,
    BitVec.zero_or, BitVec.or_zero,
    if_pos]

theorem cond_encC (maj cond : Nat) (g : Guard) (o : FmtC) : ((encC maj cond g o).extractLsb' 48 4).toNat = cond % 16 := by
  simp [encC, encHead, extract_or, extract_place_same, extract_place_other, extract_placeBit_other]

theorem majOf_encM (maj fn : Nat) (g : Guard) (o : FmtM) : majOf (encM maj fn g o) = maj % 256 := by
  simp [majOf, encM, encHead, encFn, extract_or, extract_place_same, extract_place_other, extract_placeBit_other]

theorem guardOf_encM (maj fn : Nat) (g : Guard) (o : FmtM) : guardOf (encM maj fn g o) = g := by
  simp (disch := decide) only [guardOf, encM, encHead, encFn, extract_or, BitVec.getLsbD_or, extract_place_same,
    extract_place_other, extract_placeBit_other, getLsbD_place_same, getLsbD_place_other,
    BitVec.zero_or, BitVec.or_zero, Bool.false_or, Bool.or_false]

theorem fieldsM_encM (maj fn : Nat) (g : Guard) (o : FmtM) : fieldsM (encM maj fn g o) = some o := by
  simp (disch := decide) only [fieldsM, encM, encHead, encFn, extract_or, extract_place_same,
    extract_place_other, extract_placeBit_other,
    Ty.ofCode_code, Scope.ofCode_code, BitVec.zero_or, BitVec.or_zero]

theorem fnOf_encM (maj fn : Nat) (g : Guard) (o : FmtM) : fnOf (encM maj fn g o) = fn % 64 := by
  simp [fnOf, encM, encHead, encFn, extract_or, extract_place_same, extract_place_other, extract_placeBit_other]

theorem majOf_encQ (maj fn : Nat) (g : Guard) (o : FmtQ) : majOf (encQ maj fn g o) = maj % 256 := by
  simp [majOf, encQ, encHead, encFn, extract_or, extract_place_same, extract_place_other, extract_placeBit_other]

theorem guardOf_encQ (maj fn : Nat) (g : Guard) (o : FmtQ) : guardOf (encQ maj fn g o) = g := by
  simp (disch := decide) only [guardOf, encQ, encHead, encFn, extract_or, BitVec.getLsbD_or, extract_place_same,
    extract_place_other, extract_placeBit_other, getLsbD_place_same, getLsbD_place_other,
    BitVec.zero_or, BitVec.or_zero, Bool.false_or, Bool.or_false]

theorem fieldsQ_encQ (maj fn : Nat) (g : Guard) (o : FmtQ) : fieldsQ (encQ maj fn g o) = some o := by
  simp (disch := decide) only [fieldsQ, encQ, encHead, encFn, extract_or, extract_place_same,
    extract_place_other, extract_placeBit_other,
    BitVec.zero_or, BitVec.or_zero]

theorem fnOf_encQ (maj fn : Nat) (g : Guard) (o : FmtQ) : fnOf (encQ maj fn g o) = fn % 64 := by
  simp [fnOf, encQ, encHead, encFn, extract_or, extract_place_same, extract_place_other, extract_placeBit_other]

theorem majOf_encS (maj fn : Nat) (g : Guard) (o : FmtS) : majOf (encS maj fn g o) = maj % 256 := by
  simp [majOf, encS, encHead, encFn, extract_or, extract_place_same, extract_place_other, extract_placeBit_other]

theorem guardOf_encS (maj fn : Nat) (g : Guard) (o : FmtS) : guardOf (encS maj fn g o) = g := by
  simp (disch := decide) only [guardOf, encS, encHead, encFn, extract_or, BitVec.getLsbD_or, extract_place_same,
    extract_place_other, extract_placeBit_other, getLsbD_place_same, getLsbD_place_other,
    BitVec.zero_or, BitVec.or_zero, Bool.false_or, Bool.or_false]

theorem fieldsS_encS (maj fn : Nat) (g : Guard) (o : FmtS) : fieldsS (encS maj fn g o) = some o := by
  simp (disch := decide) only [fieldsS, encS, encHead, encFn, extract_or, extract_place_same,
    extract_place_other, extract_placeBit_other,
    BitVec.zero_or, BitVec.or_zero,
    if_pos]

theorem fnOf_encS (maj fn : Nat) (g : Guard) (o : FmtS) : fnOf (encS maj fn g o) = fn % 64 := by
  simp [fnOf, encS, encHead, encFn, extract_or, extract_place_same, extract_place_other, extract_placeBit_other]

/-! A word put together again from its fields. -/

/-- Two neighbouring fields of a word, placed where they were read. -/
theorem place_merge (w : Word) (lo n m : Nat) (h : lo + n + m ≤ 64) :
    place (w.extractLsb' (lo + n) m) (lo + n) ||| place (w.extractLsb' lo n) lo = place (w.extractLsb' lo (n + m)) lo := by
  apply BitVec.eq_of_getLsbD_eq
  intro i hi
  simp only [place, BitVec.getLsbD_or, BitVec.getLsbD_shiftLeft, BitVec.getLsbD_setWidth, BitVec.truncate_eq_setWidth,
    BitVec.getLsbD_extractLsb', hi, decide_true, Bool.true_and]
  by_cases h1 : i < lo
  · simp [h1, show i < lo + n by omega]
  · by_cases h2 : i < lo + n
    · have h3 : i - lo < n := by omega
      have h4 : i - lo < n + m := by omega
      have h5 : i - lo < 64 := by omega
      have h6 : lo + (i - lo) = i := by omega
      simp [h1, h2, h3, h4, h5, h6]
    · have h3 : ¬ i - lo < n := by omega
      have h5 : i - lo < 64 := by omega
      have h6 : lo + (i - lo) = i := by omega
      have h7 : i - (lo + n) < 64 := by omega
      have h8 : lo + n + (i - (lo + n)) = i := by omega
      have h9 : decide (i - (lo + n) < m) = decide (i - lo < n + m) := by
        rw [decide_eq_decide]; omega
      simp [h1, h2, h3, h5, h6, h7, h8, h9]

theorem placeBit_getLsbD (w : Word) (k : Nat) : placeBit (w.getLsbD k) k = place (w.extractLsb' k 1) k := by
  unfold placeBit
  congr 1
  apply BitVec.eq_of_getLsbD_eq
  intro i hi
  have : i = 0 := by omega
  subst this
  simp

theorem place_whole (w : Word) : place (w.extractLsb' 0 64) 0 = w := by
  apply BitVec.eq_of_getLsbD_eq
  intro i hi
  simp [place, hi]

theorem Ty.code_ofCode {c : BitVec 4} {t : Ty} (h : Ty.ofCode c = some t) : t.code = c := by
  revert c t; decide

theorem RM.code_ofCode (c : BitVec 2) : (RM.ofCode c).code = c := by revert c; decide
theorem Scope.code_ofCode (c : BitVec 2) : (Scope.ofCode c).code = c := by revert c; decide

theorem encHead_of (w : Word) : encHead (majOf w) (guardOf w) = place (w.extractLsb' 52 12) 52 := by
  simp only [encHead, majOf, guardOf, BitVec.ofNat_toNat, BitVec.setWidth_eq, placeBit_getLsbD]
  rw [place_merge w 53 3 8 (by decide), place_merge w 52 1 11 (by decide)]

theorem encFn_of (w : Word) : encHead (majOf w) (guardOf w) ||| encFn (fnOf w) = place (w.extractLsb' 46 18) 46 := by
  rw [encHead_of]
  simp only [encFn, fnOf, BitVec.ofNat_toNat, BitVec.setWidth_eq]
  rw [place_merge w 46 6 12 (by decide)]

theorem encA_of_fields {w : Word} {o : FmtA} (h : fieldsA w = some o) : encA (majOf w) (fnOf w) (guardOf w) o = w := by
  unfold fieldsA at h
  split at h
  · exact nomatch h
  · rename_i ty ht
    split at h
    · rename_i hz
      obtain rfl := Option.some.inj h
      have z : place (w.extractLsb' 0 16) 0 = 0#64 := by rw [hz]; decide
      unfold encA
      simp only [encFn_of, Ty.code_ofCode ht, RM.code_ofCode, placeBit_getLsbD]
      rw [place_merge w 41 5 18 (by decide), place_merge w 36 5 23 (by decide), place_merge w 31 5 28 (by decide),
        place_merge w 26 5 33 (by decide), place_merge w 22 4 38 (by decide), place_merge w 20 2 42 (by decide),
        place_merge w 19 1 44 (by decide), place_merge w 18 1 45 (by decide), place_merge w 16 2 46 (by decide)]
      have e := place_merge w 0 16 48 (by decide)
      rw [z, BitVec.or_zero] at e
      exact e.trans (place_whole w)
    · exact nomatch h

theorem encB_of_fields {w : Word} {o : FmtB} (h : fieldsB w = some o) : encB (majOf w) (fnOf w) (guardOf w) o = w := by
  unfold fieldsB at h
  split at h
  · exact nomatch h
  · rename_i ty ht
    obtain rfl := Option.some.inj h
    unfold encB
    simp only [encFn_of, Ty.code_ofCode ht]
    rw [place_merge w 41 5 18 (by decide), place_merge w 36 5 23 (by decide), place_merge w 32 4 28 (by decide)]
    exact (place_merge w 0 32 32 (by decide)).trans (place_whole w)

theorem encC_of_fields {w : Word} {o : FmtC} (h : fieldsC w = some o) :
    encC (majOf w) (w.extractLsb' 48 4).toNat (guardOf w) o = w := by
  unfold fieldsC at h
  split at h
  · rename_i hz
    obtain rfl := Option.some.inj h
    have z : place (w.extractLsb' 32 6) 32 = 0#64 := by rw [hz]; decide
    unfold encC
    simp only [encHead_of, BitVec.ofNat_toNat, BitVec.setWidth_eq]
    rw [place_merge w 48 4 12 (by decide), place_merge w 43 5 16 (by decide), place_merge w 38 5 21 (by decide)]
    have e := place_merge w 32 6 26 (by decide)
    rw [z, BitVec.or_zero] at e
    rw [e]
    exact (place_merge w 0 32 32 (by decide)).trans (place_whole w)
  · exact nomatch h

theorem encM_of_fields {w : Word} {o : FmtM} (h : fieldsM w = some o) : encM (majOf w) (fnOf w) (guardOf w) o = w := by
  unfold fieldsM at h
  split at h
  · exact nomatch h
  · rename_i ty ht
    obtain rfl := Option.some.inj h
    unfold encM
    simp only [encFn_of, Ty.code_ofCode ht, Scope.code_ofCode]
    rw [place_merge w 41 5 18 (by decide), place_merge w 36 5 23 (by decide), place_merge w 31 5 28 (by decide),
      place_merge w 29 2 33 (by decide), place_merge w 27 2 35 (by decide), place_merge w 23 4 37 (by decide),
      place_merge w 20 3 41 (by decide)]
    exact (place_merge w 0 20 44 (by decide)).trans (place_whole w)

theorem encQ_of_fields {w : Word} {o : FmtQ} (h : fieldsQ w = some o) : encQ (majOf w) (fnOf w) (guardOf w) o = w := by
  unfold fieldsQ at h
  obtain rfl := Option.some.inj h
  unfold encQ
  simp only [encFn_of]
  rw [place_merge w 41 5 18 (by decide), place_merge w 36 5 23 (by decide), place_merge w 31 5 28 (by decide),
    place_merge w 27 4 33 (by decide), place_merge w 23 4 37 (by decide), place_merge w 16 7 41 (by decide)]
  exact (place_merge w 0 16 48 (by decide)).trans (place_whole w)

theorem encS_of_fields {w : Word} {o : FmtS} (h : fieldsS w = some o) : encS (majOf w) (fnOf w) (guardOf w) o = w := by
  unfold fieldsS at h
  split at h
  · rename_i hz
    obtain rfl := Option.some.inj h
    have z : place (w.extractLsb' 0 20) 0 = 0#64 := by rw [hz]; decide
    unfold encS
    simp only [encFn_of]
    rw [place_merge w 41 5 18 (by decide), place_merge w 36 5 23 (by decide), place_merge w 20 16 28 (by decide)]
    have e := place_merge w 0 20 44 (by decide)
    rw [z, BitVec.or_zero] at e
    exact e.trans (place_whole w)
  · exact nomatch h

/-- No word decodes to the happening of a pending LATE. -/
theorem decode_ne_lateTrap (w : Word) (i : Instr) (h : decode w = .ok i) : i ≠ .lateTrap := by
  have hc : construct w = some i := by
    unfold decode at h
    split at h
    · cases h
    · split at h
      · cases h
      · split at h
        · cases h; assumption
        · cases h
  rintro rfl
  unfold construct at hc
  split at hc <;> first
    | cases hc
    | (simp only [Option.bind_eq_some_iff, Option.map_eq_some_iff] at hc
       obtain ⟨o, -, k, hk, he⟩ := hc
       simp only [ctor01, ctor02, ctor10, ctor11, ctor12, ctor13, ctor14, ctor30, ctor31, ctor32, ctor33, ctor34, ctor50, ctor52, ctor60, ctor70, ctor72, ctor74, ctor80, ctor82, ctor90, ctor92, ctorA0, ctorA4, ctorA5, ctorB0, ctorC0] at hk
       (repeat' split at hk) <;> (cases hk <;> cases he))

end Sys2Proof
end

