-- ==== Sys2Proof/Laws/State.lean ====
section
/-! SUPPORT. What each update of the state leaves of each field: one lemma per field and update. -/

namespace Sys2Proof

open Sys2Proof.Machine

/-! Lists of pairs. -/

@[simp] theorem lookupKey_putKey_same {κ α : Type} [DecidableEq κ] (k : κ) (a : α) (l : List (κ × α)) :
    lookupKey k (putKey k a l) = some a := by
  induction l with
  | nil => simp [putKey, lookupKey]
  | cons x rest ih =>
    obtain ⟨k', a'⟩ := x
    by_cases h : k' = k
    · simp [putKey, lookupKey, h]
    · simp [putKey, lookupKey, h, ih]

theorem lookupKey_putKey_other {κ α : Type} [DecidableEq κ] {k j : κ} (h : j ≠ k) (a : α) (l : List (κ × α)) :
    lookupKey j (putKey k a l) = lookupKey j l := by
  induction l with
  | nil => simp [putKey, lookupKey, h.symm]
  | cons x rest ih =>
    obtain ⟨k', a'⟩ := x
    by_cases hk : k' = k
    · simp [putKey, lookupKey, hk, h.symm]
    · simp [putKey, lookupKey, hk, ih]

theorem lookupKey_dropKey_same {κ α : Type} [DecidableEq κ] (k : κ) (l : List (κ × α)) :
    lookupKey k (dropKey k l) = none := by
  induction l with
  | nil => rfl
  | cons x rest ih =>
    obtain ⟨k', a'⟩ := x
    by_cases h : k' = k
    · simp [dropKey, h, ih]
    · simp [dropKey, lookupKey, h, ih]

/-- What holds of every pair and of a new value holds of every pair after a put. -/
theorem mem_putKey {κ α : Type} [DecidableEq κ] {k : κ} {a : α} {l : List (κ × α)} {x : κ × α}
    (h : x ∈ putKey k a l) : x = (k, a) ∨ x ∈ l := by
  induction l with
  | nil => simpa [putKey] using h
  | cons y rest ih =>
    obtain ⟨k', a'⟩ := y
    by_cases hk : k' = k
    · simp [putKey, hk] at h
      rcases h with h | h
      · exact .inl h
      · exact .inr (.tail _ h)
    · simp [putKey, hk] at h
      rcases h with h | h
      · exact .inr (by simp [h])
      · rcases ih h with h | h
        · exact .inl h
        · exact .inr (.tail _ h)

theorem mem_dropKey {κ α : Type} [DecidableEq κ] {k : κ} {l : List (κ × α)} {x : κ × α} (h : x ∈ dropKey k l) : x ∈ l := by
  induction l with
  | nil => simp [dropKey] at h
  | cons y rest ih =>
    obtain ⟨k', a'⟩ := y
    by_cases hk : k' = k
    · simp [dropKey, hk] at h
      exact .tail _ (ih h)
    · simp [dropKey, hk] at h
      rcases h with h | h
      · simp [h]
      · exact .tail _ (ih h)

theorem mem_of_lookupKey {κ α : Type} [DecidableEq κ] {k : κ} {a : α} {l : List (κ × α)} (h : lookupKey k l = some a) :
    (k, a) ∈ l := by
  induction l with
  | nil => simp [lookupKey] at h
  | cons y rest ih =>
    obtain ⟨k', a'⟩ := y
    by_cases hk : k' = k
    · simp [lookupKey, hk] at h
      simp [hk, h]
    · simp [lookupKey, hk] at h
      exact .tail _ (ih h)

end Sys2Proof

namespace Sys2Proof.Machine


/-! Registers of a context. -/

@[simp] theorem Ctx.setS_v (c : Ctx) (i : Reg) (x : Word) : (c.setS i x).v = c.v := by unfold Ctx.setS; split <;> rfl
@[simp] theorem Ctx.setS_p (c : Ctx) (i : Reg) (x : Word) : (c.setS i x).p = c.p := by unfold Ctx.setS; split <;> rfl
@[simp] theorem Ctx.setS_pc (c : Ctx) (i : Reg) (x : Word) : (c.setS i x).pc = c.pc := by unfold Ctx.setS; split <;> rfl
@[simp] theorem Ctx.setS_mode (c : Ctx) (i : Reg) (x : Word) : (c.setS i x).mode = c.mode := by unfold Ctx.setS; split <;> rfl
@[simp] theorem Ctx.setS_run (c : Ctx) (i : Reg) (x : Word) : (c.setS i x).run = c.run := by unfold Ctx.setS; split <;> rfl
@[simp] theorem Ctx.setS_last (c : Ctx) (i : Reg) (x : Word) : (c.setS i x).last = c.last := by unfold Ctx.setS; split <;> rfl
@[simp] theorem Ctx.setS_tasks (c : Ctx) (i : Reg) (x : Word) : (c.setS i x).tasks = c.tasks := by unfold Ctx.setS; split <;> rfl
@[simp] theorem Ctx.setS_ports (c : Ctx) (i : Reg) (x : Word) : (c.setS i x).ports = c.ports := by unfold Ctx.setS; split <;> rfl
@[simp] theorem Ctx.setS_startPorts (c : Ctx) (i : Reg) (x : Word) : (c.setS i x).startPorts = c.startPorts := by unfold Ctx.setS; split <;> rfl
@[simp] theorem Ctx.setS_viaPorts (c : Ctx) (i : Reg) (x : Word) : (c.setS i x).viaPorts = c.viaPorts := by unfold Ctx.setS; split <;> rfl
@[simp] theorem Ctx.setS_startQ (c : Ctx) (i : Reg) (x : Word) : (c.setS i x).startQ = c.startQ := by unfold Ctx.setS; split <;> rfl
@[simp] theorem Ctx.setS_banks (c : Ctx) (i : Reg) (x : Word) : (c.setS i x).banks = c.banks := by unfold Ctx.setS; split <;> rfl
@[simp] theorem Ctx.setS_trapped (c : Ctx) (i : Reg) (x : Word) : (c.setS i x).trapped = c.trapped := by unfold Ctx.setS; split <;> rfl
@[simp] theorem Ctx.setS_pmode (c : Ctx) (i : Reg) (x : Word) : (c.setS i x).pmode = c.pmode := by unfold Ctx.setS; split <;> rfl
@[simp] theorem Ctx.setS_cause (c : Ctx) (i : Reg) (x : Word) : (c.setS i x).cause = c.cause := by unfold Ctx.setS; split <;> rfl
@[simp] theorem Ctx.setS_epc (c : Ctx) (i : Reg) (x : Word) : (c.setS i x).epc = c.epc := by unfold Ctx.setS; split <;> rfl
@[simp] theorem Ctx.setS_eva (c : Ctx) (i : Reg) (x : Word) : (c.setS i x).eva = c.eva := by unfold Ctx.setS; split <;> rfl
@[simp] theorem Ctx.setS_einfo (c : Ctx) (i : Reg) (x : Word) : (c.setS i x).einfo = c.einfo := by unfold Ctx.setS; split <;> rfl
@[simp] theorem Ctx.setS_hvec (c : Ctx) (i : Reg) (x : Word) : (c.setS i x).hvec = c.hvec := by unfold Ctx.setS; split <;> rfl
@[simp] theorem Ctx.setS_evmask (c : Ctx) (i : Reg) (x : Word) : (c.setS i x).evmask = c.evmask := by unfold Ctx.setS; split <;> rfl
@[simp] theorem Ctx.setS_evLate (c : Ctx) (i : Reg) (x : Word) : (c.setS i x).evLate = c.evLate := by unfold Ctx.setS; split <;> rfl
@[simp] theorem Ctx.setS_dbgStep (c : Ctx) (i : Reg) (x : Word) : (c.setS i x).dbgStep = c.dbgStep := by unfold Ctx.setS; split <;> rfl
@[simp] theorem Ctx.setS_brkHalt (c : Ctx) (i : Reg) (x : Word) : (c.setS i x).brkHalt = c.brkHalt := by unfold Ctx.setS; split <;> rfl
@[simp] theorem Ctx.setS_hcause (c : Ctx) (i : Reg) (x : Word) : (c.setS i x).hcause = c.hcause := by unfold Ctx.setS; split <;> rfl
@[simp] theorem Ctx.setS_hidx (c : Ctx) (i : Reg) (x : Word) : (c.setS i x).hidx = c.hidx := by unfold Ctx.setS; split <;> rfl
@[simp] theorem Ctx.setS_retired (c : Ctx) (i : Reg) (x : Word) : (c.setS i x).retired = c.retired := by unfold Ctx.setS; split <;> rfl
@[simp] theorem Ctx.setS_events (c : Ctx) (i : Reg) (x : Word) : (c.setS i x).events = c.events := by unfold Ctx.setS; split <;> rfl
@[simp] theorem Ctx.setS_lost (c : Ctx) (i : Reg) (x : Word) : (c.setS i x).lost = c.lost := by unfold Ctx.setS; split <;> rfl
@[simp] theorem Ctx.setS_psf (c : Ctx) (i : Reg) (x : Word) : (c.setS i x).psf = c.psf := by unfold Ctx.setS; split <;> rfl
@[simp] theorem Ctx.setS_gq (c : Ctx) (i : Reg) (x : Word) : (c.setS i x).gq = c.gq := by unfold Ctx.setS; split <;> rfl
@[simp] theorem Ctx.setS_nextAcc (c : Ctx) (i : Reg) (x : Word) : (c.setS i x).nextAcc = c.nextAcc := by unfold Ctx.setS; split <;> rfl
@[simp] theorem Ctx.setS_utlb (c : Ctx) (i : Reg) (x : Word) : (c.setS i x).utlb = c.utlb := by unfold Ctx.setS; split <;> rfl
@[simp] theorem Ctx.setS_stq (c : Ctx) (i : Reg) (x : Word) : (c.setS i x).stq = c.stq := by unfold Ctx.setS; split <;> rfl
@[simp] theorem Ctx.setS_wait (c : Ctx) (i : Reg) (x : Word) : (c.setS i x).wait = c.wait := by unfold Ctx.setS; split <;> rfl
@[simp] theorem Ctx.setS_landing (c : Ctx) (i : Reg) (x : Word) : (c.setS i x).landing = c.landing := by unfold Ctx.setS; split <;> rfl
@[simp] theorem Ctx.setS_stepDue (c : Ctx) (i : Reg) (x : Word) : (c.setS i x).stepDue = c.stepDue := by unfold Ctx.setS; split <;> rfl
@[simp] theorem Ctx.setS_busyUntil (c : Ctx) (i : Reg) (x : Word) : (c.setS i x).busyUntil = c.busyUntil := by unfold Ctx.setS; split <;> rfl
@[simp] theorem Ctx.setS_covered (c : Ctx) (i : Reg) (x : Word) : (c.setS i x).covered = c.covered := by unfold Ctx.setS; split <;> rfl
@[simp] theorem Ctx.setS_haltDue (c : Ctx) (i : Reg) (x : Word) : (c.setS i x).haltDue = c.haltDue := by unfold Ctx.setS; split <;> rfl
@[simp] theorem Ctx.setS_slotReq (c : Ctx) (i : Reg) (x : Word) : (c.setS i x).slotReq = c.slotReq := by unfold Ctx.setS; split <;> rfl
@[simp] theorem Ctx.setV_s (c : Ctx) (i : Reg) (x : Vec) : (c.setV i x).s = c.s := rfl
@[simp] theorem Ctx.setV_p (c : Ctx) (i : Reg) (x : Vec) : (c.setV i x).p = c.p := rfl
@[simp] theorem Ctx.setV_pc (c : Ctx) (i : Reg) (x : Vec) : (c.setV i x).pc = c.pc := rfl
@[simp] theorem Ctx.setV_mode (c : Ctx) (i : Reg) (x : Vec) : (c.setV i x).mode = c.mode := rfl
@[simp] theorem Ctx.setV_run (c : Ctx) (i : Reg) (x : Vec) : (c.setV i x).run = c.run := rfl
@[simp] theorem Ctx.setV_last (c : Ctx) (i : Reg) (x : Vec) : (c.setV i x).last = c.last := rfl
@[simp] theorem Ctx.setV_tasks (c : Ctx) (i : Reg) (x : Vec) : (c.setV i x).tasks = c.tasks := rfl
@[simp] theorem Ctx.setV_ports (c : Ctx) (i : Reg) (x : Vec) : (c.setV i x).ports = c.ports := rfl
@[simp] theorem Ctx.setV_startPorts (c : Ctx) (i : Reg) (x : Vec) : (c.setV i x).startPorts = c.startPorts := rfl
@[simp] theorem Ctx.setV_viaPorts (c : Ctx) (i : Reg) (x : Vec) : (c.setV i x).viaPorts = c.viaPorts := rfl
@[simp] theorem Ctx.setV_startQ (c : Ctx) (i : Reg) (x : Vec) : (c.setV i x).startQ = c.startQ := rfl
@[simp] theorem Ctx.setV_banks (c : Ctx) (i : Reg) (x : Vec) : (c.setV i x).banks = c.banks := rfl
@[simp] theorem Ctx.setV_trapped (c : Ctx) (i : Reg) (x : Vec) : (c.setV i x).trapped = c.trapped := rfl
@[simp] theorem Ctx.setV_pmode (c : Ctx) (i : Reg) (x : Vec) : (c.setV i x).pmode = c.pmode := rfl
@[simp] theorem Ctx.setV_cause (c : Ctx) (i : Reg) (x : Vec) : (c.setV i x).cause = c.cause := rfl
@[simp] theorem Ctx.setV_epc (c : Ctx) (i : Reg) (x : Vec) : (c.setV i x).epc = c.epc := rfl
@[simp] theorem Ctx.setV_eva (c : Ctx) (i : Reg) (x : Vec) : (c.setV i x).eva = c.eva := rfl
@[simp] theorem Ctx.setV_einfo (c : Ctx) (i : Reg) (x : Vec) : (c.setV i x).einfo = c.einfo := rfl
@[simp] theorem Ctx.setV_hvec (c : Ctx) (i : Reg) (x : Vec) : (c.setV i x).hvec = c.hvec := rfl
@[simp] theorem Ctx.setV_evmask (c : Ctx) (i : Reg) (x : Vec) : (c.setV i x).evmask = c.evmask := rfl
@[simp] theorem Ctx.setV_evLate (c : Ctx) (i : Reg) (x : Vec) : (c.setV i x).evLate = c.evLate := rfl
@[simp] theorem Ctx.setV_dbgStep (c : Ctx) (i : Reg) (x : Vec) : (c.setV i x).dbgStep = c.dbgStep := rfl
@[simp] theorem Ctx.setV_brkHalt (c : Ctx) (i : Reg) (x : Vec) : (c.setV i x).brkHalt = c.brkHalt := rfl
@[simp] theorem Ctx.setV_hcause (c : Ctx) (i : Reg) (x : Vec) : (c.setV i x).hcause = c.hcause := rfl
@[simp] theorem Ctx.setV_hidx (c : Ctx) (i : Reg) (x : Vec) : (c.setV i x).hidx = c.hidx := rfl
@[simp] theorem Ctx.setV_retired (c : Ctx) (i : Reg) (x : Vec) : (c.setV i x).retired = c.retired := rfl
@[simp] theorem Ctx.setV_events (c : Ctx) (i : Reg) (x : Vec) : (c.setV i x).events = c.events := rfl
@[simp] theorem Ctx.setV_lost (c : Ctx) (i : Reg) (x : Vec) : (c.setV i x).lost = c.lost := rfl
@[simp] theorem Ctx.setV_psf (c : Ctx) (i : Reg) (x : Vec) : (c.setV i x).psf = c.psf := rfl
@[simp] theorem Ctx.setV_gq (c : Ctx) (i : Reg) (x : Vec) : (c.setV i x).gq = c.gq := rfl
@[simp] theorem Ctx.setV_nextAcc (c : Ctx) (i : Reg) (x : Vec) : (c.setV i x).nextAcc = c.nextAcc := rfl
@[simp] theorem Ctx.setV_utlb (c : Ctx) (i : Reg) (x : Vec) : (c.setV i x).utlb = c.utlb := rfl
@[simp] theorem Ctx.setV_stq (c : Ctx) (i : Reg) (x : Vec) : (c.setV i x).stq = c.stq := rfl
@[simp] theorem Ctx.setV_wait (c : Ctx) (i : Reg) (x : Vec) : (c.setV i x).wait = c.wait := rfl
@[simp] theorem Ctx.setV_landing (c : Ctx) (i : Reg) (x : Vec) : (c.setV i x).landing = c.landing := rfl
@[simp] theorem Ctx.setV_stepDue (c : Ctx) (i : Reg) (x : Vec) : (c.setV i x).stepDue = c.stepDue := rfl
@[simp] theorem Ctx.setV_busyUntil (c : Ctx) (i : Reg) (x : Vec) : (c.setV i x).busyUntil = c.busyUntil := rfl
@[simp] theorem Ctx.setV_covered (c : Ctx) (i : Reg) (x : Vec) : (c.setV i x).covered = c.covered := rfl
@[simp] theorem Ctx.setV_haltDue (c : Ctx) (i : Reg) (x : Vec) : (c.setV i x).haltDue = c.haltDue := rfl
@[simp] theorem Ctx.setV_slotReq (c : Ctx) (i : Reg) (x : Vec) : (c.setV i x).slotReq = c.slotReq := rfl
@[simp] theorem Ctx.setP_s (c : Ctx) (i : Nat) (x : Word) : (c.setP i x).s = c.s := by unfold Ctx.setP; split <;> rfl
@[simp] theorem Ctx.setP_v (c : Ctx) (i : Nat) (x : Word) : (c.setP i x).v = c.v := by unfold Ctx.setP; split <;> rfl
@[simp] theorem Ctx.setP_pc (c : Ctx) (i : Nat) (x : Word) : (c.setP i x).pc = c.pc := by unfold Ctx.setP; split <;> rfl
@[simp] theorem Ctx.setP_mode (c : Ctx) (i : Nat) (x : Word) : (c.setP i x).mode = c.mode := by unfold Ctx.setP; split <;> rfl
@[simp] theorem Ctx.setP_run (c : Ctx) (i : Nat) (x : Word) : (c.setP i x).run = c.run := by unfold Ctx.setP; split <;> rfl
@[simp] theorem Ctx.setP_last (c : Ctx) (i : Nat) (x : Word) : (c.setP i x).last = c.last := by unfold Ctx.setP; split <;> rfl
@[simp] theorem Ctx.setP_tasks (c : Ctx) (i : Nat) (x : Word) : (c.setP i x).tasks = c.tasks := by unfold Ctx.setP; split <;> rfl
@[simp] theorem Ctx.setP_ports (c : Ctx) (i : Nat) (x : Word) : (c.setP i x).ports = c.ports := by unfold Ctx.setP; split <;> rfl
@[simp] theorem Ctx.setP_startPorts (c : Ctx) (i : Nat) (x : Word) : (c.setP i x).startPorts = c.startPorts := by unfold Ctx.setP; split <;> rfl
@[simp] theorem Ctx.setP_viaPorts (c : Ctx) (i : Nat) (x : Word) : (c.setP i x).viaPorts = c.viaPorts := by unfold Ctx.setP; split <;> rfl
@[simp] theorem Ctx.setP_startQ (c : Ctx) (i : Nat) (x : Word) : (c.setP i x).startQ = c.startQ := by unfold Ctx.setP; split <;> rfl
@[simp] theorem Ctx.setP_banks (c : Ctx) (i : Nat) (x : Word) : (c.setP i x).banks = c.banks := by unfold Ctx.setP; split <;> rfl
@[simp] theorem Ctx.setP_trapped (c : Ctx) (i : Nat) (x : Word) : (c.setP i x).trapped = c.trapped := by unfold Ctx.setP; split <;> rfl
@[simp] theorem Ctx.setP_pmode (c : Ctx) (i : Nat) (x : Word) : (c.setP i x).pmode = c.pmode := by unfold Ctx.setP; split <;> rfl
@[simp] theorem Ctx.setP_cause (c : Ctx) (i : Nat) (x : Word) : (c.setP i x).cause = c.cause := by unfold Ctx.setP; split <;> rfl
@[simp] theorem Ctx.setP_epc (c : Ctx) (i : Nat) (x : Word) : (c.setP i x).epc = c.epc := by unfold Ctx.setP; split <;> rfl
@[simp] theorem Ctx.setP_eva (c : Ctx) (i : Nat) (x : Word) : (c.setP i x).eva = c.eva := by unfold Ctx.setP; split <;> rfl
@[simp] theorem Ctx.setP_einfo (c : Ctx) (i : Nat) (x : Word) : (c.setP i x).einfo = c.einfo := by unfold Ctx.setP; split <;> rfl
@[simp] theorem Ctx.setP_hvec (c : Ctx) (i : Nat) (x : Word) : (c.setP i x).hvec = c.hvec := by unfold Ctx.setP; split <;> rfl
@[simp] theorem Ctx.setP_evmask (c : Ctx) (i : Nat) (x : Word) : (c.setP i x).evmask = c.evmask := by unfold Ctx.setP; split <;> rfl
@[simp] theorem Ctx.setP_evLate (c : Ctx) (i : Nat) (x : Word) : (c.setP i x).evLate = c.evLate := by unfold Ctx.setP; split <;> rfl
@[simp] theorem Ctx.setP_dbgStep (c : Ctx) (i : Nat) (x : Word) : (c.setP i x).dbgStep = c.dbgStep := by unfold Ctx.setP; split <;> rfl
@[simp] theorem Ctx.setP_brkHalt (c : Ctx) (i : Nat) (x : Word) : (c.setP i x).brkHalt = c.brkHalt := by unfold Ctx.setP; split <;> rfl
@[simp] theorem Ctx.setP_hcause (c : Ctx) (i : Nat) (x : Word) : (c.setP i x).hcause = c.hcause := by unfold Ctx.setP; split <;> rfl
@[simp] theorem Ctx.setP_hidx (c : Ctx) (i : Nat) (x : Word) : (c.setP i x).hidx = c.hidx := by unfold Ctx.setP; split <;> rfl
@[simp] theorem Ctx.setP_retired (c : Ctx) (i : Nat) (x : Word) : (c.setP i x).retired = c.retired := by unfold Ctx.setP; split <;> rfl
@[simp] theorem Ctx.setP_events (c : Ctx) (i : Nat) (x : Word) : (c.setP i x).events = c.events := by unfold Ctx.setP; split <;> rfl
@[simp] theorem Ctx.setP_lost (c : Ctx) (i : Nat) (x : Word) : (c.setP i x).lost = c.lost := by unfold Ctx.setP; split <;> rfl
@[simp] theorem Ctx.setP_psf (c : Ctx) (i : Nat) (x : Word) : (c.setP i x).psf = c.psf := by unfold Ctx.setP; split <;> rfl
@[simp] theorem Ctx.setP_gq (c : Ctx) (i : Nat) (x : Word) : (c.setP i x).gq = c.gq := by unfold Ctx.setP; split <;> rfl
@[simp] theorem Ctx.setP_nextAcc (c : Ctx) (i : Nat) (x : Word) : (c.setP i x).nextAcc = c.nextAcc := by unfold Ctx.setP; split <;> rfl
@[simp] theorem Ctx.setP_utlb (c : Ctx) (i : Nat) (x : Word) : (c.setP i x).utlb = c.utlb := by unfold Ctx.setP; split <;> rfl
@[simp] theorem Ctx.setP_stq (c : Ctx) (i : Nat) (x : Word) : (c.setP i x).stq = c.stq := by unfold Ctx.setP; split <;> rfl
@[simp] theorem Ctx.setP_wait (c : Ctx) (i : Nat) (x : Word) : (c.setP i x).wait = c.wait := by unfold Ctx.setP; split <;> rfl
@[simp] theorem Ctx.setP_landing (c : Ctx) (i : Nat) (x : Word) : (c.setP i x).landing = c.landing := by unfold Ctx.setP; split <;> rfl
@[simp] theorem Ctx.setP_stepDue (c : Ctx) (i : Nat) (x : Word) : (c.setP i x).stepDue = c.stepDue := by unfold Ctx.setP; split <;> rfl
@[simp] theorem Ctx.setP_busyUntil (c : Ctx) (i : Nat) (x : Word) : (c.setP i x).busyUntil = c.busyUntil := by unfold Ctx.setP; split <;> rfl
@[simp] theorem Ctx.setP_covered (c : Ctx) (i : Nat) (x : Word) : (c.setP i x).covered = c.covered := by unfold Ctx.setP; split <;> rfl
@[simp] theorem Ctx.setP_haltDue (c : Ctx) (i : Nat) (x : Word) : (c.setP i x).haltDue = c.haltDue := by unfold Ctx.setP; split <;> rfl
@[simp] theorem Ctx.setP_slotReq (c : Ctx) (i : Nat) (x : Word) : (c.setP i x).slotReq = c.slotReq := by unfold Ctx.setP; split <;> rfl
@[simp] theorem Ctx.retire_s (c : Ctx) : c.retire.s = c.s := rfl
@[simp] theorem Ctx.retire_v (c : Ctx) : c.retire.v = c.v := rfl
@[simp] theorem Ctx.retire_p (c : Ctx) : c.retire.p = c.p := rfl
@[simp] theorem Ctx.retire_pc (c : Ctx) : c.retire.pc = c.pc + 1 := rfl
@[simp] theorem Ctx.retire_mode (c : Ctx) : c.retire.mode = c.mode := rfl
@[simp] theorem Ctx.retire_run (c : Ctx) : c.retire.run = c.run := rfl
@[simp] theorem Ctx.retire_last (c : Ctx) : c.retire.last = c.last := rfl
@[simp] theorem Ctx.retire_tasks (c : Ctx) : c.retire.tasks = c.tasks := rfl
@[simp] theorem Ctx.retire_ports (c : Ctx) : c.retire.ports = c.ports := rfl
@[simp] theorem Ctx.retire_startPorts (c : Ctx) : c.retire.startPorts = c.startPorts := rfl
@[simp] theorem Ctx.retire_viaPorts (c : Ctx) : c.retire.viaPorts = c.viaPorts := rfl
@[simp] theorem Ctx.retire_startQ (c : Ctx) : c.retire.startQ = c.startQ := rfl
@[simp] theorem Ctx.retire_banks (c : Ctx) : c.retire.banks = c.banks := rfl
@[simp] theorem Ctx.retire_trapped (c : Ctx) : c.retire.trapped = c.trapped := rfl
@[simp] theorem Ctx.retire_pmode (c : Ctx) : c.retire.pmode = c.pmode := rfl
@[simp] theorem Ctx.retire_cause (c : Ctx) : c.retire.cause = c.cause := rfl
@[simp] theorem Ctx.retire_epc (c : Ctx) : c.retire.epc = c.epc := rfl
@[simp] theorem Ctx.retire_eva (c : Ctx) : c.retire.eva = c.eva := rfl
@[simp] theorem Ctx.retire_einfo (c : Ctx) : c.retire.einfo = c.einfo := rfl
@[simp] theorem Ctx.retire_hvec (c : Ctx) : c.retire.hvec = c.hvec := rfl
@[simp] theorem Ctx.retire_evmask (c : Ctx) : c.retire.evmask = c.evmask := rfl
@[simp] theorem Ctx.retire_evLate (c : Ctx) : c.retire.evLate = c.evLate := rfl
@[simp] theorem Ctx.retire_dbgStep (c : Ctx) : c.retire.dbgStep = c.dbgStep := rfl
@[simp] theorem Ctx.retire_brkHalt (c : Ctx) : c.retire.brkHalt = c.brkHalt := rfl
@[simp] theorem Ctx.retire_hcause (c : Ctx) : c.retire.hcause = c.hcause := rfl
@[simp] theorem Ctx.retire_hidx (c : Ctx) : c.retire.hidx = c.hidx := rfl
@[simp] theorem Ctx.retire_retired (c : Ctx) : c.retire.retired = c.retired + 1 := rfl
@[simp] theorem Ctx.retire_events (c : Ctx) : c.retire.events = c.events := rfl
@[simp] theorem Ctx.retire_lost (c : Ctx) : c.retire.lost = c.lost := rfl
@[simp] theorem Ctx.retire_psf (c : Ctx) : c.retire.psf = c.psf := rfl
@[simp] theorem Ctx.retire_gq (c : Ctx) : c.retire.gq = c.gq := rfl
@[simp] theorem Ctx.retire_nextAcc (c : Ctx) : c.retire.nextAcc = c.nextAcc := rfl
@[simp] theorem Ctx.retire_utlb (c : Ctx) : c.retire.utlb = c.utlb := rfl
@[simp] theorem Ctx.retire_stq (c : Ctx) : c.retire.stq = c.stq := rfl
@[simp] theorem Ctx.retire_wait (c : Ctx) : c.retire.wait = c.wait := rfl
@[simp] theorem Ctx.retire_landing (c : Ctx) : c.retire.landing = c.landing := rfl
@[simp] theorem Ctx.retire_stepDue (c : Ctx) : c.retire.stepDue = c.stepDue := rfl
@[simp] theorem Ctx.retire_busyUntil (c : Ctx) : c.retire.busyUntil = c.busyUntil := rfl
@[simp] theorem Ctx.retire_covered (c : Ctx) : c.retire.covered = c.covered := rfl
@[simp] theorem Ctx.retire_haltDue (c : Ctx) : c.retire.haltDue = c.haltDue := rfl
@[simp] theorem Ctx.retire_slotReq (c : Ctx) : c.retire.slotReq = c.slotReq := rfl

@[simp] theorem Ctx.getS_zero (c : Ctx) : c.getS 0 = 0 := rfl
@[simp] theorem Ctx.getP_zero (c : Ctx) : c.getP 0 = Word.ones := rfl

@[simp] theorem Ctx.getS_setS_same (c : Ctx) (i : Reg) (x : Word) : (c.setS i x).getS i = if i = 0 then 0 else x := by
  unfold Ctx.getS Ctx.setS
  by_cases h : i = 0#5 <;> simp [h]

theorem Ctx.getS_setS_other (c : Ctx) {i j : Reg} (h : j ≠ i) (x : Word) : (c.setS i x).getS j = c.getS j := by
  have hn : i.toNat ≠ j.toNat := fun e => h (BitVec.eq_of_toNat_eq e.symm)
  unfold Ctx.getS Ctx.setS
  by_cases hi : i = 0#5 <;> by_cases hj : j = 0#5 <;> simp [hi, hj, Vector.getElem_set_ne _ _ hn]

@[simp] theorem Ctx.getV_setV_same (c : Ctx) (i : Reg) (x : Vec) : (c.setV i x).getV i = x := by
  simp [Ctx.getV, Ctx.setV]

theorem Ctx.getV_setV_other (c : Ctx) {i j : Reg} (h : j.toNat % 16 ≠ i.toNat % 16) (x : Vec) :
    (c.setV i x).getV j = c.getV j := by
  unfold Ctx.getV Ctx.setV
  rw [Vector.getElem_set_ne _ _ (Ne.symm h)]

@[simp] theorem Ctx.getP_setP_same (c : Ctx) (i : Nat) (x : Word) :
    (c.setP i x).getP i = if i % 8 = 0 then Word.ones else x := by
  unfold Ctx.getP Ctx.setP
  by_cases h : i % 8 = 0 <;> simp [h]

theorem Ctx.getP_setP_other (c : Ctx) {i j : Nat} (h : j % 8 ≠ i % 8) (x : Word) : (c.setP i x).getP j = c.getP j := by
  unfold Ctx.getP Ctx.setP
  by_cases hi : i % 8 = 0 <;> by_cases hj : j % 8 = 0 <;> simp [hi, hj]
  rw [Vector.getElem_set_ne _ _ (Ne.symm h)]

@[simp] theorem Ctx.getV_setS (c : Ctx) (i j : Reg) (x : Word) : (c.setS i x).getV j = c.getV j := by
  unfold Ctx.setS; split <;> rfl
@[simp] theorem Ctx.getP_setS (c : Ctx) (i : Reg) (j : Nat) (x : Word) : (c.setS i x).getP j = c.getP j := by
  unfold Ctx.setS; split <;> rfl
@[simp] theorem Ctx.getS_setV (c : Ctx) (i j : Reg) (x : Vec) : (c.setV i x).getS j = c.getS j := rfl
@[simp] theorem Ctx.getP_setV (c : Ctx) (i : Reg) (j : Nat) (x : Vec) : (c.setV i x).getP j = c.getP j := rfl
@[simp] theorem Ctx.getS_setP (c : Ctx) (i : Nat) (j : Reg) (x : Word) : (c.setP i x).getS j = c.getS j := by
  unfold Ctx.setP; split <;> rfl
@[simp] theorem Ctx.getV_setP (c : Ctx) (i : Nat) (j : Reg) (x : Word) : (c.setP i x).getV j = c.getV j := by
  unfold Ctx.setP; split <;> rfl
@[simp] theorem Ctx.getS_retire (c : Ctx) (j : Reg) : c.retire.getS j = c.getS j := rfl
@[simp] theorem Ctx.getV_retire (c : Ctx) (j : Reg) : c.retire.getV j = c.getV j := rfl
@[simp] theorem Ctx.getP_retire (c : Ctx) (j : Nat) : c.retire.getP j = c.getP j := rfl


/-! A context of a tile. -/

@[simp] theorem Tile.setCtx_awake (x : Tile) (k : Fin 4) (y : Ctx) : (x.setCtx k y).awake = x.awake := rfl
@[simp] theorem Tile.setCtx_region (x : Tile) (k : Fin 4) (y : Ctx) : (x.setCtx k y).region = x.region := rfl
@[simp] theorem Tile.setCtx_k (x : Tile) (k : Fin 4) (y : Ctx) : (x.setCtx k y).k = x.k := rfl
@[simp] theorem Tile.setCtx_cycle (x : Tile) (k : Fin 4) (y : Ctx) : (x.setCtx k y).cycle = x.cycle := rfl
@[simp] theorem Tile.setCtx_discard (x : Tile) (k : Fin 4) (y : Ctx) : (x.setCtx k y).discard = x.discard := rfl
@[simp] theorem Tile.setCtx_store (x : Tile) (k : Fin 4) (y : Ctx) : (x.setCtx k y).store = x.store := rfl
@[simp] theorem Tile.setCtx_storeShadow (x : Tile) (k : Fin 4) (y : Ctx) : (x.setCtx k y).storeShadow = x.storeShadow := rfl
@[simp] theorem Tile.setCtx_storeBad (x : Tile) (k : Fin 4) (y : Ctx) : (x.setCtx k y).storeBad = x.storeBad := rfl
@[simp] theorem Tile.setCtx_cfg (x : Tile) (k : Fin 4) (y : Ctx) : (x.setCtx k y).cfg = x.cfg := rfl
@[simp] theorem Tile.setCtx_cfgShadow (x : Tile) (k : Fin 4) (y : Ctx) : (x.setCtx k y).cfgShadow = x.cfgShadow := rfl
@[simp] theorem Tile.setCtx_sinks (x : Tile) (k : Fin 4) (y : Ctx) : (x.setCtx k y).sinks = x.sinks := rfl
@[simp] theorem Tile.setCtx_sources (x : Tile) (k : Fin 4) (y : Ctx) : (x.setCtx k y).sources = x.sources := rfl
@[simp] theorem Tile.setCtx_loops (x : Tile) (k : Fin 4) (y : Ctx) : (x.setCtx k y).loops = x.loops := rfl
@[simp] theorem Tile.setCtx_agens (x : Tile) (k : Fin 4) (y : Ctx) : (x.setCtx k y).agens = x.agens := rfl
@[simp] theorem Tile.setCtx_matrix (x : Tile) (k : Fin 4) (y : Ctx) : (x.setCtx k y).matrix = x.matrix := rfl
@[simp] theorem Tile.setCtx_spins (x : Tile) (k : Fin 4) (y : Ctx) : (x.setCtx k y).spins = x.spins := rfl
@[simp] theorem Tile.setCtx_counters (x : Tile) (k : Fin 4) (y : Ctx) : (x.setCtx k y).counters = x.counters := rfl
@[simp] theorem Tile.setCtx_watches (x : Tile) (k : Fin 4) (y : Ctx) : (x.setCtx k y).watches = x.watches := rfl
@[simp] theorem Tile.setCtx_scratch (x : Tile) (k : Fin 4) (y : Ctx) : (x.setCtx k y).scratch = x.scratch := rfl
@[simp] theorem Tile.setCtx_scratchBad (x : Tile) (k : Fin 4) (y : Ctx) : (x.setCtx k y).scratchBad = x.scratchBad := rfl
@[simp] theorem Tile.setCtx_divUntil (x : Tile) (k : Fin 4) (y : Ctx) : (x.setCtx k y).divUntil = x.divUntil := rfl
@[simp] theorem Tile.setCtx_fdivUntil (x : Tile) (k : Fin 4) (y : Ctx) : (x.setCtx k y).fdivUntil = x.fdivUntil := rfl
@[simp] theorem Tile.setCtx_admitted (x : Tile) (k : Fin 4) (y : Ctx) : (x.setCtx k y).admitted = x.admitted := rfl
@[simp] theorem Tile.setCtx_windows (x : Tile) (k : Fin 4) (y : Ctx) : (x.setCtx k y).windows = x.windows := rfl
@[simp] theorem Tile.setCtx_reel (x : Tile) (k : Fin 4) (y : Ctx) : (x.setCtx k y).reel = x.reel := rfl
@[simp] theorem Tile.setCtx_stopping (x : Tile) (k : Fin 4) (y : Ctx) : (x.setCtx k y).stopping = x.stopping := rfl
@[simp] theorem Tile.setCtx_snapped (x : Tile) (k : Fin 4) (y : Ctx) : (x.setCtx k y).snapped = x.snapped := rfl
@[simp] theorem Tile.setCtx_born (x : Tile) (k : Fin 4) (y : Ctx) : (x.setCtx k y).born = x.born := rfl
theorem Tile.setCtx_same (x : Tile) (k : Fin 4) (y : Ctx) : (x.setCtx k y).ctxs[k] = y := by simp [Tile.setCtx]
@[simp] theorem Tile.setCtx_at (x : Tile) (k : Fin 4) (y : Ctx) : (x.setCtx k y).ctxs[k.val] = y := by simp [Tile.setCtx]
theorem Tile.setCtx_other (x : Tile) {k j : Fin 4} (h : j ≠ k) (y : Ctx) : (x.setCtx k y).ctxs[j] = x.ctxs[j] := by
  have hn : k.val ≠ j.val := fun e => h (Fin.ext e.symm)
  simp [Tile.setCtx, Vector.getElem_set_ne _ _ hn]


/-! Tiles of the state. -/

@[simp] theorem State.setTile_agenda (s : State) (t : TileId) (x : Tile) : (s.setTile t x).agenda = s.agenda := rfl
@[simp] theorem State.setTile_here (s : State) (t : TileId) (x : Tile) : (s.setTile t x).here = s.here := rfl
@[simp] theorem State.setTile_ctx (s : State) (t : TileId) (x : Tile) : (s.setTile t x).ctx = s.ctx := rfl
@[simp] theorem State.setTile_stalled (s : State) (t : TileId) (x : Tile) : (s.setTile t x).stalled = s.stalled := rfl
@[simp] theorem State.setTile_picks (s : State) (t : TileId) (x : Tile) : (s.setTile t x).picks = s.picks := rfl
@[simp] theorem State.setTile_frees (s : State) (t : TileId) (x : Tile) : (s.setTile t x).frees = s.frees := rfl
@[simp] theorem State.setTile_power (s : State) (t : TileId) (x : Tile) : (s.setTile t x).power = s.power := rfl
@[simp] theorem State.setTile_regions (s : State) (t : TileId) (x : Tile) : (s.setTile t x).regions = s.regions := rfl
@[simp] theorem State.setTile_dies (s : State) (t : TileId) (x : Tile) : (s.setTile t x).dies = s.dies := rfl
@[simp] theorem State.setTile_xfers (s : State) (t : TileId) (x : Tile) : (s.setTile t x).xfers = s.xfers := rfl
@[simp] theorem State.setTile_nextSeq (s : State) (t : TileId) (x : Tile) : (s.setTile t x).nextSeq = s.nextSeq := rfl
@[simp] theorem State.setTile_beacons (s : State) (t : TileId) (x : Tile) : (s.setTile t x).beacons = s.beacons := rfl
@[simp] theorem State.setTile_beaconsOut (s : State) (t : TileId) (x : Tile) : (s.setTile t x).beaconsOut = s.beaconsOut := rfl
@[simp] theorem State.setTile_passed (s : State) (t : TileId) (x : Tile) : (s.setTile t x).passed = s.passed := rfl
@[simp] theorem State.setTile_mem (s : State) (t : TileId) (x : Tile) : (s.setTile t x).mem = s.mem := rfl
@[simp] theorem State.setTile_hub (s : State) (t : TileId) (x : Tile) : (s.setTile t x).hub = s.hub := rfl
@[simp] theorem State.modTile_agenda (s : State) (t : TileId) (f : Tile → Tile) : (s.modTile t f).agenda = s.agenda := rfl
@[simp] theorem State.modTile_here (s : State) (t : TileId) (f : Tile → Tile) : (s.modTile t f).here = s.here := rfl
@[simp] theorem State.modTile_ctx (s : State) (t : TileId) (f : Tile → Tile) : (s.modTile t f).ctx = s.ctx := rfl
@[simp] theorem State.modTile_stalled (s : State) (t : TileId) (f : Tile → Tile) : (s.modTile t f).stalled = s.stalled := rfl
@[simp] theorem State.modTile_picks (s : State) (t : TileId) (f : Tile → Tile) : (s.modTile t f).picks = s.picks := rfl
@[simp] theorem State.modTile_frees (s : State) (t : TileId) (f : Tile → Tile) : (s.modTile t f).frees = s.frees := rfl
@[simp] theorem State.modTile_power (s : State) (t : TileId) (f : Tile → Tile) : (s.modTile t f).power = s.power := rfl
@[simp] theorem State.modTile_regions (s : State) (t : TileId) (f : Tile → Tile) : (s.modTile t f).regions = s.regions := rfl
@[simp] theorem State.modTile_dies (s : State) (t : TileId) (f : Tile → Tile) : (s.modTile t f).dies = s.dies := rfl
@[simp] theorem State.modTile_xfers (s : State) (t : TileId) (f : Tile → Tile) : (s.modTile t f).xfers = s.xfers := rfl
@[simp] theorem State.modTile_nextSeq (s : State) (t : TileId) (f : Tile → Tile) : (s.modTile t f).nextSeq = s.nextSeq := rfl
@[simp] theorem State.modTile_beacons (s : State) (t : TileId) (f : Tile → Tile) : (s.modTile t f).beacons = s.beacons := rfl
@[simp] theorem State.modTile_beaconsOut (s : State) (t : TileId) (f : Tile → Tile) : (s.modTile t f).beaconsOut = s.beaconsOut := rfl
@[simp] theorem State.modTile_passed (s : State) (t : TileId) (f : Tile → Tile) : (s.modTile t f).passed = s.passed := rfl
@[simp] theorem State.modTile_mem (s : State) (t : TileId) (f : Tile → Tile) : (s.modTile t f).mem = s.mem := rfl
@[simp] theorem State.modTile_hub (s : State) (t : TileId) (f : Tile → Tile) : (s.modTile t f).hub = s.hub := rfl
@[simp] theorem State.modCtx_agenda (s : State) (t : TileId) (k : Fin 4) (f : Ctx → Ctx) : (s.modCtx t k f).agenda = s.agenda := rfl
@[simp] theorem State.modCtx_here (s : State) (t : TileId) (k : Fin 4) (f : Ctx → Ctx) : (s.modCtx t k f).here = s.here := rfl
@[simp] theorem State.modCtx_ctx (s : State) (t : TileId) (k : Fin 4) (f : Ctx → Ctx) : (s.modCtx t k f).ctx = s.ctx := rfl
@[simp] theorem State.modCtx_stalled (s : State) (t : TileId) (k : Fin 4) (f : Ctx → Ctx) : (s.modCtx t k f).stalled = s.stalled := rfl
@[simp] theorem State.modCtx_picks (s : State) (t : TileId) (k : Fin 4) (f : Ctx → Ctx) : (s.modCtx t k f).picks = s.picks := rfl
@[simp] theorem State.modCtx_frees (s : State) (t : TileId) (k : Fin 4) (f : Ctx → Ctx) : (s.modCtx t k f).frees = s.frees := rfl
@[simp] theorem State.modCtx_power (s : State) (t : TileId) (k : Fin 4) (f : Ctx → Ctx) : (s.modCtx t k f).power = s.power := rfl
@[simp] theorem State.modCtx_regions (s : State) (t : TileId) (k : Fin 4) (f : Ctx → Ctx) : (s.modCtx t k f).regions = s.regions := rfl
@[simp] theorem State.modCtx_dies (s : State) (t : TileId) (k : Fin 4) (f : Ctx → Ctx) : (s.modCtx t k f).dies = s.dies := rfl
@[simp] theorem State.modCtx_xfers (s : State) (t : TileId) (k : Fin 4) (f : Ctx → Ctx) : (s.modCtx t k f).xfers = s.xfers := rfl
@[simp] theorem State.modCtx_nextSeq (s : State) (t : TileId) (k : Fin 4) (f : Ctx → Ctx) : (s.modCtx t k f).nextSeq = s.nextSeq := rfl
@[simp] theorem State.modCtx_beacons (s : State) (t : TileId) (k : Fin 4) (f : Ctx → Ctx) : (s.modCtx t k f).beacons = s.beacons := rfl
@[simp] theorem State.modCtx_beaconsOut (s : State) (t : TileId) (k : Fin 4) (f : Ctx → Ctx) : (s.modCtx t k f).beaconsOut = s.beaconsOut := rfl
@[simp] theorem State.modCtx_passed (s : State) (t : TileId) (k : Fin 4) (f : Ctx → Ctx) : (s.modCtx t k f).passed = s.passed := rfl
@[simp] theorem State.modCtx_mem (s : State) (t : TileId) (k : Fin 4) (f : Ctx → Ctx) : (s.modCtx t k f).mem = s.mem := rfl
@[simp] theorem State.modCtx_hub (s : State) (t : TileId) (k : Fin 4) (f : Ctx → Ctx) : (s.modCtx t k f).hub = s.hub := rfl
@[simp] theorem State.modCur_agenda (s : State) (f : Ctx → Ctx) : (s.modCur f).agenda = s.agenda := rfl
@[simp] theorem State.modCur_here (s : State) (f : Ctx → Ctx) : (s.modCur f).here = s.here := rfl
@[simp] theorem State.modCur_ctx (s : State) (f : Ctx → Ctx) : (s.modCur f).ctx = s.ctx := rfl
@[simp] theorem State.modCur_stalled (s : State) (f : Ctx → Ctx) : (s.modCur f).stalled = s.stalled := rfl
@[simp] theorem State.modCur_picks (s : State) (f : Ctx → Ctx) : (s.modCur f).picks = s.picks := rfl
@[simp] theorem State.modCur_frees (s : State) (f : Ctx → Ctx) : (s.modCur f).frees = s.frees := rfl
@[simp] theorem State.modCur_power (s : State) (f : Ctx → Ctx) : (s.modCur f).power = s.power := rfl
@[simp] theorem State.modCur_regions (s : State) (f : Ctx → Ctx) : (s.modCur f).regions = s.regions := rfl
@[simp] theorem State.modCur_dies (s : State) (f : Ctx → Ctx) : (s.modCur f).dies = s.dies := rfl
@[simp] theorem State.modCur_xfers (s : State) (f : Ctx → Ctx) : (s.modCur f).xfers = s.xfers := rfl
@[simp] theorem State.modCur_nextSeq (s : State) (f : Ctx → Ctx) : (s.modCur f).nextSeq = s.nextSeq := rfl
@[simp] theorem State.modCur_beacons (s : State) (f : Ctx → Ctx) : (s.modCur f).beacons = s.beacons := rfl
@[simp] theorem State.modCur_beaconsOut (s : State) (f : Ctx → Ctx) : (s.modCur f).beaconsOut = s.beaconsOut := rfl
@[simp] theorem State.modCur_passed (s : State) (f : Ctx → Ctx) : (s.modCur f).passed = s.passed := rfl
@[simp] theorem State.modCur_mem (s : State) (f : Ctx → Ctx) : (s.modCur f).mem = s.mem := rfl
@[simp] theorem State.modCur_hub (s : State) (f : Ctx → Ctx) : (s.modCur f).hub = s.hub := rfl
@[simp] theorem State.modCurTile_agenda (s : State) (f : Tile → Tile) : (s.modCurTile f).agenda = s.agenda := rfl
@[simp] theorem State.modCurTile_here (s : State) (f : Tile → Tile) : (s.modCurTile f).here = s.here := rfl
@[simp] theorem State.modCurTile_ctx (s : State) (f : Tile → Tile) : (s.modCurTile f).ctx = s.ctx := rfl
@[simp] theorem State.modCurTile_stalled (s : State) (f : Tile → Tile) : (s.modCurTile f).stalled = s.stalled := rfl
@[simp] theorem State.modCurTile_picks (s : State) (f : Tile → Tile) : (s.modCurTile f).picks = s.picks := rfl
@[simp] theorem State.modCurTile_frees (s : State) (f : Tile → Tile) : (s.modCurTile f).frees = s.frees := rfl
@[simp] theorem State.modCurTile_power (s : State) (f : Tile → Tile) : (s.modCurTile f).power = s.power := rfl
@[simp] theorem State.modCurTile_regions (s : State) (f : Tile → Tile) : (s.modCurTile f).regions = s.regions := rfl
@[simp] theorem State.modCurTile_dies (s : State) (f : Tile → Tile) : (s.modCurTile f).dies = s.dies := rfl
@[simp] theorem State.modCurTile_xfers (s : State) (f : Tile → Tile) : (s.modCurTile f).xfers = s.xfers := rfl
@[simp] theorem State.modCurTile_nextSeq (s : State) (f : Tile → Tile) : (s.modCurTile f).nextSeq = s.nextSeq := rfl
@[simp] theorem State.modCurTile_beacons (s : State) (f : Tile → Tile) : (s.modCurTile f).beacons = s.beacons := rfl
@[simp] theorem State.modCurTile_beaconsOut (s : State) (f : Tile → Tile) : (s.modCurTile f).beaconsOut = s.beaconsOut := rfl
@[simp] theorem State.modCurTile_passed (s : State) (f : Tile → Tile) : (s.modCurTile f).passed = s.passed := rfl
@[simp] theorem State.modCurTile_mem (s : State) (f : Tile → Tile) : (s.modCurTile f).mem = s.mem := rfl
@[simp] theorem State.modCurTile_hub (s : State) (f : Tile → Tile) : (s.modCurTile f).hub = s.hub := rfl

@[simp] theorem State.tile_setTile_same (s : State) (t : TileId) (x : Tile) : (s.setTile t x).tile t = x := by
  simp [State.tile, State.setTile]
theorem State.tile_setTile_other (s : State) {t u : TileId} (h : u ≠ t) (x : Tile) : (s.setTile t x).tile u = s.tile u := by
  simp [State.tile, State.setTile, lookupKey_putKey_other h]
@[simp] theorem State.tile_modTile_same (s : State) (t : TileId) (f : Tile → Tile) : (s.modTile t f).tile t = f (s.tile t) := by
  simp [State.modTile]
theorem State.tile_modTile_other (s : State) {t u : TileId} (h : u ≠ t) (f : Tile → Tile) :
    (s.modTile t f).tile u = s.tile u := by simp [State.modTile, State.tile_setTile_other s h]
@[simp] theorem State.ctxAt_modCtx_same (s : State) (t : TileId) (k : Fin 4) (f : Ctx → Ctx) :
    (s.modCtx t k f).ctxAt t k = f (s.ctxAt t k) := by simp [State.modCtx, State.ctxAt]
theorem State.ctxAt_modCtx_other (s : State) {t u : TileId} {k j : Fin 4} (h : u ≠ t ∨ j ≠ k) (f : Ctx → Ctx) :
    (s.modCtx t k f).ctxAt u j = s.ctxAt u j := by
  by_cases hu : u = t
  · subst hu
    have hj : j ≠ k := by simpa using h
    simp [State.modCtx, State.ctxAt, Tile.setCtx_other _ hj]
  · simp [State.modCtx, State.ctxAt, State.tile_modTile_other s hu]
@[simp] theorem State.cur_modCur (s : State) (f : Ctx → Ctx) : (s.modCur f).cur = f s.cur := by
  simp [State.cur, State.modCur]
@[simp] theorem State.curTile_modCurTile (s : State) (f : Tile → Tile) : (s.modCurTile f).curTile = f s.curTile := by
  simp [State.curTile, State.modCurTile]

/-- Two changes of the issuing context in a row are one. -/
theorem State.modCur_modCur (s : State) (f g : Ctx → Ctx) : (s.modCur f).modCur g = s.modCur fun c => g (f c) := by
  have h : ∀ (k : TileId) (x y : Tile) (l : List (TileId × Tile)), putKey k y (putKey k x l) = putKey k y l := by
    intro k x y l
    induction l with
    | nil => simp [putKey]
    | cons z rest ih =>
      obtain ⟨k', z'⟩ := z
      by_cases hk : k' = k <;> simp [putKey, hk, ih]
  simp [State.modCur, State.modCtx, State.modTile, State.setTile, State.tile, h, Tile.setCtx]

@[simp] theorem State.getS_modCur (s : State) (f : Ctx → Ctx) (i : Reg) : (s.modCur f).getS i = (f s.cur).getS i := by
  simp [State.getS]
@[simp] theorem State.getV_modCur (s : State) (f : Ctx → Ctx) (i : Reg) : (s.modCur f).getV i = (f s.cur).getV i := by
  simp [State.getV]
@[simp] theorem State.getP_modCur (s : State) (f : Ctx → Ctx) (i : Reg) : (s.modCur f).getP i = (f s.cur).getP i.toNat := by
  simp [State.getP]


/-! The other updates. -/

@[simp] theorem State.modDie_agenda (s : State) (d : Fin 8) (f : Die → Die) : (s.modDie d f).agenda = s.agenda := rfl
@[simp] theorem State.modDie_here (s : State) (d : Fin 8) (f : Die → Die) : (s.modDie d f).here = s.here := rfl
@[simp] theorem State.modDie_ctx (s : State) (d : Fin 8) (f : Die → Die) : (s.modDie d f).ctx = s.ctx := rfl
@[simp] theorem State.modDie_stalled (s : State) (d : Fin 8) (f : Die → Die) : (s.modDie d f).stalled = s.stalled := rfl
@[simp] theorem State.modDie_picks (s : State) (d : Fin 8) (f : Die → Die) : (s.modDie d f).picks = s.picks := rfl
@[simp] theorem State.modDie_frees (s : State) (d : Fin 8) (f : Die → Die) : (s.modDie d f).frees = s.frees := rfl
@[simp] theorem State.modDie_power (s : State) (d : Fin 8) (f : Die → Die) : (s.modDie d f).power = s.power := rfl
@[simp] theorem State.modDie_tiles (s : State) (d : Fin 8) (f : Die → Die) : (s.modDie d f).tiles = s.tiles := rfl
@[simp] theorem State.modDie_regions (s : State) (d : Fin 8) (f : Die → Die) : (s.modDie d f).regions = s.regions := rfl
@[simp] theorem State.modDie_xfers (s : State) (d : Fin 8) (f : Die → Die) : (s.modDie d f).xfers = s.xfers := rfl
@[simp] theorem State.modDie_nextSeq (s : State) (d : Fin 8) (f : Die → Die) : (s.modDie d f).nextSeq = s.nextSeq := rfl
@[simp] theorem State.modDie_beacons (s : State) (d : Fin 8) (f : Die → Die) : (s.modDie d f).beacons = s.beacons := rfl
@[simp] theorem State.modDie_beaconsOut (s : State) (d : Fin 8) (f : Die → Die) : (s.modDie d f).beaconsOut = s.beaconsOut := rfl
@[simp] theorem State.modDie_passed (s : State) (d : Fin 8) (f : Die → Die) : (s.modDie d f).passed = s.passed := rfl
@[simp] theorem State.modDie_mem (s : State) (d : Fin 8) (f : Die → Die) : (s.modDie d f).mem = s.mem := rfl
@[simp] theorem State.modDie_hub (s : State) (d : Fin 8) (f : Die → Die) : (s.modDie d f).hub = s.hub := rfl
@[simp] theorem State.modRegion_agenda (s : State) (n : Nat) (f : Region → Region) : (s.modRegion n f).agenda = s.agenda := rfl
@[simp] theorem State.modRegion_here (s : State) (n : Nat) (f : Region → Region) : (s.modRegion n f).here = s.here := rfl
@[simp] theorem State.modRegion_ctx (s : State) (n : Nat) (f : Region → Region) : (s.modRegion n f).ctx = s.ctx := rfl
@[simp] theorem State.modRegion_stalled (s : State) (n : Nat) (f : Region → Region) : (s.modRegion n f).stalled = s.stalled := rfl
@[simp] theorem State.modRegion_picks (s : State) (n : Nat) (f : Region → Region) : (s.modRegion n f).picks = s.picks := rfl
@[simp] theorem State.modRegion_frees (s : State) (n : Nat) (f : Region → Region) : (s.modRegion n f).frees = s.frees := rfl
@[simp] theorem State.modRegion_power (s : State) (n : Nat) (f : Region → Region) : (s.modRegion n f).power = s.power := rfl
@[simp] theorem State.modRegion_tiles (s : State) (n : Nat) (f : Region → Region) : (s.modRegion n f).tiles = s.tiles := rfl
@[simp] theorem State.modRegion_dies (s : State) (n : Nat) (f : Region → Region) : (s.modRegion n f).dies = s.dies := rfl
@[simp] theorem State.modRegion_xfers (s : State) (n : Nat) (f : Region → Region) : (s.modRegion n f).xfers = s.xfers := rfl
@[simp] theorem State.modRegion_nextSeq (s : State) (n : Nat) (f : Region → Region) : (s.modRegion n f).nextSeq = s.nextSeq := rfl
@[simp] theorem State.modRegion_beacons (s : State) (n : Nat) (f : Region → Region) : (s.modRegion n f).beacons = s.beacons := rfl
@[simp] theorem State.modRegion_beaconsOut (s : State) (n : Nat) (f : Region → Region) : (s.modRegion n f).beaconsOut = s.beaconsOut := rfl
@[simp] theorem State.modRegion_passed (s : State) (n : Nat) (f : Region → Region) : (s.modRegion n f).passed = s.passed := rfl
@[simp] theorem State.modRegion_mem (s : State) (n : Nat) (f : Region → Region) : (s.modRegion n f).mem = s.mem := rfl
@[simp] theorem State.modRegion_hub (s : State) (n : Nat) (f : Region → Region) : (s.modRegion n f).hub = s.hub := rfl
@[simp] theorem State.stall_agenda (s : State) : (s.stall).agenda = s.agenda := rfl
@[simp] theorem State.stall_here (s : State) : (s.stall).here = s.here := rfl
@[simp] theorem State.stall_ctx (s : State) : (s.stall).ctx = s.ctx := rfl
@[simp] theorem State.stall_picks (s : State) : (s.stall).picks = s.picks := rfl
@[simp] theorem State.stall_frees (s : State) : (s.stall).frees = s.frees := rfl
@[simp] theorem State.stall_power (s : State) : (s.stall).power = s.power := rfl
@[simp] theorem State.stall_tiles (s : State) : (s.stall).tiles = s.tiles := rfl
@[simp] theorem State.stall_regions (s : State) : (s.stall).regions = s.regions := rfl
@[simp] theorem State.stall_dies (s : State) : (s.stall).dies = s.dies := rfl
@[simp] theorem State.stall_xfers (s : State) : (s.stall).xfers = s.xfers := rfl
@[simp] theorem State.stall_nextSeq (s : State) : (s.stall).nextSeq = s.nextSeq := rfl
@[simp] theorem State.stall_beacons (s : State) : (s.stall).beacons = s.beacons := rfl
@[simp] theorem State.stall_beaconsOut (s : State) : (s.stall).beaconsOut = s.beaconsOut := rfl
@[simp] theorem State.stall_passed (s : State) : (s.stall).passed = s.passed := rfl
@[simp] theorem State.stall_mem (s : State) : (s.stall).mem = s.mem := rfl
@[simp] theorem State.stall_hub (s : State) : (s.stall).hub = s.hub := rfl
@[simp] theorem State.notify_agenda (s : State) (op : Nat) (a : List Word) : (s.notify op a).agenda = s.agenda := rfl
@[simp] theorem State.notify_here (s : State) (op : Nat) (a : List Word) : (s.notify op a).here = s.here := rfl
@[simp] theorem State.notify_ctx (s : State) (op : Nat) (a : List Word) : (s.notify op a).ctx = s.ctx := rfl
@[simp] theorem State.notify_stalled (s : State) (op : Nat) (a : List Word) : (s.notify op a).stalled = s.stalled := rfl
@[simp] theorem State.notify_picks (s : State) (op : Nat) (a : List Word) : (s.notify op a).picks = s.picks := rfl
@[simp] theorem State.notify_frees (s : State) (op : Nat) (a : List Word) : (s.notify op a).frees = s.frees := rfl
@[simp] theorem State.notify_power (s : State) (op : Nat) (a : List Word) : (s.notify op a).power = s.power := rfl
@[simp] theorem State.notify_tiles (s : State) (op : Nat) (a : List Word) : (s.notify op a).tiles = s.tiles := rfl
@[simp] theorem State.notify_regions (s : State) (op : Nat) (a : List Word) : (s.notify op a).regions = s.regions := rfl
@[simp] theorem State.notify_dies (s : State) (op : Nat) (a : List Word) : (s.notify op a).dies = s.dies := rfl
@[simp] theorem State.notify_xfers (s : State) (op : Nat) (a : List Word) : (s.notify op a).xfers = s.xfers := rfl
@[simp] theorem State.notify_nextSeq (s : State) (op : Nat) (a : List Word) : (s.notify op a).nextSeq = s.nextSeq := rfl
@[simp] theorem State.notify_beacons (s : State) (op : Nat) (a : List Word) : (s.notify op a).beacons = s.beacons := rfl
@[simp] theorem State.notify_beaconsOut (s : State) (op : Nat) (a : List Word) : (s.notify op a).beaconsOut = s.beaconsOut := rfl
@[simp] theorem State.notify_passed (s : State) (op : Nat) (a : List Word) : (s.notify op a).passed = s.passed := rfl
@[simp] theorem State.notify_mem (s : State) (op : Nat) (a : List Word) : (s.notify op a).mem = s.mem := rfl
@[simp] theorem State.respond_agenda (s : State) (n : BitVec 12) (tag : BitVec 32) (op st : Nat) (r : List Word) : (s.respond n tag op st r).agenda = s.agenda := rfl
@[simp] theorem State.respond_here (s : State) (n : BitVec 12) (tag : BitVec 32) (op st : Nat) (r : List Word) : (s.respond n tag op st r).here = s.here := rfl
@[simp] theorem State.respond_ctx (s : State) (n : BitVec 12) (tag : BitVec 32) (op st : Nat) (r : List Word) : (s.respond n tag op st r).ctx = s.ctx := rfl
@[simp] theorem State.respond_stalled (s : State) (n : BitVec 12) (tag : BitVec 32) (op st : Nat) (r : List Word) : (s.respond n tag op st r).stalled = s.stalled := rfl
@[simp] theorem State.respond_picks (s : State) (n : BitVec 12) (tag : BitVec 32) (op st : Nat) (r : List Word) : (s.respond n tag op st r).picks = s.picks := rfl
@[simp] theorem State.respond_frees (s : State) (n : BitVec 12) (tag : BitVec 32) (op st : Nat) (r : List Word) : (s.respond n tag op st r).frees = s.frees := rfl
@[simp] theorem State.respond_power (s : State) (n : BitVec 12) (tag : BitVec 32) (op st : Nat) (r : List Word) : (s.respond n tag op st r).power = s.power := rfl
@[simp] theorem State.respond_tiles (s : State) (n : BitVec 12) (tag : BitVec 32) (op st : Nat) (r : List Word) : (s.respond n tag op st r).tiles = s.tiles := rfl
@[simp] theorem State.respond_regions (s : State) (n : BitVec 12) (tag : BitVec 32) (op st : Nat) (r : List Word) : (s.respond n tag op st r).regions = s.regions := rfl
@[simp] theorem State.respond_dies (s : State) (n : BitVec 12) (tag : BitVec 32) (op st : Nat) (r : List Word) : (s.respond n tag op st r).dies = s.dies := rfl
@[simp] theorem State.respond_xfers (s : State) (n : BitVec 12) (tag : BitVec 32) (op st : Nat) (r : List Word) : (s.respond n tag op st r).xfers = s.xfers := rfl
@[simp] theorem State.respond_nextSeq (s : State) (n : BitVec 12) (tag : BitVec 32) (op st : Nat) (r : List Word) : (s.respond n tag op st r).nextSeq = s.nextSeq := rfl
@[simp] theorem State.respond_beacons (s : State) (n : BitVec 12) (tag : BitVec 32) (op st : Nat) (r : List Word) : (s.respond n tag op st r).beacons = s.beacons := rfl
@[simp] theorem State.respond_beaconsOut (s : State) (n : BitVec 12) (tag : BitVec 32) (op st : Nat) (r : List Word) : (s.respond n tag op st r).beaconsOut = s.beaconsOut := rfl
@[simp] theorem State.respond_passed (s : State) (n : BitVec 12) (tag : BitVec 32) (op st : Nat) (r : List Word) : (s.respond n tag op st r).passed = s.passed := rfl
@[simp] theorem State.respond_mem (s : State) (n : BitVec 12) (tag : BitVec 32) (op st : Nat) (r : List Word) : (s.respond n tag op st r).mem = s.mem := rfl
@[simp] theorem State.tell_agenda (s : State) (m : PeerMsg) : (s.tell m).agenda = s.agenda := rfl
@[simp] theorem State.tell_here (s : State) (m : PeerMsg) : (s.tell m).here = s.here := rfl
@[simp] theorem State.tell_ctx (s : State) (m : PeerMsg) : (s.tell m).ctx = s.ctx := rfl
@[simp] theorem State.tell_stalled (s : State) (m : PeerMsg) : (s.tell m).stalled = s.stalled := rfl
@[simp] theorem State.tell_picks (s : State) (m : PeerMsg) : (s.tell m).picks = s.picks := rfl
@[simp] theorem State.tell_frees (s : State) (m : PeerMsg) : (s.tell m).frees = s.frees := rfl
@[simp] theorem State.tell_power (s : State) (m : PeerMsg) : (s.tell m).power = s.power := rfl
@[simp] theorem State.tell_tiles (s : State) (m : PeerMsg) : (s.tell m).tiles = s.tiles := rfl
@[simp] theorem State.tell_regions (s : State) (m : PeerMsg) : (s.tell m).regions = s.regions := rfl
@[simp] theorem State.tell_dies (s : State) (m : PeerMsg) : (s.tell m).dies = s.dies := rfl
@[simp] theorem State.tell_xfers (s : State) (m : PeerMsg) : (s.tell m).xfers = s.xfers := rfl
@[simp] theorem State.tell_nextSeq (s : State) (m : PeerMsg) : (s.tell m).nextSeq = s.nextSeq := rfl
@[simp] theorem State.tell_beacons (s : State) (m : PeerMsg) : (s.tell m).beacons = s.beacons := rfl
@[simp] theorem State.tell_beaconsOut (s : State) (m : PeerMsg) : (s.tell m).beaconsOut = s.beaconsOut := rfl
@[simp] theorem State.tell_passed (s : State) (m : PeerMsg) : (s.tell m).passed = s.passed := rfl
@[simp] theorem State.tell_mem (s : State) (m : PeerMsg) : (s.tell m).mem = s.mem := rfl
@[simp] theorem State.stale_agenda (s : State) (d : Fin 8) : (s.stale d).agenda = s.agenda := rfl
@[simp] theorem State.stale_here (s : State) (d : Fin 8) : (s.stale d).here = s.here := rfl
@[simp] theorem State.stale_ctx (s : State) (d : Fin 8) : (s.stale d).ctx = s.ctx := rfl
@[simp] theorem State.stale_stalled (s : State) (d : Fin 8) : (s.stale d).stalled = s.stalled := rfl
@[simp] theorem State.stale_picks (s : State) (d : Fin 8) : (s.stale d).picks = s.picks := rfl
@[simp] theorem State.stale_frees (s : State) (d : Fin 8) : (s.stale d).frees = s.frees := rfl
@[simp] theorem State.stale_power (s : State) (d : Fin 8) : (s.stale d).power = s.power := rfl
@[simp] theorem State.stale_tiles (s : State) (d : Fin 8) : (s.stale d).tiles = s.tiles := rfl
@[simp] theorem State.stale_regions (s : State) (d : Fin 8) : (s.stale d).regions = s.regions := rfl
@[simp] theorem State.stale_xfers (s : State) (d : Fin 8) : (s.stale d).xfers = s.xfers := rfl
@[simp] theorem State.stale_nextSeq (s : State) (d : Fin 8) : (s.stale d).nextSeq = s.nextSeq := rfl
@[simp] theorem State.stale_beacons (s : State) (d : Fin 8) : (s.stale d).beacons = s.beacons := rfl
@[simp] theorem State.stale_beaconsOut (s : State) (d : Fin 8) : (s.stale d).beaconsOut = s.beaconsOut := rfl
@[simp] theorem State.stale_passed (s : State) (d : Fin 8) : (s.stale d).passed = s.passed := rfl
@[simp] theorem State.stale_mem (s : State) (d : Fin 8) : (s.stale d).mem = s.mem := rfl
@[simp] theorem State.stale_hub (s : State) (d : Fin 8) : (s.stale d).hub = s.hub := rfl
@[simp] theorem State.pick_agenda (s : State) (n : Nat) : (s.pick n).2.agenda = s.agenda := rfl
@[simp] theorem State.freeWord_agenda (s : State) : s.freeWord.2.agenda = s.agenda := rfl
@[simp] theorem State.pick_here (s : State) (n : Nat) : (s.pick n).2.here = s.here := rfl
@[simp] theorem State.freeWord_here (s : State) : s.freeWord.2.here = s.here := rfl
@[simp] theorem State.pick_ctx (s : State) (n : Nat) : (s.pick n).2.ctx = s.ctx := rfl
@[simp] theorem State.freeWord_ctx (s : State) : s.freeWord.2.ctx = s.ctx := rfl
@[simp] theorem State.pick_stalled (s : State) (n : Nat) : (s.pick n).2.stalled = s.stalled := rfl
@[simp] theorem State.freeWord_stalled (s : State) : s.freeWord.2.stalled = s.stalled := rfl
@[simp] theorem State.freeWord_picks (s : State) : s.freeWord.2.picks = s.picks := rfl
@[simp] theorem State.pick_frees (s : State) (n : Nat) : (s.pick n).2.frees = s.frees := rfl
@[simp] theorem State.pick_power (s : State) (n : Nat) : (s.pick n).2.power = s.power := rfl
@[simp] theorem State.freeWord_power (s : State) : s.freeWord.2.power = s.power := rfl
@[simp] theorem State.pick_tiles (s : State) (n : Nat) : (s.pick n).2.tiles = s.tiles := rfl
@[simp] theorem State.freeWord_tiles (s : State) : s.freeWord.2.tiles = s.tiles := rfl
@[simp] theorem State.pick_regions (s : State) (n : Nat) : (s.pick n).2.regions = s.regions := rfl
@[simp] theorem State.freeWord_regions (s : State) : s.freeWord.2.regions = s.regions := rfl
@[simp] theorem State.pick_dies (s : State) (n : Nat) : (s.pick n).2.dies = s.dies := rfl
@[simp] theorem State.freeWord_dies (s : State) : s.freeWord.2.dies = s.dies := rfl
@[simp] theorem State.pick_xfers (s : State) (n : Nat) : (s.pick n).2.xfers = s.xfers := rfl
@[simp] theorem State.freeWord_xfers (s : State) : s.freeWord.2.xfers = s.xfers := rfl
@[simp] theorem State.pick_nextSeq (s : State) (n : Nat) : (s.pick n).2.nextSeq = s.nextSeq := rfl
@[simp] theorem State.freeWord_nextSeq (s : State) : s.freeWord.2.nextSeq = s.nextSeq := rfl
@[simp] theorem State.pick_beacons (s : State) (n : Nat) : (s.pick n).2.beacons = s.beacons := rfl
@[simp] theorem State.freeWord_beacons (s : State) : s.freeWord.2.beacons = s.beacons := rfl
@[simp] theorem State.pick_beaconsOut (s : State) (n : Nat) : (s.pick n).2.beaconsOut = s.beaconsOut := rfl
@[simp] theorem State.freeWord_beaconsOut (s : State) : s.freeWord.2.beaconsOut = s.beaconsOut := rfl
@[simp] theorem State.pick_passed (s : State) (n : Nat) : (s.pick n).2.passed = s.passed := rfl
@[simp] theorem State.freeWord_passed (s : State) : s.freeWord.2.passed = s.passed := rfl
@[simp] theorem State.pick_mem (s : State) (n : Nat) : (s.pick n).2.mem = s.mem := rfl
@[simp] theorem State.freeWord_mem (s : State) : s.freeWord.2.mem = s.mem := rfl
@[simp] theorem State.pick_hub (s : State) (n : Nat) : (s.pick n).2.hub = s.hub := rfl
@[simp] theorem State.freeWord_hub (s : State) : s.freeWord.2.hub = s.hub := rfl
@[simp] theorem State.stall_stalled (s : State) : s.stall.stalled = true := rfl
@[simp] theorem State.stall_tile (s : State) (t : TileId) : s.stall.tile t = s.tile t := rfl
@[simp] theorem State.stall_cur (s : State) : s.stall.cur = s.cur := rfl
@[simp] theorem State.modDie_same (s : State) (d : Fin 8) (f : Die → Die) : (s.modDie d f).dies[d] = f s.dies[d] := by
  simp [State.modDie]
theorem State.modDie_other (s : State) {d e : Fin 8} (h : e ≠ d) (f : Die → Die) : (s.modDie d f).dies[e] = s.dies[e] := by
  have hn : d.val ≠ e.val := fun q => h (Fin.ext q.symm)
  simp [State.modDie, Vector.getElem_set_ne _ _ hn]

end Sys2Proof.Machine
end

