-- ==== Sys2Proof/Laws/Frames.lean ====
section
/-! SUPPORT. What the shared operations of instructions do: a register write, a retirement, a branch and a trap entry
change the issuing context alone. -/

namespace Sys2Proof

open Sys2Proof.Machine

/-! Issue. -/

theorem issue_runs {s : State} {g : Guard} (h : Runs s g) (f : State → State) : s.issue g f = f s := by
  rw [State.issue, if_neg h.1, if_pos h.2]

theorem issueJump_runs {s : State} {g : Guard} (h : s.cur.guardOn g = true) (f : State → State) : s.issueJump g f = f s := by
  simp [State.issueJump, h]

theorem issueLanes_runs {s : State} (g : Guard) (h : s.cur.pc ≠ 2047) (f : Word → State → State) :
    s.issueLanes g f = f (s.cur.laneMask g) s := by
  rw [State.issueLanes, if_neg h]

theorem issue_last {s : State} {g : Guard} (h : s.cur.pc = 2047) (f : State → State) : s.issue g f = s.trapIll := by
  simp [State.issue, h]

theorem issue_off {s : State} {g : Guard} (hp : s.cur.pc ≠ 2047) (h : s.cur.guardOn g = false) (f : State → State) :
    s.issue g f = s.retire := by
  rw [State.issue, if_neg hp, h]
  rfl

theorem issueJump_off {s : State} {g : Guard} (hp : s.cur.pc ≠ 2047) (h : s.cur.guardOn g = false) (f : State → State) :
    s.issueJump g f = s.retire := by
  rw [State.issueJump, h, if_neg hp]
  rfl

theorem supervised_runs {s : State} (h : s.cur.mode = .supervisor) (f : State → State) : s.supervised f = f s := by
  simp [State.supervised, h]

theorem supervised_user {s : State} (h : s.cur.mode = .user) (f : State → State) :
    s.supervised f = s.trap Cause.priv s.curWord := by
  simp [State.supervised, h]

/-! Changes of the issuing context alone. -/

theorem scratch_modCur (s : State) (f : Ctx → Ctx) (k : TileId) : ((s.modCur f).tile k).scratch = (s.tile k).scratch := by
  by_cases h : k = s.here
  · subst h
    simp [State.modCur, State.modCtx]
  · simp [State.modCur, State.modCtx, State.tile_modTile_other s h]

theorem onlyContext_modCur (s : State) (f : Ctx → Ctx) : OnlyContext s (s.modCur f) := by
  refine ⟨?_, fun _ => rfl, fun _ => rfl, fun k a => by rw [scratch_modCur]⟩
  simp [State.modCur, State.modCtx, State.modTile, State.setTile, State.cur, State.ctxAt, State.tile]

theorem memorySame_modTile (s : State) (k : TileId) {f : Tile → Tile} (h : ∀ x, (f x).scratch = x.scratch) :
    MemorySame s (s.modTile k f) := by
  refine ⟨fun _ => rfl, fun _ => rfl, fun j a => ?_⟩
  by_cases hj : j = k
  · subst hj
    rw [State.tile_modTile_same, h]
  · rw [State.tile_modTile_other s hj]

theorem MemorySame.trans {s t u : State} (h : MemorySame s t) (k : MemorySame t u) : MemorySame s u :=
  ⟨fun a => (k.1 a).trans (h.1 a), fun a => (k.2.1 a).trans (h.2.1 a), fun j a => (k.2.2 j a).trans (h.2.2 j a)⟩

theorem MemorySame.refl (s : State) : MemorySame s s := ⟨fun _ => rfl, fun _ => rfl, fun _ _ => rfl⟩

theorem memorySame_modCtx (s : State) (k : TileId) (c : Fin 4) (f : Ctx → Ctx) : MemorySame s (s.modCtx k c f) :=
  memorySame_modTile s k fun _ => rfl

theorem tileStep_retire (s : State) {f : Tile → Tile} (h : ∀ x, (f x).scratch = x.scratch) :
    TileStep s (s.modCurTile f).retire f :=
  ⟨rfl, (memorySame_modTile s s.here h).trans (onlyContext_modCur _ _).2⟩

theorem tileOnly_modTile (s : State) (k : TileId) {f : Tile → Tile} (h : ∀ x, (f x).scratch = x.scratch) :
    TileOnly s (s.modTile k f) k f := ⟨rfl, memorySame_modTile s k h⟩

theorem ctxOnly_modCtx (s : State) (k : TileId) (c : Fin 4) (f : Ctx → Ctx) : CtxOnly s (s.modCtx k c f) k c f :=
  ⟨rfl, memorySame_modCtx s k c f⟩

theorem retired_retire (s : State) : Retired s s.retire :=
  ⟨by simp [State.retire, Ctx.retire], onlyContext_modCur _ _⟩

theorem wroteS_writeS (s : State) (d : Reg) (v : Word) : WroteS s (s.writeS d v) d v := by
  refine ⟨by simp [State.writeS], fun r hr => ?_, ?_, onlyContext_modCur _ _⟩
  · simp [State.writeS, Ctx.getS_setS_other _ hr, State.getS]
  · simp only [State.writeS, State.cur_modCur, Ctx.retire]
    unfold Ctx.setS
    split <;> rfl

theorem wroteV_writeV (s : State) (d : Reg) (x : Vec) : WroteV s (s.writeV d x) d x := by
  refine ⟨by simp [State.writeV], fun r hr => ?_, ?_, onlyContext_modCur _ _⟩
  · simp [State.writeV, Ctx.getV_setV_other _ hr, State.getV]
  · simp only [State.writeV, State.cur_modCur, Ctx.retire]
    rfl

theorem wroteP_writeP (s : State) (d : Reg) (v : Word) : WroteP s (s.writeP d v) d v := by
  refine ⟨by simp [State.writeP], fun r hr => ?_, ?_, onlyContext_modCur _ _⟩
  · simp [State.writeP, Ctx.getP_setP_other _ hr, State.getP]
  · simp only [State.writeP, State.cur_modCur, Ctx.retire]
    unfold Ctx.setP
    split <;> rfl

/-- Element k of a vector made of elements. -/
theorem laneOf_vecOf (w n : Nat) (hw : w * n ≤ 512) (f : Nat → Nat) (k : Nat) (hk : k < n) :
    laneOf (vecOf w n f) w k = f k % 2 ^ w := by
  have core : ∀ (l : List Nat) (k : Nat) (h : k < l.length),
      (l.foldr (fun k acc => f k % 2 ^ w + 2 ^ w * acc) 0) / 2 ^ (k * w) % 2 ^ w = f l[k] % 2 ^ w := by
    intro l
    induction l with
    | nil => intro k h; simp at h
    | cons x rest ih =>
      intro k h
      cases k with
      | zero => simp [Nat.add_mul_mod_self_left]
      | succ k =>
        have hp : 0 < 2 ^ w := Nat.pos_of_ne_zero (by simp)
        have e : (2 : Nat) ^ ((k + 1) * w) = 2 ^ w * 2 ^ (k * w) := by rw [Nat.add_mul, Nat.one_mul, Nat.pow_add, Nat.mul_comm]
        rw [List.foldr_cons, e, ← Nat.div_div_eq_div_mul, Nat.add_mul_div_left _ _ hp,
          Nat.div_eq_of_lt (Nat.mod_lt _ hp), Nat.zero_add]
        simpa using ih k (by simpa using h)
  have bound : ∀ (l : List Nat), (l.foldr (fun k acc => f k % 2 ^ w + 2 ^ w * acc) 0) < 2 ^ (w * l.length) := by
    intro l
    induction l with
    | nil => simp
    | cons x rest ih =>
      have hp : 0 < 2 ^ w := Nat.pos_of_ne_zero (by simp)
      have hx := Nat.mod_lt (f x) hp
      rw [List.foldr_cons, List.length_cons, Nat.mul_add, Nat.mul_one, Nat.add_comm (w * _) w, Nat.pow_add]
      calc _ < 2 ^ w + 2 ^ w * (rest.foldr (fun k acc => f k % 2 ^ w + 2 ^ w * acc) 0) := by omega
        _ = 2 ^ w * (rest.foldr (fun k acc => f k % 2 ^ w + 2 ^ w * acc) 0 + 1) := by rw [Nat.mul_add, Nat.mul_one, Nat.add_comm]
        _ ≤ 2 ^ w * 2 ^ (w * rest.length) := Nat.mul_le_mul_left _ ih
  have hb := bound (List.range n)
  rw [List.length_range] at hb
  have h512 : (List.range n).foldr (fun k acc => f k % 2 ^ w + 2 ^ w * acc) 0 < 2 ^ 512 :=
    Nat.lt_of_lt_of_le hb (Nat.pow_le_pow_right (by decide) hw)
  have hc := core (List.range n) k (by simpa using hk)
  simp only [List.getElem_range] at hc
  simpa [laneOf, vecOf, field, BitVec.toNat_ofNat, Nat.mod_eq_of_lt h512, Nat.shiftRight_eq_div_pow] using hc

theorem laneOf_lt (v : Vec) (w k : Nat) : laneOf v w k < 2 ^ w := by
  unfold laneOf field
  exact Nat.mod_lt _ (Nat.pos_of_ne_zero (by simp))

theorem lanes_fit (ty : Ty) : ty.width * ty.lanes ≤ 512 := by cases ty <;> decide

theorem wroteLanes_vecLanes (s : State) (d : Reg) (ty : Ty) (mask : Word) (f : Nat → Nat) :
    WroteLanes s (s.vecLanes d ty mask f) d ty mask f := by
  obtain ⟨h1, h2, h3, h4⟩ := wroteV_writeV s d
    (vecOf ty.width ty.lanes fun k => if activeLane ty.width mask k then f k else laneOf (s.getV d) ty.width k)
  refine ⟨fun k hk => ?_, h2, h3, h4⟩
  unfold State.vecLanes
  rw [h1, laneOf_vecOf _ _ (lanes_fit ty) _ _ hk]
  split
  · rfl
  · exact Nat.mod_eq_of_lt (laneOf_lt _ _ _)

/-! Trap entry. -/

theorem trapped_trap {s : State} (h : s.cur.trapped = false) (cause : BitVec 8) (eva info : Word) :
    Trapped s (s.trapAt eva cause info) cause eva info := by
  have hc : (s.ctxAt s.here s.ctx).trapped = false := h
  have e : s.trapAt eva cause info = s.modCur fun c => c.trapEntry cause s.cur.pc eva info := by
    simp [State.trapAt, State.trapIn, hc, State.modCur]
  rw [e]
  exact ⟨by simp [Ctx.trapEntry], onlyContext_modCur _ _⟩

end Sys2Proof
end

