-- ==== Sys2Proof/Laws/Memory.lean ====
section
/-! SUPPORT. Memory: a read after a write, and the canonical form that every operation keeps. -/

namespace Sys2Proof.Machine

theorem Memory.read_write_same (m : Memory) (lo a : Nat) (b : Byte) (h : m.wfFrom lo = true) : (m.write a b).read a = b := by
  have below : ∀ (n : Memory) (k : Nat), n.wfFrom (k + 1) = true → ∀ j ≤ k, n.read j = Memory.default := by
    intro n
    induction n with
    | nil => intros; rfl
    | cons x rest ih =>
      obtain ⟨k', b'⟩ := x
      intro k hw j hj
      simp [Memory.wfFrom] at hw
      have hne : k' ≠ j := by omega
      simp only [Memory.read, hne, if_false]
      exact ih k' hw.2 j (by omega)
  induction m generalizing lo with
  | nil => by_cases hb : b = Memory.default <;> simp [Memory.write, Memory.read, hb]
  | cons x rest ih =>
    obtain ⟨k, c⟩ := x
    simp [Memory.wfFrom] at h
    unfold Memory.write
    split
    · by_cases hb : b = Memory.default
      · have hne : k ≠ a := by omega
        simp only [hb, if_true, Memory.read, hne, if_false]
        exact below rest k h.2 a (by omega)
      · simp [hb, Memory.read]
    · split
      · rename_i hk
        by_cases hb : b = Memory.default
        · simp only [hb, if_true]
          exact below rest k h.2 a (by omega)
        · simp [hb, Memory.read]
      · have hne : k ≠ a := by omega
        simp only [Memory.read, hne, if_false]
        exact ih (k + 1) h.2

theorem Memory.read_write_other (m : Memory) {a j : Nat} (b : Byte) (h : j ≠ a) : (m.write a b).read j = m.read j := by
  induction m with
  | nil => by_cases hb : b = Memory.default <;> simp [Memory.write, Memory.read, hb, Ne.symm h]
  | cons x rest ih =>
    obtain ⟨k, c⟩ := x
    unfold Memory.write
    split
    · by_cases hb : b = Memory.default <;> simp [hb, Memory.read, Ne.symm h]
    · split
      · rename_i hk
        subst hk
        by_cases hb : b = Memory.default <;> simp [hb, Memory.read, Ne.symm h]
      · by_cases hk : k = j <;> simp [Memory.read, hk, ih]

theorem Memory.wfFrom_mono {lo lo' : Nat} (h : lo' ≤ lo) {m : Memory} (hw : m.wfFrom lo = true) : m.wfFrom lo' = true := by
  cases m with
  | nil => rfl
  | cons x rest =>
    obtain ⟨k, c⟩ := x
    simp [Memory.wfFrom] at hw ⊢
    exact ⟨⟨by omega, hw.1.2⟩, hw.2⟩

theorem Memory.wfFrom_write {lo a : Nat} (ha : lo ≤ a) (b : Byte) {m : Memory} (h : m.wfFrom lo = true) :
    (m.write a b).wfFrom lo = true := by
  induction m generalizing lo with
  | nil => by_cases hb : b = Memory.default <;> simp [Memory.write, Memory.wfFrom, hb, ha]
  | cons x rest ih =>
    obtain ⟨k, c⟩ := x
    have h' := h
    simp [Memory.wfFrom] at h
    unfold Memory.write
    split
    · by_cases hb : b = Memory.default
      · simpa [hb] using h'
      · simp [hb, Memory.wfFrom]
        exact ⟨ha, ⟨by omega, h.1.2⟩, h.2⟩
    · split
      · rename_i hk
        subst hk
        by_cases hb : b = Memory.default
        · simp only [hb, if_true]
          exact Memory.wfFrom_mono (by omega) h.2
        · simp [hb, Memory.wfFrom]
          exact ⟨ha, h.2⟩
      · simp [Memory.wfFrom]
        exact ⟨⟨h.1.1, h.1.2⟩, ih (by omega) h.2⟩

theorem Memory.wf_write {m : Memory} (h : m.wf = true) (a : Nat) (b : Byte) : (m.write a b).wf = true :=
  Memory.wfFrom_write (Nat.zero_le a) b h

theorem Memory.wf_writeN {m : Memory} (h : m.wf = true) (a n v : Nat) : (m.writeN a n v).wf = true := by
  induction n generalizing m a v with
  | zero => exact h
  | succ n ih => exact ih (Memory.wf_write h _ _) _ _

theorem Memory.wf_writeCells {m : Memory} (h : m.wf = true) (l : List Host.Cell) : (m.writeCells l).wf = true := by
  induction l generalizing m with
  | nil => exact h
  | cons x rest ih => exact ih (Memory.wf_write h x.1 x.2)

theorem Memory.read_writeN_outside {m : Memory} {a n v j : Nat} (h : j < a ∨ a + n ≤ j) : (m.writeN a n v).read j = m.read j := by
  induction n generalizing m a v with
  | zero => rfl
  | succ n ih =>
    have hj : j ≠ a := by omega
    unfold Memory.writeN
    rw [ih (by omega), Memory.read_write_other _ _ hj]

/-- The number read back after a store of as many bytes. -/
theorem Memory.readN_writeN {m : Memory} (h : m.wf = true) (a n v : Nat) : (m.writeN a n v).readN a n = v % 256 ^ n := by
  induction n generalizing m a v with
  | zero => simp [Memory.readN, Nat.mod_one]
  | succ n ih =>
    unfold Memory.readN Memory.writeN
    rw [ih (Memory.wf_write h _ _), Memory.read_writeN_outside (by omega), Memory.read_write_same m 0 _ _ h]
    have hm := Nat.mod_mul (x := v) (a := 256) (b := 256 ^ n)
    rw [Nat.pow_succ, Nat.mul_comm (256 ^ n) 256, hm]
    simp [BitVec.toNat_ofNat]

/-! The package's memories. -/

theorem Global.hbm_writeAt {g : Global} (h : g.hbm.wf = true) (t : Target) (n v : Nat) : (g.writeAt t n v).hbm.wf = true := by
  cases t <;> first | exact h | exact Memory.wf_writeN h _ _ _

theorem Global.lpddr_writeAt {g : Global} (h : g.lpddr.wf = true) (t : Target) (n v : Nat) :
    (g.writeAt t n v).lpddr.wf = true := by
  cases t <;> first | exact h | exact Memory.wf_writeN h _ _ _

@[simp] theorem Global.hbm_setPresent (g : Global) (t : Target) : (g.setPresent t).hbm = g.hbm := by cases t <;> rfl
@[simp] theorem Global.lpddr_setPresent (g : Global) (t : Target) : (g.setPresent t).lpddr = g.lpddr := by cases t <;> rfl
@[simp] theorem Global.hbm_clearPresent (g : Global) (t : Target) (n : Nat) : (g.clearPresent t n).hbm = g.hbm := by
  cases t <;> rfl
@[simp] theorem Global.lpddr_clearPresent (g : Global) (t : Target) (n : Nat) : (g.clearPresent t n).lpddr = g.lpddr := by
  cases t <;> rfl

theorem Global.wf_landCells {g g' : Global} (hb : g.hbm.wf = true) (hl : g.lpddr.wf = true) (t : Target) (wo : Bool)
    (cells : List Host.Cell) (h : g.landCells t wo cells = .ok g') : g'.hbm.wf = true ∧ g'.lpddr.wf = true := by
  have present : ∀ (l : List Nat) (g : Global), (l.foldl (fun g w => g.setPresent (.hbm (8 * w))) g).hbm = g.hbm ∧
      (l.foldl (fun g w => g.setPresent (.hbm (8 * w))) g).lpddr = g.lpddr := by
    intro l
    induction l with
    | nil => intro g; exact ⟨rfl, rfl⟩
    | cons w rest ih => intro g; simpa using ih (g.setPresent (.hbm (8 * w)))
  cases t with
  | hbm pa =>
    simp only [Global.landCells] at h
    split at h
    · cases h
    · split at h
      · cases h
      · cases h
        split
        · rw [(present _ _).1, (present _ _).2]
          exact ⟨Memory.wf_writeCells hb _, hl⟩
        · exact ⟨Memory.wf_writeCells hb _, hl⟩
  | lpddr pa =>
    simp only [Global.landCells] at h
    cases h
    exact ⟨hb, Memory.wf_writeCells hl _⟩
  | remote n a =>
    simp only [Global.landCells] at h
    cases h
    exact ⟨hb, hl⟩

end Sys2Proof.Machine
end

