-- ==== Sys2Proof/Laws/Operations.lean ====
section
/-! SUPPORT. What the shared operations answer: checks before an instruction, ports, the array, scratch and global accesses. -/

namespace Sys2Proof.Machine
open Sys2Proof

/-- The second of two writings at one key is what stays. -/
theorem putKey_putKey {κ α : Type} [DecidableEq κ] (k : κ) (a b : α) (l : List (κ × α)) :
    putKey k b (putKey k a l) = putKey k b l := by
  induction l with
  | nil => simp [putKey]
  | cons x r ih =>
    obtain ⟨j, c⟩ := x
    by_cases h : j = k <;> simp [putKey, h, ih]

/-- Two changes of a tile are one. -/
theorem State.modTile_modTile (s : State) (t : TileId) (f g : Tile → Tile) :
    (s.modTile t f).modTile t g = s.modTile t fun x => g (f x) := by
  have e : (s.modTile t f).tile t = f (s.tile t) := State.tile_modTile_same s t f
  show (s.modTile t f).setTile t (g ((s.modTile t f).tile t)) = _
  rw [e]
  show { s with tiles := putKey t _ (putKey t _ s.tiles) } = { s with tiles := _ }
  rw [putKey_putKey]

/-- No store fault is held, or the access is no release: the instruction goes on (R289). -/
theorem takesFault_run {s : State} {ord : BitVec 2} {f : State → State} (h : ord.getLsbD 1 = true → s.cur.psf = none) : s.takesFault ord f = f s := by
  unfold State.takesFault
  split
  · rename_i ho
    simp [State.afterStoreFault, h ho]
  · rfl

/-- The earlier accesses have performed, or the access is no release: no wait (R310). -/
theorem awaits_run {s : State} {ord : BitVec 2} {sco : Scope} {f : State → State} (h : ord.getLsbD 1 = true → s.cur.performed sco = true) : s.awaits ord sco f = f s := by
  unfold State.awaits
  rw [if_neg (by
    intro hc
    simp only [Bool.and_eq_true, Bool.not_eq_true'] at hc
    rw [h hc.1] at hc; simp at hc)]

/-- An instruction that runs and writes S(D) completes with that. -/
theorem writesS_of_issue {i : Instr} {s : State} {g : Guard} {f : State → State} (he : exec i s = .next (s.issue g f)) (h : Runs s g) {d : Reg} {v : Word}
    (hf : f s = s.writeS d v) : Completes i s fun t => WroteS s t d v := by
  refine ⟨_, he, ?_⟩
  rw [issue_runs h, hf]
  exact wroteS_writeS _ _ _

/-- An instruction that runs and writes P(D) completes with that. -/
theorem writesP_of_issue {i : Instr} {s : State} {g : Guard} {f : State → State} (he : exec i s = .next (s.issue g f)) (h : Runs s g) {d : Reg} {v : Word}
    (hf : f s = s.writeP d v) : Completes i s fun t => WroteP s t d v := by
  refine ⟨_, he, ?_⟩
  rw [issue_runs h, hf]
  exact wroteP_writeP _ _ _

/-- A vector instruction that writes S(D) completes with that. -/
theorem writesS_of_lanes {i : Instr} {s : State} {g : Guard} {f : Word → State → State} (he : exec i s = .next (s.issueLanes g f)) (h : s.cur.pc ≠ 2047) {d : Reg} {v : Word}
    (hf : f (s.cur.laneMask g) s = s.writeS d v) : Completes i s fun t => WroteS s t d v := by
  refine ⟨_, he, ?_⟩
  rw [issueLanes_runs g h, hf]
  exact wroteS_writeS _ _ _

/-- A vector instruction that writes lanes completes with that. -/
theorem writesLanes_of_lanes {i : Instr} {s : State} {g : Guard} {f : Word → State → State} (he : exec i s = .next (s.issueLanes g f)) (h : s.cur.pc ≠ 2047) {d : Reg} {ty : Ty} {m : Word} {e : Nat → Nat}
    (hf : f (s.cur.laneMask g) s = s.vecLanes d ty m e) : Completes i s fun t => WroteLanes s t d ty m e := by
  refine ⟨_, he, ?_⟩
  rw [issueLanes_runs g h, hf]
  exact wroteLanes_vecLanes _ _ _ _ _

/-- A trap whose sys.einfo is open enters the handler with some free value there (R381). -/
theorem trapOpen_enters {s : State} (ht : s.cur.trapped = false) : ∃ info, (s.trapOpen Cause.chan).cur = s.cur.trapEntry Cause.chan s.cur.pc 0 info ∧ MemorySame s (s.trapOpen Cause.chan) := by
  have := trapped_trap (s := s.freeWord.2) ht Cause.chan 0 s.freeWord.1
  refine ⟨s.freeWord.1, this.1, this.2.2⟩

/-- Memory is as it was when the changed tile keeps its scratch. -/
theorem memorySame_modTile_of (s : State) (k : TileId) {f : Tile → Tile} (h : (f (s.tile k)).scratch = (s.tile k).scratch) :
    MemorySame s (s.modTile k f) := by
  refine ⟨fun _ => rfl, fun _ => rfl, fun j a => ?_⟩
  by_cases hj : j = k
  · subst hj
    rw [State.tile_modTile_same, h]
  · rw [State.tile_modTile_other s hj]

theorem memorySame_hub (s : State) (h : Hub) : MemorySame s { s with hub := h } := ⟨fun _ => rfl, fun _ => rfl, fun _ _ => rfl⟩

theorem memorySame_tell (s : State) (m : PeerMsg) : MemorySame s (s.tell m) := ⟨fun _ => rfl, fun _ => rfl, fun _ _ => rfl⟩

theorem memorySame_sendWord (s : State) (u : TileId) (k : Nat) (x : Entry) : MemorySame s (s.sendWord u k x) :=
  MemorySame.trans (memorySame_modTile s u (f := fun y => y.modSink k fun z => { z with inflight := z.inflight ++ [x], sent := z.sent ++ [s.nextSeq] }) fun _ => rfl) ⟨fun _ => rfl, fun _ => rfl, fun _ _ => rfl⟩

theorem memorySame_launch (s : State) (t : TileId) (e : Nat) (x : Entry) : MemorySame s (s.launch t e x) := by
  unfold State.launch
  split
  · split
    · exact memorySame_sendWord _ _ _ _
    · exact memorySame_modTile _ _ fun _ => rfl
  · split
    · exact memorySame_tell _ _
    · exact MemorySame.refl _

theorem memorySame_emit (s : State) (t : TileId) (e : Nat) (w : BitVec 256) (k : BitVec 4) : MemorySame s (s.emit t e w k) :=
  MemorySame.trans (memorySame_modTile s t (f := fun x => x.modSource e fun y => { y with credits := y.credits - 1 }) (fun _ => rfl)) (memorySame_launch _ _ _ _)

theorem memorySame_foldl {α : Type} (f : State → α → State) (h : ∀ s a, MemorySame s (f s a)) (l : List α) (s : State) : MemorySame s (l.foldl f s) := by
  induction l generalizing s with
  | nil => exact MemorySame.refl s
  | cons a l ih => exact (h s a).trans (ih _)

theorem memorySame_putPort (s : State) (t : TileId) (c : Fin 4) (k : BitVec 4) (es : List (BitVec 256 × BitVec 4)) : MemorySame s (s.putPort t c k es) := by
  unfold State.putPort
  split
  · exact memorySame_foldl _ (fun _ _ => memorySame_emit _ _ _ _ _) _ _
  · exact memorySame_modTile _ _ fun _ => rfl
  · exact MemorySame.refl _

theorem memorySame_returnCredits (s : State) (t : TileId) (k n : Nat) : MemorySame s (s.returnCredits t k n) := by
  unfold State.returnCredits
  repeat' (first | exact MemorySame.refl _ | exact memorySame_modTile _ _ fun _ => rfl | exact memorySame_tell _ _ | exact ⟨fun _ => rfl, fun _ => rfl, fun _ _ => rfl⟩ | split)

theorem memorySame_takeSink (s : State) (t : TileId) (k n : Nat) : MemorySame s (s.takeSink t k n) :=
  MemorySame.trans (memorySame_modTile s t (f := fun x => x.modSink k fun y => { y with queue := y.queue.drop n, asked := false }) (fun _ => rfl)) (memorySame_returnCredits _ _ _ _)

theorem memorySame_takePort (s : State) (t : TileId) (c : Fin 4) (k : BitVec 4) (n : Nat) : MemorySame s (s.takePort t c k n) := by
  unfold State.takePort
  split
  · exact memorySame_modCtx _ _ _ _
  · exact memorySame_takeSink _ _ _ _
  · exact memorySame_modTile _ _ fun _ => rfl
  · exact MemorySame.refl _

@[simp] theorem stalled_launch (s : State) (t : TileId) (e : Nat) (x : Entry) : (s.launch t e x).stalled = s.stalled := by
  unfold State.launch
  repeat' (first | rfl | split)

@[simp] theorem stalled_emit (s : State) (t : TileId) (e : Nat) (w : BitVec 256) (k : BitVec 4) : (s.emit t e w k).stalled = s.stalled := by
  simp [State.emit]

@[simp] theorem stalled_putPort (s : State) (t : TileId) (c : Fin 4) (k : BitVec 4) (es : List (BitVec 256 × BitVec 4)) : (s.putPort t c k es).stalled = s.stalled := by
  unfold State.putPort
  split
  · induction es generalizing s with
    | nil => rfl
    | cons x r ih =>
      rename_i e he
      simp only [List.foldl_cons]
      have : ∀ (l : List (BitVec 256 × BitVec 4)) (s : State), (l.foldl (fun s w => s.emit t e w.1 w.2) s).stalled = s.stalled := by
        intro l; induction l with
        | nil => intro s; rfl
        | cons y l ih => intro s; simp [ih]
      rw [this]; simp
  · rfl
  · rfl

@[simp] theorem stalled_returnCredits (s : State) (t : TileId) (k n : Nat) : (s.returnCredits t k n).stalled = s.stalled := by
  unfold State.returnCredits
  repeat' (first | rfl | split)

@[simp] theorem stalled_takeSink (s : State) (t : TileId) (k n : Nat) : (s.takeSink t k n).stalled = s.stalled := by
  simp [State.takeSink]

@[simp] theorem stalled_takePort (s : State) (t : TileId) (c : Fin 4) (k : BitVec 4) (n : Nat) : (s.takePort t c k n).stalled = s.stalled := by
  unfold State.takePort
  split <;> simp

@[simp] theorem stalled_forward (s : State) (t : TileId) (c : Fin 4) (v : Bool) (p : BitVec 4) (w : BitVec 256) (k : BitVec 4) : (s.forward t c v p w k).stalled = s.stalled := by
  unfold State.forward; split <;> simp

@[simp] theorem stalled_takePair (s : State) (t : TileId) (c : Fin 4) (a b : Entry) (f : Bool) : (s.takePair t c a b f).stalled = s.stalled := by
  unfold State.takePair; dsimp only; split <;> simp

@[simp] theorem stalled_modMatrix (s : State) (t : TileId) (f : Matrix → Matrix) : (s.modMatrix t f).stalled = s.stalled := rfl

/-- A step of the tile at hand said with another function that agrees on its tile. -/
theorem tileStep_of_eq {s t : State} {f : Tile → Tile} (g : Tile → Tile) (h : t = (s.modCurTile g).retire) (hfg : f s.curTile = g s.curTile)
    (hs : (g s.curTile).scratch = s.curTile.scratch) : TileStep s t f := by
  have e : s.modCurTile f = s.modCurTile g := by
    unfold State.modCurTile State.modTile
    have : f (s.tile s.here) = g (s.tile s.here) := hfg
    rw [this]
  refine ⟨by rw [h, e], ?_⟩
  rw [h]
  refine MemorySame.trans (t := s.modCurTile g) ?_ (onlyContext_modCur _ _).2
  refine ⟨fun _ => rfl, fun _ => rfl, fun j a => ?_⟩
  by_cases hj : j = s.here
  · subst hj
    have : ((s.modCurTile g).tile s.here) = g (s.tile s.here) := by simp [State.modCurTile]
    rw [this]
    exact congrArg (fun m => Memory.read m a) hs
  · simp [State.modCurTile, State.tile_modTile_other s hj]

/-- The owner of an array without a fault runs a matrix instruction (R213, R220). -/
theorem matrixOp_runs {s : State} {g : Guard} {i : Instr} {f : Matrix → State → State} (he : exec i s = .next (s.issue g (·.matrixOp f))) (h : Runs s g)
    (ho : s.curTile.matrix.owner = some s.ctx) (hc : s.curTile.matrix.cause = 0) {t : State} (ht : f s.curTile.matrix s = t) : exec i s = .next t := by
  rw [he, issue_runs h]
  simp only [State.matrixOp, ho, hc, ne_eq, not_true_eq_false, if_false, ht]

/-- A matrix instruction that changes the array alone. -/
theorem matrixOp_tileStep {s : State} {g : Guard} {i : Instr} {f : Matrix → State → State} (he : exec i s = .next (s.issue g (·.matrixOp f))) (h : Runs s g)
    (ho : s.curTile.matrix.owner = some s.ctx) (hc : s.curTile.matrix.cause = 0) (F : Matrix → Matrix) (m' : Matrix) (hm : F s.curTile.matrix = m')
    (ht : f s.curTile.matrix s = (s.modMatrix s.here F).retire) : Completes i s fun t => TileStep s t fun x => { x with matrix := m' } := by
  subst hm
  exact ⟨_, matrixOp_runs he h ho hc ht, tileStep_of_eq (fun x => { x with matrix := F x.matrix }) rfl rfl rfl⟩

/-- An instruction on a set that is in use (R231). -/
theorem spinOp_runs {s : State} {g : Guard} {i : Instr} {o : FmtQ} {f : SpinCfg → SpinSet → State → State} (he : exec i s = .next (s.issue g (·.spinOp o f))) (h : Runs s g)
    (hv : (s.curTile.cfg.spin[setOf o]).valid = true) {t : State} (ht : f s.curTile.cfg.spin[setOf o] s.curTile.spins[setOf o] s = t) : exec i s = .next t := by
  rw [he, issue_runs h]
  unfold State.spinOp
  dsimp only
  rw [if_neg (by rw [hv]; simp), ht]

/-- No element fails: no fault (R161). -/
theorem scratchCheck_none {x : Tile} {c : Fin 4} {size al k : Nat} {as : List Nat} (h : ∀ a ∈ as, a % al = 0 ∧ x.owned c a size = true) :
    x.scratchCheck c size al k as = none := by
  induction as generalizing k with
  | nil => rfl
  | cons a r ih =>
    have ha := h a (by simp)
    unfold Tile.scratchCheck
    rw [if_neg (by rw [ha.1]; simp), if_neg (by rw [ha.2]; simp)]
    exact ih (fun b hb => h b (by simp [hb]))

/-- The lowest failing element decides (R161). -/
theorem scratchCheck_some {x : Tile} {c : Fin 4} {size al k0 k a : Nat} {as : List Nat} {cause : BitVec 8} (hk : as[k]? = some a)
    (h : ∀ j < k, ∀ b, as[j]? = some b → b % al = 0 ∧ x.owned c b size = true)
    (hc : (a % al ≠ 0 ∧ cause = Cause.align) ∨ (a % al = 0 ∧ x.owned c a size = false ∧ cause = Cause.scratch)) :
    x.scratchCheck c size al k0 as = some (k0 + k, a, cause) := by
  induction as generalizing k0 k with
  | nil => simp at hk
  | cons b r ih =>
    unfold Tile.scratchCheck
    cases k with
    | zero =>
      simp at hk; subst hk
      rcases hc with ⟨h1, h2⟩ | ⟨h1, h2, h3⟩
      · rw [if_pos h1, h2]; rfl
      · rw [if_neg (by simp [h1]), if_pos (by simp [h2]), h3]; rfl
    | succ k =>
      have hb := h 0 (by omega) b (by simp)
      rw [if_neg (by rw [hb.1]; simp), if_neg (by rw [hb.2]; simp)]
      rw [ih (k := k) (k0 := k0 + 1) (by simpa using hk) (fun j hj b' hb' => h (j + 1) (by omega) b' (by simpa using hb'))]
      congr 2; omega

/-- No element meets an uncorrectable error (R161). -/
theorem poisonCheck_none {x : Tile} {c : Fin 4} {size : Nat} {as : List Nat} (h : ∀ a ∈ as, x.scratchPoison c a size = false) :
    x.poisonCheck c size as = none := by
  unfold Tile.poisonCheck
  rw [List.findSome?_eq_none_iff]
  intro k hk
  split
  · rename_i a ha
    rw [h a (List.mem_of_getElem? ha)]; rfl
  · rfl

/-- A scratch load without a failing element, behind no access that has still to acquire, reads its elements (R162, R163, R299). -/
theorem scratchLoad_reads {s : State} {f : ScratchForm} {o : FmtM} (put : Nat → State → State) (hq : s.cur.acqPending = false)
    (h : ∀ a ∈ s.cur.elements f o, a % f.align o = 0 ∧ s.curTile.owned s.ctx a (f.size o) = true ∧ s.curTile.scratchPoison s.ctx a (f.size o) = false) :
    s.scratchLoad f o put = put ((s.cur.elements f o).foldr (fun a acc => s.curTile.scratchRead s.ctx a (f.size o) + 2 ^ (8 * f.size o) * acc) 0) s := by
  unfold State.scratchLoad
  dsimp only
  rw [scratchCheck_none (fun a ha => ⟨(h a ha).1, (h a ha).2.1⟩)]
  dsimp only
  rw [poisonCheck_none (fun a ha => (h a ha).2.2)]
  simp [State.afterAcquire, hq]

/-- Bytes make a number below the power of two of their bits. -/
theorem ofBytes_lt (l : List Byte) : ofBytes l < 2 ^ (8 * l.length) := by
  induction l with
  | nil => simp [ofBytes]
  | cons b r ih =>
    have := b.isLt
    simp only [ofBytes, List.length_cons, Nat.mul_add, Nat.mul_one, Nat.pow_add]
    omega

/-- A scratch read is below the power of two of its bits. -/
theorem scratchRead_lt (x : Tile) (c : Fin 4) (a n : Nat) : x.scratchRead c a n < 2 ^ (8 * n) := by
  have := ofBytes_lt ((List.range n).map fun i => x.scratchByte c (x.place x.half (a + i)))
  simpa [Tile.scratchRead] using this

/-- A byte after cells have been written: the last of them at its address, else what it was. -/
theorem Memory.read_writeCells (m : Memory) (h : m.wf = true) (l : List Host.Cell) (a : Nat) :
    (m.writeCells l).read a = (lookupKey a l.reverse).getD (m.read a) := by
  have app : ∀ (l l' : List Host.Cell), lookupKey a (l ++ l') = (lookupKey a l).or (lookupKey a l') := by
    intro l l'
    induction l with
    | nil => simp [lookupKey]
    | cons x r ih => obtain ⟨k, b⟩ := x; by_cases hk : k = a <;> simp [lookupKey, hk, ih]
  induction l generalizing m with
  | nil => simp [Memory.writeCells, lookupKey]
  | cons x r ih =>
    obtain ⟨k, b⟩ := x
    rw [Memory.writeCells, ih _ (Memory.wf_write h _ _), List.reverse_cons, app]
    by_cases hk : k = a
    · subst hk
      rw [Memory.read_write_same m 0 _ _ h]
      cases hr : lookupKey k r.reverse <;> simp [lookupKey]
    · rw [Memory.read_write_other _ _ (Ne.symm hk)]
      cases hr : lookupKey a r.reverse <;> simp [lookupKey, hk]

/-- A global access that passes its checks enters the queue under the next number (R286). -/
theorem globalOp_enters {s : State} {o : FmtM} {kind : GKind} {n : Nat} {bad : Bool} {va : Word} {data : BitVec 512} 
    (hq : s.cur.gq.length < 16) (ho : o.ord.getLsbD 1 = true → s.cur.psf = none ∧ s.cur.performed o.sco = true)
    (hb : bad = false) (ha : va.toNat % n = 0) (hv : va.toNat < 2 ^ 56) : 
    s.globalOp kind n bad o va data = State.translateQueue 17 (s.modCur fun c =>
          let a : GAccess := ⟨s.cur.nextAcc, kind, o.d, va.toNat, data, s.getS o.d, o.ord, o.sco, s.cur.pc, s.cur.mode == .user, .queued, 0, (0, 0), false⟩
          let c := { c with gq := c.gq ++ [a], nextAcc := c.nextAcc + 1 }
          if kind.returns then { c with wait := .access a.id } else c.retire) s.here s.ctx := by
  unfold State.globalOp
  rw [takesFault_run (fun h => (ho h).1)]
  subst hb
  rw [if_neg (by simp [ha]), if_neg (by omega)]
  unfold State.awaits
  rw [if_neg (by
    intro hc
    simp only [Bool.and_eq_true, Bool.not_eq_true'] at hc
    rw [(ho hc.1).2] at hc; simp at hc)]
  unfold State.enterQueue
  dsimp only
  rw [if_neg (by omega)]
  rfl

/-- A global access that fails a check traps, ALIGN before XLATE (R275, R281); LEVEL of the XLATE is open (log entry 40). -/
theorem globalOp_checks {s : State} {o : FmtM} {kind : GKind} {n : Nat} {bad : Bool} {va : Word} {data : BitVec 512} 
    (ht : s.cur.trapped = false) (ho : o.ord.getLsbD 1 = true → s.cur.psf = none)
    (hb : bad = false) : (va.toNat % n ≠ 0 → Trapped s (s.globalOp kind n bad o va data) Cause.align va 0) ∧
      (va.toNat % n = 0 → 2 ^ 56 ≤ va.toNat → ∃ level, level < 16 ∧
        Trapped { s with frees := s.frees + 1 } (s.globalOp kind n bad o va data) Cause.xlate va
          (BitVec.ofNat 64 (2 * 2 ^ 12 + level * 2 ^ 8 + kind.code))) := by
  unfold State.globalOp
  rw [takesFault_run ho]
  subst hb
  constructor
  · intro h
    rw [if_pos (by simp [h])]
    exact trapped_trap ht _ _ _
  · intro h h2
    rw [if_neg (by simp [h]), if_pos h2]
    refine ⟨s.openLevel.1, ?_, ?_⟩
    · simp only [State.openLevel, State.freeWord, field]; omega
    · have e : xlateInfo 0 2 s.openLevel.1 kind.code = BitVec.ofNat 64 (2 * 2 ^ 12 + s.openLevel.1 * 2 ^ 8 + kind.code) := by
        unfold xlateInfo; congr 1
      rw [← e]
      exact trapped_trap (s := { s with frees := s.frees + 1 }) ht _ _ _

/-- An access that is ready, local, let perform and what its slice serves next performs there (R245, R287). -/
theorem performRef_ready {s s' : State} {k c} {a : GAccess} {tgt : Target} {b : Bool} (h1 : (s.ctxAt k c).access a.id = some a)
    (h2 : a.stage = .ready tgt) (h3 : tgt.isRemote = false) (h4 : (s'.ctxAt k c).mayPerform a tgt = true) (hb : a.kind.isAtomic = b)
    (hs : s.servedAt tgt.slice (.ctx k c a.id) = some s') :
    s.performRef ⟨.ctx k c a.id, .clean⟩ b = (s'.performAt k c a tgt false).serveDeferred := by
  unfold State.performRef State.atSlice
  simp only [h1, h2, hb, hs, ne_eq, not_true_eq_false, if_false, Bool.false_eq_true, reduceCtorEq]
  unfold State.performCtx
  simp only [h2, h4, Bool.not_true]
  cases tgt <;> simp_all [Target.isRemote] <;> rfl

/-- A send for which the channel has room writes its entries and retires (R197, R200). -/
theorem sendOp_sends {s : State} {o : FmtQ} {vec : Bool} {es : Nat → List (BitVec 256 × BitVec 4)} {room b cap : Nat}
   (hv : s.cur.viaHeld o.port = false)
   (h1 : s.writePort s.here s.ctx o.port = some (room, b, cap)) (h2 : s.curTile.forwardPort s.ctx o.port = false)
   (h3 : s.seamed o.port = false) (h4 : s.curTile.drainPort s.ctx o.port = false)
   (h5 : o.ord.getLsbD 1 = true → s.cur.psf = none ∧ s.cur.performed o.sco = true)
   (h6 : vec = true → 64 / b ≤ cap) (h7 : (es b).length ≤ room) :
   s.sendOp o vec es = (s.putPort s.here s.ctx o.port (es b)).retire := by
  unfold State.sendOp
  rw [takesFault_run (fun h => (h5 h).1)]
  simp only [h1, h2, h3, h4, hv, Bool.or_self, Bool.false_eq_true, if_false]
  rw [if_neg (by
    intro hc
    simp only [Bool.and_eq_true, decide_eq_true_eq] at hc
    have := h6 hc.1; omega)]
  rw [awaits_run (fun h => (h5 h).2), if_neg (by omega)]

/-- A receive whose entries are all data takes them (R196). -/
theorem recvOp_takes {s : State} {o : FmtQ} {any : Bool} {put : List Entry → Nat → State → State} {q : List Entry} {b cap : Nat} {vec : Bool}
   (hv : s.cur.viaHeld o.port = false)
   (h1 : s.curTile.readPort s.ctx o.port = some (q, b, cap)) (h2 : s.curTile.operandPort s.ctx o.port = false)
   (h6 : vec = true → 64 / b ≤ cap) (h7 : (if vec then 64 / b else 1) ≤ q.length) (h8 : any = false → ∀ e ∈ q.take (if vec then 64 / b else 1), e.kind = 0) :
   s.recvOp o vec any put = put (q.take (if vec then 64 / b else 1)) b (s.takePort s.here s.ctx o.port (if vec then 64 / b else 1)) := by
  unfold State.recvOp
  simp only [h1, h2, hv, Bool.or_self, Bool.false_eq_true, if_false]
  rw [if_neg (by
    intro hc
    simp only [Bool.and_eq_true, decide_eq_true_eq] at hc
    have := h6 hc.1; rw [hc.1] at hc; simp at hc; omega)]
  have hb : ∀ (l : List Entry), (∀ e ∈ l, e.kind = 0) → s.badEntry o.port l = none := by
    intro l; induction l with
    | nil => intro _; rfl
    | cons e r ih =>
      intro h
      unfold State.badEntry
      have := h e (by simp)
      rw [this, if_neg (by decide), if_neg (by simp [Kind.data])]
      exact ih (fun x hx => h x (by simp [hx]))
  have hn : (if any then none else s.badEntry o.port (q.take (if vec then 64 / b else 1))) = none := by
    cases any
    · simp only [Bool.false_eq_true, if_false]; exact hb _ (h8 rfl)
    · rfl
  rw [hn]
  dsimp only
  rw [if_neg (by rw [List.length_take]; omega)]

/-- No earlier access has still to acquire: a scratch access is made (R299, R305). -/
theorem afterAcquire_run {s : State} (f : State → State) (h : s.cur.acqPending = false) : s.afterAcquire f = f s := by
  simp [State.afterAcquire, h]

/-- LEVEL of a fault that meets no page-table entry is some level, and one free value is used up (R281, log entry 40). -/
theorem openLevel_lt (s : State) : s.openLevel.1 < 16 ∧ s.openLevel.2 = { s with frees := s.frees + 1 } := by
  simp only [State.openLevel, State.freeWord, field]
  exact ⟨by omega, trivial⟩

/-- Flits whose first is no CTRL flit stay as they are (R419). -/
theorem absorb_other {s : State} {p : Fin 32} (h : ∀ f, (s.hub.ports[p]).rx.head? = some f → flitKind f ≠ 7) : s.absorb p = s := by
  have one : s.absorbOne p = s := by
    unfold State.absorbOne
    dsimp only
    split
    · rfl
    · rename_i f r hx
      rw [if_pos (h f (by rw [hx]; rfl))]
  have all : ∀ l : List (BitVec 512), l.foldl (fun s _ => s.absorbOne p) s = s := by
    intro l
    induction l with
    | nil => rfl
    | cons _ _ ih => rw [List.foldl_cons, one, ih]
  exact all _

/-- A flit of the KIND asked for is acted on and leaves its port; then the CTRL flits behind it are taken (R407). -/
theorem onFlit_takes {s : State} {p : Fin 32} {kind : Nat} {f : BitVec 512} {rest : List (BitVec 512)} (act : BitVec 512 → State → State)
    (h : (s.hub.ports[p]).rx = f :: rest) (hk : flitKind f = kind) :
    s.onFlit p kind act = (act f { s with hub := s.hub.modPort p fun x => { x with rx := rest } }).absorb p := by
  unfold State.onFlit
  split
  · rename_i e; rw [h] at e; cases e
  · rename_i g r e
    rw [h] at e
    cases e
    rw [if_neg (by simp [hk])]

end Sys2Proof.Machine
end

