-- ==== Sys2Proof/Laws/PerInstr.lean ====
section
/-! SUPPORT. For every instruction: its word names it, before the checks of its fields. -/

namespace Sys2Proof.Laws.Encodes

/-- The word of a well-formed instruction has a MAJ that is not zero, and names that instruction. -/
def Statement (i : Instr) : Prop := i.wf = true → ∀ w, encode i = some w → majOf w ≠ 0 ∧ construct w = some i

/-! Major by major. -/

theorem construct_01 (fn : Nat) (g : Guard) (o : FmtC) :
    construct (encC 0x01 fn g o) = (ctor01 (fn % 16) o).map fun k => k g := by
  unfold construct
  rw [majOf_encC]
  show (fieldsC (encC 0x01 fn g o)).bind _ = _
  rw [fieldsC_encC, Option.bind_some, cond_encC, guardOf_encC]

theorem construct_02 (fn : Nat) (g : Guard) (o : FmtB) :
    construct (encB 0x02 fn g o) = (ctor02 (fn % 64) o).map fun k => k g := by
  unfold construct
  rw [majOf_encB]
  show (fieldsB (encB 0x02 fn g o)).bind _ = _
  rw [fieldsB_encB, Option.bind_some, fnOf_encB, guardOf_encB]

theorem construct_10 (fn : Nat) (g : Guard) (o : FmtA) :
    construct (encA 0x10 fn g o) = (ctor10 (fn % 64) o).map fun k => k g := by
  unfold construct
  rw [majOf_encA]
  show (fieldsA (encA 0x10 fn g o)).bind _ = _
  rw [fieldsA_encA, Option.bind_some, fnOf_encA, guardOf_encA]

theorem construct_11 (fn : Nat) (g : Guard) (o : FmtB) :
    construct (encB 0x11 fn g o) = (ctor11 (fn % 64) o).map fun k => k g := by
  unfold construct
  rw [majOf_encB]
  show (fieldsB (encB 0x11 fn g o)).bind _ = _
  rw [fieldsB_encB, Option.bind_some, fnOf_encB, guardOf_encB]

theorem construct_12 (fn : Nat) (g : Guard) (o : FmtA) :
    construct (encA 0x12 fn g o) = (ctor12 (fn % 64) o).map fun k => k g := by
  unfold construct
  rw [majOf_encA]
  show (fieldsA (encA 0x12 fn g o)).bind _ = _
  rw [fieldsA_encA, Option.bind_some, fnOf_encA, guardOf_encA]

theorem construct_13 (fn : Nat) (g : Guard) (o : FmtA) :
    construct (encA 0x13 fn g o) = (ctor13 (fn % 64) o).map fun k => k g := by
  unfold construct
  rw [majOf_encA]
  show (fieldsA (encA 0x13 fn g o)).bind _ = _
  rw [fieldsA_encA, Option.bind_some, fnOf_encA, guardOf_encA]

theorem construct_14 (fn : Nat) (g : Guard) (o : FmtA) :
    construct (encA 0x14 fn g o) = (ctor14 (fn % 64) o).map fun k => k g := by
  unfold construct
  rw [majOf_encA]
  show (fieldsA (encA 0x14 fn g o)).bind _ = _
  rw [fieldsA_encA, Option.bind_some, fnOf_encA, guardOf_encA]

theorem construct_30 (fn : Nat) (g : Guard) (o : FmtA) :
    construct (encA 0x30 fn g o) = (ctor30 (fn % 64) o).map fun k => k g := by
  unfold construct
  rw [majOf_encA]
  show (fieldsA (encA 0x30 fn g o)).bind _ = _
  rw [fieldsA_encA, Option.bind_some, fnOf_encA, guardOf_encA]

theorem construct_31 (fn : Nat) (g : Guard) (o : FmtA) :
    construct (encA 0x31 fn g o) = (ctor31 (fn % 64) o).map fun k => k g := by
  unfold construct
  rw [majOf_encA]
  show (fieldsA (encA 0x31 fn g o)).bind _ = _
  rw [fieldsA_encA, Option.bind_some, fnOf_encA, guardOf_encA]

theorem construct_32 (fn : Nat) (g : Guard) (o : FmtA) :
    construct (encA 0x32 fn g o) = (ctor32 (fn % 64) o).map fun k => k g := by
  unfold construct
  rw [majOf_encA]
  show (fieldsA (encA 0x32 fn g o)).bind _ = _
  rw [fieldsA_encA, Option.bind_some, fnOf_encA, guardOf_encA]

theorem construct_33 (fn : Nat) (g : Guard) (o : FmtA) :
    construct (encA 0x33 fn g o) = (ctor33 (fn % 64) o).map fun k => k g := by
  unfold construct
  rw [majOf_encA]
  show (fieldsA (encA 0x33 fn g o)).bind _ = _
  rw [fieldsA_encA, Option.bind_some, fnOf_encA, guardOf_encA]

theorem construct_34 (fn : Nat) (g : Guard) (o : FmtA) :
    construct (encA 0x34 fn g o) = (ctor34 (fn % 64) o).map fun k => k g := by
  unfold construct
  rw [majOf_encA]
  show (fieldsA (encA 0x34 fn g o)).bind _ = _
  rw [fieldsA_encA, Option.bind_some, fnOf_encA, guardOf_encA]

theorem construct_50 (fn : Nat) (g : Guard) (o : FmtQ) :
    construct (encQ 0x50 fn g o) = (ctor50 (fn % 64) o).map fun k => k g := by
  unfold construct
  rw [majOf_encQ]
  show (fieldsQ (encQ 0x50 fn g o)).bind _ = _
  rw [fieldsQ_encQ, Option.bind_some, fnOf_encQ, guardOf_encQ]

theorem construct_52 (fn : Nat) (g : Guard) (o : FmtQ) :
    construct (encQ 0x52 fn g o) = (ctor52 (fn % 64) o).map fun k => k g := by
  unfold construct
  rw [majOf_encQ]
  show (fieldsQ (encQ 0x52 fn g o)).bind _ = _
  rw [fieldsQ_encQ, Option.bind_some, fnOf_encQ, guardOf_encQ]

theorem construct_60 (fn : Nat) (g : Guard) (o : FmtM) :
    construct (encM 0x60 fn g o) = (ctor60 (fn % 64) o).map fun k => k g := by
  unfold construct
  rw [majOf_encM]
  show (fieldsM (encM 0x60 fn g o)).bind _ = _
  rw [fieldsM_encM, Option.bind_some, fnOf_encM, guardOf_encM]

theorem construct_70 (fn : Nat) (g : Guard) (o : FmtM) :
    construct (encM 0x70 fn g o) = (ctor70 (fn % 64) o).map fun k => k g := by
  unfold construct
  rw [majOf_encM]
  show (fieldsM (encM 0x70 fn g o)).bind _ = _
  rw [fieldsM_encM, Option.bind_some, fnOf_encM, guardOf_encM]

theorem construct_72 (fn : Nat) (g : Guard) (o : FmtM) :
    construct (encM 0x72 fn g o) = (ctor72 (fn % 64) o).map fun k => k g := by
  unfold construct
  rw [majOf_encM]
  show (fieldsM (encM 0x72 fn g o)).bind _ = _
  rw [fieldsM_encM, Option.bind_some, fnOf_encM, guardOf_encM]

theorem construct_74 (fn : Nat) (g : Guard) (o : FmtM) :
    construct (encM 0x74 fn g o) = (ctor74 (fn % 64) o).map fun k => k g := by
  unfold construct
  rw [majOf_encM]
  show (fieldsM (encM 0x74 fn g o)).bind _ = _
  rw [fieldsM_encM, Option.bind_some, fnOf_encM, guardOf_encM]

theorem construct_80 (fn : Nat) (g : Guard) (o : FmtQ) :
    construct (encQ 0x80 fn g o) = (ctor80 (fn % 64) o).map fun k => k g := by
  unfold construct
  rw [majOf_encQ]
  show (fieldsQ (encQ 0x80 fn g o)).bind _ = _
  rw [fieldsQ_encQ, Option.bind_some, fnOf_encQ, guardOf_encQ]

theorem construct_82 (fn : Nat) (g : Guard) (o : FmtQ) :
    construct (encQ 0x82 fn g o) = (ctor82 (fn % 64) o).map fun k => k g := by
  unfold construct
  rw [majOf_encQ]
  show (fieldsQ (encQ 0x82 fn g o)).bind _ = _
  rw [fieldsQ_encQ, Option.bind_some, fnOf_encQ, guardOf_encQ]

theorem construct_90 (fn : Nat) (g : Guard) (o : FmtQ) :
    construct (encQ 0x90 fn g o) = (ctor90 (fn % 64) o).map fun k => k g := by
  unfold construct
  rw [majOf_encQ]
  show (fieldsQ (encQ 0x90 fn g o)).bind _ = _
  rw [fieldsQ_encQ, Option.bind_some, fnOf_encQ, guardOf_encQ]

theorem construct_92 (fn : Nat) (g : Guard) (o : FmtQ) :
    construct (encQ 0x92 fn g o) = (ctor92 (fn % 64) o).map fun k => k g := by
  unfold construct
  rw [majOf_encQ]
  show (fieldsQ (encQ 0x92 fn g o)).bind _ = _
  rw [fieldsQ_encQ, Option.bind_some, fnOf_encQ, guardOf_encQ]

theorem construct_A0 (fn : Nat) (g : Guard) (o : FmtQ) :
    construct (encQ 0xA0 fn g o) = (ctorA0 (fn % 64) o).map fun k => k g := by
  unfold construct
  rw [majOf_encQ]
  show (fieldsQ (encQ 0xA0 fn g o)).bind _ = _
  rw [fieldsQ_encQ, Option.bind_some, fnOf_encQ, guardOf_encQ]

theorem construct_A4 (fn : Nat) (g : Guard) (o : FmtQ) :
    construct (encQ 0xA4 fn g o) = (ctorA4 (fn % 64) o).map fun k => k g := by
  unfold construct
  rw [majOf_encQ]
  show (fieldsQ (encQ 0xA4 fn g o)).bind _ = _
  rw [fieldsQ_encQ, Option.bind_some, fnOf_encQ, guardOf_encQ]

theorem construct_A5 (fn : Nat) (g : Guard) (o : FmtM) :
    construct (encM 0xA5 fn g o) = (ctorA5 (fn % 64) o).map fun k => k g := by
  unfold construct
  rw [majOf_encM]
  show (fieldsM (encM 0xA5 fn g o)).bind _ = _
  rw [fieldsM_encM, Option.bind_some, fnOf_encM, guardOf_encM]

theorem construct_B0 (fn : Nat) (g : Guard) (o : FmtQ) :
    construct (encQ 0xB0 fn g o) = (ctorB0 (fn % 64) o).map fun k => k g := by
  unfold construct
  rw [majOf_encQ]
  show (fieldsQ (encQ 0xB0 fn g o)).bind _ = _
  rw [fieldsQ_encQ, Option.bind_some, fnOf_encQ, guardOf_encQ]

theorem construct_C0 (fn : Nat) (g : Guard) (o : FmtS) :
    construct (encS 0xC0 fn g o) = (ctorC0 (fn % 64) o).map fun k => k g := by
  unfold construct
  rw [majOf_encS]
  show (fieldsS (encS 0xC0 fn g o)).bind _ = _
  rw [fieldsS_encS, Option.bind_some, fnOf_encS, guardOf_encS]

/-! Instruction by instruction. -/

theorem br (g : Guard) (o : FmtC) : Statement (.br g o) := by
  intro _ w h
  obtain rfl := Option.some.inj h
  exact ⟨by rw [majOf_encC]; decide, by rw [construct_01]; rfl⟩

theorem beq (g : Guard) (o : FmtC) : Statement (.beq g o) := by
  intro _ w h
  obtain rfl := Option.some.inj h
  exact ⟨by rw [majOf_encC]; decide, by rw [construct_01]; rfl⟩

theorem bne (g : Guard) (o : FmtC) : Statement (.bne g o) := by
  intro _ w h
  obtain rfl := Option.some.inj h
  exact ⟨by rw [majOf_encC]; decide, by rw [construct_01]; rfl⟩

theorem blt (g : Guard) (o : FmtC) : Statement (.blt g o) := by
  intro _ w h
  obtain rfl := Option.some.inj h
  exact ⟨by rw [majOf_encC]; decide, by rw [construct_01]; rfl⟩

theorem bge (g : Guard) (o : FmtC) : Statement (.bge g o) := by
  intro _ w h
  obtain rfl := Option.some.inj h
  exact ⟨by rw [majOf_encC]; decide, by rw [construct_01]; rfl⟩

theorem bltu (g : Guard) (o : FmtC) : Statement (.bltu g o) := by
  intro _ w h
  obtain rfl := Option.some.inj h
  exact ⟨by rw [majOf_encC]; decide, by rw [construct_01]; rfl⟩

theorem bgeu (g : Guard) (o : FmtC) : Statement (.bgeu g o) := by
  intro _ w h
  obtain rfl := Option.some.inj h
  exact ⟨by rw [majOf_encC]; decide, by rw [construct_01]; rfl⟩

theorem bp (g : Guard) (o : FmtC) : Statement (.bp g o) := by
  intro _ w h
  obtain rfl := Option.some.inj h
  exact ⟨by rw [majOf_encC]; decide, by rw [construct_01]; rfl⟩

theorem bnp (g : Guard) (o : FmtC) : Statement (.bnp g o) := by
  intro _ w h
  obtain rfl := Option.some.inj h
  exact ⟨by rw [majOf_encC]; decide, by rw [construct_01]; rfl⟩

theorem jal (g : Guard) (o : FmtB) : Statement (.jal g o) := by
  intro _ w h
  obtain rfl := Option.some.inj h
  exact ⟨by rw [majOf_encB]; decide, by rw [construct_02]; rfl⟩

theorem jalr (g : Guard) (o : FmtB) : Statement (.jalr g o) := by
  intro _ w h
  obtain rfl := Option.some.inj h
  exact ⟨by rw [majOf_encB]; decide, by rw [construct_02]; rfl⟩

theorem yield (g : Guard) (o : FmtB) : Statement (.yield g o) := by
  intro _ w h
  obtain rfl := Option.some.inj h
  exact ⟨by rw [majOf_encB]; decide, by rw [construct_02]; rfl⟩

theorem park (g : Guard) (o : FmtB) : Statement (.park g o) := by
  intro _ w h
  obtain rfl := Option.some.inj h
  exact ⟨by rw [majOf_encB]; decide, by rw [construct_02]; rfl⟩

theorem nop (g : Guard) (o : FmtB) : Statement (.nop g o) := by
  intro _ w h
  obtain rfl := Option.some.inj h
  exact ⟨by rw [majOf_encB]; decide, by rw [construct_02]; rfl⟩

theorem add (g : Guard) (o : FmtA) : Statement (.add g o) := by
  intro _ w h
  obtain rfl := Option.some.inj h
  exact ⟨by rw [majOf_encA]; decide, by rw [construct_10]; rfl⟩

theorem sub (g : Guard) (o : FmtA) : Statement (.sub g o) := by
  intro _ w h
  obtain rfl := Option.some.inj h
  exact ⟨by rw [majOf_encA]; decide, by rw [construct_10]; rfl⟩

theorem mul (g : Guard) (o : FmtA) : Statement (.mul g o) := by
  intro _ w h
  obtain rfl := Option.some.inj h
  exact ⟨by rw [majOf_encA]; decide, by rw [construct_10]; rfl⟩

theorem mulh (g : Guard) (o : FmtA) : Statement (.mulh g o) := by
  intro _ w h
  obtain rfl := Option.some.inj h
  exact ⟨by rw [majOf_encA]; decide, by rw [construct_10]; rfl⟩

theorem mulhu (g : Guard) (o : FmtA) : Statement (.mulhu g o) := by
  intro _ w h
  obtain rfl := Option.some.inj h
  exact ⟨by rw [majOf_encA]; decide, by rw [construct_10]; rfl⟩

theorem div (g : Guard) (o : FmtA) : Statement (.div g o) := by
  intro _ w h
  obtain rfl := Option.some.inj h
  exact ⟨by rw [majOf_encA]; decide, by rw [construct_10]; rfl⟩

theorem divu (g : Guard) (o : FmtA) : Statement (.divu g o) := by
  intro _ w h
  obtain rfl := Option.some.inj h
  exact ⟨by rw [majOf_encA]; decide, by rw [construct_10]; rfl⟩

theorem rem (g : Guard) (o : FmtA) : Statement (.rem g o) := by
  intro _ w h
  obtain rfl := Option.some.inj h
  exact ⟨by rw [majOf_encA]; decide, by rw [construct_10]; rfl⟩

theorem remu (g : Guard) (o : FmtA) : Statement (.remu g o) := by
  intro _ w h
  obtain rfl := Option.some.inj h
  exact ⟨by rw [majOf_encA]; decide, by rw [construct_10]; rfl⟩

theorem and (g : Guard) (o : FmtA) : Statement (.and g o) := by
  intro _ w h
  obtain rfl := Option.some.inj h
  exact ⟨by rw [majOf_encA]; decide, by rw [construct_10]; rfl⟩

theorem or (g : Guard) (o : FmtA) : Statement (.or g o) := by
  intro _ w h
  obtain rfl := Option.some.inj h
  exact ⟨by rw [majOf_encA]; decide, by rw [construct_10]; rfl⟩

theorem xor (g : Guard) (o : FmtA) : Statement (.xor g o) := by
  intro _ w h
  obtain rfl := Option.some.inj h
  exact ⟨by rw [majOf_encA]; decide, by rw [construct_10]; rfl⟩

theorem andn (g : Guard) (o : FmtA) : Statement (.andn g o) := by
  intro _ w h
  obtain rfl := Option.some.inj h
  exact ⟨by rw [majOf_encA]; decide, by rw [construct_10]; rfl⟩

theorem sll (g : Guard) (o : FmtA) : Statement (.sll g o) := by
  intro _ w h
  obtain rfl := Option.some.inj h
  exact ⟨by rw [majOf_encA]; decide, by rw [construct_10]; rfl⟩

theorem srl (g : Guard) (o : FmtA) : Statement (.srl g o) := by
  intro _ w h
  obtain rfl := Option.some.inj h
  exact ⟨by rw [majOf_encA]; decide, by rw [construct_10]; rfl⟩

theorem sra (g : Guard) (o : FmtA) : Statement (.sra g o) := by
  intro _ w h
  obtain rfl := Option.some.inj h
  exact ⟨by rw [majOf_encA]; decide, by rw [construct_10]; rfl⟩

theorem rol (g : Guard) (o : FmtA) : Statement (.rol g o) := by
  intro _ w h
  obtain rfl := Option.some.inj h
  exact ⟨by rw [majOf_encA]; decide, by rw [construct_10]; rfl⟩

theorem min (g : Guard) (o : FmtA) : Statement (.min g o) := by
  intro _ w h
  obtain rfl := Option.some.inj h
  exact ⟨by rw [majOf_encA]; decide, by rw [construct_10]; rfl⟩

theorem max (g : Guard) (o : FmtA) : Statement (.max g o) := by
  intro _ w h
  obtain rfl := Option.some.inj h
  exact ⟨by rw [majOf_encA]; decide, by rw [construct_10]; rfl⟩

theorem minu (g : Guard) (o : FmtA) : Statement (.minu g o) := by
  intro _ w h
  obtain rfl := Option.some.inj h
  exact ⟨by rw [majOf_encA]; decide, by rw [construct_10]; rfl⟩

theorem maxu (g : Guard) (o : FmtA) : Statement (.maxu g o) := by
  intro _ w h
  obtain rfl := Option.some.inj h
  exact ⟨by rw [majOf_encA]; decide, by rw [construct_10]; rfl⟩

theorem slt (g : Guard) (o : FmtA) : Statement (.slt g o) := by
  intro _ w h
  obtain rfl := Option.some.inj h
  exact ⟨by rw [majOf_encA]; decide, by rw [construct_10]; rfl⟩

theorem sltu (g : Guard) (o : FmtA) : Statement (.sltu g o) := by
  intro _ w h
  obtain rfl := Option.some.inj h
  exact ⟨by rw [majOf_encA]; decide, by rw [construct_10]; rfl⟩

theorem sel (g : Guard) (o : FmtA) : Statement (.sel g o) := by
  intro _ w h
  obtain rfl := Option.some.inj h
  exact ⟨by rw [majOf_encA]; decide, by rw [construct_10]; rfl⟩

theorem clz (g : Guard) (o : FmtA) : Statement (.clz g o) := by
  intro _ w h
  obtain rfl := Option.some.inj h
  exact ⟨by rw [majOf_encA]; decide, by rw [construct_10]; rfl⟩

theorem ctz (g : Guard) (o : FmtA) : Statement (.ctz g o) := by
  intro _ w h
  obtain rfl := Option.some.inj h
  exact ⟨by rw [majOf_encA]; decide, by rw [construct_10]; rfl⟩

theorem popc (g : Guard) (o : FmtA) : Statement (.popc g o) := by
  intro _ w h
  obtain rfl := Option.some.inj h
  exact ⟨by rw [majOf_encA]; decide, by rw [construct_10]; rfl⟩

theorem brev (g : Guard) (o : FmtA) : Statement (.brev g o) := by
  intro _ w h
  obtain rfl := Option.some.inj h
  exact ⟨by rw [majOf_encA]; decide, by rw [construct_10]; rfl⟩

theorem addi (g : Guard) (o : FmtB) : Statement (.addi g o) := by
  intro _ w h
  obtain rfl := Option.some.inj h
  exact ⟨by rw [majOf_encB]; decide, by rw [construct_11]; rfl⟩

theorem andi (g : Guard) (o : FmtB) : Statement (.andi g o) := by
  intro _ w h
  obtain rfl := Option.some.inj h
  exact ⟨by rw [majOf_encB]; decide, by rw [construct_11]; rfl⟩

theorem ori (g : Guard) (o : FmtB) : Statement (.ori g o) := by
  intro _ w h
  obtain rfl := Option.some.inj h
  exact ⟨by rw [majOf_encB]; decide, by rw [construct_11]; rfl⟩

theorem xori (g : Guard) (o : FmtB) : Statement (.xori g o) := by
  intro _ w h
  obtain rfl := Option.some.inj h
  exact ⟨by rw [majOf_encB]; decide, by rw [construct_11]; rfl⟩

theorem slli (g : Guard) (o : FmtB) : Statement (.slli g o) := by
  intro _ w h
  obtain rfl := Option.some.inj h
  exact ⟨by rw [majOf_encB]; decide, by rw [construct_11]; rfl⟩

theorem srli (g : Guard) (o : FmtB) : Statement (.srli g o) := by
  intro _ w h
  obtain rfl := Option.some.inj h
  exact ⟨by rw [majOf_encB]; decide, by rw [construct_11]; rfl⟩

theorem srai (g : Guard) (o : FmtB) : Statement (.srai g o) := by
  intro _ w h
  obtain rfl := Option.some.inj h
  exact ⟨by rw [majOf_encB]; decide, by rw [construct_11]; rfl⟩

theorem slti (g : Guard) (o : FmtB) : Statement (.slti g o) := by
  intro _ w h
  obtain rfl := Option.some.inj h
  exact ⟨by rw [majOf_encB]; decide, by rw [construct_11]; rfl⟩

theorem sltiu (g : Guard) (o : FmtB) : Statement (.sltiu g o) := by
  intro _ w h
  obtain rfl := Option.some.inj h
  exact ⟨by rw [majOf_encB]; decide, by rw [construct_11]; rfl⟩

theorem li (g : Guard) (o : FmtB) : Statement (.li g o) := by
  intro _ w h
  obtain rfl := Option.some.inj h
  exact ⟨by rw [majOf_encB]; decide, by rw [construct_11]; rfl⟩

theorem lhi (g : Guard) (o : FmtB) : Statement (.lhi g o) := by
  intro _ w h
  obtain rfl := Option.some.inj h
  exact ⟨by rw [majOf_encB]; decide, by rw [construct_11]; rfl⟩

theorem pand (g : Guard) (o : FmtA) : Statement (.pand g o) := by
  intro _ w h
  obtain rfl := Option.some.inj h
  exact ⟨by rw [majOf_encA]; decide, by rw [construct_12]; rfl⟩

theorem por (g : Guard) (o : FmtA) : Statement (.por g o) := by
  intro _ w h
  obtain rfl := Option.some.inj h
  exact ⟨by rw [majOf_encA]; decide, by rw [construct_12]; rfl⟩

theorem pxor (g : Guard) (o : FmtA) : Statement (.pxor g o) := by
  intro _ w h
  obtain rfl := Option.some.inj h
  exact ⟨by rw [majOf_encA]; decide, by rw [construct_12]; rfl⟩

theorem pandn (g : Guard) (o : FmtA) : Statement (.pandn g o) := by
  intro _ w h
  obtain rfl := Option.some.inj h
  exact ⟨by rw [majOf_encA]; decide, by rw [construct_12]; rfl⟩

theorem pnot (g : Guard) (o : FmtA) : Statement (.pnot g o) := by
  intro _ w h
  obtain rfl := Option.some.inj h
  exact ⟨by rw [majOf_encA]; decide, by rw [construct_12]; rfl⟩

theorem pfrom (g : Guard) (o : FmtA) : Statement (.pfrom g o) := by
  intro _ w h
  obtain rfl := Option.some.inj h
  exact ⟨by rw [majOf_encA]; decide, by rw [construct_12]; rfl⟩

theorem pto (g : Guard) (o : FmtA) : Statement (.pto g o) := by
  intro _ w h
  obtain rfl := Option.some.inj h
  exact ⟨by rw [majOf_encA]; decide, by rw [construct_12]; rfl⟩

theorem icmp (g : Guard) (o : FmtA) : Statement (.icmp g o) := by
  intro _ w h
  obtain rfl := Option.some.inj h
  exact ⟨by rw [majOf_encA]; decide, by rw [construct_12]; rfl⟩

theorem lea (g : Guard) (o : FmtA) : Statement (.lea g o) := by
  intro _ w h
  obtain rfl := Option.some.inj h
  exact ⟨by rw [majOf_encA]; decide, by rw [construct_13]; rfl⟩

theorem sbank (g : Guard) (o : FmtA) : Statement (.sbank g o) := by
  intro _ w h
  obtain rfl := Option.some.inj h
  exact ⟨by rw [majOf_encA]; decide, by rw [construct_13]; rfl⟩

theorem clamp (g : Guard) (o : FmtA) : Statement (.clamp g o) := by
  intro _ w h
  obtain rfl := Option.some.inj h
  exact ⟨by rw [majOf_encA]; decide, by rw [construct_13]; rfl⟩

theorem fadd (g : Guard) (o : FmtA) : Statement (.fadd g o) := by
  intro _ w h
  obtain rfl := Option.some.inj h
  exact ⟨by rw [majOf_encA]; decide, by rw [construct_14]; rfl⟩

theorem fsub (g : Guard) (o : FmtA) : Statement (.fsub g o) := by
  intro _ w h
  obtain rfl := Option.some.inj h
  exact ⟨by rw [majOf_encA]; decide, by rw [construct_14]; rfl⟩

theorem fmul (g : Guard) (o : FmtA) : Statement (.fmul g o) := by
  intro _ w h
  obtain rfl := Option.some.inj h
  exact ⟨by rw [majOf_encA]; decide, by rw [construct_14]; rfl⟩

theorem fma (g : Guard) (o : FmtA) : Statement (.fma g o) := by
  intro _ w h
  obtain rfl := Option.some.inj h
  exact ⟨by rw [majOf_encA]; decide, by rw [construct_14]; rfl⟩

theorem fdiv (g : Guard) (o : FmtA) : Statement (.fdiv g o) := by
  intro _ w h
  obtain rfl := Option.some.inj h
  exact ⟨by rw [majOf_encA]; decide, by rw [construct_14]; rfl⟩

theorem fsqrt (g : Guard) (o : FmtA) : Statement (.fsqrt g o) := by
  intro _ w h
  obtain rfl := Option.some.inj h
  exact ⟨by rw [majOf_encA]; decide, by rw [construct_14]; rfl⟩

theorem fmin (g : Guard) (o : FmtA) : Statement (.fmin g o) := by
  intro _ w h
  obtain rfl := Option.some.inj h
  exact ⟨by rw [majOf_encA]; decide, by rw [construct_14]; rfl⟩

theorem fmax (g : Guard) (o : FmtA) : Statement (.fmax g o) := by
  intro _ w h
  obtain rfl := Option.some.inj h
  exact ⟨by rw [majOf_encA]; decide, by rw [construct_14]; rfl⟩

theorem fcmp (g : Guard) (o : FmtA) : Statement (.fcmp g o) := by
  intro _ w h
  obtain rfl := Option.some.inj h
  exact ⟨by rw [majOf_encA]; decide, by rw [construct_14]; rfl⟩

theorem fcvt (g : Guard) (o : FmtA) : Statement (.fcvt g o) := by
  intro _ w h
  obtain rfl := Option.some.inj h
  exact ⟨by rw [majOf_encA]; decide, by rw [construct_14]; rfl⟩

theorem fclass (g : Guard) (o : FmtA) : Statement (.fclass g o) := by
  intro _ w h
  obtain rfl := Option.some.inj h
  exact ⟨by rw [majOf_encA]; decide, by rw [construct_14]; rfl⟩

theorem fsgnj (g : Guard) (o : FmtA) : Statement (.fsgnj g o) := by
  intro _ w h
  obtain rfl := Option.some.inj h
  exact ⟨by rw [majOf_encA]; decide, by rw [construct_14]; rfl⟩

theorem vadd (g : Guard) (o : FmtA) : Statement (.vadd g o) := by
  intro _ w h
  obtain rfl := Option.some.inj h
  exact ⟨by rw [majOf_encA]; decide, by rw [construct_30]; rfl⟩

theorem vsub (g : Guard) (o : FmtA) : Statement (.vsub g o) := by
  intro _ w h
  obtain rfl := Option.some.inj h
  exact ⟨by rw [majOf_encA]; decide, by rw [construct_30]; rfl⟩

theorem vmul (g : Guard) (o : FmtA) : Statement (.vmul g o) := by
  intro _ w h
  obtain rfl := Option.some.inj h
  exact ⟨by rw [majOf_encA]; decide, by rw [construct_30]; rfl⟩

theorem vmulh (g : Guard) (o : FmtA) : Statement (.vmulh g o) := by
  intro _ w h
  obtain rfl := Option.some.inj h
  exact ⟨by rw [majOf_encA]; decide, by rw [construct_30]; rfl⟩

theorem vmin (g : Guard) (o : FmtA) : Statement (.vmin g o) := by
  intro _ w h
  obtain rfl := Option.some.inj h
  exact ⟨by rw [majOf_encA]; decide, by rw [construct_30]; rfl⟩

theorem vmax (g : Guard) (o : FmtA) : Statement (.vmax g o) := by
  intro _ w h
  obtain rfl := Option.some.inj h
  exact ⟨by rw [majOf_encA]; decide, by rw [construct_30]; rfl⟩

theorem vabs (g : Guard) (o : FmtA) : Statement (.vabs g o) := by
  intro _ w h
  obtain rfl := Option.some.inj h
  exact ⟨by rw [majOf_encA]; decide, by rw [construct_30]; rfl⟩

theorem vand (g : Guard) (o : FmtA) : Statement (.vand g o) := by
  intro _ w h
  obtain rfl := Option.some.inj h
  exact ⟨by rw [majOf_encA]; decide, by rw [construct_30]; rfl⟩

theorem vor (g : Guard) (o : FmtA) : Statement (.vor g o) := by
  intro _ w h
  obtain rfl := Option.some.inj h
  exact ⟨by rw [majOf_encA]; decide, by rw [construct_30]; rfl⟩

theorem vxor (g : Guard) (o : FmtA) : Statement (.vxor g o) := by
  intro _ w h
  obtain rfl := Option.some.inj h
  exact ⟨by rw [majOf_encA]; decide, by rw [construct_30]; rfl⟩

theorem vsll (g : Guard) (o : FmtA) : Statement (.vsll g o) := by
  intro _ w h
  obtain rfl := Option.some.inj h
  exact ⟨by rw [majOf_encA]; decide, by rw [construct_30]; rfl⟩

theorem vsrl (g : Guard) (o : FmtA) : Statement (.vsrl g o) := by
  intro _ w h
  obtain rfl := Option.some.inj h
  exact ⟨by rw [majOf_encA]; decide, by rw [construct_30]; rfl⟩

theorem vsra (g : Guard) (o : FmtA) : Statement (.vsra g o) := by
  intro _ w h
  obtain rfl := Option.some.inj h
  exact ⟨by rw [majOf_encA]; decide, by rw [construct_30]; rfl⟩

theorem vfadd (g : Guard) (o : FmtA) : Statement (.vfadd g o) := by
  intro _ w h
  obtain rfl := Option.some.inj h
  exact ⟨by rw [majOf_encA]; decide, by rw [construct_31]; rfl⟩

theorem vfsub (g : Guard) (o : FmtA) : Statement (.vfsub g o) := by
  intro _ w h
  obtain rfl := Option.some.inj h
  exact ⟨by rw [majOf_encA]; decide, by rw [construct_31]; rfl⟩

theorem vfmul (g : Guard) (o : FmtA) : Statement (.vfmul g o) := by
  intro _ w h
  obtain rfl := Option.some.inj h
  exact ⟨by rw [majOf_encA]; decide, by rw [construct_31]; rfl⟩

theorem vfma (g : Guard) (o : FmtA) : Statement (.vfma g o) := by
  intro _ w h
  obtain rfl := Option.some.inj h
  exact ⟨by rw [majOf_encA]; decide, by rw [construct_31]; rfl⟩

theorem vfmin (g : Guard) (o : FmtA) : Statement (.vfmin g o) := by
  intro _ w h
  obtain rfl := Option.some.inj h
  exact ⟨by rw [majOf_encA]; decide, by rw [construct_31]; rfl⟩

theorem vfmax (g : Guard) (o : FmtA) : Statement (.vfmax g o) := by
  intro _ w h
  obtain rfl := Option.some.inj h
  exact ⟨by rw [majOf_encA]; decide, by rw [construct_31]; rfl⟩

theorem vfabs (g : Guard) (o : FmtA) : Statement (.vfabs g o) := by
  intro _ w h
  obtain rfl := Option.some.inj h
  exact ⟨by rw [majOf_encA]; decide, by rw [construct_31]; rfl⟩

theorem vfneg (g : Guard) (o : FmtA) : Statement (.vfneg g o) := by
  intro _ w h
  obtain rfl := Option.some.inj h
  exact ⟨by rw [majOf_encA]; decide, by rw [construct_31]; rfl⟩

theorem vfrcp (g : Guard) (o : FmtA) : Statement (.vfrcp g o) := by
  intro _ w h
  obtain rfl := Option.some.inj h
  exact ⟨by rw [majOf_encA]; decide, by rw [construct_31]; rfl⟩

theorem vfrsq (g : Guard) (o : FmtA) : Statement (.vfrsq g o) := by
  intro _ w h
  obtain rfl := Option.some.inj h
  exact ⟨by rw [majOf_encA]; decide, by rw [construct_31]; rfl⟩

theorem vfexp2 (g : Guard) (o : FmtA) : Statement (.vfexp2 g o) := by
  intro _ w h
  obtain rfl := Option.some.inj h
  exact ⟨by rw [majOf_encA]; decide, by rw [construct_31]; rfl⟩

theorem vflog2 (g : Guard) (o : FmtA) : Statement (.vflog2 g o) := by
  intro _ w h
  obtain rfl := Option.some.inj h
  exact ⟨by rw [majOf_encA]; decide, by rw [construct_31]; rfl⟩

theorem vcmp (g : Guard) (o : FmtA) : Statement (.vcmp g o) := by
  intro _ w h
  obtain rfl := Option.some.inj h
  exact ⟨by rw [majOf_encA]; decide, by rw [construct_32]; rfl⟩

theorem vfcmp (g : Guard) (o : FmtA) : Statement (.vfcmp g o) := by
  intro _ w h
  obtain rfl := Option.some.inj h
  exact ⟨by rw [majOf_encA]; decide, by rw [construct_32]; rfl⟩

theorem vcvt (g : Guard) (o : FmtA) : Statement (.vcvt g o) := by
  intro _ w h
  obtain rfl := Option.some.inj h
  exact ⟨by rw [majOf_encA]; decide, by rw [construct_33]; rfl⟩

theorem vscale (g : Guard) (o : FmtA) : Statement (.vscale g o) := by
  intro _ w h
  obtain rfl := Option.some.inj h
  exact ⟨by rw [majOf_encA]; decide, by rw [construct_33]; rfl⟩

theorem vbcast (g : Guard) (o : FmtA) : Statement (.vbcast g o) := by
  intro _ w h
  obtain rfl := Option.some.inj h
  exact ⟨by rw [majOf_encA]; decide, by rw [construct_33]; rfl⟩

theorem vext (g : Guard) (o : FmtA) : Statement (.vext g o) := by
  intro _ w h
  obtain rfl := Option.some.inj h
  exact ⟨by rw [majOf_encA]; decide, by rw [construct_33]; rfl⟩

theorem vins (g : Guard) (o : FmtA) : Statement (.vins g o) := by
  intro _ w h
  obtain rfl := Option.some.inj h
  exact ⟨by rw [majOf_encA]; decide, by rw [construct_33]; rfl⟩

theorem vperm (g : Guard) (o : FmtA) : Statement (.vperm g o) := by
  intro _ w h
  obtain rfl := Option.some.inj h
  exact ⟨by rw [majOf_encA]; decide, by rw [construct_33]; rfl⟩

theorem vslide (g : Guard) (o : FmtA) : Statement (.vslide g o) := by
  intro _ w h
  obtain rfl := Option.some.inj h
  exact ⟨by rw [majOf_encA]; decide, by rw [construct_33]; rfl⟩

theorem vzip (g : Guard) (o : FmtA) : Statement (.vzip g o) := by
  intro _ w h
  obtain rfl := Option.some.inj h
  exact ⟨by rw [majOf_encA]; decide, by rw [construct_33]; rfl⟩

theorem vunzip (g : Guard) (o : FmtA) : Statement (.vunzip g o) := by
  intro _ w h
  obtain rfl := Option.some.inj h
  exact ⟨by rw [majOf_encA]; decide, by rw [construct_33]; rfl⟩

theorem vsel (g : Guard) (o : FmtA) : Statement (.vsel g o) := by
  intro _ w h
  obtain rfl := Option.some.inj h
  exact ⟨by rw [majOf_encA]; decide, by rw [construct_33]; rfl⟩

theorem vcompress (g : Guard) (o : FmtA) : Statement (.vcompress g o) := by
  intro _ w h
  obtain rfl := Option.some.inj h
  exact ⟨by rw [majOf_encA]; decide, by rw [construct_33]; rfl⟩

theorem vexpand (g : Guard) (o : FmtA) : Statement (.vexpand g o) := by
  intro _ w h
  obtain rfl := Option.some.inj h
  exact ⟨by rw [majOf_encA]; decide, by rw [construct_33]; rfl⟩

theorem vmov (g : Guard) (o : FmtA) : Statement (.vmov g o) := by
  intro _ w h
  obtain rfl := Option.some.inj h
  exact ⟨by rw [majOf_encA]; decide, by rw [construct_33]; rfl⟩

theorem vredadd (g : Guard) (o : FmtA) : Statement (.vredadd g o) := by
  intro _ w h
  obtain rfl := Option.some.inj h
  exact ⟨by rw [majOf_encA]; decide, by rw [construct_34]; rfl⟩

theorem vredmax (g : Guard) (o : FmtA) : Statement (.vredmax g o) := by
  intro _ w h
  obtain rfl := Option.some.inj h
  exact ⟨by rw [majOf_encA]; decide, by rw [construct_34]; rfl⟩

theorem vredmin (g : Guard) (o : FmtA) : Statement (.vredmin g o) := by
  intro _ w h
  obtain rfl := Option.some.inj h
  exact ⟨by rw [majOf_encA]; decide, by rw [construct_34]; rfl⟩

theorem vredfadd (g : Guard) (o : FmtA) : Statement (.vredfadd g o) := by
  intro _ w h
  obtain rfl := Option.some.inj h
  exact ⟨by rw [majOf_encA]; decide, by rw [construct_34]; rfl⟩

theorem vdot (g : Guard) (o : FmtA) : Statement (.vdot g o) := by
  intro _ w h
  obtain rfl := Option.some.inj h
  exact ⟨by rw [majOf_encA]; decide, by rw [construct_34]; rfl⟩

theorem mma (g : Guard) (o : FmtQ) : Statement (.mma g o) := by
  intro _ w h
  obtain rfl := Option.some.inj h
  exact ⟨by rw [majOf_encQ]; decide, by rw [construct_50]; rfl⟩

theorem mmav (g : Guard) (o : FmtQ) : Statement (.mmav g o) := by
  intro _ w h
  obtain rfl := Option.some.inj h
  exact ⟨by rw [majOf_encQ]; decide, by rw [construct_50]; rfl⟩

theorem mzero (g : Guard) (o : FmtQ) : Statement (.mzero g o) := by
  intro _ w h
  obtain rfl := Option.some.inj h
  exact ⟨by rw [majOf_encQ]; decide, by rw [construct_50]; rfl⟩

theorem mswap (g : Guard) (o : FmtQ) : Statement (.mswap g o) := by
  intro _ w h
  obtain rfl := Option.some.inj h
  exact ⟨by rw [majOf_encQ]; decide, by rw [construct_50]; rfl⟩

theorem mrd (g : Guard) (o : FmtQ) : Statement (.mrd g o) := by
  intro _ w h
  obtain rfl := Option.some.inj h
  exact ⟨by rw [majOf_encQ]; decide, by rw [construct_50]; rfl⟩

theorem mwr (g : Guard) (o : FmtQ) : Statement (.mwr g o) := by
  intro _ w h
  obtain rfl := Option.some.inj h
  exact ⟨by rw [majOf_encQ]; decide, by rw [construct_50]; rfl⟩

theorem mdrain (g : Guard) (o : FmtQ) : Statement (.mdrain g o) := by
  intro _ w h
  obtain rfl := Option.some.inj h
  exact ⟨by rw [majOf_encQ]; decide, by rw [construct_50]; rfl⟩

theorem mcfg (g : Guard) (o : FmtQ) : Statement (.mcfg g o) := by
  intro wf w h
  obtain rfl := Option.some.inj h
  refine ⟨by rw [majOf_encQ]; decide, ?_⟩
  rw [construct_50]
  simp_all [Instr.wf, ctor50]

theorem mcfgGive (g : Guard) (o : FmtQ) : Statement (.mcfgGive g o) := by
  intro wf w h
  obtain rfl := Option.some.inj h
  refine ⟨by rw [majOf_encQ]; decide, ?_⟩
  rw [construct_50]
  simp_all [Instr.wf, ctor50]

theorem nred (g : Guard) (o : FmtQ) : Statement (.nred g o) := by
  intro _ w h
  obtain rfl := Option.some.inj h
  exact ⟨by rw [majOf_encQ]; decide, by rw [construct_52]; rfl⟩

theorem nres (g : Guard) (o : FmtQ) : Statement (.nres g o) := by
  intro _ w h
  obtain rfl := Option.some.inj h
  exact ⟨by rw [majOf_encQ]; decide, by rw [construct_52]; rfl⟩

theorem nclr (g : Guard) (o : FmtQ) : Statement (.nclr g o) := by
  intro _ w h
  obtain rfl := Option.some.inj h
  exact ⟨by rw [majOf_encQ]; decide, by rw [construct_52]; rfl⟩

theorem ld (g : Guard) (o : FmtM) : Statement (.ld g o) := by
  intro _ w h
  obtain rfl := Option.some.inj h
  exact ⟨by rw [majOf_encM]; decide, by rw [construct_60]; rfl⟩

theorem st (g : Guard) (o : FmtM) : Statement (.st g o) := by
  intro _ w h
  obtain rfl := Option.some.inj h
  exact ⟨by rw [majOf_encM]; decide, by rw [construct_60]; rfl⟩

theorem vld (g : Guard) (o : FmtM) : Statement (.vld g o) := by
  intro _ w h
  obtain rfl := Option.some.inj h
  exact ⟨by rw [majOf_encM]; decide, by rw [construct_60]; rfl⟩

theorem vst (g : Guard) (o : FmtM) : Statement (.vst g o) := by
  intro _ w h
  obtain rfl := Option.some.inj h
  exact ⟨by rw [majOf_encM]; decide, by rw [construct_60]; rfl⟩

theorem vldx (g : Guard) (o : FmtM) : Statement (.vldx g o) := by
  intro _ w h
  obtain rfl := Option.some.inj h
  exact ⟨by rw [majOf_encM]; decide, by rw [construct_60]; rfl⟩

theorem vstx (g : Guard) (o : FmtM) : Statement (.vstx g o) := by
  intro _ w h
  obtain rfl := Option.some.inj h
  exact ⟨by rw [majOf_encM]; decide, by rw [construct_60]; rfl⟩

theorem vlds (g : Guard) (o : FmtM) : Statement (.vlds g o) := by
  intro _ w h
  obtain rfl := Option.some.inj h
  exact ⟨by rw [majOf_encM]; decide, by rw [construct_60]; rfl⟩

theorem vsts (g : Guard) (o : FmtM) : Statement (.vsts g o) := by
  intro _ w h
  obtain rfl := Option.some.inj h
  exact ⟨by rw [majOf_encM]; decide, by rw [construct_60]; rfl⟩

theorem gld (g : Guard) (o : FmtM) : Statement (.gld g o) := by
  intro _ w h
  obtain rfl := Option.some.inj h
  exact ⟨by rw [majOf_encM]; decide, by rw [construct_70]; rfl⟩

theorem gst (g : Guard) (o : FmtM) : Statement (.gst g o) := by
  intro _ w h
  obtain rfl := Option.some.inj h
  exact ⟨by rw [majOf_encM]; decide, by rw [construct_70]; rfl⟩

theorem gvld (g : Guard) (o : FmtM) : Statement (.gvld g o) := by
  intro _ w h
  obtain rfl := Option.some.inj h
  exact ⟨by rw [majOf_encM]; decide, by rw [construct_70]; rfl⟩

theorem gvst (g : Guard) (o : FmtM) : Statement (.gvst g o) := by
  intro _ w h
  obtain rfl := Option.some.inj h
  exact ⟨by rw [majOf_encM]; decide, by rw [construct_70]; rfl⟩

theorem gldw (g : Guard) (o : FmtM) : Statement (.gldw g o) := by
  intro _ w h
  obtain rfl := Option.some.inj h
  exact ⟨by rw [majOf_encM]; decide, by rw [construct_70]; rfl⟩

theorem gstw (g : Guard) (o : FmtM) : Statement (.gstw g o) := by
  intro _ w h
  obtain rfl := Option.some.inj h
  exact ⟨by rw [majOf_encM]; decide, by rw [construct_70]; rfl⟩

theorem gprf (g : Guard) (o : FmtM) : Statement (.gprf g o) := by
  intro _ w h
  obtain rfl := Option.some.inj h
  exact ⟨by rw [majOf_encM]; decide, by rw [construct_70]; rfl⟩

theorem pclr (g : Guard) (o : FmtM) : Statement (.pclr g o) := by
  intro _ w h
  obtain rfl := Option.some.inj h
  exact ⟨by rw [majOf_encM]; decide, by rw [construct_70]; rfl⟩

theorem amoadd (g : Guard) (o : FmtM) : Statement (.amoadd g o) := by
  intro _ w h
  obtain rfl := Option.some.inj h
  exact ⟨by rw [majOf_encM]; decide, by rw [construct_72]; rfl⟩

theorem amofadd (g : Guard) (o : FmtM) : Statement (.amofadd g o) := by
  intro _ w h
  obtain rfl := Option.some.inj h
  exact ⟨by rw [majOf_encM]; decide, by rw [construct_72]; rfl⟩

theorem amomin (g : Guard) (o : FmtM) : Statement (.amomin g o) := by
  intro _ w h
  obtain rfl := Option.some.inj h
  exact ⟨by rw [majOf_encM]; decide, by rw [construct_72]; rfl⟩

theorem amomax (g : Guard) (o : FmtM) : Statement (.amomax g o) := by
  intro _ w h
  obtain rfl := Option.some.inj h
  exact ⟨by rw [majOf_encM]; decide, by rw [construct_72]; rfl⟩

theorem amominu (g : Guard) (o : FmtM) : Statement (.amominu g o) := by
  intro _ w h
  obtain rfl := Option.some.inj h
  exact ⟨by rw [majOf_encM]; decide, by rw [construct_72]; rfl⟩

theorem amomaxu (g : Guard) (o : FmtM) : Statement (.amomaxu g o) := by
  intro _ w h
  obtain rfl := Option.some.inj h
  exact ⟨by rw [majOf_encM]; decide, by rw [construct_72]; rfl⟩

theorem amoand (g : Guard) (o : FmtM) : Statement (.amoand g o) := by
  intro _ w h
  obtain rfl := Option.some.inj h
  exact ⟨by rw [majOf_encM]; decide, by rw [construct_72]; rfl⟩

theorem amoor (g : Guard) (o : FmtM) : Statement (.amoor g o) := by
  intro _ w h
  obtain rfl := Option.some.inj h
  exact ⟨by rw [majOf_encM]; decide, by rw [construct_72]; rfl⟩

theorem amoxor (g : Guard) (o : FmtM) : Statement (.amoxor g o) := by
  intro _ w h
  obtain rfl := Option.some.inj h
  exact ⟨by rw [majOf_encM]; decide, by rw [construct_72]; rfl⟩

theorem amoswap (g : Guard) (o : FmtM) : Statement (.amoswap g o) := by
  intro _ w h
  obtain rfl := Option.some.inj h
  exact ⟨by rw [majOf_encM]; decide, by rw [construct_72]; rfl⟩

theorem amocas (g : Guard) (o : FmtM) : Statement (.amocas g o) := by
  intro _ w h
  obtain rfl := Option.some.inj h
  exact ⟨by rw [majOf_encM]; decide, by rw [construct_72]; rfl⟩

theorem amocall (g : Guard) (o : FmtM) : Statement (.amocall g o) := by
  intro _ w h
  obtain rfl := Option.some.inj h
  exact ⟨by rw [majOf_encM]; decide, by rw [construct_72]; rfl⟩

theorem fence (g : Guard) (o : FmtM) : Statement (.fence g o) := by
  intro _ w h
  obtain rfl := Option.some.inj h
  exact ⟨by rw [majOf_encM]; decide, by rw [construct_74]; rfl⟩

theorem fencex (g : Guard) (o : FmtM) : Statement (.fencex g o) := by
  intro _ w h
  obtain rfl := Option.some.inj h
  exact ⟨by rw [majOf_encM]; decide, by rw [construct_74]; rfl⟩

theorem send (g : Guard) (o : FmtQ) : Statement (.send g o) := by
  intro _ w h
  obtain rfl := Option.some.inj h
  exact ⟨by rw [majOf_encQ]; decide, by rw [construct_80]; rfl⟩

theorem vsend (g : Guard) (o : FmtQ) : Statement (.vsend g o) := by
  intro _ w h
  obtain rfl := Option.some.inj h
  exact ⟨by rw [majOf_encQ]; decide, by rw [construct_80]; rfl⟩

theorem recv (g : Guard) (o : FmtQ) : Statement (.recv g o) := by
  intro _ w h
  obtain rfl := Option.some.inj h
  exact ⟨by rw [majOf_encQ]; decide, by rw [construct_80]; rfl⟩

theorem vrecv (g : Guard) (o : FmtQ) : Statement (.vrecv g o) := by
  intro _ w h
  obtain rfl := Option.some.inj h
  exact ⟨by rw [majOf_encQ]; decide, by rw [construct_80]; rfl⟩

theorem tsend (g : Guard) (o : FmtQ) : Statement (.tsend g o) := by
  intro _ w h
  obtain rfl := Option.some.inj h
  exact ⟨by rw [majOf_encQ]; decide, by rw [construct_80]; rfl⟩

theorem tpeek (g : Guard) (o : FmtQ) : Statement (.tpeek g o) := by
  intro _ w h
  obtain rfl := Option.some.inj h
  exact ⟨by rw [majOf_encQ]; decide, by rw [construct_80]; rfl⟩

theorem trecv (g : Guard) (o : FmtQ) : Statement (.trecv g o) := by
  intro _ w h
  obtain rfl := Option.some.inj h
  exact ⟨by rw [majOf_encQ]; decide, by rw [construct_80]; rfl⟩

theorem chk (g : Guard) (o : FmtQ) : Statement (.chk g o) := by
  intro _ w h
  obtain rfl := Option.some.inj h
  exact ⟨by rw [majOf_encQ]; decide, by rw [construct_80]; rfl⟩

theorem bind (g : Guard) (o : FmtQ) : Statement (.bind g o) := by
  intro _ w h
  obtain rfl := Option.some.inj h
  exact ⟨by rw [majOf_encQ]; decide, by rw [construct_80]; rfl⟩

theorem unbind (g : Guard) (o : FmtQ) : Statement (.unbind g o) := by
  intro _ w h
  obtain rfl := Option.some.inj h
  exact ⟨by rw [majOf_encQ]; decide, by rw [construct_80]; rfl⟩

theorem agrun (g : Guard) (o : FmtQ) : Statement (.agrun g o) := by
  intro _ w h
  obtain rfl := Option.some.inj h
  exact ⟨by rw [majOf_encQ]; decide, by rw [construct_82]; rfl⟩

theorem agstop (g : Guard) (o : FmtQ) : Statement (.agstop g o) := by
  intro _ w h
  obtain rfl := Option.some.inj h
  exact ⟨by rw [majOf_encQ]; decide, by rw [construct_82]; rfl⟩

theorem agstat (g : Guard) (o : FmtQ) : Statement (.agstat g o) := by
  intro _ w h
  obtain rfl := Option.some.inj h
  exact ⟨by rw [majOf_encQ]; decide, by rw [construct_82]; rfl⟩

theorem gadv (g : Guard) (o : FmtQ) : Statement (.gadv g o) := by
  intro _ w h
  obtain rfl := Option.some.inj h
  exact ⟨by rw [majOf_encQ]; decide, by rw [construct_90]; rfl⟩

theorem gset (g : Guard) (o : FmtQ) : Statement (.gset g o) := by
  intro _ w h
  obtain rfl := Option.some.inj h
  exact ⟨by rw [majOf_encQ]; decide, by rw [construct_90]; rfl⟩

theorem gget (g : Guard) (o : FmtQ) : Statement (.gget g o) := by
  intro _ w h
  obtain rfl := Option.some.inj h
  exact ⟨by rw [majOf_encQ]; decide, by rw [construct_90]; rfl⟩

theorem gwait (g : Guard) (o : FmtQ) : Statement (.gwait g o) := by
  intro _ w h
  obtain rfl := Option.some.inj h
  exact ⟨by rw [majOf_encQ]; decide, by rw [construct_90]; rfl⟩

theorem grate (g : Guard) (o : FmtQ) : Statement (.grate g o) := by
  intro _ w h
  obtain rfl := Option.some.inj h
  exact ⟨by rw [majOf_encQ]; decide, by rw [construct_90]; rfl⟩

theorem glate (g : Guard) (o : FmtQ) : Statement (.glate g o) := by
  intro wf w h
  obtain rfl := Option.some.inj h
  refine ⟨by rw [majOf_encQ]; decide, ?_⟩
  rw [construct_90]
  simp_all [Instr.wf, ctor90]

theorem glatePop (g : Guard) (o : FmtQ) : Statement (.glatePop g o) := by
  intro wf w h
  obtain rfl := Option.some.inj h
  refine ⟨by rw [majOf_encQ]; decide, ?_⟩
  rw [construct_90]
  simp_all [Instr.wf, ctor90]

theorem xfer (g : Guard) (o : FmtQ) : Statement (.xfer g o) := by
  intro _ w h
  obtain rfl := Option.some.inj h
  exact ⟨by rw [majOf_encQ]; decide, by rw [construct_92]; rfl⟩

theorem xvia (g : Guard) (o : FmtQ) : Statement (.xvia g o) := by
  intro _ w h
  obtain rfl := Option.some.inj h
  exact ⟨by rw [majOf_encQ]; decide, by rw [construct_92]; rfl⟩

theorem xgath (g : Guard) (o : FmtQ) : Statement (.xgath g o) := by
  intro _ w h
  obtain rfl := Option.some.inj h
  exact ⟨by rw [majOf_encQ]; decide, by rw [construct_92]; rfl⟩

theorem xscat (g : Guard) (o : FmtQ) : Statement (.xscat g o) := by
  intro _ w h
  obtain rfl := Option.some.inj h
  exact ⟨by rw [majOf_encQ]; decide, by rw [construct_92]; rfl⟩

theorem xcancel (g : Guard) (o : FmtQ) : Statement (.xcancel g o) := by
  intro _ w h
  obtain rfl := Option.some.inj h
  exact ⟨by rw [majOf_encQ]; decide, by rw [construct_92]; rfl⟩

theorem xstat (g : Guard) (o : FmtQ) : Statement (.xstat g o) := by
  intro _ w h
  obtain rfl := Option.some.inj h
  exact ⟨by rw [majOf_encQ]; decide, by rw [construct_92]; rfl⟩

theorem baralloc (g : Guard) (o : FmtQ) : Statement (.baralloc g o) := by
  intro _ w h
  obtain rfl := Option.some.inj h
  exact ⟨by rw [majOf_encQ]; decide, by rw [construct_A0]; rfl⟩

theorem barfree (g : Guard) (o : FmtQ) : Statement (.barfree g o) := by
  intro _ w h
  obtain rfl := Option.some.inj h
  exact ⟨by rw [majOf_encQ]; decide, by rw [construct_A0]; rfl⟩

theorem barref (g : Guard) (o : FmtQ) : Statement (.barref g o) := by
  intro _ w h
  obtain rfl := Option.some.inj h
  exact ⟨by rw [majOf_encQ]; decide, by rw [construct_A0]; rfl⟩

theorem barinit (g : Guard) (o : FmtQ) : Statement (.barinit g o) := by
  intro _ w h
  obtain rfl := Option.some.inj h
  exact ⟨by rw [majOf_encQ]; decide, by rw [construct_A0]; rfl⟩

theorem barrive (g : Guard) (o : FmtQ) : Statement (.barrive g o) := by
  intro _ w h
  obtain rfl := Option.some.inj h
  exact ⟨by rw [majOf_encQ]; decide, by rw [construct_A0]; rfl⟩

theorem barexp (g : Guard) (o : FmtQ) : Statement (.barexp g o) := by
  intro _ w h
  obtain rfl := Option.some.inj h
  exact ⟨by rw [majOf_encQ]; decide, by rw [construct_A0]; rfl⟩

theorem barwait (g : Guard) (o : FmtQ) : Statement (.barwait g o) := by
  intro _ w h
  obtain rfl := Option.some.inj h
  exact ⟨by rw [majOf_encQ]; decide, by rw [construct_A0]; rfl⟩

theorem bartest (g : Guard) (o : FmtQ) : Statement (.bartest g o) := by
  intro _ w h
  obtain rfl := Option.some.inj h
  exact ⟨by rw [majOf_encQ]; decide, by rw [construct_A0]; rfl⟩

theorem blopen (g : Guard) (o : FmtQ) : Statement (.blopen g o) := by
  intro _ w h
  obtain rfl := Option.some.inj h
  exact ⟨by rw [majOf_encQ]; decide, by rw [construct_A4]; rfl⟩

theorem blseal (g : Guard) (o : FmtQ) : Statement (.blseal g o) := by
  intro _ w h
  obtain rfl := Option.some.inj h
  exact ⟨by rw [majOf_encQ]; decide, by rw [construct_A4]; rfl⟩

theorem blcommit (g : Guard) (o : FmtQ) : Statement (.blcommit g o) := by
  intro _ w h
  obtain rfl := Option.some.inj h
  exact ⟨by rw [majOf_encQ]; decide, by rw [construct_A4]; rfl⟩

theorem blabort (g : Guard) (o : FmtQ) : Statement (.blabort g o) := by
  intro _ w h
  obtain rfl := Option.some.inj h
  exact ⟨by rw [majOf_encQ]; decide, by rw [construct_A4]; rfl⟩

theorem blwait (g : Guard) (o : FmtQ) : Statement (.blwait g o) := by
  intro _ w h
  obtain rfl := Option.some.inj h
  exact ⟨by rw [majOf_encQ]; decide, by rw [construct_A4]; rfl⟩

theorem blstat (g : Guard) (o : FmtQ) : Statement (.blstat g o) := by
  intro _ w h
  obtain rfl := Option.some.inj h
  exact ⟨by rw [majOf_encQ]; decide, by rw [construct_A4]; rfl⟩

theorem blst (g : Guard) (o : FmtM) : Statement (.blst g o) := by
  intro _ w h
  obtain rfl := Option.some.inj h
  exact ⟨by rw [majOf_encM]; decide, by rw [construct_A5]; rfl⟩

theorem blvst (g : Guard) (o : FmtM) : Statement (.blvst g o) := by
  intro _ w h
  obtain rfl := Option.some.inj h
  exact ⟨by rw [majOf_encM]; decide, by rw [construct_A5]; rfl⟩

theorem scroll (g : Guard) (o : FmtQ) : Statement (.scroll g o) := by
  intro wf w h
  obtain rfl := Option.some.inj h
  refine ⟨by rw [majOf_encQ]; decide, ?_⟩
  rw [construct_B0]
  simp_all [Instr.wf, ctorB0]

theorem scrollQ (g : Guard) (o : FmtQ) : Statement (.scrollQ g o) := by
  intro wf w h
  obtain rfl := Option.some.inj h
  refine ⟨by rw [majOf_encQ]; decide, ?_⟩
  rw [construct_B0]
  simp_all [Instr.wf, ctorB0]

theorem stsave (g : Guard) (o : FmtQ) : Statement (.stsave g o) := by
  intro _ w h
  obtain rfl := Option.some.inj h
  exact ⟨by rw [majOf_encQ]; decide, by rw [construct_B0]; rfl⟩

theorem stload (g : Guard) (o : FmtQ) : Statement (.stload g o) := by
  intro _ w h
  obtain rfl := Option.some.inj h
  exact ⟨by rw [majOf_encQ]; decide, by rw [construct_B0]; rfl⟩

theorem cfgw (g : Guard) (o : FmtQ) : Statement (.cfgw g o) := by
  intro _ w h
  obtain rfl := Option.some.inj h
  exact ⟨by rw [majOf_encQ]; decide, by rw [construct_B0]; rfl⟩

theorem cfgswap (g : Guard) (o : FmtQ) : Statement (.cfgswap g o) := by
  intro _ w h
  obtain rfl := Option.some.inj h
  exact ⟨by rw [majOf_encQ]; decide, by rw [construct_B0]; rfl⟩

theorem sysrd (g : Guard) (o : FmtS) : Statement (.sysrd g o) := by
  intro _ w h
  obtain rfl := Option.some.inj h
  exact ⟨by rw [majOf_encS]; decide, by rw [construct_C0]; rfl⟩

theorem syswr (g : Guard) (o : FmtS) : Statement (.syswr g o) := by
  intro wf w h
  obtain rfl := Option.some.inj h
  refine ⟨by rw [majOf_encS]; decide, ?_⟩
  rw [construct_C0]
  simp_all [Instr.wf, ctorC0]

theorem horizonWrite (g : Guard) (o : FmtS) : Statement (.horizonWrite g o) := by
  intro wf w h
  obtain rfl := Option.some.inj h
  refine ⟨by rw [majOf_encS]; decide, ?_⟩
  rw [construct_C0]
  simp_all [Instr.wf, ctorC0]

theorem evpendWrite (g : Guard) (o : FmtS) : Statement (.evpendWrite g o) := by
  intro wf w h
  obtain rfl := Option.some.inj h
  refine ⟨by rw [majOf_encS]; decide, ?_⟩
  rw [construct_C0]
  simp_all [Instr.wf, ctorC0]

theorem trap (g : Guard) (o : FmtS) : Statement (.trap g o) := by
  intro _ w h
  obtain rfl := Option.some.inj h
  exact ⟨by rw [majOf_encS]; decide, by rw [construct_C0]; rfl⟩

theorem eret (g : Guard) (o : FmtS) : Statement (.eret g o) := by
  intro _ w h
  obtain rfl := Option.some.inj h
  exact ⟨by rw [majOf_encS]; decide, by rw [construct_C0]; rfl⟩

theorem ebrk (g : Guard) (o : FmtS) : Statement (.ebrk g o) := by
  intro _ w h
  obtain rfl := Option.some.inj h
  exact ⟨by rw [majOf_encS]; decide, by rw [construct_C0]; rfl⟩

theorem wfe (g : Guard) (o : FmtS) : Statement (.wfe g o) := by
  intro _ w h
  obtain rfl := Option.some.inj h
  exact ⟨by rw [majOf_encS]; decide, by rw [construct_C0]; rfl⟩

theorem tlbinv (g : Guard) (o : FmtS) : Statement (.tlbinv g o) := by
  intro _ w h
  obtain rfl := Option.some.inj h
  exact ⟨by rw [majOf_encS]; decide, by rw [construct_C0]; rfl⟩

theorem chalt (g : Guard) (o : FmtS) : Statement (.chalt g o) := by
  intro _ w h
  obtain rfl := Option.some.inj h
  exact ⟨by rw [majOf_encS]; decide, by rw [construct_C0]; rfl⟩

theorem cresume (g : Guard) (o : FmtS) : Statement (.cresume g o) := by
  intro _ w h
  obtain rfl := Option.some.inj h
  exact ⟨by rw [majOf_encS]; decide, by rw [construct_C0]; rfl⟩

theorem lateTrap : Statement (.lateTrap) := fun _ _ h => nomatch h

theorem dispatch (t : TileId) (c : Fin 4) : Statement (.dispatch t c) := fun _ _ h => nomatch h

theorem unitFree (t : TileId) (isFloat : Bool) : Statement (.unitFree t isFloat) := fun _ _ h => nomatch h

theorem registerWriteLand (t : TileId) (c : Fin 4) (r : RegRef) : Statement (.registerWriteLand t c r) := fun _ _ h => nomatch h

theorem storeQueuePerform (t : TileId) (c : Fin 4) : Statement (.storeQueuePerform t c) := fun _ _ h => nomatch h

theorem headRecordExamine (q : Nat) : Statement (.headRecordExamine q) := fun _ _ h => nomatch h

theorem placementPass (d : Fin 8) : Statement (.placementPass d) := fun _ _ h => nomatch h

theorem install (r : Nat) : Statement (.install r) := fun _ _ h => nomatch h

theorem sourceStart (r : Nat) (k : Nat) : Statement (.sourceStart r k) := fun _ _ h => nomatch h

theorem governorWindow (t : TileId) : Statement (.governorWindow t) := fun _ _ h => nomatch h

theorem regionComplete (r : Nat) : Statement (.regionComplete r) := fun _ _ h => nomatch h

theorem channelEntryArrive (t : TileId) (k : Fin 64) (parityFail : Bool) : Statement (.channelEntryArrive t k parityFail) := fun _ _ h => nomatch h

theorem creditReturn (t : TileId) (e : Nat) : Statement (.creditReturn t e) := fun _ _ h => nomatch h

theorem typedJoinConvert (t : TileId) (k : Fin 64) : Statement (.typedJoinConvert t k) := fun _ _ h => nomatch h

theorem cfgApply (t : TileId) (k : Fin 64) : Statement (.cfgApply t k) := fun _ _ h => nomatch h

theorem steerFire (t : TileId) (o : Fin 8) : Statement (.steerFire t o) := fun _ _ h => nomatch h

theorem mergeFire (t : TileId) (o : Fin 8) : Statement (.mergeFire t o) := fun _ _ h => nomatch h

theorem carryFire (t : TileId) (o : Fin 8) : Statement (.carryFire t o) := fun _ _ h => nomatch h

theorem forkFire (t : TileId) (o : Fin 8) : Statement (.forkFire t o) := fun _ _ h => nomatch h

theorem readStreamElement (t : TileId) (g : Fin 4) : Statement (.readStreamElement t g) := fun _ _ h => nomatch h

theorem writeStreamElement (t : TileId) (g : Fin 4) : Statement (.writeStreamElement t g) := fun _ _ h => nomatch h

theorem matrixFire (t : TileId) : Statement (.matrixFire t) := fun _ _ h => nomatch h

theorem matrixSwapToken (t : TileId) : Statement (.matrixSwapToken t) := fun _ _ h => nomatch h

theorem matrixTokenPair (t : TileId) : Statement (.matrixTokenPair t) := fun _ _ h => nomatch h

theorem mmavDone (t : TileId) : Statement (.mmavDone t) := fun _ _ h => nomatch h

theorem drainEntry (t : TileId) : Statement (.drainEntry t) := fun _ _ h => nomatch h

theorem spindlePartialArrive (t : TileId) (k : Fin 4) (parityFail : Bool) : Statement (.spindlePartialArrive t k parityFail) := fun _ _ h => nomatch h

theorem spindleRoundComplete (t : TileId) (k : Fin 4) : Statement (.spindleRoundComplete t k) := fun _ _ h => nomatch h

theorem spindleCreditArrive (t : TileId) (k : Fin 4) : Statement (.spindleCreditArrive t k) := fun _ _ h => nomatch h

theorem endWindow (t : TileId) (g : Fin 16) : Statement (.endWindow t g) := fun _ _ h => nomatch h

theorem beaconTimeout (t : TileId) (g : Fin 16) : Statement (.beaconTimeout t g) := fun _ _ h => nomatch h

theorem beaconArrive (d : Fin 8) (e : Fin 64) (t : TileId) (b : BeaconRef) : Statement (.beaconArrive d e t b) := fun _ _ h => nomatch h

theorem enginePacketIssue (d : Fin 8) (e : Fin 64) : Statement (.enginePacketIssue d e) := fun _ _ h => nomatch h

theorem packetArbiterGrant (a : Nat) : Statement (.packetArbiterGrant a) := fun _ _ h => nomatch h

theorem holdReevaluate (d : Fin 8) (e : Fin 64) : Statement (.holdReevaluate d e) := fun _ _ h => nomatch h

theorem watchRegister (id : Word) : Statement (.watchRegister id) := fun _ _ h => nomatch h

theorem watchRetry (id : Word) : Statement (.watchRetry id) := fun _ _ h => nomatch h

theorem transferPacketLand (id : Word) (l : Landing) : Statement (.transferPacketLand id l) := fun _ _ h => nomatch h

theorem transferDone (id : Word) : Statement (.transferDone id) := fun _ _ h => nomatch h

theorem completionEntryAppend (id : Word) : Statement (.completionEntryAppend id) := fun _ _ h => nomatch h

theorem transferError (id : Word) : Statement (.transferError id) := fun _ _ h => nomatch h

theorem walkComplete (d : Fin 8) (asid : BitVec 16) (page : Nat) : Statement (.walkComplete d asid page) := fun _ _ h => nomatch h

theorem slicePerform (a : Served) : Statement (.slicePerform a) := fun _ _ h => nomatch h

theorem atomicPerform (a : Served) : Statement (.atomicPerform a) := fun _ _ h => nomatch h

theorem retryResend (a : AccRef) : Statement (.retryResend a) := fun _ _ h => nomatch h

theorem invalidationComplete (k : Nat) : Statement (.invalidationComplete k) := fun _ _ h => nomatch h

theorem barrierOperation (p : PoolTurn) : Statement (.barrierOperation p) := fun _ _ h => nomatch h

theorem transferArrival (p : PoolTurn) : Statement (.transferArrival p) := fun _ _ h => nomatch h

theorem loftStoreArrive (l : Landing) : Statement (.loftStoreArrive l) := fun _ _ h => nomatch h

theorem sealSend (h : Word) : Statement (.sealSend h) := fun _ _ h => nomatch h

theorem sealArrive (k : Nat) : Statement (.sealArrive k) := fun _ _ h => nomatch h

theorem baleReply (h : Word) (node : BitVec 12) (r : BaleAnswer) : Statement (.baleReply h node r) := fun _ _ h => nomatch h

theorem baleCommitDecision (h : Word) : Statement (.baleCommitDecision h) := fun _ _ h => nomatch h

theorem baleDecisionApply (k : Nat) : Statement (.baleDecisionApply k) := fun _ _ h => nomatch h

theorem baleDoneReply (h : Word) (node : BitVec 12) : Statement (.baleDoneReply h node) := fun _ _ h => nomatch h

theorem feederLoad (r : Nat) (slot : Nat) : Statement (.feederLoad r slot) := fun _ _ h => nomatch h

theorem feederTrainAppend (r : Nat) : Statement (.feederTrainAppend r) := fun _ _ h => nomatch h

theorem forwardReady (t : TileId) : Statement (.forwardReady t) := fun _ _ h => nomatch h

theorem reelSwap (t : TileId) : Statement (.reelSwap t) := fun _ _ h => nomatch h

theorem stateSave (t : TileId) : Statement (.stateSave t) := fun _ _ h => nomatch h

theorem stateRestore (t : TileId) : Statement (.stateRestore t) := fun _ _ h => nomatch h

theorem tileSnapshot (t : TileId) : Statement (.tileSnapshot t) := fun _ _ h => nomatch h

theorem snapshotComplete (r : Nat) : Statement (.snapshotComplete r) := fun _ _ h => nomatch h

theorem regionRestore (r : Nat) : Statement (.regionRestore r) := fun _ _ h => nomatch h

theorem flitReceive (p : Fin 32) (flit : BitVec 512) : Statement (.flitReceive p flit) := fun _ _ h => nomatch h

theorem nakReplay (p : Fin 32) : Statement (.nakReplay p) := fun _ _ h => nomatch h

theorem streamOpen (p : Fin 32) : Statement (.streamOpen p) := fun _ _ h => nomatch h

theorem streamClose (p : Fin 32) : Statement (.streamClose p) := fun _ _ h => nomatch h

theorem dataFlit (p : Fin 32) (q : PeerRequest) : Statement (.dataFlit p q) := fun _ _ h => nomatch h

theorem hello (p : Fin 32) (node : BitVec 12) (incarnation : BitVec 16) : Statement (.hello p node incarnation) := fun _ _ h => nomatch h

theorem creditFlit (p : Fin 32) (circuit : Fin 64) (n : Nat) : Statement (.creditFlit p circuit n) := fun _ _ h => nomatch h

theorem circFlit (p : Fin 32) (circuit : Fin 64) : Statement (.circFlit p circuit) := fun _ _ h => nomatch h

theorem hold (rid : Nat) : Statement (.hold rid) := fun _ _ h => nomatch h

theorem remoteResponse (rid : Nat) (a : RemoteAnswer) : Statement (.remoteResponse rid a) := fun _ _ h => nomatch h

theorem remoteTimeoutExpiry (rid : Nat) : Statement (.remoteTimeoutExpiry rid) := fun _ _ h => nomatch h

theorem bridgeReplay (b : Nat) : Statement (.bridgeReplay b) := fun _ _ h => nomatch h

theorem qconfig (c : Cmd) : Statement (.qconfig c) := fun _ _ h => nomatch h

theorem doorbell (c : Cmd) : Statement (.doorbell c) := fun _ _ h => nomatch h

theorem qread (c : Cmd) : Statement (.qread c) := fun _ _ h => nomatch h

theorem rootbase (c : Cmd) : Statement (.rootbase c) := fun _ _ h => nomatch h

theorem inval (c : Cmd) : Statement (.inval c) := fun _ _ h => nomatch h

theorem pageinit (c : Cmd) : Statement (.pageinit c) := fun _ _ h => nomatch h

theorem access (c : Cmd) : Statement (.access c) := fun _ _ h => nomatch h

theorem timeout (c : Cmd) : Statement (.timeout c) := fun _ _ h => nomatch h

theorem nodeport (c : Cmd) : Statement (.nodeport c) := fun _ _ h => nomatch h

theorem linkup (c : Cmd) : Statement (.linkup c) := fun _ _ h => nomatch h

theorem routever (c : Cmd) : Statement (.routever c) := fun _ _ h => nomatch h

theorem diestate (c : Cmd) : Statement (.diestate c) := fun _ _ h => nomatch h

theorem kill (c : Cmd) : Statement (.kill c) := fun _ _ h => nomatch h

theorem pause (c : Cmd) : Statement (.pause c) := fun _ _ h => nomatch h

theorem evict (c : Cmd) : Statement (.evict c) := fun _ _ h => nomatch h

theorem resume (c : Cmd) : Statement (.resume c) := fun _ _ h => nomatch h

theorem halt (c : Cmd) : Statement (.halt c) := fun _ _ h => nomatch h

theorem release (c : Cmd) : Statement (.release c) := fun _ _ h => nomatch h

theorem ctxrd (c : Cmd) : Statement (.ctxrd c) := fun _ _ h => nomatch h

theorem ctxwr (c : Cmd) : Statement (.ctxwr c) := fun _ _ h => nomatch h

theorem faultq (c : Cmd) : Statement (.faultq c) := fun _ _ h => nomatch h

theorem stale (c : Cmd) : Statement (.stale c) := fun _ _ h => nomatch h

theorem resolve (c : Cmd) : Statement (.resolve c) := fun _ _ h => nomatch h

theorem circuit (c : Cmd) : Statement (.circuit c) := fun _ _ h => nomatch h

theorem clockstep (c : Cmd) : Statement (.clockstep c) := fun _ _ h => nomatch h

theorem ratio (c : Cmd) : Statement (.ratio c) := fun _ _ h => nomatch h

theorem repair (c : Cmd) : Statement (.repair c) := fun _ _ h => nomatch h

theorem thermal (c : Cmd) : Statement (.thermal c) := fun _ _ h => nomatch h

theorem attest (c : Cmd) : Statement (.attest c) := fun _ _ h => nomatch h

theorem fwstage (c : Cmd) : Statement (.fwstage c) := fun _ _ h => nomatch h

theorem hostlist (c : Cmd) : Statement (.hostlist c) := fun _ _ h => nomatch h

theorem powerUp : Statement (.powerUp) := fun _ _ h => nomatch h

theorem thermalTrip (d : Nat) : Statement (.thermalTrip d) := fun _ _ h => nomatch h

theorem illegalWord (w : Word) : Statement (.illegalWord w) := fun _ _ h => nomatch h

theorem repairEnd (d : Fin 8) : Statement (.repairEnd d) := fun _ _ h => nomatch h

theorem ack (p : Fin 32) : Statement (.ack p) := fun _ _ h => nomatch h

theorem clockstepResume (d : Fin 8) : Statement (.clockstepResume d) := fun _ _ h => nomatch h

theorem modulePowerOff : Statement (.modulePowerOff) := fun _ _ h => nomatch h

end Sys2Proof.Laws.Encodes
end

