-- ==== Sys2Proof/Tests/Slice0.lean ====
section
/-! SUPPORT. Words and their instructions, ill-formed terms, results from the spec's rules and examples, and for each statement
for the provers a state and operands that meet its hypotheses. -/

namespace Sys2Proof.Tests
open Sys2Proof Sys2Proof.Machine
set_option Elab.async false
theorem test_decode_branches_1 :
    decode 0x0150000000000007 = .ok (.br ⟨2, true⟩ ⟨0, 0, 7⟩) ∧
    decode 0x01511900FFFFFFFA = .ok (.beq ⟨2, true⟩ ⟨3, 4, 4294967290⟩) ∧
    decode 0x0152190000000007 = .ok (.bne ⟨2, true⟩ ⟨3, 4, 7⟩) ∧
    decode 0x01531900FFFFFFFA = .ok (.blt ⟨2, true⟩ ⟨3, 4, 4294967290⟩) ∧
    decode 0x0154190000000007 = .ok (.bge ⟨2, true⟩ ⟨3, 4, 7⟩) ∧
    decode 0x01551900FFFFFFFA = .ok (.bltu ⟨2, true⟩ ⟨3, 4, 4294967290⟩) ∧
    decode 0x0156190000000007 = .ok (.bgeu ⟨2, true⟩ ⟨3, 4, 7⟩) := by decide

theorem test_decode_branches_2 :
    decode 0x01571800FFFFFFFA = .ok (.bp ⟨2, true⟩ ⟨3, 0, 4294967290⟩) ∧
    decode 0x0158180000000007 = .ok (.bnp ⟨2, true⟩ ⟨3, 0, 7⟩) := by decide

theorem test_decode_jumps :
    decode 0x02503E0000000005 = .ok (.jal ⟨2, true⟩ ⟨31, 0, .i8, 5⟩) ∧
    decode 0x025043F0FFFFFFFF = .ok (.jalr ⟨2, true⟩ ⟨1, 31, .i8, 4294967295⟩) ∧
    decode 0x0250800000000000 = .ok (.yield ⟨2, true⟩ ⟨0, 0, .i8, 0⟩) ∧
    decode 0x0250C00000000000 = .ok (.park ⟨2, true⟩ ⟨0, 0, .i8, 0⟩) ∧
    decode 0x0251000000000000 = .ok (.nop ⟨2, true⟩ ⟨0, 0, .i8, 0⟩) := by decide

theorem test_decode_scalar_integer_1 :
    decode 0x10500642808C0000 = .ok (.add ⟨2, true⟩ ⟨3, 4, 5, 0, .i32, .rne, true, true, 0⟩) ∧
    decode 0x10504642808C0000 = .ok (.sub ⟨2, true⟩ ⟨3, 4, 5, 0, .i32, .rne, true, true, 0⟩) ∧
    decode 0x10508642808C0000 = .ok (.mul ⟨2, true⟩ ⟨3, 4, 5, 0, .i32, .rne, true, true, 0⟩) ∧
    decode 0x1050C64280800000 = .ok (.mulh ⟨2, true⟩ ⟨3, 4, 5, 0, .i32, .rne, false, false, 0⟩) ∧
    decode 0x1051064280800000 = .ok (.mulhu ⟨2, true⟩ ⟨3, 4, 5, 0, .i32, .rne, false, false, 0⟩) ∧
    decode 0x1051464280800000 = .ok (.div ⟨2, true⟩ ⟨3, 4, 5, 0, .i32, .rne, false, false, 0⟩) ∧
    decode 0x1051864280800000 = .ok (.divu ⟨2, true⟩ ⟨3, 4, 5, 0, .i32, .rne, false, false, 0⟩) := by decide

theorem test_decode_scalar_integer_2 :
    decode 0x1051C64280800000 = .ok (.rem ⟨2, true⟩ ⟨3, 4, 5, 0, .i32, .rne, false, false, 0⟩) ∧
    decode 0x1052064280800000 = .ok (.remu ⟨2, true⟩ ⟨3, 4, 5, 0, .i32, .rne, false, false, 0⟩) ∧
    decode 0x1052464280800000 = .ok (.and ⟨2, true⟩ ⟨3, 4, 5, 0, .i32, .rne, false, false, 0⟩) ∧
    decode 0x1052864280800000 = .ok (.or ⟨2, true⟩ ⟨3, 4, 5, 0, .i32, .rne, false, false, 0⟩) ∧
    decode 0x1052C64280800000 = .ok (.xor ⟨2, true⟩ ⟨3, 4, 5, 0, .i32, .rne, false, false, 0⟩) ∧
    decode 0x1053064280800000 = .ok (.andn ⟨2, true⟩ ⟨3, 4, 5, 0, .i32, .rne, false, false, 0⟩) ∧
    decode 0x1053464280800000 = .ok (.sll ⟨2, true⟩ ⟨3, 4, 5, 0, .i32, .rne, false, false, 0⟩) := by decide

theorem test_decode_scalar_integer_3 :
    decode 0x1053864280800000 = .ok (.srl ⟨2, true⟩ ⟨3, 4, 5, 0, .i32, .rne, false, false, 0⟩) ∧
    decode 0x1053C64280800000 = .ok (.sra ⟨2, true⟩ ⟨3, 4, 5, 0, .i32, .rne, false, false, 0⟩) ∧
    decode 0x1054064280800000 = .ok (.rol ⟨2, true⟩ ⟨3, 4, 5, 0, .i32, .rne, false, false, 0⟩) ∧
    decode 0x1054464280800000 = .ok (.min ⟨2, true⟩ ⟨3, 4, 5, 0, .i32, .rne, false, false, 0⟩) ∧
    decode 0x1054864280800000 = .ok (.max ⟨2, true⟩ ⟨3, 4, 5, 0, .i32, .rne, false, false, 0⟩) ∧
    decode 0x1054C64280800000 = .ok (.minu ⟨2, true⟩ ⟨3, 4, 5, 0, .i32, .rne, false, false, 0⟩) ∧
    decode 0x1055064280800000 = .ok (.maxu ⟨2, true⟩ ⟨3, 4, 5, 0, .i32, .rne, false, false, 0⟩) := by decide

theorem test_decode_scalar_integer_4 :
    decode 0x1055464280800000 = .ok (.slt ⟨2, true⟩ ⟨3, 4, 5, 0, .i32, .rne, false, false, 0⟩) ∧
    decode 0x1055864280800000 = .ok (.sltu ⟨2, true⟩ ⟨3, 4, 5, 0, .i32, .rne, false, false, 0⟩) ∧
    decode 0x1055C64298800000 = .ok (.sel ⟨2, true⟩ ⟨3, 4, 5, 6, .i32, .rne, false, false, 0⟩) ∧
    decode 0x1056064000800000 = .ok (.clz ⟨2, true⟩ ⟨3, 4, 0, 0, .i32, .rne, false, false, 0⟩) ∧
    decode 0x1056464000800000 = .ok (.ctz ⟨2, true⟩ ⟨3, 4, 0, 0, .i32, .rne, false, false, 0⟩) ∧
    decode 0x1056864000800000 = .ok (.popc ⟨2, true⟩ ⟨3, 4, 0, 0, .i32, .rne, false, false, 0⟩) ∧
    decode 0x1056C64000800000 = .ok (.brev ⟨2, true⟩ ⟨3, 4, 0, 0, .i32, .rne, false, false, 0⟩) := by decide

theorem test_decode_immediates_1 :
    decode 0x11500642FFFFFFFF = .ok (.addi ⟨2, true⟩ ⟨3, 4, .i32, 4294967295⟩) ∧
    decode 0x11504642FFFFFFFF = .ok (.andi ⟨2, true⟩ ⟨3, 4, .i32, 4294967295⟩) ∧
    decode 0x11508642FFFFFFFF = .ok (.ori ⟨2, true⟩ ⟨3, 4, .i32, 4294967295⟩) ∧
    decode 0x1150C642FFFFFFFF = .ok (.xori ⟨2, true⟩ ⟨3, 4, .i32, 4294967295⟩) ∧
    decode 0x1151064200000005 = .ok (.slli ⟨2, true⟩ ⟨3, 4, .i32, 5⟩) ∧
    decode 0x1151464200000005 = .ok (.srli ⟨2, true⟩ ⟨3, 4, .i32, 5⟩) ∧
    decode 0x1151864200000005 = .ok (.srai ⟨2, true⟩ ⟨3, 4, .i32, 5⟩) := by decide

theorem test_decode_immediates_2 :
    decode 0x1151C642FFFFFFFF = .ok (.slti ⟨2, true⟩ ⟨3, 4, .i32, 4294967295⟩) ∧
    decode 0x11520642FFFFFFFF = .ok (.sltiu ⟨2, true⟩ ⟨3, 4, .i32, 4294967295⟩) ∧
    decode 0x1152460000000064 = .ok (.li ⟨2, true⟩ ⟨3, 0, .i8, 100⟩) ∧
    decode 0x1152864080000001 = .ok (.lhi ⟨2, true⟩ ⟨3, 4, .i8, 2147483649⟩) := by decide

theorem test_decode_predicates_1 :
    decode 0x1250064280000000 = .ok (.pand ⟨2, true⟩ ⟨3, 4, 5, 0, .i8, .rne, false, false, 0⟩) ∧
    decode 0x1250464280000000 = .ok (.por ⟨2, true⟩ ⟨3, 4, 5, 0, .i8, .rne, false, false, 0⟩) ∧
    decode 0x1250864280000000 = .ok (.pxor ⟨2, true⟩ ⟨3, 4, 5, 0, .i8, .rne, false, false, 0⟩) ∧
    decode 0x1250C64280000000 = .ok (.pandn ⟨2, true⟩ ⟨3, 4, 5, 0, .i8, .rne, false, false, 0⟩) ∧
    decode 0x1251064000000000 = .ok (.pnot ⟨2, true⟩ ⟨3, 4, 0, 0, .i8, .rne, false, false, 0⟩) ∧
    decode 0x125147F000000000 = .ok (.pfrom ⟨2, true⟩ ⟨3, 31, 0, 0, .i8, .rne, false, false, 0⟩) ∧
    decode 0x1251BE4000000000 = .ok (.pto ⟨2, true⟩ ⟨31, 4, 0, 0, .i8, .rne, false, false, 0⟩) := by decide

theorem test_decode_predicates_2 :
    decode 0x1251C24280470000 = .ok (.icmp ⟨2, true⟩ ⟨1, 4, 5, 0, .i16, .rne, false, true, 3⟩) := by decide

theorem test_decode_addresses :
    decode 0x1350064280030000 = .ok (.lea ⟨2, true⟩ ⟨3, 4, 5, 0, .i8, .rne, false, false, 3⟩) ∧
    decode 0x1350464280000000 = .ok (.sbank ⟨2, true⟩ ⟨3, 4, 5, 0, .i8, .rne, false, false, 0⟩) ∧
    decode 0x1350903298C40000 = .ok (.clamp ⟨2, true⟩ ⟨8, 3, 5, 6, .i64, .rne, false, true, 0⟩) := by decide

theorem test_decode_scalar_float_1 :
    decode 0x14500C7402380000 = .ok (.fadd ⟨2, true⟩ ⟨6, 7, 8, 0, .fp16, .rup, true, false, 0⟩) ∧
    decode 0x14504C7402380000 = .ok (.fsub ⟨2, true⟩ ⟨6, 7, 8, 0, .fp16, .rup, true, false, 0⟩) ∧
    decode 0x14508C7402380000 = .ok (.fmul ⟨2, true⟩ ⟨6, 7, 8, 0, .fp16, .rup, true, false, 0⟩) ∧
    decode 0x1450CC7426380000 = .ok (.fma ⟨2, true⟩ ⟨6, 7, 8, 9, .fp16, .rup, true, false, 0⟩) ∧
    decode 0x14510C7402380000 = .ok (.fdiv ⟨2, true⟩ ⟨6, 7, 8, 0, .fp16, .rup, true, false, 0⟩) ∧
    decode 0x14514C7002380000 = .ok (.fsqrt ⟨2, true⟩ ⟨6, 7, 0, 0, .fp16, .rup, true, false, 0⟩) ∧
    decode 0x14518C7401C00000 = .ok (.fmin ⟨2, true⟩ ⟨6, 7, 8, 0, .bf16, .rne, false, false, 0⟩) := by decide

theorem test_decode_scalar_float_2 :
    decode 0x1451CC7401C00000 = .ok (.fmax ⟨2, true⟩ ⟨6, 7, 8, 0, .bf16, .rne, false, false, 0⟩) ∧
    decode 0x14520C7402420000 = .ok (.fcmp ⟨2, true⟩ ⟨6, 7, 8, 0, .fp32, .rne, false, false, 2⟩) ∧
    decode 0x14524C7024940000 = .ok (.fcvt ⟨2, true⟩ ⟨6, 7, 0, 9, .i32, .rtz, false, true, 0⟩) ∧
    decode 0x14528C7001800000 = .ok (.fclass ⟨2, true⟩ ⟨6, 7, 0, 0, .fp8b, .rne, false, false, 0⟩) ∧
    decode 0x1452CC7402420000 = .ok (.fsgnj ⟨2, true⟩ ⟨6, 7, 8, 0, .fp32, .rne, false, false, 2⟩) := by decide

theorem test_decode_vector_integer_1 :
    decode 0x30501E21810C0000 = .ok (.vadd ⟨2, true⟩ ⟨15, 2, 3, 0, .i4, .rne, true, true, 0⟩) ∧
    decode 0x30505E21810C0000 = .ok (.vsub ⟨2, true⟩ ⟨15, 2, 3, 0, .i4, .rne, true, true, 0⟩) ∧
    decode 0x30509E21810C0000 = .ok (.vmul ⟨2, true⟩ ⟨15, 2, 3, 0, .i4, .rne, true, true, 0⟩) ∧
    decode 0x3050DE2180400000 = .ok (.vmulh ⟨2, true⟩ ⟨15, 2, 3, 0, .i16, .rne, false, false, 0⟩) ∧
    decode 0x30511E2180400000 = .ok (.vmin ⟨2, true⟩ ⟨15, 2, 3, 0, .i16, .rne, false, false, 0⟩) ∧
    decode 0x30515E2180400000 = .ok (.vmax ⟨2, true⟩ ⟨15, 2, 3, 0, .i16, .rne, false, false, 0⟩) ∧
    decode 0x30519E2000400000 = .ok (.vabs ⟨2, true⟩ ⟨15, 2, 0, 0, .i16, .rne, false, false, 0⟩) := by decide

theorem test_decode_vector_integer_2 :
    decode 0x3051DE2180400000 = .ok (.vand ⟨2, true⟩ ⟨15, 2, 3, 0, .i16, .rne, false, false, 0⟩) ∧
    decode 0x30521E2180400000 = .ok (.vor ⟨2, true⟩ ⟨15, 2, 3, 0, .i16, .rne, false, false, 0⟩) ∧
    decode 0x30525E2180400000 = .ok (.vxor ⟨2, true⟩ ⟨15, 2, 3, 0, .i16, .rne, false, false, 0⟩) ∧
    decode 0x30529E2180400000 = .ok (.vsll ⟨2, true⟩ ⟨15, 2, 3, 0, .i16, .rne, false, false, 0⟩) ∧
    decode 0x3052DE2180400000 = .ok (.vsrl ⟨2, true⟩ ⟨15, 2, 3, 0, .i16, .rne, false, false, 0⟩) ∧
    decode 0x30531E2180400000 = .ok (.vsra ⟨2, true⟩ ⟨15, 2, 3, 0, .i16, .rne, false, false, 0⟩) := by decide

theorem test_decode_vector_float_1 :
    decode 0x3150085301E80000 = .ok (.vfadd ⟨2, true⟩ ⟨4, 5, 6, 0, .bf16, .rdn, true, false, 0⟩) ∧
    decode 0x3150485301E80000 = .ok (.vfsub ⟨2, true⟩ ⟨4, 5, 6, 0, .bf16, .rdn, true, false, 0⟩) ∧
    decode 0x3150885301E80000 = .ok (.vfmul ⟨2, true⟩ ⟨4, 5, 6, 0, .bf16, .rdn, true, false, 0⟩) ∧
    decode 0x3150C8531DE80000 = .ok (.vfma ⟨2, true⟩ ⟨4, 5, 6, 7, .bf16, .rdn, true, false, 0⟩) ∧
    decode 0x3151085301C00000 = .ok (.vfmin ⟨2, true⟩ ⟨4, 5, 6, 0, .bf16, .rne, false, false, 0⟩) ∧
    decode 0x3151485301C00000 = .ok (.vfmax ⟨2, true⟩ ⟨4, 5, 6, 0, .bf16, .rne, false, false, 0⟩) ∧
    decode 0x3151885001C00000 = .ok (.vfabs ⟨2, true⟩ ⟨4, 5, 0, 0, .bf16, .rne, false, false, 0⟩) := by decide

theorem test_decode_vector_float_2 :
    decode 0x3151C85001C00000 = .ok (.vfneg ⟨2, true⟩ ⟨4, 5, 0, 0, .bf16, .rne, false, false, 0⟩) ∧
    decode 0x3152085001E80000 = .ok (.vfrcp ⟨2, true⟩ ⟨4, 5, 0, 0, .bf16, .rdn, true, false, 0⟩) ∧
    decode 0x3152485001E80000 = .ok (.vfrsq ⟨2, true⟩ ⟨4, 5, 0, 0, .bf16, .rdn, true, false, 0⟩) ∧
    decode 0x3152885001E80000 = .ok (.vfexp2 ⟨2, true⟩ ⟨4, 5, 0, 0, .bf16, .rdn, true, false, 0⟩) ∧
    decode 0x3152C85001E80000 = .ok (.vflog2 ⟨2, true⟩ ⟨4, 5, 0, 0, .bf16, .rdn, true, false, 0⟩) := by decide

theorem test_decode_vector_compares :
    decode 0x3250022180860000 = .ok (.vcmp ⟨2, true⟩ ⟨1, 2, 3, 0, .i32, .rne, false, true, 2⟩) ∧
    decode 0x32504E2182010000 = .ok (.vfcmp ⟨2, true⟩ ⟨7, 2, 3, 0, .fp16, .rne, false, false, 1⟩) := by decide

theorem test_decode_vector_moves_1 :
    decode 0x3350022025410000 = .ok (.vcvt ⟨2, true⟩ ⟨1, 2, 0, 9, .fp8a, .rne, false, false, 1⟩) ∧
    decode 0x3350422F801C0000 = .ok (.vscale ⟨2, true⟩ ⟨1, 2, 31, 0, .i8, .rtz, true, true, 0⟩) ∧
    decode 0x335083E001000000 = .ok (.vbcast ⟨2, true⟩ ⟨1, 30, 0, 0, .i4, .rne, false, false, 0⟩) ∧
    decode 0x3350FC1E80040000 = .ok (.vext ⟨2, true⟩ ⟨30, 1, 29, 0, .i8, .rne, false, true, 0⟩) ∧
    decode 0x335103EE80C00000 = .ok (.vins ⟨2, true⟩ ⟨1, 30, 29, 0, .i64, .rne, false, false, 0⟩) ∧
    decode 0x3351422181400000 = .ok (.vperm ⟨2, true⟩ ⟨1, 2, 3, 0, .fp8a, .rne, false, false, 0⟩) ∧
    decode 0x3351822F80800000 = .ok (.vslide ⟨2, true⟩ ⟨1, 2, 31, 0, .i32, .rne, false, false, 0⟩) := by decide

theorem test_decode_vector_moves_2 :
    decode 0x3351C22180010000 = .ok (.vzip ⟨2, true⟩ ⟨1, 2, 3, 0, .i8, .rne, false, false, 1⟩) ∧
    decode 0x3352022180010000 = .ok (.vunzip ⟨2, true⟩ ⟨1, 2, 3, 0, .i8, .rne, false, false, 1⟩) ∧
    decode 0x335242219C400000 = .ok (.vsel ⟨2, true⟩ ⟨1, 2, 3, 7, .i16, .rne, false, false, 0⟩) ∧
    decode 0x3352822000800000 = .ok (.vcompress ⟨2, true⟩ ⟨1, 2, 0, 0, .i32, .rne, false, false, 0⟩) ∧
    decode 0x3352C22000800000 = .ok (.vexpand ⟨2, true⟩ ⟨1, 2, 0, 0, .i32, .rne, false, false, 0⟩) ∧
    decode 0x3353022001000000 = .ok (.vmov ⟨2, true⟩ ⟨1, 2, 0, 0, .i4, .rne, false, false, 0⟩) := by decide

theorem test_decode_reductions :
    decode 0x34503E20010C0000 = .ok (.vredadd ⟨2, true⟩ ⟨31, 2, 0, 0, .i4, .rne, true, true, 0⟩) ∧
    decode 0x34504A2000040000 = .ok (.vredmax ⟨2, true⟩ ⟨5, 2, 0, 0, .i8, .rne, false, true, 0⟩) ∧
    decode 0x34508A2002000000 = .ok (.vredmin ⟨2, true⟩ ⟨5, 2, 0, 0, .fp16, .rne, false, false, 0⟩) ∧
    decode 0x3450CA2002780000 = .ok (.vredfadd ⟨2, true⟩ ⟨5, 2, 0, 0, .fp32, .rup, true, false, 0⟩) ∧
    decode 0x34510A2780080000 = .ok (.vdot ⟨2, true⟩ ⟨5, 2, 15, 0, .i8, .rne, true, false, 0⟩) := by decide

theorem test_decode_matrix_1 :
    decode 0x5050004000000000 = .ok (.mma ⟨2, true⟩ ⟨0, 4, 0, 0, 0, 0, 0⟩) ∧
    decode 0x5050401100000000 = .ok (.mmav ⟨2, true⟩ ⟨0, 1, 2, 0, 0, 0, 0⟩) ∧
    decode 0x5050800000000001 = .ok (.mzero ⟨2, true⟩ ⟨0, 0, 0, 0, 0, 0, 1⟩) ∧
    decode 0x5050C00000000000 = .ok (.mswap ⟨2, true⟩ ⟨0, 0, 0, 0, 0, 0, 0⟩) ∧
    decode 0x5051024000000001 = .ok (.mrd ⟨2, true⟩ ⟨1, 4, 0, 0, 0, 0, 1⟩) ∧
    decode 0x5051404100000001 = .ok (.mwr ⟨2, true⟩ ⟨0, 4, 2, 0, 0, 0, 1⟩) ∧
    decode 0x505180002B010000 = .ok (.mdrain ⟨2, true⟩ ⟨0, 0, 0, 5, 6, 1, 0⟩) := by decide

theorem test_decode_matrix_2 :
    decode 0x5051C04000000000 = .ok (.mcfg ⟨2, true⟩ ⟨0, 4, 0, 0, 0, 0, 0⟩) ∧
    decode 0x5051C04000010000 = .ok (.mcfgGive ⟨2, true⟩ ⟨0, 4, 0, 0, 0, 1, 0⟩) := by decide

theorem test_decode_spindles :
    decode 0x5250001000480003 = .ok (.nred ⟨2, true⟩ ⟨0, 1, 0, 0, 0, 72, 3⟩) ∧
    decode 0x5250440000470002 = .ok (.nres ⟨2, true⟩ ⟨2, 0, 0, 0, 0, 71, 2⟩) ∧
    decode 0x5250800000000002 = .ok (.nclr ⟨2, true⟩ ⟨0, 0, 0, 0, 0, 0, 2⟩) := by decide

theorem test_decode_scratch_1 :
    decode 0x60500642A01FFFFF = .ok (.ld ⟨2, true⟩ ⟨3, 4, 5, 1, .tile, .i8, 1, 1048575⟩) ∧
    decode 0x60504BD0418FFFC0 = .ok (.st ⟨2, true⟩ ⟨5, 29, 0, 2, .tile, .i64, 0, 1048512⟩) ∧
    decode 0x6050824F81800000 = .ok (.vld ⟨2, true⟩ ⟨1, 4, 31, 0, .tile, .i64, 0, 0⟩) ∧
    decode 0x6050C24041800000 = .ok (.vst ⟨2, true⟩ ⟨1, 4, 0, 2, .tile, .i64, 0, 0⟩) ∧
    decode 0x6051024101000000 = .ok (.vldx ⟨2, true⟩ ⟨1, 4, 2, 0, .tile, .i32, 0, 0⟩) ∧
    decode 0x6051424100000000 = .ok (.vstx ⟨2, true⟩ ⟨1, 4, 2, 0, .tile, .i8, 0, 0⟩) ∧
    decode 0x6051824F81800000 = .ok (.vlds ⟨2, true⟩ ⟨1, 4, 31, 0, .tile, .i64, 0, 0⟩) := by decide

theorem test_decode_scratch_2 :
    decode 0x6051C24F80800000 = .ok (.vsts ⟨2, true⟩ ⟨1, 4, 31, 0, .tile, .i16, 0, 0⟩) := by decide

theorem test_decode_global_1 :
    decode 0x70500642B8980000 = .ok (.gld ⟨2, true⟩ ⟨3, 4, 5, 1, .fab, .i16, 1, 524288⟩) ∧
    decode 0x70504A60510FFFF8 = .ok (.gst ⟨2, true⟩ ⟨5, 6, 0, 2, .pkg, .i32, 0, 1048568⟩) ∧
    decode 0x7050824001800040 = .ok (.gvld ⟨2, true⟩ ⟨1, 4, 0, 0, .tile, .i64, 0, 64⟩) ∧
    decode 0x7050C24049800000 = .ok (.gvst ⟨2, true⟩ ⟨1, 4, 0, 2, .die, .i64, 0, 0⟩) ∧
    decode 0x7051064001800000 = .ok (.gldw ⟨2, true⟩ ⟨3, 4, 0, 0, .tile, .i64, 0, 0⟩) ∧
    decode 0x7051464059800000 = .ok (.gstw ⟨2, true⟩ ⟨3, 4, 0, 2, .fab, .i64, 0, 0⟩) ∧
    decode 0x7051804001800008 = .ok (.gprf ⟨2, true⟩ ⟨0, 4, 0, 0, .tile, .i64, 0, 8⟩) := by decide

theorem test_decode_global_2 :
    decode 0x7051C04281800000 = .ok (.pclr ⟨2, true⟩ ⟨0, 4, 5, 0, .tile, .i64, 0, 0⟩) := by decide

theorem test_decode_atomics_1 :
    decode 0x72500042E9100008 = .ok (.amoadd ⟨2, true⟩ ⟨0, 4, 5, 3, .die, .i32, 1, 8⟩) ∧
    decode 0x72504042EC100008 = .ok (.amofadd ⟨2, true⟩ ⟨0, 4, 5, 3, .die, .fp16, 1, 8⟩) ∧
    decode 0x72508042E9100008 = .ok (.amomin ⟨2, true⟩ ⟨0, 4, 5, 3, .die, .i32, 1, 8⟩) ∧
    decode 0x7250C042E9100008 = .ok (.amomax ⟨2, true⟩ ⟨0, 4, 5, 3, .die, .i32, 1, 8⟩) ∧
    decode 0x72510042E9100008 = .ok (.amominu ⟨2, true⟩ ⟨0, 4, 5, 3, .die, .i32, 1, 8⟩) ∧
    decode 0x72514042E9100008 = .ok (.amomaxu ⟨2, true⟩ ⟨0, 4, 5, 3, .die, .i32, 1, 8⟩) ∧
    decode 0x72518042E9100008 = .ok (.amoand ⟨2, true⟩ ⟨0, 4, 5, 3, .die, .i32, 1, 8⟩) := by decide

theorem test_decode_atomics_2 :
    decode 0x7251C042E9100008 = .ok (.amoor ⟨2, true⟩ ⟨0, 4, 5, 3, .die, .i32, 1, 8⟩) ∧
    decode 0x72520042E9100008 = .ok (.amoxor ⟨2, true⟩ ⟨0, 4, 5, 3, .die, .i32, 1, 8⟩) ∧
    decode 0x72524042E9100008 = .ok (.amoswap ⟨2, true⟩ ⟨0, 4, 5, 3, .die, .i32, 1, 8⟩) ∧
    decode 0x7252864281000000 = .ok (.amocas ⟨2, true⟩ ⟨3, 4, 5, 0, .tile, .i32, 0, 0⟩) ∧
    decode 0x7252C64281A00000 = .ok (.amocall ⟨2, true⟩ ⟨3, 4, 5, 0, .tile, .i64, 2, 0⟩) := by decide

theorem test_decode_fences :
    decode 0x7450000010000000 = .ok (.fence ⟨2, true⟩ ⟨0, 0, 0, 0, .pkg, .i8, 0, 0⟩) ∧
    decode 0x7450400018000000 = .ok (.fencex ⟨2, true⟩ ⟨0, 0, 0, 0, .fab, .i8, 0, 0⟩) := by decide

theorem test_decode_channels_1 :
    decode 0x8050005008500000 = .ok (.send ⟨2, true⟩ ⟨0, 5, 0, 1, 0, 80, 0⟩) ∧
    decode 0x8050401078000000 = .ok (.vsend ⟨2, true⟩ ⟨0, 1, 0, 15, 0, 0, 0⟩) ∧
    decode 0x8050860010280000 = .ok (.recv ⟨2, true⟩ ⟨3, 0, 0, 2, 0, 40, 0⟩) ∧
    decode 0x8050DE0010000000 = .ok (.vrecv ⟨2, true⟩ ⟨15, 0, 0, 2, 0, 0, 0⟩) ∧
    decode 0x805100600D000000 = .ok (.tsend ⟨2, true⟩ ⟨0, 6, 0, 1, 10, 0, 0⟩) ∧
    decode 0x8051480008000000 = .ok (.tpeek ⟨2, true⟩ ⟨4, 0, 0, 1, 0, 0, 0⟩) ∧
    decode 0x8051840010000000 = .ok (.trecv ⟨2, true⟩ ⟨2, 0, 0, 2, 0, 0, 0⟩) := by decide

theorem test_decode_channels_2 :
    decode 0x8051C20006000000 = .ok (.chk ⟨2, true⟩ ⟨1, 0, 0, 0, 12, 0, 0⟩) ∧
    decode 0x8052000018020011 = .ok (.bind ⟨2, true⟩ ⟨0, 0, 0, 3, 0, 2, 17⟩) ∧
    decode 0x8052400018000000 = .ok (.unbind ⟨2, true⟩ ⟨0, 0, 0, 3, 0, 0, 0⟩) := by decide

theorem test_decode_streams :
    decode 0x8250004000000002 = .ok (.agrun ⟨2, true⟩ ⟨0, 4, 0, 0, 0, 0, 2⟩) ∧
    decode 0x8250400000000003 = .ok (.agstop ⟨2, true⟩ ⟨0, 0, 0, 0, 0, 0, 3⟩) ∧
    decode 0x8250860000000002 = .ok (.agstat ⟨2, true⟩ ⟨3, 0, 0, 0, 0, 0, 2⟩) := by decide

theorem test_decode_counters :
    decode 0x9050004180008000 = .ok (.gadv ⟨2, true⟩ ⟨0, 4, 3, 0, 0, 0, 32768⟩) ∧
    decode 0x9050404180000000 = .ok (.gset ⟨2, true⟩ ⟨0, 4, 3, 0, 0, 0, 0⟩) ∧
    decode 0x90508A0780020000 = .ok (.gget ⟨2, true⟩ ⟨5, 0, 15, 0, 0, 2, 0⟩) ∧
    decode 0x9050C00100000040 = .ok (.gwait ⟨2, true⟩ ⟨0, 0, 2, 0, 0, 0, 64⟩) ∧
    decode 0x9051004180000000 = .ok (.grate ⟨2, true⟩ ⟨0, 4, 3, 0, 0, 0, 0⟩) ∧
    decode 0x90514A0000000003 = .ok (.glate ⟨2, true⟩ ⟨5, 0, 0, 0, 0, 0, 3⟩) ∧
    decode 0x90514A0000010000 = .ok (.glatePop ⟨2, true⟩ ⟨5, 0, 0, 0, 0, 1, 0⟩) := by decide

theorem test_decode_transfers :
    decode 0x92500A800051003F = .ok (.xfer ⟨2, true⟩ ⟨5, 8, 0, 0, 0, 81, 63⟩) ∧
    decode 0x92504A8000000003 = .ok (.xvia ⟨2, true⟩ ⟨5, 8, 0, 0, 0, 0, 3⟩) ∧
    decode 0x92508A8480000003 = .ok (.xgath ⟨2, true⟩ ⟨5, 8, 9, 0, 0, 0, 3⟩) ∧
    decode 0x9250CA8480000003 = .ok (.xscat ⟨2, true⟩ ⟨5, 8, 9, 0, 0, 0, 3⟩) ∧
    decode 0x9251005000000000 = .ok (.xcancel ⟨2, true⟩ ⟨0, 5, 0, 0, 0, 0, 0⟩) ∧
    decode 0x92514C5000000000 = .ok (.xstat ⟨2, true⟩ ⟨6, 5, 0, 0, 0, 0, 0⟩) := by decide

theorem test_decode_barriers_1 :
    decode 0xA0500A0080000000 = .ok (.baralloc ⟨2, true⟩ ⟨5, 0, 1, 0, 0, 0, 0⟩) ∧
    decode 0xA050405000000000 = .ok (.barfree ⟨2, true⟩ ⟨0, 5, 0, 0, 0, 0, 0⟩) ∧
    decode 0xA050805000000000 = .ok (.barref ⟨2, true⟩ ⟨0, 5, 0, 0, 0, 0, 0⟩) ∧
    decode 0xA050C05300000000 = .ok (.barinit ⟨2, true⟩ ⟨0, 5, 6, 0, 0, 0, 0⟩) ∧
    decode 0xA0510E5000480001 = .ok (.barrive ⟨2, true⟩ ⟨7, 5, 0, 0, 0, 72, 1⟩) ∧
    decode 0xA051405300000000 = .ok (.barexp ⟨2, true⟩ ⟨0, 5, 6, 0, 0, 0, 0⟩) ∧
    decode 0xA051805380280000 = .ok (.barwait ⟨2, true⟩ ⟨0, 5, 7, 0, 0, 40, 0⟩) := by decide

theorem test_decode_barriers_2 :
    decode 0xA051D05380000000 = .ok (.bartest ⟨2, true⟩ ⟨8, 5, 7, 0, 0, 0, 0⟩) := by decide

theorem test_decode_bales :
    decode 0xA4500A0080000000 = .ok (.blopen ⟨2, true⟩ ⟨5, 0, 1, 0, 0, 0, 0⟩) ∧
    decode 0xA450405000000000 = .ok (.blseal ⟨2, true⟩ ⟨0, 5, 0, 0, 0, 0, 0⟩) ∧
    decode 0xA4508C5000000000 = .ok (.blcommit ⟨2, true⟩ ⟨6, 5, 0, 0, 0, 0, 0⟩) ∧
    decode 0xA450C05000000000 = .ok (.blabort ⟨2, true⟩ ⟨0, 5, 0, 0, 0, 0, 0⟩) ∧
    decode 0xA4510C5000000000 = .ok (.blwait ⟨2, true⟩ ⟨6, 5, 0, 0, 0, 0, 0⟩) ∧
    decode 0xA4514C5000000000 = .ok (.blstat ⟨2, true⟩ ⟨6, 5, 0, 0, 0, 0, 0⟩) := by decide

theorem test_decode_bale_stores :
    decode 0xA5500A6481000008 = .ok (.blst ⟨2, true⟩ ⟨5, 6, 9, 0, .tile, .i32, 0, 8⟩) ∧
    decode 0xA550446481800000 = .ok (.blvst ⟨2, true⟩ ⟨2, 6, 9, 0, .tile, .i64, 0, 0⟩) := by decide

theorem test_decode_reels :
    decode 0xB050004280000000 = .ok (.scroll ⟨2, true⟩ ⟨0, 4, 5, 0, 0, 0, 0⟩) ∧
    decode 0xB0500C0000010000 = .ok (.scrollQ ⟨2, true⟩ ⟨6, 0, 0, 0, 0, 1, 0⟩) ∧
    decode 0xB0504E0000000000 = .ok (.stsave ⟨2, true⟩ ⟨7, 0, 0, 0, 0, 0, 0⟩) ∧
    decode 0xB0508E0000000000 = .ok (.stload ⟨2, true⟩ ⟨7, 0, 0, 0, 0, 0, 0⟩) ∧
    decode 0xB050C08018000000 = .ok (.cfgw ⟨2, true⟩ ⟨0, 8, 0, 3, 0, 0, 0⟩) ∧
    decode 0xB051000000000000 = .ok (.cfgswap ⟨2, true⟩ ⟨0, 0, 0, 0, 0, 0, 0⟩) := by decide

theorem test_decode_system_1 :
    decode 0xC0500E0001100000 = .ok (.sysrd ⟨2, true⟩ ⟨7, 0, 17⟩) ∧
    decode 0xC050405002200000 = .ok (.syswr ⟨2, true⟩ ⟨0, 5, 34⟩) ∧
    decode 0xC050405002400000 = .ok (.horizonWrite ⟨2, true⟩ ⟨0, 5, 36⟩) ∧
    decode 0xC050405002300000 = .ok (.evpendWrite ⟨2, true⟩ ⟨0, 5, 35⟩) ∧
    decode 0xC050800000500000 = .ok (.trap ⟨2, true⟩ ⟨0, 0, 5⟩) ∧
    decode 0xC050C00000000000 = .ok (.eret ⟨2, true⟩ ⟨0, 0, 0⟩) ∧
    decode 0xC051000000700000 = .ok (.ebrk ⟨2, true⟩ ⟨0, 0, 7⟩) := by decide

theorem test_decode_system_2 :
    decode 0xC051405000000000 = .ok (.wfe ⟨2, true⟩ ⟨0, 5, 0⟩) ∧
    decode 0xC051804000100000 = .ok (.tlbinv ⟨2, true⟩ ⟨0, 4, 1⟩) ∧
    decode 0xC051C00000000000 = .ok (.chalt ⟨2, true⟩ ⟨0, 0, 0⟩) ∧
    decode 0xC052004000000000 = .ok (.cresume ⟨2, true⟩ ⟨0, 4, 0⟩) := by decide

/-! Words that the spec writes out beside their instructions (R26, R60, R137, R152, R204, R223, R268, R273, R306, R327, R355,
R368, R377, R401). -/

def decodes (l : List (Word × Instr)) : Bool := l.all fun p => (decode p.1).toOption == some p.2

theorem test_manual_words_scalar : decodes [
    (0x1000064280C00000, .add ⟨0, false⟩ ⟨3, 4, 5, 0, .i64, .rne, false, false, 0⟩),
    (0x11000633FFFFFFFF, .addi ⟨0, false⟩ ⟨3, 3, .i64, 0xffffffff⟩),
    (0x1102460000000064, .li ⟨0, false⟩ ⟨3, 0, .i8, 100⟩),
    (0x1201C24280C20000, .icmp ⟨0, false⟩ ⟨1, 4, 5, 0, .i64, .rne, false, false, 2⟩),
    (0x1400CC7426400000, .fma ⟨0, false⟩ ⟨6, 7, 8, 9, .fp32, .rne, false, false, 0⟩),
    (0x1300903298C00000, .clamp ⟨0, false⟩ ⟨8, 3, 5, 6, .i64, .rne, false, false, 0⟩),
    (0x1005900400C00000, .sltu ⟨0, false⟩ ⟨8, 0, 8, 0, .i64, .rne, false, false, 0⟩),
    (0x1101863300000001, .srai ⟨0, false⟩ ⟨3, 3, .i64, 1⟩),
    (0x1201425000000000, .pfrom ⟨0, false⟩ ⟨1, 5, 0, 0, .i8, .rne, false, false, 0⟩)] = true := by decide +kernel

theorem test_manual_words_vector : decodes [
    (0x3150022181C00000, .vfadd ⟨2, true⟩ ⟨1, 2, 3, 0, .bf16, .rne, false, false, 0⟩),
    (0x3000022180800000, .vadd ⟨0, false⟩ ⟨1, 2, 3, 0, .i32, .rne, false, false, 0⟩),
    (0x3100C8531DC00000, .vfma ⟨0, false⟩ ⟨4, 5, 6, 7, .bf16, .rne, false, false, 0⟩),
    (0x3200022180820000, .vcmp ⟨0, false⟩ ⟨1, 2, 3, 0, .i32, .rne, false, false, 2⟩),
    (0x3300022025400000, .vcvt ⟨0, false⟩ ⟨1, 2, 0, 9, .fp8a, .rne, false, false, 0⟩),
    (0x3300022025410000, .vcvt ⟨0, false⟩ ⟨1, 2, 0, 9, .fp8a, .rne, false, false, 1⟩),
    (0x3420CA2002400000, .vredfadd ⟨1, false⟩ ⟨5, 2, 0, 0, .fp32, .rne, false, false, 0⟩),
    (0x3300823000C00000, .vbcast ⟨0, false⟩ ⟨1, 3, 0, 0, .i64, .rne, false, false, 0⟩),
    (0x3102821001C00000, .vfexp2 ⟨0, false⟩ ⟨1, 1, 0, 0, .bf16, .rne, false, false, 0⟩),
    (0x3300C61000C00000, .vext ⟨0, false⟩ ⟨3, 1, 0, 0, .i64, .rne, false, false, 0⟩),
    (0x330002101E400000, .vcvt ⟨0, false⟩ ⟨1, 1, 0, 7, .fp32, .rne, false, false, 0⟩)] = true := by decide +kernel

theorem test_manual_words_scratch : decodes [
    (0x6000064001000010, .ld ⟨0, false⟩ ⟨3, 4, 0, 0, .tile, .i32, 0, 16⟩),
    (0x60004BD0418FFFC0, .st ⟨0, false⟩ ⟨5, 29, 0, 2, .tile, .i64, 0, 0xfffc0⟩),
    (0x6001024101000000, .vldx ⟨0, false⟩ ⟨1, 4, 2, 0, .tile, .i32, 0, 0⟩),
    (0x6001824281800000, .vlds ⟨0, false⟩ ⟨1, 4, 5, 0, .tile, .i64, 0, 0⟩)] = true := by decide +kernel

theorem test_manual_words_control : decodes [
    (0x0101180000000004, .beq ⟨0, false⟩ ⟨3, 0, 4⟩),
    (0x02003E0000000005, .jal ⟨0, false⟩ ⟨31, 0, .i8, 5⟩),
    (0x020041F000000000, .jalr ⟨0, false⟩ ⟨0, 31, .i8, 0⟩),
    (0x0200800000000000, .yield ⟨0, false⟩ ⟨0, 0, .i8, 0⟩),
    (0x0201000000000000, .nop ⟨0, false⟩ ⟨0, 0, .i8, 0⟩),
    (0x0200C00000000000, .park ⟨0, false⟩ ⟨0, 0, .i8, 0⟩)] = true := by decide +kernel

theorem test_manual_words_channel : decodes [
    (0x8000840000000000, .recv ⟨0, false⟩ ⟨2, 0, 0, 0, 0, 0, 0⟩),
    (0x8000860010280000, .recv ⟨0, false⟩ ⟨3, 0, 0, 2, 0, 40, 0⟩),
    (0x8000401008000000, .vsend ⟨0, false⟩ ⟨0, 1, 0, 1, 0, 0, 0⟩),
    (0x800100000A800000, .tsend ⟨0, false⟩ ⟨0, 0, 0, 1, 5, 0, 0⟩),
    (0x8001C20002800000, .chk ⟨0, false⟩ ⟨1, 0, 0, 0, 5, 0, 0⟩),
    (0x8002000018020011, .bind ⟨0, false⟩ ⟨0, 0, 0, 3, 0, 2, 17⟩),
    (0x8200004000000002, .agrun ⟨0, false⟩ ⟨0, 4, 0, 0, 0, 0, 2⟩),
    (0x8200860000000002, .agstat ⟨0, false⟩ ⟨3, 0, 0, 0, 0, 0, 2⟩),
    (0x8001840010000000, .trecv ⟨0, false⟩ ⟨2, 0, 0, 2, 0, 0, 0⟩),
    (0x8001480008000000, .tpeek ⟨0, false⟩ ⟨4, 0, 0, 1, 0, 0, 0⟩)] = true := by decide +kernel

theorem test_manual_words_matrix : decodes [
    (0x5000004000000000, .mma ⟨0, false⟩ ⟨0, 4, 0, 0, 0, 0, 0⟩),
    (0x5000401100000000, .mmav ⟨0, false⟩ ⟨0, 1, 2, 0, 0, 0, 0⟩),
    (0x5000800000000001, .mzero ⟨0, false⟩ ⟨0, 0, 0, 0, 0, 0, 1⟩),
    (0x5000C00000000000, .mswap ⟨0, false⟩ ⟨0, 0, 0, 0, 0, 0, 0⟩),
    (0x5001024000000001, .mrd ⟨0, false⟩ ⟨1, 4, 0, 0, 0, 0, 1⟩),
    (0x5001404100000001, .mwr ⟨0, false⟩ ⟨0, 4, 2, 0, 0, 0, 1⟩),
    (0x500180002B010000, .mdrain ⟨0, false⟩ ⟨0, 0, 0, 5, 6, 1, 0⟩),
    (0x5001C04000010000, .mcfgGive ⟨0, false⟩ ⟨0, 4, 0, 0, 0, 1, 0⟩),
    (0x5200001000480002, .nred ⟨0, false⟩ ⟨0, 1, 0, 0, 0, 72, 2⟩),
    (0x5200440000480002, .nres ⟨0, false⟩ ⟨2, 0, 0, 0, 0, 72, 2⟩),
    (0x5200800000000002, .nclr ⟨0, false⟩ ⟨0, 0, 0, 0, 0, 0, 2⟩),
    (0x5001C0E000000000, .mcfg ⟨0, false⟩ ⟨0, 14, 0, 0, 0, 0, 0⟩)] = true := by decide +kernel

theorem test_manual_words_progress : decodes [
    (0x9000004180000010, .gadv ⟨0, false⟩ ⟨0, 4, 3, 0, 0, 0, 16⟩),
    (0x9000404180000000, .gset ⟨0, false⟩ ⟨0, 4, 3, 0, 0, 0, 0⟩),
    (0x90008A0180010000, .gget ⟨0, false⟩ ⟨5, 0, 3, 0, 0, 1, 0⟩),
    (0x9000C00100000040, .gwait ⟨0, false⟩ ⟨0, 0, 2, 0, 0, 0, 64⟩),
    (0x9001004180000000, .grate ⟨0, false⟩ ⟨0, 4, 3, 0, 0, 0, 0⟩),
    (0x90014A0000010000, .glatePop ⟨0, false⟩ ⟨5, 0, 0, 0, 0, 1, 0⟩),
    (0x92000A8000500003, .xfer ⟨0, false⟩ ⟨5, 8, 0, 0, 0, 80, 3⟩),
    (0x92004A8000000003, .xvia ⟨0, false⟩ ⟨5, 8, 0, 0, 0, 0, 3⟩),
    (0x92008A8480000003, .xgath ⟨0, false⟩ ⟨5, 8, 9, 0, 0, 0, 3⟩),
    (0x9200CA8480000003, .xscat ⟨0, false⟩ ⟨5, 8, 9, 0, 0, 0, 3⟩),
    (0x9201005000000000, .xcancel ⟨0, false⟩ ⟨0, 5, 0, 0, 0, 0, 0⟩),
    (0x92014C5000000000, .xstat ⟨0, false⟩ ⟨6, 5, 0, 0, 0, 0, 0⟩)] = true := by decide +kernel

theorem test_manual_words_global : decodes [
    (0x7000824001800040, .gvld ⟨0, false⟩ ⟨1, 4, 0, 0, .tile, .i64, 0, 64⟩),
    (0x7001064001800000, .gldw ⟨0, false⟩ ⟨3, 4, 0, 0, .tile, .i64, 0, 0⟩),
    (0x7001C04281800000, .pclr ⟨0, false⟩ ⟨0, 4, 5, 0, .tile, .i64, 0, 0⟩),
    (0x72000642E9800008, .amoadd ⟨0, false⟩ ⟨3, 4, 5, 3, .die, .i64, 0, 8⟩),
    (0x7202864281000000, .amocas ⟨0, false⟩ ⟨3, 4, 5, 0, .tile, .i32, 0, 0⟩),
    (0x7202C64281A00000, .amocall ⟨0, false⟩ ⟨3, 4, 5, 0, .tile, .i64, 2, 0⟩),
    (0x7400000010000000, .fence ⟨0, false⟩ ⟨0, 0, 0, 0, .pkg, .i8, 0, 0⟩),
    (0x7400400018000000, .fencex ⟨0, false⟩ ⟨0, 0, 0, 0, .fab, .i8, 0, 0⟩)] = true := by decide +kernel

theorem test_manual_words_barrier_and_bale : decodes [
    (0xA0000A0080000000, .baralloc ⟨0, false⟩ ⟨5, 0, 1, 0, 0, 0, 0⟩),
    (0xA000405000000000, .barfree ⟨0, false⟩ ⟨0, 5, 0, 0, 0, 0, 0⟩),
    (0xA000805000000000, .barref ⟨0, false⟩ ⟨0, 5, 0, 0, 0, 0, 0⟩),
    (0xA000C05300000000, .barinit ⟨0, false⟩ ⟨0, 5, 6, 0, 0, 0, 0⟩),
    (0xA0010E5000480001, .barrive ⟨0, false⟩ ⟨7, 5, 0, 0, 0, 72, 1⟩),
    (0xA001405300000000, .barexp ⟨0, false⟩ ⟨0, 5, 6, 0, 0, 0, 0⟩),
    (0xA001805380280000, .barwait ⟨0, false⟩ ⟨0, 5, 7, 0, 0, 40, 0⟩),
    (0xA001D05380000000, .bartest ⟨0, false⟩ ⟨8, 5, 7, 0, 0, 0, 0⟩),
    (0xA5000A6481000008, .blst ⟨0, false⟩ ⟨5, 6, 9, 0, .tile, .i32, 0, 8⟩),
    (0xA500446481800000, .blvst ⟨0, false⟩ ⟨2, 6, 9, 0, .tile, .i64, 0, 0⟩),
    (0xA4000A0080000000, .blopen ⟨0, false⟩ ⟨5, 0, 1, 0, 0, 0, 0⟩),
    (0xA400405000000000, .blseal ⟨0, false⟩ ⟨0, 5, 0, 0, 0, 0, 0⟩),
    (0xA4008C5000000000, .blcommit ⟨0, false⟩ ⟨6, 5, 0, 0, 0, 0, 0⟩),
    (0xA400C05000000000, .blabort ⟨0, false⟩ ⟨0, 5, 0, 0, 0, 0, 0⟩),
    (0xA4010C5000000000, .blwait ⟨0, false⟩ ⟨6, 5, 0, 0, 0, 0, 0⟩),
    (0xA4014C5000000000, .blstat ⟨0, false⟩ ⟨6, 5, 0, 0, 0, 0, 0⟩)] = true := by decide +kernel

theorem test_manual_words_reel : decodes [
    (0xB000004280000000, .scroll ⟨0, false⟩ ⟨0, 4, 5, 0, 0, 0, 0⟩),
    (0xB0000C0000010000, .scrollQ ⟨0, false⟩ ⟨6, 0, 0, 0, 0, 1, 0⟩),
    (0xB0004E0000000000, .stsave ⟨0, false⟩ ⟨7, 0, 0, 0, 0, 0, 0⟩),
    (0xB0008E0000000000, .stload ⟨0, false⟩ ⟨7, 0, 0, 0, 0, 0, 0⟩),
    (0xB000C08018000000, .cfgw ⟨0, false⟩ ⟨0, 8, 0, 3, 0, 0, 0⟩),
    (0xB001000000000000, .cfgswap ⟨0, false⟩ ⟨0, 0, 0, 0, 0, 0, 0⟩)] = true := by decide +kernel

theorem test_manual_words_system : decodes [
    (0xC001804000100000, .tlbinv ⟨0, false⟩ ⟨0, 4, 1⟩)] = true := by decide +kernel
/-- A term that the well-formedness check refuses. -/
def ill (i : Instr) : Bool := !i.wf

theorem test_wf_scalar_types_1 : [
      (.add ⟨0, false⟩ ⟨0, 0, 0, 0, .fp32, .rne, false, false, 0⟩),
      (.sub ⟨0, false⟩ ⟨0, 0, 0, 0, .i4, .rne, false, false, 0⟩),
      (.mul ⟨0, false⟩ ⟨0, 0, 0, 0, .fp8a, .rne, false, false, 0⟩),
      (.mulh ⟨0, false⟩ ⟨0, 0, 0, 0, .bf16, .rne, false, false, 0⟩),
      (.mulhu ⟨0, false⟩ ⟨0, 0, 0, 0, .fp32, .rne, false, false, 0⟩),
      (.div ⟨0, false⟩ ⟨0, 0, 0, 0, .i4, .rne, false, false, 0⟩),
      (.divu ⟨0, false⟩ ⟨0, 0, 0, 0, .fp8a, .rne, false, false, 0⟩),
      (.rem ⟨0, false⟩ ⟨0, 0, 0, 0, .bf16, .rne, false, false, 0⟩),
      (.remu ⟨0, false⟩ ⟨0, 0, 0, 0, .fp32, .rne, false, false, 0⟩),
      (.and ⟨0, false⟩ ⟨0, 0, 0, 0, .i4, .rne, false, false, 0⟩),
      (.or ⟨0, false⟩ ⟨0, 0, 0, 0, .fp8a, .rne, false, false, 0⟩),
      (.xor ⟨0, false⟩ ⟨0, 0, 0, 0, .bf16, .rne, false, false, 0⟩),
      (.andn ⟨0, false⟩ ⟨0, 0, 0, 0, .fp32, .rne, false, false, 0⟩),
      (.sll ⟨0, false⟩ ⟨0, 0, 0, 0, .i4, .rne, false, false, 0⟩),
      (.srl ⟨0, false⟩ ⟨0, 0, 0, 0, .fp8a, .rne, false, false, 0⟩),
      (.sra ⟨0, false⟩ ⟨0, 0, 0, 0, .bf16, .rne, false, false, 0⟩)].all ill = true := by decide

theorem test_wf_scalar_types_2 : [
      (.rol ⟨0, false⟩ ⟨0, 0, 0, 0, .fp32, .rne, false, false, 0⟩),
      (.min ⟨0, false⟩ ⟨0, 0, 0, 0, .i4, .rne, false, false, 0⟩),
      (.max ⟨0, false⟩ ⟨0, 0, 0, 0, .fp8a, .rne, false, false, 0⟩),
      (.minu ⟨0, false⟩ ⟨0, 0, 0, 0, .bf16, .rne, false, false, 0⟩),
      (.maxu ⟨0, false⟩ ⟨0, 0, 0, 0, .fp32, .rne, false, false, 0⟩),
      (.slt ⟨0, false⟩ ⟨0, 0, 0, 0, .i4, .rne, false, false, 0⟩),
      (.sltu ⟨0, false⟩ ⟨0, 0, 0, 0, .fp8a, .rne, false, false, 0⟩),
      (.sel ⟨0, false⟩ ⟨0, 0, 0, 0, .bf16, .rne, false, false, 0⟩),
      (.clz ⟨0, false⟩ ⟨0, 0, 0, 0, .fp32, .rne, false, false, 0⟩),
      (.ctz ⟨0, false⟩ ⟨0, 0, 0, 0, .i4, .rne, false, false, 0⟩),
      (.popc ⟨0, false⟩ ⟨0, 0, 0, 0, .fp8a, .rne, false, false, 0⟩),
      (.brev ⟨0, false⟩ ⟨0, 0, 0, 0, .bf16, .rne, false, false, 0⟩),
      (.icmp ⟨0, false⟩ ⟨0, 0, 0, 0, .fp32, .rne, false, false, 0⟩),
      (.clamp ⟨0, false⟩ ⟨0, 0, 0, 0, .i4, .rne, false, false, 0⟩),
      (.vmulh ⟨0, false⟩ ⟨0, 0, 0, 0, .fp8a, .rne, false, false, 0⟩),
      (.vcmp ⟨0, false⟩ ⟨0, 0, 0, 0, .bf16, .rne, false, false, 0⟩)].all ill = true := by decide

theorem test_wf_vector_types : [
      (.vadd ⟨0, false⟩ ⟨0, 0, 0, 0, .fp32, .rne, false, false, 0⟩),
      (.vsub ⟨0, false⟩ ⟨0, 0, 0, 0, .fp8b, .rne, false, false, 0⟩),
      (.vmul ⟨0, false⟩ ⟨0, 0, 0, 0, .bf16, .rne, false, false, 0⟩),
      (.vmin ⟨0, false⟩ ⟨0, 0, 0, 0, .fp32, .rne, false, false, 0⟩),
      (.vmax ⟨0, false⟩ ⟨0, 0, 0, 0, .fp8b, .rne, false, false, 0⟩),
      (.vabs ⟨0, false⟩ ⟨0, 0, 0, 0, .bf16, .rne, false, false, 0⟩),
      (.vand ⟨0, false⟩ ⟨0, 0, 0, 0, .fp32, .rne, false, false, 0⟩),
      (.vor ⟨0, false⟩ ⟨0, 0, 0, 0, .fp8b, .rne, false, false, 0⟩),
      (.vxor ⟨0, false⟩ ⟨0, 0, 0, 0, .bf16, .rne, false, false, 0⟩),
      (.vsll ⟨0, false⟩ ⟨0, 0, 0, 0, .fp32, .rne, false, false, 0⟩),
      (.vsrl ⟨0, false⟩ ⟨0, 0, 0, 0, .fp8b, .rne, false, false, 0⟩),
      (.vsra ⟨0, false⟩ ⟨0, 0, 0, 0, .bf16, .rne, false, false, 0⟩),
      (.vredadd ⟨0, false⟩ ⟨0, 0, 0, 0, .fp32, .rne, false, false, 0⟩)].all ill = true := by decide

theorem test_wf_float_types_1 : [
      (.fadd ⟨0, false⟩ ⟨0, 0, 0, 0, .i32, .rne, false, false, 0⟩),
      (.fsub ⟨0, false⟩ ⟨0, 0, 0, 0, .fp8a, .rne, false, false, 0⟩),
      (.fmul ⟨0, false⟩ ⟨0, 0, 0, 0, .i4, .rne, false, false, 0⟩),
      (.fma ⟨0, false⟩ ⟨0, 0, 0, 0, .i64, .rne, false, false, 0⟩),
      (.fdiv ⟨0, false⟩ ⟨0, 0, 0, 0, .i32, .rne, false, false, 0⟩),
      (.fsqrt ⟨0, false⟩ ⟨0, 0, 0, 0, .fp8a, .rne, false, false, 0⟩),
      (.fmin ⟨0, false⟩ ⟨0, 0, 0, 0, .i4, .rne, false, false, 0⟩),
      (.fmax ⟨0, false⟩ ⟨0, 0, 0, 0, .i64, .rne, false, false, 0⟩),
      (.fcmp ⟨0, false⟩ ⟨0, 0, 0, 0, .i32, .rne, false, false, 0⟩),
      (.fsgnj ⟨0, false⟩ ⟨0, 0, 0, 0, .fp8a, .rne, false, false, 0⟩),
      (.vfadd ⟨0, false⟩ ⟨0, 0, 0, 0, .i4, .rne, false, false, 0⟩),
      (.vfsub ⟨0, false⟩ ⟨0, 0, 0, 0, .i64, .rne, false, false, 0⟩)].all ill = true := by decide

theorem test_wf_float_types_2 : [
      (.vfmul ⟨0, false⟩ ⟨0, 0, 0, 0, .i32, .rne, false, false, 0⟩),
      (.vfma ⟨0, false⟩ ⟨0, 0, 0, 0, .fp8a, .rne, false, false, 0⟩),
      (.vfmin ⟨0, false⟩ ⟨0, 0, 0, 0, .i4, .rne, false, false, 0⟩),
      (.vfmax ⟨0, false⟩ ⟨0, 0, 0, 0, .i64, .rne, false, false, 0⟩),
      (.vfabs ⟨0, false⟩ ⟨0, 0, 0, 0, .i32, .rne, false, false, 0⟩),
      (.vfneg ⟨0, false⟩ ⟨0, 0, 0, 0, .fp8a, .rne, false, false, 0⟩),
      (.vfrcp ⟨0, false⟩ ⟨0, 0, 0, 0, .i4, .rne, false, false, 0⟩),
      (.vfrsq ⟨0, false⟩ ⟨0, 0, 0, 0, .i64, .rne, false, false, 0⟩),
      (.vfexp2 ⟨0, false⟩ ⟨0, 0, 0, 0, .i32, .rne, false, false, 0⟩),
      (.vflog2 ⟨0, false⟩ ⟨0, 0, 0, 0, .fp8a, .rne, false, false, 0⟩),
      (.vfcmp ⟨0, false⟩ ⟨0, 0, 0, 0, .i4, .rne, false, false, 0⟩),
      (.vredfadd ⟨0, false⟩ ⟨0, 0, 0, 0, .i64, .rne, false, false, 0⟩),
      (.fclass ⟨0, false⟩ ⟨0, 0, 0, 0, .i32, .rne, false, false, 0⟩),
      (.vredmax ⟨0, false⟩ ⟨0, 0, 0, 0, .fp8a, .rne, false, false, 0⟩),
      (.vredmin ⟨0, false⟩ ⟨0, 0, 0, 0, .fp8b, .rne, false, false, 0⟩),
      (.vdot ⟨0, false⟩ ⟨0, 0, 0, 0, .fp8a, .rne, false, false, 0⟩)].all ill = true := by decide

theorem test_wf_types_without_i4 : [
      (.fcvt ⟨0, false⟩ ⟨0, 0, 0, 0, .i4, .rne, false, false, 0⟩),
      (.vscale ⟨0, false⟩ ⟨0, 0, 0, 0, .i4, .rne, false, false, 0⟩),
      (.vperm ⟨0, false⟩ ⟨0, 0, 0, 0, .i4, .rne, false, false, 0⟩),
      (.vslide ⟨0, false⟩ ⟨0, 0, 0, 0, .i4, .rne, false, false, 0⟩),
      (.vzip ⟨0, false⟩ ⟨0, 0, 0, 0, .i4, .rne, false, false, 0⟩),
      (.vunzip ⟨0, false⟩ ⟨0, 0, 0, 0, .i4, .rne, false, false, 0⟩),
      (.vcompress ⟨0, false⟩ ⟨0, 0, 0, 0, .i4, .rne, false, false, 0⟩),
      (.vexpand ⟨0, false⟩ ⟨0, 0, 0, 0, .i4, .rne, false, false, 0⟩)].all ill = true := by decide

theorem test_wf_no_type : [
      (.pand ⟨0, false⟩ ⟨0, 0, 0, 0, .i64, .rne, false, false, 0⟩),
      (.por ⟨0, false⟩ ⟨0, 0, 0, 0, .i64, .rne, false, false, 0⟩),
      (.pxor ⟨0, false⟩ ⟨0, 0, 0, 0, .i64, .rne, false, false, 0⟩),
      (.pandn ⟨0, false⟩ ⟨0, 0, 0, 0, .i64, .rne, false, false, 0⟩),
      (.pnot ⟨0, false⟩ ⟨0, 0, 0, 0, .i64, .rne, false, false, 0⟩),
      (.pfrom ⟨0, false⟩ ⟨0, 0, 0, 0, .i64, .rne, false, false, 0⟩),
      (.pto ⟨0, false⟩ ⟨0, 0, 0, 0, .i64, .rne, false, false, 0⟩),
      (.lea ⟨0, false⟩ ⟨0, 0, 0, 0, .i64, .rne, false, false, 0⟩),
      (.sbank ⟨0, false⟩ ⟨0, 0, 0, 0, .i64, .rne, false, false, 0⟩)].all ill = true := by decide

theorem test_wf_registers : [
      (.pand ⟨0, false⟩ ⟨8, 0, 0, 0, .i8, .rne, false, false, 0⟩),
      (.por ⟨0, false⟩ ⟨0, 8, 0, 0, .i8, .rne, false, false, 0⟩),
      (.pxor ⟨0, false⟩ ⟨0, 0, 31, 0, .i8, .rne, false, false, 0⟩),
      (.pfrom ⟨0, false⟩ ⟨8, 0, 0, 0, .i8, .rne, false, false, 0⟩),
      (.pto ⟨0, false⟩ ⟨0, 8, 0, 0, .i8, .rne, false, false, 0⟩),
      (.icmp ⟨0, false⟩ ⟨8, 0, 0, 0, .i8, .rne, false, false, 0⟩),
      (.vcmp ⟨0, false⟩ ⟨8, 0, 0, 0, .i8, .rne, false, false, 0⟩),
      (.vfcmp ⟨0, false⟩ ⟨8, 0, 0, 0, .fp32, .rne, false, false, 0⟩),
      (.vadd ⟨0, false⟩ ⟨16, 0, 0, 0, .i8, .rne, false, false, 0⟩),
      (.vsub ⟨0, false⟩ ⟨0, 16, 0, 0, .i8, .rne, false, false, 0⟩),
      (.vmul ⟨0, false⟩ ⟨0, 0, 31, 0, .i8, .rne, false, false, 0⟩),
      (.vfma ⟨0, false⟩ ⟨0, 0, 0, 16, .fp32, .rne, false, false, 0⟩),
      (.vext ⟨0, false⟩ ⟨0, 16, 0, 0, .i8, .rne, false, false, 0⟩),
      (.vbcast ⟨0, false⟩ ⟨16, 0, 0, 0, .i8, .rne, false, false, 0⟩),
      (.vins ⟨0, false⟩ ⟨16, 0, 0, 0, .i8, .rne, false, false, 0⟩),
      (.vsel ⟨0, false⟩ ⟨0, 0, 0, 8, .i8, .rne, false, false, 0⟩),
      (.vmov ⟨0, false⟩ ⟨0, 16, 0, 0, .i8, .rne, false, false, 0⟩),
      (.bp ⟨0, false⟩ ⟨8, 0, 0⟩),
      (.bnp ⟨0, false⟩ ⟨8, 0, 0⟩),
      (.vld ⟨0, false⟩ ⟨16, 0, 0, 0, .tile, .i64, 0, 0⟩),
      (.vstx ⟨0, false⟩ ⟨0, 0, 16, 0, .tile, .i8, 0, 0⟩),
      (.blvst ⟨0, false⟩ ⟨16, 0, 0, 0, .tile, .i64, 0, 0⟩),
      (.mmav ⟨0, false⟩ ⟨0, 0, 16, 0, 0, 0, 0⟩),
      (.mrd ⟨0, false⟩ ⟨16, 0, 0, 0, 0, 0, 0⟩),
      (.nred ⟨0, false⟩ ⟨0, 16, 0, 0, 0, 72, 0⟩),
      (.vsend ⟨0, false⟩ ⟨0, 16, 0, 0, 0, 0, 0⟩),
      (.vrecv ⟨0, false⟩ ⟨16, 0, 0, 0, 0, 0, 0⟩),
      (.chk ⟨0, false⟩ ⟨8, 0, 0, 0, 0, 0, 0⟩),
      (.gadv ⟨0, false⟩ ⟨0, 0, 16, 0, 0, 0, 0⟩),
      (.gset ⟨0, false⟩ ⟨0, 0, 16, 0, 0, 0, 0⟩),
      (.gget ⟨0, false⟩ ⟨0, 0, 16, 0, 0, 0, 0⟩),
      (.gwait ⟨0, false⟩ ⟨0, 0, 31, 0, 0, 0, 0⟩),
      (.grate ⟨0, false⟩ ⟨0, 0, 16, 0, 0, 0, 0⟩),
      (.baralloc ⟨0, false⟩ ⟨0, 0, 8, 0, 0, 0, 0⟩),
      (.blopen ⟨0, false⟩ ⟨0, 0, 8, 0, 0, 0, 0⟩)].all ill = true := by decide

theorem test_wf_reserved_third_source : [
      (.add ⟨0, false⟩ ⟨0, 0, 0, 1, .i8, .rne, false, false, 0⟩),
      (.sub ⟨0, false⟩ ⟨0, 0, 0, 1, .i8, .rne, false, false, 0⟩),
      (.mul ⟨0, false⟩ ⟨0, 0, 0, 1, .i8, .rne, false, false, 0⟩),
      (.div ⟨0, false⟩ ⟨0, 0, 0, 1, .i8, .rne, false, false, 0⟩),
      (.and ⟨0, false⟩ ⟨0, 0, 0, 1, .i8, .rne, false, false, 0⟩),
      (.or ⟨0, false⟩ ⟨0, 0, 0, 1, .i8, .rne, false, false, 0⟩),
      (.sll ⟨0, false⟩ ⟨0, 0, 0, 1, .i8, .rne, false, false, 0⟩),
      (.min ⟨0, false⟩ ⟨0, 0, 0, 1, .i8, .rne, false, false, 0⟩),
      (.slt ⟨0, false⟩ ⟨0, 0, 0, 1, .i8, .rne, false, false, 0⟩),
      (.clz ⟨0, false⟩ ⟨0, 0, 0, 1, .i8, .rne, false, false, 0⟩),
      (.pand ⟨0, false⟩ ⟨0, 0, 0, 1, .i8, .rne, false, false, 0⟩),
      (.icmp ⟨0, false⟩ ⟨0, 0, 0, 1, .i8, .rne, false, false, 0⟩),
      (.lea ⟨0, false⟩ ⟨0, 0, 0, 1, .i8, .rne, false, false, 0⟩),
      (.fadd ⟨0, false⟩ ⟨0, 0, 0, 1, .fp32, .rne, false, false, 0⟩),
      (.fmin ⟨0, false⟩ ⟨0, 0, 0, 1, .fp32, .rne, false, false, 0⟩),
      (.fcmp ⟨0, false⟩ ⟨0, 0, 0, 1, .fp32, .rne, false, false, 0⟩),
      (.fclass ⟨0, false⟩ ⟨0, 0, 0, 1, .fp32, .rne, false, false, 0⟩),
      (.fsgnj ⟨0, false⟩ ⟨0, 0, 0, 1, .fp32, .rne, false, false, 0⟩),
      (.vadd ⟨0, false⟩ ⟨0, 0, 0, 1, .i8, .rne, false, false, 0⟩),
      (.vabs ⟨0, false⟩ ⟨0, 0, 0, 1, .i8, .rne, false, false, 0⟩),
      (.vand ⟨0, false⟩ ⟨0, 0, 0, 1, .i8, .rne, false, false, 0⟩),
      (.vfadd ⟨0, false⟩ ⟨0, 0, 0, 1, .fp32, .rne, false, false, 0⟩),
      (.vfmin ⟨0, false⟩ ⟨0, 0, 0, 1, .fp32, .rne, false, false, 0⟩),
      (.vfabs ⟨0, false⟩ ⟨0, 0, 0, 1, .fp32, .rne, false, false, 0⟩),
      (.vcmp ⟨0, false⟩ ⟨0, 0, 0, 1, .i8, .rne, false, false, 0⟩),
      (.vfcmp ⟨0, false⟩ ⟨0, 0, 0, 1, .fp32, .rne, false, false, 0⟩),
      (.vscale ⟨0, false⟩ ⟨0, 0, 0, 1, .i8, .rne, false, false, 0⟩),
      (.vbcast ⟨0, false⟩ ⟨0, 0, 0, 1, .i8, .rne, false, false, 0⟩),
      (.vext ⟨0, false⟩ ⟨0, 0, 0, 1, .i8, .rne, false, false, 0⟩),
      (.vins ⟨0, false⟩ ⟨0, 0, 0, 1, .i8, .rne, false, false, 0⟩),
      (.vperm ⟨0, false⟩ ⟨0, 0, 0, 1, .i8, .rne, false, false, 0⟩),
      (.vslide ⟨0, false⟩ ⟨0, 0, 0, 1, .i8, .rne, false, false, 0⟩),
      (.vzip ⟨0, false⟩ ⟨0, 0, 0, 1, .i8, .rne, false, false, 0⟩),
      (.vcompress ⟨0, false⟩ ⟨0, 0, 0, 1, .i8, .rne, false, false, 0⟩),
      (.vmov ⟨0, false⟩ ⟨0, 0, 0, 1, .i8, .rne, false, false, 0⟩),
      (.vredadd ⟨0, false⟩ ⟨0, 0, 0, 1, .i8, .rne, false, false, 0⟩),
      (.vredmax ⟨0, false⟩ ⟨0, 0, 0, 1, .i8, .rne, false, false, 0⟩),
      (.vredfadd ⟨0, false⟩ ⟨0, 0, 0, 1, .fp32, .rne, false, false, 0⟩),
      (.vdot ⟨0, false⟩ ⟨0, 0, 0, 1, .i8, .rne, false, false, 0⟩)].all ill = true := by decide

theorem test_wf_reserved_sources : [
      (.clz ⟨0, false⟩ ⟨0, 0, 1, 0, .i8, .rne, false, false, 0⟩),
      (.ctz ⟨0, false⟩ ⟨0, 0, 1, 0, .i8, .rne, false, false, 0⟩),
      (.popc ⟨0, false⟩ ⟨0, 0, 1, 0, .i8, .rne, false, false, 0⟩),
      (.brev ⟨0, false⟩ ⟨0, 0, 1, 0, .i8, .rne, false, false, 0⟩),
      (.pnot ⟨0, false⟩ ⟨0, 0, 1, 0, .i8, .rne, false, false, 0⟩),
      (.pfrom ⟨0, false⟩ ⟨0, 0, 1, 0, .i8, .rne, false, false, 0⟩),
      (.pto ⟨0, false⟩ ⟨0, 0, 1, 0, .i8, .rne, false, false, 0⟩),
      (.fsqrt ⟨0, false⟩ ⟨0, 0, 1, 0, .fp32, .rne, false, false, 0⟩),
      (.fclass ⟨0, false⟩ ⟨0, 0, 1, 0, .fp32, .rne, false, false, 0⟩),
      (.vabs ⟨0, false⟩ ⟨0, 0, 1, 0, .i8, .rne, false, false, 0⟩),
      (.vfabs ⟨0, false⟩ ⟨0, 0, 1, 0, .fp32, .rne, false, false, 0⟩),
      (.vfneg ⟨0, false⟩ ⟨0, 0, 1, 0, .fp32, .rne, false, false, 0⟩),
      (.vfrcp ⟨0, false⟩ ⟨0, 0, 1, 0, .fp32, .rne, false, false, 0⟩),
      (.vfrsq ⟨0, false⟩ ⟨0, 0, 1, 0, .fp32, .rne, false, false, 0⟩),
      (.vfexp2 ⟨0, false⟩ ⟨0, 0, 1, 0, .fp32, .rne, false, false, 0⟩),
      (.vflog2 ⟨0, false⟩ ⟨0, 0, 1, 0, .fp32, .rne, false, false, 0⟩),
      (.vbcast ⟨0, false⟩ ⟨0, 0, 1, 0, .i8, .rne, false, false, 0⟩),
      (.vcompress ⟨0, false⟩ ⟨0, 0, 1, 0, .i8, .rne, false, false, 0⟩),
      (.vexpand ⟨0, false⟩ ⟨0, 0, 1, 0, .i8, .rne, false, false, 0⟩),
      (.vmov ⟨0, false⟩ ⟨0, 0, 1, 0, .i8, .rne, false, false, 0⟩),
      (.vredadd ⟨0, false⟩ ⟨0, 0, 1, 0, .i8, .rne, false, false, 0⟩),
      (.vredmax ⟨0, false⟩ ⟨0, 0, 1, 0, .i8, .rne, false, false, 0⟩),
      (.vredmin ⟨0, false⟩ ⟨0, 0, 1, 0, .i8, .rne, false, false, 0⟩),
      (.vredfadd ⟨0, false⟩ ⟨0, 0, 1, 0, .fp32, .rne, false, false, 0⟩),
      (.fcvt ⟨0, false⟩ ⟨0, 0, 1, 0, .fp32, .rne, false, false, 0⟩),
      (.vcvt ⟨0, false⟩ ⟨0, 0, 1, 0, .fp32, .rne, false, false, 0⟩)].all ill = true := by decide

theorem test_wf_rounding : [
      (.add ⟨0, false⟩ ⟨0, 0, 0, 0, .i8, .rup, false, false, 0⟩),
      (.and ⟨0, false⟩ ⟨0, 0, 0, 0, .i8, .rup, false, false, 0⟩),
      (.icmp ⟨0, false⟩ ⟨0, 0, 0, 0, .i8, .rup, false, false, 0⟩),
      (.lea ⟨0, false⟩ ⟨0, 0, 0, 0, .i8, .rup, false, false, 0⟩),
      (.sbank ⟨0, false⟩ ⟨0, 0, 0, 0, .i8, .rup, false, false, 0⟩),
      (.clamp ⟨0, false⟩ ⟨0, 0, 0, 0, .i8, .rup, false, false, 0⟩),
      (.fmin ⟨0, false⟩ ⟨0, 0, 0, 0, .fp32, .rup, false, false, 0⟩),
      (.fcmp ⟨0, false⟩ ⟨0, 0, 0, 0, .fp32, .rup, false, false, 0⟩),
      (.fclass ⟨0, false⟩ ⟨0, 0, 0, 0, .fp32, .rup, false, false, 0⟩),
      (.fsgnj ⟨0, false⟩ ⟨0, 0, 0, 0, .fp32, .rup, false, false, 0⟩),
      (.vadd ⟨0, false⟩ ⟨0, 0, 0, 0, .i8, .rup, false, false, 0⟩),
      (.vand ⟨0, false⟩ ⟨0, 0, 0, 0, .i8, .rup, false, false, 0⟩),
      (.vfmin ⟨0, false⟩ ⟨0, 0, 0, 0, .fp32, .rup, false, false, 0⟩),
      (.vfabs ⟨0, false⟩ ⟨0, 0, 0, 0, .fp32, .rup, false, false, 0⟩),
      (.vcmp ⟨0, false⟩ ⟨0, 0, 0, 0, .i8, .rup, false, false, 0⟩),
      (.vbcast ⟨0, false⟩ ⟨0, 0, 0, 0, .i8, .rup, false, false, 0⟩),
      (.vsel ⟨0, false⟩ ⟨0, 0, 0, 0, .i8, .rup, false, false, 0⟩),
      (.vredadd ⟨0, false⟩ ⟨0, 0, 0, 0, .i8, .rup, false, false, 0⟩),
      (.vredmax ⟨0, false⟩ ⟨0, 0, 0, 0, .i8, .rup, false, false, 0⟩)].all ill = true := by decide

theorem test_wf_saturation : [
      (.and ⟨0, false⟩ ⟨0, 0, 0, 0, .i8, .rne, true, false, 0⟩),
      (.min ⟨0, false⟩ ⟨0, 0, 0, 0, .i8, .rne, true, false, 0⟩),
      (.slt ⟨0, false⟩ ⟨0, 0, 0, 0, .i8, .rne, true, false, 0⟩),
      (.sel ⟨0, false⟩ ⟨0, 0, 0, 0, .i8, .rne, true, false, 0⟩),
      (.clz ⟨0, false⟩ ⟨0, 0, 0, 0, .i8, .rne, true, false, 0⟩),
      (.pand ⟨0, false⟩ ⟨0, 0, 0, 0, .i8, .rne, true, false, 0⟩),
      (.icmp ⟨0, false⟩ ⟨0, 0, 0, 0, .i8, .rne, true, false, 0⟩),
      (.clamp ⟨0, false⟩ ⟨0, 0, 0, 0, .i8, .rne, true, false, 0⟩),
      (.fmin ⟨0, false⟩ ⟨0, 0, 0, 0, .fp32, .rne, true, false, 0⟩),
      (.fcmp ⟨0, false⟩ ⟨0, 0, 0, 0, .fp32, .rne, true, false, 0⟩),
      (.fclass ⟨0, false⟩ ⟨0, 0, 0, 0, .fp32, .rne, true, false, 0⟩),
      (.fsgnj ⟨0, false⟩ ⟨0, 0, 0, 0, .fp32, .rne, true, false, 0⟩),
      (.vmulh ⟨0, false⟩ ⟨0, 0, 0, 0, .i8, .rne, true, false, 0⟩),
      (.vmin ⟨0, false⟩ ⟨0, 0, 0, 0, .i8, .rne, true, false, 0⟩),
      (.vand ⟨0, false⟩ ⟨0, 0, 0, 0, .i8, .rne, true, false, 0⟩),
      (.vsll ⟨0, false⟩ ⟨0, 0, 0, 0, .i8, .rne, true, false, 0⟩),
      (.vfmin ⟨0, false⟩ ⟨0, 0, 0, 0, .fp32, .rne, true, false, 0⟩),
      (.vfneg ⟨0, false⟩ ⟨0, 0, 0, 0, .fp32, .rne, true, false, 0⟩),
      (.vcmp ⟨0, false⟩ ⟨0, 0, 0, 0, .i8, .rne, true, false, 0⟩),
      (.vbcast ⟨0, false⟩ ⟨0, 0, 0, 0, .i8, .rne, true, false, 0⟩),
      (.vmov ⟨0, false⟩ ⟨0, 0, 0, 0, .i8, .rne, true, false, 0⟩),
      (.vredmax ⟨0, false⟩ ⟨0, 0, 0, 0, .i8, .rne, true, false, 0⟩)].all ill = true := by decide

theorem test_wf_unsigned : [
      (.pand ⟨0, false⟩ ⟨0, 0, 0, 0, .i8, .rne, false, true, 0⟩),
      (.fadd ⟨0, false⟩ ⟨0, 0, 0, 0, .fp32, .rne, false, true, 0⟩),
      (.fmin ⟨0, false⟩ ⟨0, 0, 0, 0, .fp32, .rne, false, true, 0⟩),
      (.fcmp ⟨0, false⟩ ⟨0, 0, 0, 0, .fp32, .rne, false, true, 0⟩),
      (.vabs ⟨0, false⟩ ⟨0, 0, 0, 0, .i8, .rne, false, true, 0⟩),
      (.vand ⟨0, false⟩ ⟨0, 0, 0, 0, .i8, .rne, false, true, 0⟩),
      (.vsll ⟨0, false⟩ ⟨0, 0, 0, 0, .i8, .rne, false, true, 0⟩),
      (.vfadd ⟨0, false⟩ ⟨0, 0, 0, 0, .fp32, .rne, false, true, 0⟩),
      (.vfmin ⟨0, false⟩ ⟨0, 0, 0, 0, .fp32, .rne, false, true, 0⟩),
      (.vbcast ⟨0, false⟩ ⟨0, 0, 0, 0, .i8, .rne, false, true, 0⟩),
      (.vins ⟨0, false⟩ ⟨0, 0, 0, 0, .i8, .rne, false, true, 0⟩),
      (.vperm ⟨0, false⟩ ⟨0, 0, 0, 0, .i8, .rne, false, true, 0⟩),
      (.vzip ⟨0, false⟩ ⟨0, 0, 0, 0, .i8, .rne, false, true, 0⟩),
      (.vsel ⟨0, false⟩ ⟨0, 0, 0, 0, .i8, .rne, false, true, 0⟩),
      (.vmov ⟨0, false⟩ ⟨0, 0, 0, 0, .i8, .rne, false, true, 0⟩),
      (.vredfadd ⟨0, false⟩ ⟨0, 0, 0, 0, .fp32, .rne, false, true, 0⟩)].all ill = true := by decide

theorem test_wf_sub_operation : [
      (.add ⟨0, false⟩ ⟨0, 0, 0, 0, .i8, .rne, false, false, 1⟩),
      (.and ⟨0, false⟩ ⟨0, 0, 0, 0, .i8, .rne, false, false, 1⟩),
      (.pand ⟨0, false⟩ ⟨0, 0, 0, 0, .i8, .rne, false, false, 1⟩),
      (.sbank ⟨0, false⟩ ⟨0, 0, 0, 0, .i8, .rne, false, false, 1⟩),
      (.clamp ⟨0, false⟩ ⟨0, 0, 0, 0, .i8, .rne, false, false, 1⟩),
      (.fadd ⟨0, false⟩ ⟨0, 0, 0, 0, .fp32, .rne, false, false, 1⟩),
      (.vadd ⟨0, false⟩ ⟨0, 0, 0, 0, .i8, .rne, false, false, 1⟩),
      (.vfadd ⟨0, false⟩ ⟨0, 0, 0, 0, .fp32, .rne, false, false, 1⟩),
      (.vscale ⟨0, false⟩ ⟨0, 0, 0, 0, .i8, .rne, false, false, 1⟩),
      (.vbcast ⟨0, false⟩ ⟨0, 0, 0, 0, .i8, .rne, false, false, 1⟩),
      (.vperm ⟨0, false⟩ ⟨0, 0, 0, 0, .i8, .rne, false, false, 1⟩),
      (.vredadd ⟨0, false⟩ ⟨0, 0, 0, 0, .i8, .rne, false, false, 1⟩),
      (.vdot ⟨0, false⟩ ⟨0, 0, 0, 0, .i8, .rne, false, false, 1⟩),
      (.fsgnj ⟨0, false⟩ ⟨0, 0, 0, 0, .fp32, .rne, false, false, 3⟩),
      (.vzip ⟨0, false⟩ ⟨0, 0, 0, 0, .i8, .rne, false, false, 2⟩),
      (.vunzip ⟨0, false⟩ ⟨0, 0, 0, 0, .i8, .rne, false, false, 3⟩)].all ill = true := by decide

theorem test_wf_conversions : [
      (.fcvt ⟨0, false⟩ ⟨0, 0, 0, 0x19, .fp32, .rne, false, false, 0⟩),
      (.fcvt ⟨0, false⟩ ⟨0, 0, 0, 0, .i32, .rne, false, false, 0⟩),
      (.fcvt ⟨0, false⟩ ⟨0, 0, 0, 0, .fp32, .rne, false, true, 0⟩),
      (.vcvt ⟨0, false⟩ ⟨0, 0, 0, 3, .i4, .rne, false, false, 0⟩),
      (.fcvt ⟨0, false⟩ ⟨0, 0, 0, 10, .fp32, .rne, false, false, 0⟩),
      (.fcvt ⟨0, false⟩ ⟨0, 0, 0, 4, .fp32, .rne, false, false, 0⟩),
      (.vcvt ⟨0, false⟩ ⟨0, 0, 0, 10, .fp32, .rne, false, false, 0⟩),
      (.vcvt ⟨0, false⟩ ⟨0, 0, 0, 0, .i8, .rne, false, false, 1⟩)].all ill = true := by decide

theorem test_wf_immediates : [
      (.addi ⟨0, false⟩ ⟨0, 0, .fp32, 0⟩),
      (.andi ⟨0, false⟩ ⟨0, 0, .i4, 0⟩),
      (.ori ⟨0, false⟩ ⟨0, 0, .bf16, 0⟩),
      (.xori ⟨0, false⟩ ⟨0, 0, .fp8a, 0⟩),
      (.slli ⟨0, false⟩ ⟨0, 0, .i8, 8⟩),
      (.srli ⟨0, false⟩ ⟨0, 0, .i32, 32⟩),
      (.srai ⟨0, false⟩ ⟨0, 0, .i64, 64⟩),
      (.slti ⟨0, false⟩ ⟨0, 0, .fp16, 0⟩),
      (.sltiu ⟨0, false⟩ ⟨0, 0, .fp8b, 0⟩),
      (.li ⟨0, false⟩ ⟨0, 1, .i8, 0⟩),
      (.lhi ⟨0, false⟩ ⟨0, 0, .i64, 0⟩),
      (.jal ⟨0, false⟩ ⟨0, 1, .i8, 0⟩),
      (.jalr ⟨0, false⟩ ⟨0, 0, .i16, 0⟩),
      (.yield ⟨0, false⟩ ⟨1, 0, .i8, 0⟩),
      (.park ⟨0, false⟩ ⟨0, 0, .i8, 1⟩),
      (.nop ⟨0, false⟩ ⟨0, 1, .i8, 0⟩),
      (.br ⟨0, false⟩ ⟨1, 0, 0⟩),
      (.bp ⟨0, false⟩ ⟨1, 1, 0⟩),
      (.bnp ⟨0, false⟩ ⟨1, 1, 0⟩)].all ill = true := by decide

theorem test_wf_memory_forms : [
      (.ld ⟨0, false⟩ ⟨0, 0, 0, 0, .tile, .fp32, 0, 0⟩),
      (.ld ⟨0, false⟩ ⟨0, 0, 0, 2, .tile, .i8, 0, 0⟩),
      (.ld ⟨0, false⟩ ⟨0, 0, 0, 0, .die, .i8, 0, 0⟩),
      (.ld ⟨0, false⟩ ⟨0, 0, 0, 0, .tile, .i8, 2, 0⟩),
      (.ld ⟨0, false⟩ ⟨0, 0, 0, 0, .tile, .i64, 1, 0⟩),
      (.st ⟨0, false⟩ ⟨0, 0, 0, 1, .tile, .i8, 0, 0⟩),
      (.st ⟨0, false⟩ ⟨0, 0, 0, 0, .tile, .i8, 1, 0⟩),
      (.vld ⟨0, false⟩ ⟨0, 0, 0, 0, .tile, .i32, 0, 0⟩),
      (.vst ⟨0, false⟩ ⟨0, 0, 0, 0, .tile, .i64, 1, 0⟩),
      (.vldx ⟨0, false⟩ ⟨0, 0, 0, 0, .tile, .i4, 0, 0⟩),
      (.vstx ⟨0, false⟩ ⟨0, 0, 0, 3, .tile, .i8, 0, 0⟩),
      (.vlds ⟨0, false⟩ ⟨0, 0, 0, 0, .tile, .i8, 1, 0⟩),
      (.vsts ⟨0, false⟩ ⟨0, 0, 0, 0, .fab, .i8, 0, 0⟩),
      (.gld ⟨0, false⟩ ⟨0, 0, 0, 2, .tile, .i8, 0, 0⟩),
      (.gld ⟨0, false⟩ ⟨0, 0, 0, 0, .tile, .i64, 1, 0⟩),
      (.gst ⟨0, false⟩ ⟨0, 0, 0, 0, .tile, .i8, 1, 0⟩),
      (.gvld ⟨0, false⟩ ⟨0, 0, 0, 0, .tile, .i8, 0, 0⟩),
      (.gvst ⟨0, false⟩ ⟨0, 0, 0, 1, .tile, .i64, 0, 0⟩),
      (.gldw ⟨0, false⟩ ⟨0, 0, 0, 0, .tile, .i32, 0, 0⟩),
      (.gstw ⟨0, false⟩ ⟨0, 0, 0, 0, .tile, .i64, 1, 0⟩),
      (.gprf ⟨0, false⟩ ⟨0, 0, 0, 1, .tile, .i64, 0, 0⟩),
      (.gprf ⟨0, false⟩ ⟨1, 0, 0, 0, .tile, .i64, 0, 0⟩),
      (.gprf ⟨0, false⟩ ⟨0, 0, 0, 0, .die, .i64, 0, 0⟩),
      (.pclr ⟨0, false⟩ ⟨1, 0, 0, 0, .tile, .i64, 0, 0⟩),
      (.pclr ⟨0, false⟩ ⟨0, 0, 0, 1, .tile, .i64, 0, 0⟩),
      (.blst ⟨0, false⟩ ⟨0, 0, 0, 2, .tile, .i8, 0, 0⟩),
      (.blst ⟨0, false⟩ ⟨0, 0, 0, 0, .die, .i8, 0, 0⟩),
      (.blvst ⟨0, false⟩ ⟨0, 0, 0, 0, .tile, .i32, 0, 0⟩)].all ill = true := by decide

theorem test_wf_atomic_forms : [
      (.amoadd ⟨0, false⟩ ⟨0, 0, 0, 0, .tile, .i8, 0, 0⟩),
      (.amomin ⟨0, false⟩ ⟨0, 0, 0, 0, .tile, .i16, 0, 0⟩),
      (.amomax ⟨0, false⟩ ⟨0, 0, 0, 0, .tile, .fp32, 0, 0⟩),
      (.amominu ⟨0, false⟩ ⟨0, 0, 0, 0, .tile, .i8, 0, 0⟩),
      (.amomaxu ⟨0, false⟩ ⟨0, 0, 0, 0, .tile, .i16, 0, 0⟩),
      (.amoand ⟨0, false⟩ ⟨0, 0, 0, 0, .tile, .fp32, 0, 0⟩),
      (.amoor ⟨0, false⟩ ⟨0, 0, 0, 0, .tile, .i8, 0, 0⟩),
      (.amoxor ⟨0, false⟩ ⟨0, 0, 0, 0, .tile, .i16, 0, 0⟩),
      (.amoswap ⟨0, false⟩ ⟨0, 0, 0, 0, .tile, .fp32, 0, 0⟩),
      (.amoadd ⟨0, false⟩ ⟨3, 0, 0, 0, .tile, .i64, 1, 0⟩),
      (.amomin ⟨0, false⟩ ⟨3, 0, 0, 0, .tile, .i64, 1, 0⟩),
      (.amomax ⟨0, false⟩ ⟨3, 0, 0, 0, .tile, .i64, 1, 0⟩),
      (.amominu ⟨0, false⟩ ⟨3, 0, 0, 0, .tile, .i64, 1, 0⟩),
      (.amomaxu ⟨0, false⟩ ⟨3, 0, 0, 0, .tile, .i64, 1, 0⟩),
      (.amoand ⟨0, false⟩ ⟨3, 0, 0, 0, .tile, .i64, 1, 0⟩),
      (.amoor ⟨0, false⟩ ⟨3, 0, 0, 0, .tile, .i64, 1, 0⟩),
      (.amoxor ⟨0, false⟩ ⟨3, 0, 0, 0, .tile, .i64, 1, 0⟩),
      (.amoswap ⟨0, false⟩ ⟨3, 0, 0, 0, .tile, .i64, 1, 0⟩),
      (.amoadd ⟨0, false⟩ ⟨0, 0, 0, 0, .tile, .i64, 2, 0⟩),
      (.amomin ⟨0, false⟩ ⟨0, 0, 0, 0, .tile, .i64, 2, 0⟩),
      (.amomax ⟨0, false⟩ ⟨0, 0, 0, 0, .tile, .i64, 2, 0⟩),
      (.amominu ⟨0, false⟩ ⟨0, 0, 0, 0, .tile, .i64, 2, 0⟩),
      (.amomaxu ⟨0, false⟩ ⟨0, 0, 0, 0, .tile, .i64, 2, 0⟩),
      (.amoand ⟨0, false⟩ ⟨0, 0, 0, 0, .tile, .i64, 2, 0⟩),
      (.amoor ⟨0, false⟩ ⟨0, 0, 0, 0, .tile, .i64, 2, 0⟩),
      (.amoxor ⟨0, false⟩ ⟨0, 0, 0, 0, .tile, .i64, 2, 0⟩),
      (.amoswap ⟨0, false⟩ ⟨0, 0, 0, 0, .tile, .i64, 2, 0⟩),
      (.amofadd ⟨0, false⟩ ⟨0, 0, 0, 0, .tile, .i32, 0, 0⟩),
      (.amofadd ⟨0, false⟩ ⟨1, 0, 0, 0, .tile, .fp32, 1, 0⟩),
      (.amocas ⟨0, false⟩ ⟨0, 0, 0, 0, .tile, .i64, 1, 0⟩),
      (.amocas ⟨0, false⟩ ⟨0, 0, 0, 0, .tile, .i16, 0, 0⟩),
      (.amocall ⟨0, false⟩ ⟨0, 0, 0, 0, .tile, .i32, 0, 0⟩),
      (.amocall ⟨0, false⟩ ⟨1, 0, 0, 0, .tile, .i64, 3, 0⟩),
      (.fence ⟨0, false⟩ ⟨0, 0, 0, 1, .tile, .i8, 0, 0⟩),
      (.fence ⟨0, false⟩ ⟨0, 0, 0, 0, .tile, .i8, 0, 1⟩),
      (.fencex ⟨0, false⟩ ⟨0, 1, 0, 0, .tile, .i8, 0, 0⟩),
      (.fencex ⟨0, false⟩ ⟨0, 0, 0, 0, .tile, .i8, 1, 0⟩)].all ill = true := by decide

theorem test_wf_matrix_forms : [
      (.mma ⟨0, false⟩ ⟨1, 0, 0, 0, 0, 0, 0⟩),
      (.mmav ⟨0, false⟩ ⟨0, 0, 0, 0, 0, 0, 1⟩),
      (.mzero ⟨0, false⟩ ⟨0, 0, 0, 0, 0, 0, 2⟩),
      (.mswap ⟨0, false⟩ ⟨0, 1, 0, 0, 0, 0, 0⟩),
      (.mrd ⟨0, false⟩ ⟨0, 0, 0, 0, 0, 0, 2⟩),
      (.mwr ⟨0, false⟩ ⟨1, 0, 0, 0, 0, 0, 0⟩),
      (.mwr ⟨0, false⟩ ⟨0, 0, 0, 0, 0, 0, 2⟩),
      (.mdrain ⟨0, false⟩ ⟨0, 0, 0, 0, 7, 0, 0⟩),
      (.mdrain ⟨0, false⟩ ⟨0, 0, 0, 0, 0, 2, 0⟩),
      (.mcfg ⟨0, false⟩ ⟨0, 0, 0, 1, 0, 0, 0⟩),
      (.mcfg ⟨0, false⟩ ⟨0, 0, 0, 0, 0, 1, 0⟩),
      (.mcfgGive ⟨0, false⟩ ⟨0, 0, 0, 0, 0, 0, 0⟩),
      (.nred ⟨0, false⟩ ⟨0, 0, 0, 0, 0, 0, 0⟩),
      (.nred ⟨0, false⟩ ⟨0, 0, 0, 0, 0, 73, 0⟩),
      (.nred ⟨0, false⟩ ⟨0, 0, 0, 0, 0, 72, 4⟩),
      (.nres ⟨0, false⟩ ⟨0, 0, 0, 0, 0, 24, 0⟩),
      (.nres ⟨0, false⟩ ⟨0, 1, 0, 0, 0, 72, 0⟩),
      (.nclr ⟨0, false⟩ ⟨0, 0, 0, 0, 0, 0, 4⟩),
      (.nclr ⟨0, false⟩ ⟨0, 0, 0, 0, 1, 0, 0⟩)].all ill = true := by decide

theorem test_wf_channel_forms : [
      (.send ⟨0, false⟩ ⟨0, 0, 0, 0, 1, 0, 0⟩),
      (.send ⟨0, false⟩ ⟨0, 0, 0, 0, 0, 32, 0⟩),
      (.send ⟨0, false⟩ ⟨0, 0, 0, 0, 0, 1, 0⟩),
      (.vsend ⟨0, false⟩ ⟨0, 0, 0, 0, 0, 0, 1⟩),
      (.recv ⟨0, false⟩ ⟨0, 0, 0, 0, 0, 64, 0⟩),
      (.recv ⟨0, false⟩ ⟨0, 1, 0, 0, 0, 0, 0⟩),
      (.vrecv ⟨0, false⟩ ⟨0, 0, 0, 0, 0, 0, 1⟩),
      (.tsend ⟨0, false⟩ ⟨0, 0, 0, 0, 0, 0, 0⟩),
      (.tsend ⟨0, false⟩ ⟨0, 0, 0, 0, 7, 0, 0⟩),
      (.tsend ⟨0, false⟩ ⟨0, 0, 0, 0, 9, 0, 0⟩),
      (.tsend ⟨0, false⟩ ⟨0, 0, 0, 0, 11, 0, 0⟩),
      (.tsend ⟨0, false⟩ ⟨0, 0, 0, 0, 12, 0, 0⟩),
      (.tpeek ⟨0, false⟩ ⟨0, 0, 0, 0, 0, 8, 0⟩),
      (.trecv ⟨0, false⟩ ⟨0, 0, 0, 0, 1, 0, 0⟩),
      (.chk ⟨0, false⟩ ⟨0, 0, 0, 0, 13, 0, 0⟩),
      (.bind ⟨0, false⟩ ⟨0, 0, 0, 0, 0, 0, 0⟩),
      (.bind ⟨0, false⟩ ⟨0, 0, 0, 0, 0, 4, 0⟩),
      (.bind ⟨0, false⟩ ⟨0, 0, 0, 0, 0, 1, 4096⟩),
      (.unbind ⟨0, false⟩ ⟨0, 0, 0, 0, 0, 0, 1⟩),
      (.agrun ⟨0, false⟩ ⟨0, 0, 0, 0, 0, 0, 4⟩),
      (.agrun ⟨0, false⟩ ⟨0, 0, 0, 1, 0, 0, 0⟩),
      (.agstop ⟨0, false⟩ ⟨0, 1, 0, 0, 0, 0, 0⟩),
      (.agstat ⟨0, false⟩ ⟨0, 0, 0, 0, 0, 0, 4⟩)].all ill = true := by decide

theorem test_wf_counter_and_transfer_forms : [
      (.gadv ⟨0, false⟩ ⟨0, 0, 0, 0, 0, 1, 0⟩),
      (.gset ⟨0, false⟩ ⟨0, 0, 0, 0, 0, 0, 1⟩),
      (.gget ⟨0, false⟩ ⟨0, 0, 0, 0, 0, 3, 0⟩),
      (.gwait ⟨0, false⟩ ⟨0, 0, 0, 0, 1, 0, 0⟩),
      (.grate ⟨0, false⟩ ⟨1, 0, 0, 0, 0, 0, 0⟩),
      (.glate ⟨0, false⟩ ⟨0, 0, 0, 0, 0, 0, 4⟩),
      (.glate ⟨0, false⟩ ⟨0, 0, 0, 0, 0, 2, 0⟩),
      (.glatePop ⟨0, false⟩ ⟨0, 0, 0, 0, 0, 0, 1⟩),
      (.glatePop ⟨0, false⟩ ⟨0, 0, 0, 0, 0, 0, 0⟩),
      (.xfer ⟨0, false⟩ ⟨0, 0, 0, 0, 0, 0, 64⟩),
      (.xfer ⟨0, false⟩ ⟨0, 0, 0, 0, 0, 2, 0⟩),
      (.xfer ⟨0, false⟩ ⟨0, 0, 0, 0, 0, 32, 0⟩),
      (.xvia ⟨0, false⟩ ⟨0, 0, 1, 0, 0, 0, 0⟩),
      (.xgath ⟨0, false⟩ ⟨0, 0, 0, 0, 1, 0, 0⟩),
      (.xscat ⟨0, false⟩ ⟨0, 0, 0, 1, 0, 0, 0⟩),
      (.xcancel ⟨0, false⟩ ⟨1, 0, 0, 0, 0, 0, 0⟩),
      (.xstat ⟨0, false⟩ ⟨0, 0, 0, 0, 0, 0, 1⟩)].all ill = true := by decide

theorem test_wf_barrier_bale_and_reel_forms : [
      (.baralloc ⟨0, false⟩ ⟨0, 1, 0, 0, 0, 0, 0⟩),
      (.barfree ⟨0, false⟩ ⟨1, 0, 0, 0, 0, 0, 0⟩),
      (.barref ⟨0, false⟩ ⟨0, 0, 0, 0, 0, 0, 1⟩),
      (.barinit ⟨0, false⟩ ⟨0, 0, 0, 0, 0, 8, 0⟩),
      (.barrive ⟨0, false⟩ ⟨0, 0, 0, 0, 0, 0, 0⟩),
      (.barrive ⟨0, false⟩ ⟨0, 0, 0, 0, 0, 32, 1⟩),
      (.barexp ⟨0, false⟩ ⟨1, 0, 0, 0, 0, 0, 0⟩),
      (.barwait ⟨0, false⟩ ⟨0, 0, 0, 0, 0, 64, 0⟩),
      (.bartest ⟨0, false⟩ ⟨0, 0, 0, 0, 0, 0, 1⟩),
      (.blopen ⟨0, false⟩ ⟨0, 1, 0, 0, 0, 0, 0⟩),
      (.blseal ⟨0, false⟩ ⟨1, 0, 0, 0, 0, 0, 0⟩),
      (.blcommit ⟨0, false⟩ ⟨0, 0, 1, 0, 0, 0, 0⟩),
      (.blabort ⟨0, false⟩ ⟨0, 0, 0, 0, 1, 0, 0⟩),
      (.blwait ⟨0, false⟩ ⟨0, 0, 0, 0, 0, 1, 0⟩),
      (.blstat ⟨0, false⟩ ⟨0, 0, 0, 1, 0, 0, 0⟩),
      (.scroll ⟨0, false⟩ ⟨0, 0, 0, 0, 0, 1, 0⟩),
      (.scrollQ ⟨0, false⟩ ⟨0, 0, 0, 0, 0, 0, 0⟩),
      (.scrollQ ⟨0, false⟩ ⟨0, 1, 0, 0, 0, 1, 0⟩),
      (.stsave ⟨0, false⟩ ⟨0, 1, 0, 0, 0, 0, 0⟩),
      (.stload ⟨0, false⟩ ⟨0, 0, 0, 0, 0, 0, 1⟩),
      (.cfgw ⟨0, false⟩ ⟨1, 0, 0, 0, 0, 0, 0⟩),
      (.cfgswap ⟨0, false⟩ ⟨0, 0, 0, 1, 0, 0, 0⟩)].all ill = true := by decide

theorem test_wf_system_forms : [
      (.sysrd ⟨0, false⟩ ⟨0, 1, 0⟩),
      (.sysrd ⟨0, false⟩ ⟨0, 0, 32767⟩),
      (.syswr ⟨0, false⟩ ⟨1, 0, 34⟩),
      (.syswr ⟨0, false⟩ ⟨0, 0, 36⟩),
      (.syswr ⟨0, false⟩ ⟨0, 0, 35⟩),
      (.syswr ⟨0, false⟩ ⟨0, 0, 65535⟩),
      (.horizonWrite ⟨0, false⟩ ⟨0, 0, 34⟩),
      (.evpendWrite ⟨0, false⟩ ⟨1, 0, 35⟩),
      (.trap ⟨0, false⟩ ⟨1, 0, 0⟩),
      (.eret ⟨0, false⟩ ⟨0, 0, 1⟩),
      (.ebrk ⟨0, false⟩ ⟨0, 1, 0⟩),
      (.wfe ⟨0, false⟩ ⟨0, 0, 1⟩),
      (.tlbinv ⟨0, false⟩ ⟨0, 0, 4⟩),
      (.chalt ⟨0, false⟩ ⟨0, 1, 0⟩),
      (.cresume ⟨0, false⟩ ⟨1, 0, 0⟩)].all ill = true := by decide
/-! Small states. -/

/-- The guard that is always on, and the one that is always off. -/
def gOn : Guard := ⟨0, false⟩
def gOff : Guard := ⟨0, true⟩

/-- A running region of one tile after reset; context 0 issues at index 0, in user mode. -/
def base : State := State.reset.issuing 0

/-- The same with the issuing context, its tile, the hub or the region changed. -/
def withCtx (f : Ctx → Ctx) : State := base.modCur f
def withTile (f : Tile → Tile) : State := base.modCurTile f
def withHub (f : Hub → Hub) : State := { base with hub := f base.hub }

/-- Scalar register r is v. -/
def withS (r : Reg) (v : Word) : State := withCtx (·.setS r v)

/-- The issuing context in supervisor mode. -/
def withSupervisor : State := withCtx fun c => { c with mode := .supervisor }

/-- Operands of the formats: D 3, S1 4, S2 5, S3 6. -/
def opA (ty : Ty) : FmtA := ⟨3, 4, 5, 6, ty, .rne, false, false, 0⟩
def opB (imm : BitVec 32) : FmtB := ⟨3, 4, .i64, imm⟩
def opC (off : BitVec 32) : FmtC := ⟨4, 5, off⟩
def opM (ty : Ty) : FmtM := ⟨3, 4, 5, 0, .tile, ty, 0, 0⟩
def opQ (imm : BitVec 16) : FmtQ := ⟨3, 4, 5, 0, 0, 0, imm⟩
def opS (sreg : BitVec 16) : FmtS := ⟨3, 4, sreg⟩

/-- A tile with a channel of one lane and four slots from its source 0 to its sink 0, four credits at hand: port 0 of context 0
is the output, port 1 the input, port 2 stream 0, port 3 a start port, and context 0 owns all its banks. -/
def chanTile (x : Tile) : Tile :=
  { x with
    cfg := { x.cfg with switch := x.cfg.switch.set 0 ⟨true, 0, 0, 0, 0, 1, 0, 0⟩, sinks := x.cfg.sinks.set 0 ⟨true, 1, 4, none, none, .rne, 0⟩ }
    sources := [(0, ⟨4, 0⟩)]
    ctxs := x.ctxs.set 0 { x.ctxs[(0 : Fin 4)] with
      ports := ((x.ctxs[(0 : Fin 4)].ports.set 0 (.output 0)).set 1 (.input 0)).set 2 (.stream 0), startPorts := 8, banks := BitVec.allOnes 96 } }

/-- The channel tile, changed. -/
def withChan (f : Tile → Tile) : State := base.modCurTile fun x => f (chanTile x)

/-- The channel tile whose sink 0 holds entries. -/
def withEntries (es : List Entry) : State := withChan (·.modSink 0 fun y => { y with queue := es })

/-- Format Q with a port. -/
def opPort (port : BitVec 4) : FmtQ := ⟨3, 4, 5, port, 0, 0, 0⟩
def data (w : BitVec 256) : Entry := ⟨w, 0, .channel⟩

/-- A second task of the context that is pending. -/
def withTask : State := withCtx fun c => { c with tasks := c.tasks.set 1 ⟨true, 7, true, 9⟩ }

/-- Memory in which ASID 0 sees the first 64 GiB of HBM at their own addresses. -/
def mapped (g : Global) : Global :=
  ((g.writeAt (.hbm 0) 8 0x10001).writeAt (.hbm 0x100000) 8 0x10201).writeAt (.hbm 0x102000) 8 0x5F

/-! Results that the spec's rules and worked examples give. -/

/-- The next state where the instruction has one. -/
def after (i : Instr) (s : State) : State :=
  match exec i s with
  | .next t => t
  | _ => s

/-- Vector register r is v. -/
def withV (c : State) (r : Reg) (v : Vec) : State := c.modCur (·.setV r v)
def two (v w : Word) : State := (withS 4 v).modCur (·.setS 5 w)

/-- R126: the worked example. -/
theorem test_div_truncates : (after (.div gOn (opA .i32)) (two 0xFFFFFFF9 2)).getS 3 = 0xFFFFFFFFFFFFFFFD := by decide +kernel
theorem test_rem_follows_dividend : (after (.rem gOn (opA .i32)) (two 0xFFFFFFF9 2)).getS 3 = Word.ones := by decide +kernel
theorem test_divu_by_zero : (after (.divu gOn (opA .i16)) (two 9 0)).getS 3 = 0xFFFF := by decide +kernel

/-- R125: the result of a narrow type is sign-extended; s0 stays 0. -/
theorem test_add_narrow_wraps : (after (.add gOn (opA .i8)) (two 0x7F 1)).getS 3 = 0xFFFFFFFFFFFFFF80 := by decide +kernel
theorem test_zero_register : (after (.add gOn { opA .i64 with d := 0 }) (two 7 1)).getS 0 = 0 := by decide +kernel

/-- R131: the worked example of `sbank`, in a context that owns banks 0 to 23. -/
theorem test_sbank_pushes :
    ((after (.sbank gOn ⟨29, 29, 5, 0, .i64, .rne, false, false, 0⟩)
      ((withCtx fun c => { c with banks := 0xFFFFFF }).modCur fun c => (c.setS 29 0x5FB80).setS 5 4)).getS 29) = 0x5FB40 := by decide +kernel
theorem test_sbank_pops :
    ((after (.sbank gOn ⟨29, 29, 5, 0, .i64, .rne, false, false, 0⟩)
      ((withCtx fun c => { c with banks := 0xFFFFFF }).modCur fun c => (c.setS 29 0x5FB40).setS 5 0xFFFFFFFFFFFFFFFC)).getS 29) = 0x5FB80 := by
  decide +kernel

/-- R136: −3.75 to an integer, toward zero. -/
theorem test_fcvt_toward_zero :
    (after (.fcvt gOn { opA .i32 with s3 := 9, rm := .rtz }) (withS 4 0xC0700000)).getS 3 = 0xFFFFFFFFFFFFFFFD := by decide +kernel

/-- R143: saturating lanes. -/
theorem test_vadd_saturates :
    (after (.vadd gOn { opA .i8 with sat := true }) (withV (withV base 4 100) 5 50)).cur.getV 3 = 127 ∧
    (after (.vadd gOn { opA .i8 with sat := true, u := true }) (withV (withV base 4 200) 5 100)).cur.getV 3 = 255 := by
  decide +kernel

/-- R147, R152: FP32 lanes 0.3, 600, −0 and 1 into part 1 of an FP8A register whose bytes are 0x55. -/
def narrowed : State := withV (withV base 1 (BitVec.ofNat 512 (0x55 * ((2 ^ 512 - 1) / 255)))) 2 0x3F80000080000000441600003E99999A

theorem test_vcvt_narrows_a_part :
    ((after (.vcvt gOn ⟨1, 2, 0, 9, .fp8a, .rne, false, false, 1⟩) narrowed).cur.getV 1 >>> 112) % 2 ^ 64 = 0x000038007F2A5555 := by
  decide +kernel
theorem test_vcvt_governed :
    ((after (.vcvt ⟨3, false⟩ ⟨1, 2, 0, 9, .fp8a, .rne, false, false, 1⟩) (narrowed.modCur (·.setP 3 0xF0000))).cur.getV 1 >>> 128) % 2 ^ 48 =
      0x555538007F2A := by
  decide +kernel

/-- R150, R152: the tree's grouping with lanes absent. -/
def reduced (p : Word) : State :=
  withV (withCtx fun c => c.setP 1 p) 2 (BitVec.ofNat 512 (0x3F800000 + 0x33800000 * (2 ^ 32 + 2 ^ 64 + 2 ^ 96) + 0x447A0000 * 2 ^ 128))

theorem test_vredfadd_pairs :
    (after (.vredfadd ⟨1, false⟩ ⟨5, 2, 0, 0, .fp32, .rne, false, false, 0⟩) (reduced 0x1111)).getS 5 = 0x3F800001 := by decide +kernel
theorem test_vredfadd_absent_lane :
    (after (.vredfadd ⟨1, false⟩ ⟨5, 2, 0, 0, .fp32, .rne, false, false, 0⟩) (reduced 0x1011)).getS 5 = 0x3F800000 := by decide +kernel

/-- R145: 2^−150 is a tie that gives 0; the values of the worked reel's third stage (R360). -/
theorem test_vfexp2_underflow :
    (after (.vfexp2 gOn ⟨3, 4, 0, 0, .fp32, .rne, false, false, 0⟩) (withV base 4 0xC3160000)).cur.getV 3 % 2 ^ 32 = 0 := by decide +kernel
theorem test_vfexp2_bf16 :
    (after (.vfexp2 gOn ⟨3, 4, 0, 0, .bf16, .rne, false, false, 0⟩) (withV base 4 0xC0A0C0403F004000C000BF8000003F80)).cur.getV 3 % 2 ^ 128 =
      0x3D003E003FB540803E803F003F804000 := by decide +kernel
theorem test_vfma_bf16 :
    (after (.vfma gOn ⟨3, 4, 5, 6, .bf16, .rne, false, false, 0⟩)
      (withV (withV (withV base 4 0x40C040803F00BF80404040003F800000) 5 0x40004000400040004000400040004000) 6 0x3F803F803F803F803F803F803F803F80)).cur.getV 3 % 2 ^ 128 =
      0x415041104000BF8040E040A040403F80 := by decide +kernel

/-- R239: an estimate of 8.0 through windows of 16, 16, 0 and 0 units. -/
theorem test_estimates :
    let w := fun (acc : BitVec 48) (c : Counter) => { c with acc := acc }.endWindow
    let c0 : Counter := { base.curTile.counters[0] with est := 0x80000 }
    let c1 := w 16 c0
    let c2 := w 16 c1
    let c3 := w 0 c2
    let c4 := w 0 c3
    (c1.est, c2.est, c3.est, c4.est) = (9 * 2 ^ 16, 79 * 2 ^ 13, 553 * 2 ^ 10, 3871 * 2 ^ 7) := by decide +kernel

/-- R123, R124: a taken branch is relative to its own word; `jal` saves the next index. -/
theorem test_beq_is_relative : (after (.beq gOn ⟨4, 4, 0xFFFFFFFA⟩) (withCtx fun c => { c with pc := 9 })).cur.pc = 3 := by decide +kernel
theorem test_jal_links :
    ((after (.jal gOn ⟨31, 0, .i8, 5⟩) (withCtx fun c => { c with pc := 9 })).cur.pc,
      (after (.jal gOn ⟨31, 0, .i8, 5⟩) (withCtx fun c => { c with pc := 9 })).getS 31) = (14, 10) := by decide +kernel

/-- R379, R383: an instruction that the mode forbids enters the handler at HVEC in supervisor mode, with its index saved; `eret`
goes back. -/
theorem test_priv_traps :
    let t := (after (.cfgswap gOn (opQ 0)) (withCtx fun c => { c with pc := 9, hvec := 77 })).cur
    (t.pc, t.epc, t.mode, t.pmode, t.trapped, t.cause.toNat) = (77, 9, .supervisor, .user, true, 3) := by decide +kernel
theorem test_eret_returns :
    let t := (after (.eret gOn (opS 0)) (withCtx fun c => { c with pc := 77, epc := 9, mode := .supervisor, trapped := true })).cur
    (t.pc, t.mode, t.trapped) = (9, .user, false) := by decide +kernel

/-- R431: SHAKE256 of the empty message and of "abc" (FIPS 202's published examples), their first bytes. -/
theorem test_shake256 :
    ((shake256 []).take 4, (shake256 [0x61, 0x62, 0x63]).take 4) = ([0x46, 0xB9, 0xDD, 0x2B], [0x48, 0x33, 0x66, 0x60]) := by decide +kernel
/-! States and operands that meet the hypotheses of each statement, at the boundaries of its clauses. -/

theorem test_meets_ControlFlow_branches :
    base.cur.guardOn gOn = true ∧ ((0 : Nat) ≤ 2047 ∧ ((0 : Nat) : Int) = base.cur.pc.toNat + (opC 0).off.toInt) ∧
    ((2047 : Nat) ≤ 2047 ∧ ((2047 : Nat) : Int) = base.cur.pc.toNat + (opC 2047).off.toInt) ∧
    ((0 : Int) = (withCtx fun c => { c with pc := 2047 }).cur.pc.toNat + (opC (-2047)).off.toInt) ∧
    base.getS 4 = base.getS 5 ∧ (withS 4 1).getS 4 ≠ (withS 4 1).getS 5 ∧ ((withS 4 (-1)).getS 4).toInt < ((withS 4 (-1)).getS 5).toInt ∧
    ((withS 4 1).getS 5).toNat < ((withS 4 1).getS 4).toNat ∧ base.getP 0 ≠ 0 ∧ base.getP 4 = 0 ∧
    (2047 : Nat) = (withCtx fun c => { c with pc := 2046 }).cur.pc.toNat + 1 ∧
    (base.cur.pc.toNat : Int) + (opC (-1)).off.toInt < 0 ∧ 2047 < ((withCtx fun c => { c with pc := 2047 }).cur.pc.toNat : Int) + (opC 1).off.toInt ∧
    (withCtx fun c => { c with pc := 2047 }).cur.pc.toNat = 2047 ∧ base.cur.trapped = false := by decide +kernel

theorem test_meets_ControlFlow_jumps :
    ((0 : Nat) : Int) = (base.getS 4).toNat + (opB 0).imm.toInt ∧ ((2047 : Nat) : Int) = ((withS 4 2047).getS 4).toNat + (opB 0).imm.toInt ∧
    ((base.getS 4).toNat : Int) + (opB (-1)).imm.toInt < 0 ∧ 2047 < ((withS 4 2047).getS 4).toNat + (opB 1).imm.toInt ∧
    (base.cur.pc.toNat : Int) + (opB (-1)).imm.toInt < 0 ∧ base.cur.trapped = false := by decide +kernel

theorem test_meets_ControlFlow_contexts :
    Runs base gOn ∧ base.cur.psf = none ∧ base.otherTask = false ∧ Runs withTask gOn ∧ withTask.otherTask = true := by
  unfold Runs
  decide +kernel

theorem test_meets_scalar_statements :
    Runs base gOn ∧ (intOperand 64 false (base.getS 5) = 0) ∧ (intOperand 64 false ((withS 5 (-1)).getS 5) ≠ 0) ∧
    (opA .i64).ty = .i64 ∧ (opA .i64).sat = false ∧ (opB 1).mod4.width = 64 ∧
    (opA .i64).sub = 0 ∧ ({ opA .i64 with sub := 1 } : FmtA).sub = 1 ∧ ({ opA .i64 with sub := 3 } : FmtA).sub = 3 ∧
    ({ opA .fp32 with s3 := 3 } : FmtA).srcTy = some .i64 := by
  unfold Runs
  decide +kernel

theorem test_meets_vector_statements :
    base.cur.pc ≠ 2047 ∧ 8 ≤ (opA .i8).ty.width ∧ 8 ≤ (opA .i64).ty.width ∧ ({ opA .fp8a with s3 := 9 } : FmtA).srcTy = some .fp32 ∧
    (base.getS 5).toNat < (opA .i8).ty.lanes ∧ activeLane 8 (base.cur.laneMask gOn) 0 = true ∧
    ((withS 5 63).getS 5).toNat < (opA .i8).ty.lanes ∧ activeLane 8 (base.cur.laneMask gOn) 63 = true ∧
    (opA .i8).ty.lanes ≤ ((withS 5 64).getS 5).toNat ∧ activeLane 8 (base.cur.laneMask gOff) 0 = false ∧
    (opA .i8).ty.isInt = true ∧ (opA .fp32).ty.isInt = false := by decide +kernel

/-! The matrix array and the spindle. -/

/-- The array owned by the issuing context and configured. -/
def withMatrix (f : Matrix → Matrix) : State := withTile fun x => { x with matrix := f { x.matrix with owner := some 0, cvalid := true } }

theorem test_meets_MatrixInstructions :
    let s := withMatrix id
    let m := s.curTile.matrix
    Runs s gOn ∧ m.owner = some s.ctx ∧ m.cause = 0 ∧ m.cvalid = true ∧ m.run = false ∧ m.busy = false ∧ m.drain = false ∧ m.swapWait = none ∧
    ((withS 4 3).getS 4 = BitVec.ofNat 64 (3 : Fin 4).val) ∧ s.cur.trapped = false ∧ (m.owner ≠ some 1) ∧
    (withMatrix fun m => { m with cause := 7 }).curTile.matrix.cause ≠ 0 := by
  unfold Runs
  decide +kernel

/-- A channel tile whose context owns a configured array with FP8B operands from the two-lane inputs at ports 1 and 2. -/
def withRun (f : Matrix → Matrix) (a b : List Entry) : State :=
  base.modCurTile fun x =>
    let x := chanTile x
    let x := { x with
      cfg := { x.cfg with sinks := (x.cfg.sinks.set 0 ⟨true, 2, 4, none, none, .rne, 0⟩).set 1 ⟨true, 2, 4, none, none, .rne, 0⟩ }
      ctxs := x.ctxs.set 0 { x.ctxs[(0 : Fin 4)] with ports := x.ctxs[(0 : Fin 4)].ports.set 2 (.input 1) }
      matrix := f { x.matrix with owner := some 0, cvalid := true, config := 0x66120000 } }
    (x.modSink 0 fun y => { y with queue := a }).modSink 1 fun y => { y with queue := b }

theorem test_meets_MatrixInstructions_ports :
    let s := (withRun id [] []).modCur (·.setS 4 0x66120000)
    s.curTile.mcfgOk s.ctx (s.getS 4) = true ∧ s.cur.port 0 = .output 0 ∧ s.curTile.forwardPort s.ctx 0 = false ∧
    s.curTile.matrix.drainType (s.sourceType s.here 0) = true ∧ s.curTile.matrix.drain = false ∧ s.curTile.matrix.swapWait = none ∧
    Runs s gOn ∧ s.curTile.matrix.cause = 0 := by
  unfold Runs
  decide +kernel

theorem test_meets_MatrixHappenings :
    let k := base.here
    let s := withRun (fun m => { m with run := true, remaining := some 1 }) [data 1] [data 2]
    let x := s.tile k
    x.operands = some (0, some (data 1), some (data 2)) ∧ x.snapped = false ∧ x.canForward 0 = true ∧ x.matrix.swapWait = none ∧
    ((withRun (fun m => { m with run := true }) [⟨0, Kind.swap, .channel⟩] [⟨0, Kind.swap, .channel⟩]).tile k).operands =
      some (0, some ⟨0, Kind.swap, .channel⟩, some ⟨0, Kind.swap, .channel⟩) ∧ x.matrix.drain = false ∧
    ((withRun (fun m => { m with run := true }) [⟨0, Kind.eoi, .channel⟩] [⟨0, Kind.eoi, .channel⟩]).tile k).operands =
      some (0, some ⟨0, Kind.eoi, .channel⟩, some ⟨0, Kind.eoi, .channel⟩) ∧
    ((withRun (fun m => { m with busy := true }) [] []).tile k).matrix.busy = true := by decide +kernel

theorem test_meets_MatrixHappenings_swaps :
    let k := base.here
    (let y := (withRun (fun m => { m with run := true, drain := true }) [⟨0, Kind.swap, .channel⟩] [⟨0, Kind.swap, .channel⟩]).tile k
     y.operands = some (0, some ⟨0, Kind.swap, .channel⟩, some ⟨0, Kind.swap, .channel⟩) ∧ y.matrix.drain = true ∧ y.canForward 0 = true) ∧
    (let y := (withRun (fun m => { m with run := true }) [data 1] [⟨0, Kind.eoi, .channel⟩]).tile k
     y.operands = some (0, some (data 1), some ⟨0, Kind.eoi, .channel⟩) ∧ (data 1).kind ≠ Kind.eoi ∧ (data 1).kind ≠ Kind.err ∧ Kind.eoi ≠ Kind.err) ∧
    (let y := (withRun (fun m => { m with run := true, swapWait := some (0, 0) }) [data 1] [data 2]).tile k
     y.operands = some (0, some (data 1), some (data 2)) ∧ y.snapped = false ∧ y.matrix.swapWait = some (0, 0) ∧ y.matrix.drain = false ∧
       y.canForward 0 = true) := by decide +kernel

theorem test_meets_MatrixHappenings_errors :
    (let y := (withRun (fun m => { m with run := true }) [⟨9, Kind.err, .channel⟩] [data 2]).tile base.here
     y.operands = some (0, some ⟨9, Kind.err, .channel⟩, some (data 2)) ∧ y.snapped = false ∧ y.matrix.swapWait = none ∧
       (y.matrix.evalid = true → y.portCredit 0 y.matrix.eport = true)) ∧
    (let y := (withRun (fun m => { m with run := true }) [data 1] [⟨9, Kind.err, .channel⟩]).tile base.here
     y.operands = some (0, some (data 1), some ⟨9, Kind.err, .channel⟩) ∧ (data 1).kind ≠ Kind.err ∧ y.matrix.swapWait = none ∧
       (y.matrix.svalid = true → y.portCredit 0 y.matrix.sport = true)) := by decide +kernel

theorem test_meets_MatrixHappenings_drain :
    let s := withRun (fun m => { m with drain := true, drainPort := 0 }) [] []
    let x := s.tile s.here
    x.matrix.drain = true ∧ x.snapped = false ∧ x.matrix.owner = some 0 ∧ x.ctxs[(0 : Fin 4)].port x.matrix.drainPort = .output 0 ∧
    (x.source 0).credits ≠ 0 := by decide +kernel

/-- A tile whose spindle set 0 is a root of one local contribution and no child. -/
def withSpin (f : SpinSet → SpinSet) : State := withTile fun x =>
  { x with cfg := { x.cfg with spin := x.cfg.spin.set 0 ⟨true, true, 0, 0, 0, 1⟩ }, spins := x.spins.set 0 (f x.spins[(0 : Fin 4)]) }

theorem test_meets_Spindles :
    let s := withSpin fun y => { y with result := some .empty }
    let o : FmtQ := { opQ 0 with m7 := 72 }
    Runs s gOn ∧ (s.curTile.cfg.spin[setOf o]).valid = true ∧ (s.curTile.cfg.spin[setOf o]).root = true ∧
    (s.curTile.spins[setOf o]).result = some .empty ∧ SpinBank.empty.pois = false ∧ SpinBank.empty.ovf = 0 ∧ (qType o).width = 32 ∧
    (qType { opQ 0 with m7 := 64 }).width = 16 ∧
    ((s.curTile.spins[setOf o]).contribute (s.curTile.cfg.spin[setOf o]).nlocal (exaLanes (qType o) (s.getV o.s1))).isSome = true := by
  unfold Runs
  decide +kernel

theorem test_meets_Spindles_stops :
    let o := opQ 0
    let bad : SpinBank := { SpinBank.empty with pois := true }
    let big : SpinBank := { SpinBank.empty with ovf := 1 }
    let full : SpinBank := { SpinBank.empty with nlocal := 1 }
    Runs base gOn ∧ base.cur.trapped = false ∧ (base.curTile.cfg.spin[setOf o]).valid = false ∧
    (((withSpin id).curTile.cfg.spin[setOf o]).root = true ∧ ((withSpin id).curTile.spins[setOf o]).result = none ∧ (withSpin id).cur.trapped = false) ∧
    (((withSpin fun y => { y with result := some bad }).curTile.spins[setOf o]).result = some bad ∧ bad.pois = true) ∧
    (((withSpin fun y => { y with result := some big }).curTile.spins[setOf o]).result = some big ∧ big.pois = false ∧ big.ovf ≠ 0) ∧
    (let s := withSpin fun y => { y with even := full, odd := full }
     ((s.curTile.spins[setOf o]).contribute (s.curTile.cfg.spin[setOf o]).nlocal (exaLanes (qType o) (s.getV o.s1))) = none) ∧
    (let s := withTile fun x => { x with cfg := { x.cfg with spin := x.cfg.spin.set 0 ⟨true, false, 1, 0, 0, 1⟩ } }
     (s.curTile.cfg.spin[setOf o]).valid = true ∧ (s.curTile.cfg.spin[setOf o]).root = false) := by
  unfold Runs
  decide +kernel

theorem test_meets_Spindles_happenings :
    let p : Partial := ⟨Vector.replicate 16 0, 0, false, true, (base.here, 1)⟩
    let s := withSpin fun y => { y with partials := [p], creditsIn := 1, even := { SpinBank.empty with nlocal := 1 } }
    let x := s.tile s.here
    let y := x.spins[(0 : Fin 4)]
    let b := y.bank (y.parity 0)
    y.partials = p :: [] ∧ x.snapped = false ∧ p.flagsOk = true ∧ { p with lanes := Vector.replicate 16 (1 <<< 383) }.flagsOk = false ∧ (x.cfg.spin[(0 : Fin 4)]).valid = true ∧ b.nlocal = 1 ∧ b.nchild = 0 ∧ y.result = none ∧ b.kids = [] ∧
    0 < y.creditsIn ∧
    (let c : SpinCfg := ⟨true, false, 1, 0, 0, 1⟩
     let u := (withSpin fun y => { y with credits := 1, even := { SpinBank.empty with nlocal := 1 } }).modCurTile fun x =>
       { x with cfg := { x.cfg with spin := x.cfg.spin.set 0 c } }
     let z := (u.tile u.here).spins[(0 : Fin 4)]
     ((u.tile u.here).cfg.spin[(0 : Fin 4)]) = c ∧ c.valid = true ∧ c.root = false ∧ (z.bank (z.parity 0)).nlocal = c.nlocal ∧
       (z.bank (z.parity 0)).nchild = c.nchild ∧ 0 < z.credits ∧ (u.tile (neighbour u.here c.parent)).snapped = false ∧ (z.bank (z.parity 0)).kids = []) := by
  decide +kernel

theorem test_meets_ScratchLoadsRead :
    let s := withChan id
    let o := opM .i32
    Runs s gOn ∧ o.ty.isInt = true ∧ o.ty ≠ .i4 ∧ s.cur.acqPending = false ∧
    (∀ f ∈ [ScratchForm.scalar, .whole, .gather, .stride], ∀ a ∈ s.cur.elements f o,
      a % f.align o = 0 ∧ s.curTile.owned s.ctx a (f.size o) = true ∧ s.curTile.scratchPoison s.ctx a (f.size o) = false) ∧
    (s.cur.elements .stride o)[15]? = some 0 := by
  unfold Runs
  decide +kernel

theorem test_meets_ScratchStoresQueueAndChecksTrap :
    let s := withChan id
    let o := opM .i32
    (∀ f ∈ [ScratchForm.scalar, .whole, .gather, .stride], ∀ a ∈ s.cur.elements f o, a % f.align o = 0 ∧ s.curTile.owned s.ctx a (f.size o) = true) ∧
    (o.ord.getLsbD 1 = true → s.cur.psf = none ∧ s.cur.performed .tile = true) ∧ s.cur.stq.length < 8 ∧ s.cur.trapped = false ∧
    (let u := s.modCur (·.setS 4 1)
     (u.cur.elements .scalar o)[0]? = some 1 ∧ 1 % ScratchForm.scalar.align o ≠ 0) ∧
    (let u := s.modCur (·.setS 5 2)
     (u.cur.elements .stride o)[1]? = some 2 ∧ 2 % ScratchForm.stride.align o ≠ 0 ∧ (u.cur.elements .stride o)[0]? = some 0 ∧
       u.curTile.owned u.ctx 0 4 = true) ∧
    (base.cur.elements .scalar o)[0]? = some 0 ∧ 0 % ScratchForm.scalar.align o = 0 ∧ base.curTile.owned base.ctx 0 4 = false := by decide +kernel

/-- The context with a queued store. -/
def withStore : State := withChan fun x => x.setCtx 0 { x.ctxs[(0 : Fin 4)] with stq := [[(0, 7), (0, 8)]] }

theorem test_meets_QueuedStorePerforms :
    (withStore.ctxAt withStore.here 0).stq = [(0, 7), (0, 8)] :: [] ∧ (withStore.tile withStore.here).scratch.wf = true := by decide +kernel

theorem test_meets_IssueHappenings :
    let s := withTile fun x => { x with cycle := 5, divUntil := 5, fdivUntil := 5 }.setCtx 0
      { x.ctxs[(0 : Fin 4)] with landing := [(.s 3, 5)] }
    let x := s.tile s.here
    (RegRef.s 3, 5) ∈ x.ctxs[(0 : Fin 4)].landing ∧ 5 ≤ x.cycle.toNat ∧ 0 < x.divUntil ∧ x.divUntil ≤ x.cycle.toNat ∧ 0 < x.fdivUntil ∧
    x.fdivUntil ≤ x.cycle.toNat ∧
    (let u := withTask.modCur fun c => { c with run := .parked }
     u.tileRuns u.here = true ∧ u.cur.run = .parked ∧ u.cur.scanOrder.find? (u.curTile.taskReady u.ctx) = some 1) := by decide +kernel

/-! Global memory. -/

theorem test_meets_GlobalAccessesIssue :
    let o : FmtM := opM .i64
    Runs base gOn ∧ base.cur.gq.length < 16 ∧ (o.ord.getLsbD 1 = true → base.cur.psf = none ∧ base.cur.performed o.sco = true) ∧
    (base.cur.indexedAddr o).toNat % 64 = 0 ∧ (base.cur.baseAddr o).toNat % 16 = 0 ∧ (base.cur.indexedAddr o).toNat < 2 ^ 56 ∧
    ((withS 4 (2 ^ 56 - 64)).cur.indexedAddr o).toNat < 2 ^ 56 ∧ ((withS 4 (2 ^ 56 - 64)).cur.indexedAddr o).toNat % 64 = 0 ∧
    withSupervisor.cur.mode = .supervisor ∧ (withSupervisor.getS o.x).toNat % 8 = 0 ∧ base.cur.trapped = false ∧
    ((withS 4 1).cur.indexedAddr o).toNat % 2 ≠ 0 ∧ ((withS 4 1).cur.baseAddr o).toNat % 16 ≠ 0 ∧
    ((withS 4 (2 ^ 56)).cur.indexedAddr o).toNat % 64 = 0 ∧ 2 ^ 56 ≤ ((withS 4 (2 ^ 56)).cur.indexedAddr o).toNat := by
  unfold Runs
  decide +kernel

/-- The context with one access ready at a place of HBM. -/
def withAccess (kind : GKind) (stage : GStage) : State := withCtx fun c =>
  { c with gq := [⟨0, kind, 3, 64, 5, 0, 0, .tile, 0, true, stage, 0, (0, 0), false⟩], nextAcc := 1, wait := .access 0 }

def performed (kind : GKind) : Bool :=
  let s := withAccess kind (.ready (.hbm 64))
  let a : GAccess := ⟨0, kind, 3, 64, 5, 0, 0, .tile, 0, true, .ready (.hbm 64), 0, (0, 0), false⟩
  (s.ctxAt s.here 0).access a.id == some a && !(Target.hbm 64).isRemote && (s.ctxAt s.here 0).mayPerform a (.hbm 64) &&
    !s.lineHeld (.hbm 64) kind.size && !s.rangeHeld (.hbm 64) kind.size && (s.nextClaim (8 + (Target.hbm 64).slice)).map (·.claim) == some (.access (.ctx s.here 0 a.id)) && (s.mem.poisonAt (.hbm 64) kind.size).isEmpty

theorem test_meets_GlobalAccessesPerformAtTheirSlice :
    [GKind.load 1 true, .load 8 false, .loadV, .loadOnce, .store 8, .storeV, .storeOnce, .clear 8, .clear 0].all performed = true ∧
    base.mem.presentAt (.hbm 64) = false ∧ (base.mem.setPresent (.hbm 64)).presentAt (.hbm 64) = true := by decide +kernel

theorem test_meets_AtomicsPerformWhole :
    [GKind.atomic 0 .i64 false, .atomic 10 .i32 false, .atomic 1 .fp32 true, .call 2 false].all performed = true ∧
    (let m := { base.mem with programs := [⟨(Target.hbm 64).slice, 0, 2, 0, 0, 0, [0]⟩] }
     (m.program (.hbm 64) (base.tenantOf base.here) 2).isSome = true) := by decide +kernel

theorem test_meets_GlobalStoresChangeTheirBytes :
    base.mem.hbm.wf = true ∧ base.mem.lpddr.wf = true ∧ ((63 : Nat) < 64 ∨ 64 + 8 ≤ (63 : Nat)) ∧ ((72 : Nat) < 64 ∨ 64 + 8 ≤ (72 : Nat)) := by
  decide +kernel

theorem test_meets_PrefetchFencesAndRetries :
    let o := opM .i64
    Runs base gOn ∧ (base.cur.indexedAddr o).toNat % 8 = 0 ∧ 2 ^ 56 ≤ ((withS 4 (2 ^ 56)).cur.indexedAddr o).toNat ∧
    ((withS 4 (2 ^ 56)).cur.indexedAddr o).toNat % 8 = 0 ∧ tlbFind base.cur.utlb (base.cur.indexedAddr o).toNat = none ∧
    (tlbFind (withCtx fun c => { c with utlb := [⟨0, 16, .hbm 0, true, false, true, true, true⟩] }).cur.utlb 0).isSome = true ∧
    base.cur.psf = none ∧ base.cur.performed .fab = true ∧ base.unitsDone base.here base.ctx = true ∧
    ((withAccess (.load 8 false) (.retry (.hbm 0) 0)).ctxAt base.here 0).access 0 =
      some ⟨0, .load 8 false, 3, 64, 5, 0, 0, .tile, 0, true, .retry (.hbm 0) 0, 0, (0, 0), false⟩ ∧ 0 + 256 ≤ ((withTile fun x => { x with cycle := 256 }).tile base.here).cycle.toNat ∧
    Party.context base.here 0 ≠ .outside := by
  unfold Runs
  decide +kernel

theorem test_meets_WalksAndInvalidationsComplete :
    let w : Walk := ⟨0, 3, [.ctx base.here 0]⟩
    let s := base.modDie 0 fun d => { d with walks := [w] }
    (s.dies[(0 : Fin 8)].walks.take 64).find? (fun v => v.asid == w.asid && v.page == w.page) = some w ∧
    (∀ t ∈ (s.dies[(0 : Fin 8)].walk s.mem w.asid (w.page * 2 ^ 16)).reads, s.lineHeld t 8 = false) ∧
    (let v : Inval := ⟨0, 0, 0, 65535, [], some (1, 7)⟩
     let u := { base with mem := { base.mem with invals := [v] } }
     v ∈ u.mem.invals ∧ u.mem.invals.find? (·.k == v.k) = some v ∧ (∀ x ∈ v.waits, u.underWay x = false) ∧ v.cmd = some (1, 7)) ∧
    (let v : Inval := ⟨0, 0, 0, 65535, [], none⟩
     let u := { (withCtx fun c => { c with wait := .inval 0 }) with mem := { base.mem with invals := [v] } }
     v ∈ u.mem.invals ∧ v.cmd = none ∧ (u.tiles.map (·.1)).Nodup ∧ u.here ∈ u.tiles.map (·.1) ∧ (u.ctxAt u.here 0).wait = .inval v.k) := by
  decide +kernel

/-! Channels. -/

theorem test_meets_ChannelInstructions_sends :
    let s := withChan id
    let o := opPort 0
    Runs s gOn ∧ s.cur.viaHeld o.port = false ∧ s.writePort s.here s.ctx o.port = some (4, 8, 4) ∧ s.curTile.forwardPort s.ctx o.port = false ∧
    s.seamed o.port = false ∧ s.curTile.drainPort s.ctx o.port = false ∧ (o.ord.getLsbD 1 = true → s.cur.psf = none ∧ s.cur.performed o.sco = true) ∧
    s.cur.trapped = false ∧ s.curTile.readPort s.ctx o.port = none ∧ s.cur.port o.port = .output 0 ∧ o.tok = 0 ∧
    s.writePort s.here s.ctx 1 = none ∧ s.cur.port 4 = .closed ∧ (4 : Nat) < 64 / 8 := by
  unfold Runs
  decide +kernel

theorem test_meets_ChannelInstructions_receives :
    let s := withEntries [data 5, ⟨6, 5, .channel⟩]
    let e := withEntries [⟨6, 12, .channel⟩]
    s.curTile.readPort s.ctx 1 = some ([data 5, ⟨6, 5, .channel⟩], 8, 4) ∧ s.curTile.operandPort s.ctx 1 = false ∧ s.cur.viaHeld 1 = false ∧
    (data 5).kind = 0 ∧ (5 : BitVec 4) ≠ 0 ∧ (5 : BitVec 4) ≠ 12 ∧ e.curTile.readPort e.ctx 1 = some ([⟨6, 12, .channel⟩], 8, 4) ∧ (4 : Nat) < 64 / 8 ∧
    (let w := withChan fun x => { x with cfg := { x.cfg with sinks := x.cfg.sinks.set 0 ⟨true, 4, 2, none, none, .rne, 0⟩ } }.modSink 0
       fun y => { y with queue := [data 1, data 2] }
     w.curTile.readPort w.ctx 1 = some ([data 1, data 2], 32, 2) ∧ 64 / 32 ≤ 2 ∧ ∀ x ∈ [data 1, data 2].take (64 / 32), x.kind = 0) := by decide +kernel

theorem test_meets_PortsBindAndStreamsRun :
    let s := withChan id
    let o : FmtQ := { opPort 4 with m7 := 1 }
    Runs s gOn ∧ s.cur.viaHeld 4 = false ∧ s.cur.port 4 = .closed ∧ s.curTile.endpointValid 1 0 = true ∧ s.curTile.holds (bindingOf 1 0) = true ∧
    o.m7.toNat % 4 = 1 ∧ (s.cur.port 3 = .start ∧ s.cur.startQ[3] = []) ∧
    (s.modCur fun c => { c with ports := c.ports.set 1 .unbound }).curTile.holds (bindingOf 1 0) = false ∧
    s.cur.port 0 = .output 0 ∧ (s.cur.port 1 = .input 0 ∧ (s.curTile.sink 0).queue = []) ∧
    (s.cur.port 2 = .stream 0 ∧ (s.curTile.agen 0).st ≠ .running) ∧ s.cur.trapped = false ∧
    (s.curTile.endpointValid 1 31 = false ∧ s.outerSource 1 31 = false) ∧ ((withEntries [data 1]).curTile.sink 0).queue ≠ [] ∧
    s.cur.hasStream 0 = true ∧ s.cur.hasStream 3 = false ∧ s.cur.trapped = false ∧ s.cur.psf = none ∧ s.cur.performed (s.curTile.cfg.agen[(0 : Fin 4)]).scope = true ∧
    (s.modCurTile (·.modAgen 0 fun y => { y with st := .running })).curTile.agens[(0 : Fin 4)].st = .running := by
  unfold Runs
  decide +kernel

theorem test_meets_ChannelsDeliver :
    let s := withChan (·.modSink 0 fun y => { y with inflight := [data 5] })
    let m := withChan (·.modSink 0 fun y => { y with inflight := [⟨0, 9, .channel⟩] })
    ((s.tile s.here).sink (0 : Fin 64).val).inflight = data 5 :: [] ∧ ((s.tile s.here).sink 0).sent.length < ((s.tile s.here).sink 0).inflight.length ∧ ((s.tile s.here).cfg.sinkCfg (0 : Fin 64)).valid = true ∧
    ((s.tile s.here).cfg.sinkCfg (0 : Fin 64)).typed = false ∧ s.hub.circuitOfSink s.here (0 : Fin 64) = none ∧ (s.tile s.here).reel = none ∧
    ((data 5).routed false).kind ≠ 7 ∧ ((data 5).routed false).kind ≠ 9 ∧ ((data 5).routed true).kind ≠ 9 ∧ ((s.tile s.here).sink 0).cfg = [] ∧
    ((m.tile s.here).sink 0).inflight = ⟨0, 9, .channel⟩ :: [] ∧ ((⟨0, 9, .channel⟩ : Entry).routed false).kind = 9 ∧
    (let x := (withChan (·.modSink 0 fun y => { y with inflight := [data 5], cfg := [data 1] })).curTile
     (x.sink 0).cfg ≠ [] ∧ (x.sink 0).cfg.length < x.cfg.cfgGroup 0) ∧
    (12 : BitVec 4).toNat < 13 ∧ 13 ≤ (13 : BitVec 4).toNat := by decide +kernel

theorem test_meets_ChannelsDeliver_credits :
    let s := withChan (·.modSource 0 fun y => { y with returning := 1 })
    let r := (withChan fun x => { x with cfg := { x.cfg with sinks := x.cfg.sinks.set 0 ⟨true, 1, 0, none, none, .rne, 0⟩ }
                                         store := [(0, 0x8000860008000000)] })
    0 < ((s.tile s.here).source 0).returning ∧ ((r.tile r.here).source 0).returning = 0 ∧ r.sinkOf r.here 0 = some (r.here, 0) ∧
    (r.tile r.here).cfg.capacity 0 = 0 ∧ (r.tile r.here).sinkAsks 0 = true ∧ ((r.tile r.here).sink 0).asked = false := by decide +kernel

/-- A typed join from FP32 to FP8A at sink 0 with entries at its converter. -/
def withJoin (es : List Entry) : State := withChan fun x =>
  { x with cfg := { x.cfg with sinks := x.cfg.sinks.set 0 ⟨true, 1, 4, some .fp32, some .fp8a, .rne, 0x3F800000⟩ } }.modSink 0
    fun y => { y with convIn := es, scale := 0x3F800000 }

theorem test_meets_ChannelsDeliver_joins :
    let s := withJoin [data 5]
    let y := (s.tile s.here).sink 0
    (s.tile s.here).frozen = false ∧ y.held = [] ∧ y.convIn = data 5 :: [] ∧ ((s.tile s.here).cfg.sinkCfg 0).srcTy = some .fp32 ∧
    ((s.tile s.here).cfg.sinkCfg 0).dstTy = some .fp8a ∧ y.used < (s.tile s.here).cfg.capacity 0 ∧ scaleValid 0x3E000000 = true ∧
    ((withJoin [⟨0x3E000000, 10, .channel⟩]).curTile.sink 0).convIn = ⟨0x3E000000, 10, .channel⟩ :: [] ∧
    ((withJoin [⟨0, 5, .channel⟩]).curTile.sink 0).convIn = ⟨0, 5, .channel⟩ :: [] ∧ s.curTile.cfgFull 0 ⟨0, 5, .channel⟩ = false ∧ y.accN = 0 ∧
    (1 : Nat) < 2 ∧ (7 : Nat) < 8 ∧
    (let u := (withJoin [⟨0, 11, .channel⟩]).modCurTile fun x => { x with reel := some ⟨0, 0, 0, false, some 0, [], none, false, [], false, [], [], [], false, [], 1, none, none, [], [], none⟩ }
     (u.curTile.sink 0).convIn = ⟨0, 11, .channel⟩ :: [] ∧ (u.curTile.sink 0).accN = 0 ∧ u.curTile.reel.isSome = true ∧ (u.curTile.sink 0).cfg = [] ∧
     (let v := u.modCurTile (·.modSink 0 fun y => { y with cfg := [data 1] })
      (v.curTile.sink 0).cfg ≠ [] ∧ (v.curTile.sink 0).cfg.length < v.curTile.cfg.cfgGroup 0)) := by decide +kernel

/-- Operator 0 of a kind with the heads of its three inputs and a credit for each output. -/
def withOp (kind : OpKind) (a b c : List Entry) : State := withTile fun x =>
  let x := { x with cfg := { x.cfg with ops := x.cfg.ops.set 0 ⟨true, kind, 1, 1, 1, 2⟩ }, sources := [(32, ⟨1, 0⟩), (33, ⟨1, 0⟩)] }
  ((x.modSink 32 fun y => { y with queue := a }).modSink 33 fun y => { y with queue := b }).modSink 34 fun y => { y with queue := c }

theorem test_meets_OperatorsFire :
    let s := withOp .steer [data 5] [data 1] []
    let x := s.tile s.here
    x.frozen = false ∧ (x.cfg.ops[(0 : Fin 8)]).kind = .steer ∧ x.opHead 0 0 = some (data 5) ∧ x.opHead 0 1 = some (data 1) ∧
    (data 5).isData = true ∧ x.opCredit 0 0 = true ∧ x.opCredit 0 1 = true ∧
    (let x := (withOp .steer [⟨0, 5, .channel⟩] [⟨0, 5, .channel⟩] []).tile s.here
     x.opHead 0 0 = some ⟨0, 5, .channel⟩ ∧ x.opHead 0 1 = some ⟨0, 5, .channel⟩) ∧ (⟨0, 5, .channel⟩ : Entry).isData = false ∧
    ((withOp .steer [] [⟨7, 12, .channel⟩] []).tile s.here).opHead 0 1 = some ⟨7, 12, .channel⟩ ∧
    (let x := (withOp .merge [data 5] [data 6] [data 0]).tile s.here
     (x.cfg.ops[(0 : Fin 8)]).kind = .merge ∧ x.opHead 0 2 = some (data 0) ∧ x.opHead 0 0 = some (data 5) ∧ x.opCredit 0 0 = true) ∧
    (let x := (withOp .carry [data 5] [data 6] [data 1]).tile s.here
     (x.cfg.ops[(0 : Fin 8)]).kind = .carry ∧ x.loops[(0 : Fin 8)] = false ∧ x.opHead 0 0 = some (data 5) ∧ x.opHead 0 2 = some (data 1) ∧
       x.opHead 0 1 = some (data 6) ∧ (data 1).word.getLsbD 0 = true ∧ (data 0).word.getLsbD 0 = false ∧
       ({ x with loops := x.loops.set 0 true }).loops[(0 : Fin 8)] = true) ∧
    (let x := (withOp .fork [data 5] [] []).tile s.here
     (x.cfg.ops[(0 : Fin 8)]).kind = .fork ∧ x.opHead 0 0 = some (data 5) ∧ ∀ j, j < (x.cfg.ops[(0 : Fin 8)]).nout → x.opCredit 0 j = true) := by
  decide +kernel

/-- Stream 0 running in a mode, with words taken. -/
def withStream (mode : Nat) (taken : List Entry) : State := withChan fun x =>
  { x with cfg := { x.cfg with agen := x.cfg.agen.set 0 { x.cfg.agen[(0 : Fin 4)] with mode := mode } } }.modAgen 0
    fun y => { y with st := .running, taken := taken, leaf := some ⟨0, 16, .hbm 0, true, false, true, true, true⟩ }

theorem test_meets_StreamsMoveElements :
    ([0, 1, 3].all fun m =>
      let x := (withStream m []).curTile
      let a := x.cfg.agen[(0 : Fin 4)]
      let y := x.agen 0
      let va := a.address y.base y.pos
      a.reads && a.mode == m && base.dies[base.here.dieIx].clockStopped.isNone && !x.frozen && y.mayIssue a && y.spans.isEmpty && y.out.isEmpty && decide (y.queue.length < 4) && y.flight.isEmpty && y.parts.isEmpty &&
        x.streamOwns y.user va 8 && !x.scratchBadAt x.half va 8 && (m != 3 || (y.leaf.map fun l => l.covers va && (l.refuses .unitRead true).isNone) == some true)) =
      true ∧
    ([2, 4].all fun m =>
      let x := (withStream m [data 5]).curTile
      let a := x.cfg.agen[(0 : Fin 4)]
      let y := x.agen 0
      let va := a.address y.base y.pos
      !a.reads && a.mode == m && !x.frozen && y.mayIssue a && y.spans.isEmpty && y.taken == [data 5] && y.flight.isEmpty && y.parts.isEmpty &&
        x.streamOwns y.user va (elementBytes a.ty) && (m != 4 || (y.leaf.map fun l => l.covers va && (l.refuses .unitWrite true).isNone) == some true)) =
      true ∧
    ((withStream 4 [⟨0, 5, .channel⟩]).curTile.agen 0).taken = ⟨0, 5, .channel⟩ :: [] := by decide +kernel

/-- The same with one element under way at its slice. -/
def withElem (mode : Nat) (stage : ElemStage) : State := (withStream mode []).modCurTile (·.modAgen 0 fun y =>
  { y with flight := [⟨3, 64, [(.hbm 64, 0, 8, false)], [(64, 127)], stage, 5, none, true, false, false, 0, false⟩], pos := 1 })

theorem test_meets_StreamsMoveElements_slices :
    ([ElemStage.ready, .deferred].all fun stage =>
      let s := withElem 3 stage
      match s.elemAt s.here 0 3 with
      | none => false
      | some e => (stage == .deferred || (s.servedAt (e.slice.getD 0) (.stream s.here 0 e.n)).isSome) && e.n == 3 && e.stage == stage && e.fails.isNone && !(s.tile s.here).snapped && ((s.tile s.here).agen 0).elemTurn e &&
          (e.parts.all fun p => !p.1.isRemote && !s.lineHeld p.1 p.2.2.1) && ((s.tile s.here).cfg.agen[(0 : Fin 4)]).reads &&
          (s.mem.unitRead e.parts).toOption.isSome && (s.mem.unitWrite e.data e.parts).toOption.isSome) = true ∧
    (let x := (withElem 4 .ready).curTile
     (x.cfg.agen[(0 : Fin 4)]).reads = false ∧ (x.cfg.agen[(0 : Fin 4)]).ty ≠ .i4) ∧
    (let y := (withElem 3 .done).curTile.agen 0
     y.flight.length = 1 ∧ (y.flight.all fun e => e.own && e.fails.isNone && e.stage == .done) = true) ∧
    ((withElem 3 .ready).curTile.agen 0).flight.all (fun e => e.own && e.fails.isNone && e.stage != .done) = true := by decide +kernel

/-! Counters and transfers. -/

/-- Counter 0 owned by context 0, with watches. -/
def withCounter (f : Counter → Counter) (ws : List Watch) : State := withTile fun x =>
  { x with cfg := { x.cfg with counterOwner := x.cfg.counterOwner.set 0 (some 0) }, watches := ws }.modCounter 0 f

theorem test_meets_Counters :
    let o : FmtQ := { opQ 0 with s2 := 0 }
    let s := withCounter (fun c => { c with value := 5 }) []
    let k := counterOf o
    s.curTile.snapped = false ∧
    Runs s gOn ∧ s.curTile.cfg.counterOwner[k] = some s.ctx ∧ (s.getS o.s1).setWidth 48 ≠ (s.curTile.counters[k]).value ∧
    ((s.modCur (·.setS 4 5)).getS o.s1).setWidth 48 = (s.curTile.counters[k]).value ∧ (∀ w ∈ s.curTile.watches, w.coveredBy k 5 = false) ∧
    (let w : Watch := ⟨0, 5, 9, false, false, false⟩
     w ∈ (withCounter (fun c => { c with value := 5 }) [w]).curTile.watches ∧ w.coveredBy k 5 = true ∧ w.failed = false) ∧
    base.curTile.cfg.counterOwner[k] ≠ some base.ctx ∧ base.cur.trapped = false ∧ base.cur.events = [] ∧
    (let w : Watch := ⟨0, 5, 9, false, false, true⟩
     let u := withCounter (fun c => { c with value := 5 }) [w]
     (∀ w ∈ u.curTile.watches, w.coveredBy k 5 = true → w.failed = true) ∧ (∃ w ∈ u.curTile.watches, w.coveredBy k 5 = true)) ∧
    (withCtx fun c => { c with events := [⟨1, 2, 3, 4⟩] }).cur.events = ⟨1, 2, 3, 4⟩ :: [] := by
  unfold Runs
  decide +kernel

theorem test_meets_Counters_windows :
    let s := (withCounter (fun c => { c with dirty := some 0 }) []).modCurTile fun x => { x with cycle := 2048 }
    let x := s.tile s.here
    x.awake = true ∧ x.snapped = false ∧ (x.counters[(0 : Fin 16)]).windows < x.cycle.toNat / 1024 ∧ (x.counters[(0 : Fin 16)]).dirty = some 0 ∧
    0 + 2048 ≤ x.cycle.toNat ∧
    (let b : Beacon := ⟨0, 1, s.here, 0, 5, 64, 0, 0, 0, true⟩
     let mine := fun (b : Beacon) => b.die == (0 : Fin 8) && b.engine == (1 : Fin 64) && b.tile == s.here && b.g == (0 : Fin 16)
     ({ s with beaconsOut := [b] }).beaconsOut.find? mine = some b ∧ b.granted = true ∧ (s.tile s.here).region = some 0) := by decide +kernel

/-- A descriptor of one row of 64 bytes from global address 0 to scratch 0x100 of tile (0, 0), with mark 0 of its counter 0. -/
def goodDesc : Nat := 0x8000000000000100 * 2 ^ 64 + 0x0000001000100040 * 2 ^ 128 + 2 ^ 192 + 2 ^ 288

/-- The same by way of ports 0 and 1, one word back for each. -/
def viaDesc : Nat := goodDesc + (2 ^ 22 + 2 ^ 14 + 2 ^ 10 + 2 ^ 6) * 2 ^ 384

/-- The channel tile with the descriptor at scratch 0, and counter 0 owned. -/
def withDesc (v : Nat) : State := (withChan fun x => { x with cfg := { x.cfg with counterOwner := x.cfg.counterOwner.set 0 (some 0) } }.scratchWrite
  (x.scratchCells 0 64 v)).modDie 0 fun d => { d with st := .run }

/-- What the statement asks of a descriptor in a form. -/
def takesDesc (s : State) (f : XForm) (v : Nat) (free : Bool) : Bool :=
  match s.regionOf s.here with
  | none => false
  | some r => s.curTile.scratchRead s.ctx 0 64 == v && !s.cur.acqPending &&
      lowestBroken (s.brokenFields r f v ++ if f = .gather ∨ f = .scatter then s.brokenOffsets r f v [0] else []) == none &&
      s.slotFree s.here.dieIx 0 r.number (s.cur.slotOrder 0) == free && s.curTile.owned s.ctx 0 64 && !s.curTile.scratchPoison s.ctx 0 64

/-- A transfer of tile (0, 0) by engine 1 of its die, changed. -/
def someXfer (f : Transfer → Transfer) : Transfer := f
  { id := 7, die := 0, engine := 1, slot := some 0, tile := base.here, ctx := 0, region := 0, gen := 0, kind := .plain, desc := descOf goodDesc
    offsets := [], st := .active, cause := 0, seq := 0, asked := 0, got := [], taken := 0, src := [], pos := 0, out := [], packets := [], remote := []
    landed := 0, watch := .wanted, srcLeaf := none, dstLeaf := none, walking := false, failing := none, action := none, viaEot := false
    viaBack := false }

/-- The channel tile with counter 0 owned, and with the transfer. -/
def withXfer (f : Transfer → Transfer) : State := { withDesc 0 with xfers := [someXfer f] }

theorem test_meets_TransfersAreAccepted :
    let o := opQ 0
    Runs (withDesc goodDesc) gOn ∧ takesDesc (withDesc goodDesc) .plain goodDesc true = true ∧ takesDesc (withDesc viaDesc) .via viaDesc true = true ∧
    takesDesc ({ withDesc goodDesc with xfers := (List.range 64).map fun k => someXfer fun x => { x with engine := 0, slot := some k } }) .plain goodDesc false = true ∧
    takesDesc (withDesc goodDesc) .gather goodDesc true = true ∧ takesDesc (withDesc goodDesc) .scatter goodDesc true = true ∧
    (descOf goodDesc).count1 = 1 ∧ (o.ord.getLsbD 1 = true → base.cur.psf = none ∧ base.cur.performed o.sco = true) ∧
    ((withDesc goodDesc).getS o.s1).toNat = 0 ∧ ({ o with m7 := 1 } : FmtQ).m7.getLsbD 0 = true ∧
    (let s := withDesc 0
     ((s.regionOf s.here).map fun r => lowestBroken (s.brokenFields r .plain 0)) = some (some 16) ∧ s.cur.trapped = false ∧
     s.named (s.getS o.s1) = none) ∧
    (let s := (withXfer id).modCur (·.setS 4 7)
     s.named (s.getS o.s1) = some (someXfer id) ∧ (someXfer id).ended = false ∧ (someXfer fun x => { x with st := .done }).ended = true) := by
  unfold Runs
  decide +kernel

/-- Engine 1's beacon of the counter. -/
def someBeacon : Beacon := ⟨0, 1, base.here, 0, 5, 64, 0, 0, 0, false⟩

theorem test_meets_EnginesServeTheLeastSlack :
    let x := someXfer id
    let s := { withXfer id with beacons := [someBeacon] }
    x ∈ s.xfers ∧ x.die = 0 ∧ x.engine = 1 ∧ s.mayIssue x = true ∧ (s.slackOf x).isSome = true := by decide +kernel

/-- A packet of two bytes to scratch 0x100 of tile (0, 0), of a kind. -/
def somePacket (kind : PacketKind) (granted : Bool) : Packet :=
  { kind := kind, place := .tile 0 0 false 0x100, target := none, wo := false, span := (0, 0), start := 0x100, len := 2, first := 0, cells := [(0x100, 1), (0x101, 2)]
    inside := 0, slack := 0, order := 3, granted := granted, deferred := false, again := 0, ver := false }

theorem test_meets_ArbitersGrantInOrder :
    let s := withXfer fun x => { x with packets := [somePacket .write false] }
    (s.claims 0).map (fun (w : Waiting) => (w.cls, w.order)) = [(2, 3)] ∧
    ((withXfer fun x => { x with packets := [somePacket .response false] }).claims 0).map Waiting.cls = [1] ∧
    (({ s with beaconsOut := [someBeacon] }).claims 0).map Waiting.cls = [0, 2] ∧ base.claims 0 = [] ∧
    (((withAccess (.load 8 false) (.ready (.hbm 64))).claims (8 + (Target.hbm 64).slice)).map (·.claim)) = [.access (.ctx base.here 0 0)] ∧
    16 ≤ (lookupKey (0, 2) ({ s with passed := [((0, 2), 16)] }).passed).getD 0 ∧ (lookupKey (0, 2) ({ s with passed := [((0, 2), 15)] }).passed).getD 0 < 16 := by
  decide +kernel

theorem test_meets_TransfersProgress_watches :
    let s := withXfer id
    let x := someXfer id
    s.xferOf 7 = some x ∧ x.ended = false ∧ s.carried x = true ∧ x.watch = .wanted ∧ s.counterTile x = some s.here ∧
    (s.tile s.here).cfg.counterOwner[x.desc.cg] ≠ none ∧ (s.tile s.here).watches.length < 128 ∧
    (withXfer fun x => { x with watch := .refused }).xferOf 7 = some (someXfer fun x => { x with watch := .refused }) ∧
    (let u := s.modCurTile fun x => { x with cfg := { x.cfg with counterOwner := x.cfg.counterOwner.set 0 none } }
     (u.tile u.here).cfg.counterOwner[x.desc.cg] = none ∧ x.kind ≠ .load) ∧
    128 ≤ ((s.modCurTile fun y => { y with watches := List.replicate 128 ⟨0, 0, 0, false, false, false⟩ }).tile s.here).watches.length := by
  decide +kernel

theorem test_meets_TransfersProgress_packets :
    let p : Packet := { somePacket .write true with place := .global 0, target := some (.hbm 64), cells := [(0, 1)] }
    let q : Packet := { somePacket .read true with place := .global 0, target := some (.hbm 64), start := 0, cells := [] }
    let f : Transfer → Transfer := fun x => { x with packets := [somePacket .write true, p, q, somePacket .read true, somePacket .response true] }
    let s := withXfer f
    let x := someXfer f
    s.xferOf 7 = some x ∧ x.packets[0]? = some (somePacket .write true) ∧ x.packets[1]? = some p ∧ x.packets[2]? = some q ∧
    x.packets[3]? = some (somePacket .read true) ∧ x.packets[4]? = some (somePacket .response true) ∧ p.granted = true ∧ q.granted = true ∧
    (Target.hbm 64).isRemote = false ∧ (∀ c ∈ p.cells, s.lineHeld ((Target.hbm 64).plus c.1) 1 = false) ∧
    (s.mem.landCells (.hbm 64) p.wo p.cells).toOption.isSome = true ∧ (s.mem.unitRead [(.hbm 64, 0, q.len, q.wo)]).toOption.isSome = true ∧
    s.lineHeld (.hbm 64) q.len = false ∧ (somePacket .write true).target = none ∧ (somePacket .write true).place = .tile 0 0 false 0x100 ∧
    ((s.region x.region).map (·.gen)) = some x.gen ∧ ((s.standing x.region).map (·.gen)) = some x.gen ∧ { s with regions := [] }.region x.region = none ∧
    (let y := s.tile s.here
     (∀ c ∈ (somePacket .write true).cells, y.reachable false c.1 1 = true) ∧ y.reachable false 0x60000 1 = false ∧
       y.reachable false 0x100 2 = true ∧ y.scratchBadAt (y.halfOf false) 0x100 2 = false ∧ 1 ≤ s.admits s.here 1) := by decide +kernel

theorem test_meets_TransfersProgress_ends :
    let f : Transfer → Transfer := fun x => { x with landed := 64 }
    let s := withXfer f
    let x := someXfer f
    s.xferOf 7 = some x ∧ x.ended = false ∧ x.slot.isSome = true ∧ x.packets = [] ∧ s.remoteFor 7 = false ∧ x.failing = none ∧ x.out = [] ∧
    x.landed = x.desc.dstBytes ∧ x.kind ≠ .via ∧ (someXfer fun x => { x with failing := some 9 }).failing = some 9 ∧
    (let f : Transfer → Transfer := fun x => { x with st := .done, action := some (data 5), desc := { x.desc with ctarget := 2 } }
     let u := withXfer f
     u.xferOf 7 = some (someXfer f) ∧ (someXfer f).action = some (data 5) ∧ u.entrySink (someXfer f) = some (u.here, 0) ∧
     ((u.tile u.here).sink 0).queue.length < max ((u.tile u.here).cfg.capacity 0) 1 ∧
     u.entrySink (someXfer fun x => { f x with desc := { x.desc with ctarget := 0 } }) = none) ∧ s.restoreWaits 0 1 = false := by decide +kernel

/-! Barriers and bales. -/

theorem test_meets_BarrierInstructionsGoToTheirPool :
    let o := opQ 1
    Runs base gOn ∧ (o.ord.getLsbD 1 = true → base.cur.psf = none ∧ base.cur.performed o.sco = true) ∧
    (let r : FmtQ := { o with m7 := 0x50 }
     r.ord.getLsbD 1 = true ∧ base.cur.psf = none ∧ base.cur.performed r.sco = true) := by
  unfold Runs
  decide +kernel

/-- Barrier 0 of die 0, held by the region of tile (0, 0), with one operation in the pool's queue. -/
def withBarrier (b : Barrier) (kind : BarKind) (h : Word) : State :=
  base.modDie 0 fun d => { d with barriers := [(0, { b with held := some 0, gen := 1 })], poolQ := [⟨base.here, 0, 0, 0, kind, h, 0, true, 0⟩] }

/-- What the statement asks of every operation on the barrier that its handle names. -/
def operates (b : Barrier) (kind : BarKind) : Bool :=
  let s := withBarrier b kind 1
  s.dies[(0 : Fin 8)].poolQ == [⟨base.here, 0, 0, 0, kind, 1, 0, true, 0⟩] && s.dies[(0 : Fin 8)].poolWaits == [] && barDie 1 == 0 &&
    s.barrierOf 1 == some { b with held := some 0, gen := 1 } && (s.regionOf base.here).map (·.number) == some 0

theorem test_meets_BarrierPools_operations :
    let b := Barrier.free
    operates { b with ref := 1 } .free = true ∧ operates { b with ref := 2 } .free = true ∧ operates { b with ref := 65535 } .ref = true ∧
    operates { b with ref := 65534 } .ref = true ∧ operates b (.init 0) = true ∧ operates b (.init 65536) = true ∧
    operates { b with arrived := 1 } (.init 65535) = true ∧ operates b (.init 65535) = true ∧
    operates b (.arrive 3 1) = true ∧ operates { b with expect := 65535, arrived := 65534 } (.arrive 3 2) = true ∧
    operates { b with expect := 65535, arrived := 65534 } (.arrive 3 1) = true ∧ operates { b with expect := 65535 } (.arrive 3 (-1)) = true ∧
    operates { b with bytes := 2 ^ 47 - 1 } (.exp 1) = true ∧ operates { b with bytes := 2 ^ 47 - 2 } (.exp 1) = true ∧
    operates b (.wait 0) = true ∧ b.reached 0 = true ∧ operates { b with err := 9 } (.wait 0) = true ∧ operates b (.test 3 0) = true ∧
    operates { b with err := 9 } (.test 3 0) = true ∧ operates b (.test 3 1) = true ∧ b.reached 1 = false := by decide +kernel

theorem test_meets_BarrierPools_handles :
    (withBarrier Barrier.free .free 2).barrierOf 2 = none ∧ barDie 2 = 0 ∧
    (let s := (withBarrier Barrier.free .free 1).modDie 0 fun d => { d with barriers := [(0, { Barrier.free with held := some 5, gen := 1 })] }
     s.barrierOf 1 = some { Barrier.free with held := some 5 } ∧ some 5 ≠ (s.regionOf s.here).map (·.number)) ∧
    (let s := withBarrier Barrier.free (.alloc 3 1) 0
     s.dies[(0 : Fin 8)].poolQ = [⟨base.here, 0, 0, 0, .alloc 3 1, 0, 0, true, 0⟩] ∧ s.dies[(0 : Fin 8)].poolWaits = [] ∧
     (1 : Nat) < 4096 ∧ (s.dies[(0 : Fin 8)].barrier 1).held = none ∧ (s.dies[(0 : Fin 8)].barrier 4095).held = none ∧
     s.dies[(0 : Fin 8)].barriers.countP (fun b => b.2.held.isSome && b.2.held == some 0) < 2048 ∧ s.regionKey base.here = (0, 0)) ∧
    (let far : TileId := ⟨1, 0, 0⟩
     (base.modDie 0 fun d => { d with poolQ := [⟨far, 0, 0, 0, .free, 1, 0, true, 0⟩] }).dies[(0 : Fin 8)].arrivals.head? = none ∧ far.dieIx ≠ 0) := by decide +kernel

theorem test_meets_BarrierPools_arrivals :
    let a : Arrival := ⟨1, 64, 0, 7, 0, 0, (0, 0), none, 0, true, 0⟩
    let s := (withBarrier { Barrier.free with bytes := 64 } .free 1).modDie 0 fun d => { d with arrivals := [a] }
    s.dies[(0 : Fin 8)].arrivals = a :: [] ∧ ((s.modDie 0 fun d => { d with poolQ := [] }).dies[(0 : Fin 8)].poolQ.head? = none) ∧ a.reached < 1 ∧ s.dies[(0 : Fin 8)].poolWaits = [] ∧ (s.barrierOf a.handle).isSome = true ∧ barDie a.handle = 0 ∧
    -(2 ^ 47) ≤ (64 : Int) - a.bytes ∧ s.barrierOf 2 = none ∧
    (let b : Barrier := { Barrier.free with expect := 1, arrived := 1, bytes := -1 }
     1 ≤ b.expect.toNat ∧ b.arrived = b.expect ∧ b.bytes ≤ 0 ∧ b.bytes < 0 ∧ b.err = 0) := by decide +kernel

/-- Bale record 0 of the region of tile (0, 0), in a state; its handle is 1. -/
def withBale (st : BaleState) (f : Bale → Bale) : State := withHub fun h => { h with bales := [(0, f { Bale.free with st := some st })] }

theorem test_meets_BaleInstructions :
    ([BaleState.opened, .sealed, .committing, .aborting, .committed, .aborted, .peerLost].all fun st =>
      let s := withBale st id
      s.baleFor 1 (s.regionOf s.here) == some { Bale.free with st := some st }) = true ∧
    Runs base gOn ∧ base.cur.psf = none ∧ base.cur.performed .fab = true ∧ base.cur.trapped = false ∧ (base.regionOf base.here).isSome = true ∧
    base.baleFor 1 (base.regionOf base.here) = none ∧ (base.hub.bale 0).st = none ∧ (base.hub.bale 255).st = none ∧ (255 : Nat) < 256 ∧
    base.hub.bales.countP (fun p => p.2.st.isSome && p.2.region == 0 && p.2.rgen == 0) < 64 ∧
    ((withBale .opened id).modCur (·.setS 4 1)).getS (opQ 0).s1 = 1 ∧ 2 ^ 56 ≤ ((withS 4 (2 ^ 56)).cur.baseAddr (opM .i64)).toNat ∧
    ((withS 4 (2 ^ 56)).cur.baseAddr (opM .i64)).toNat % 64 = 0 ∧ (base.cur.baseAddr (opM .i64)).toNat % 64 = 0 ∧
    (base.cur.baseAddr (opM .i64)).toNat < 2 ^ 56 ∧ base.cur.gq.length < 16 ∧ ((withS 4 1).cur.baseAddr (opM .i64)).toNat % 8 ≠ 0 := by
  unfold Runs
  decide +kernel

theorem test_meets_BaleInstructions_full :
    let s := withHub fun h => { h with bales := (List.range 64).map fun k => (k, { Bale.free with st := some .opened }) }
    64 ≤ s.hub.bales.countP fun p => p.2.st.isSome && p.2.region == 0 && p.2.rgen == 0 := by decide +kernel

/-- The loft's input holds a message, and the loft a bale with one store. -/
def withLoft (m : LoftMsg) (b : LoftBale) : State := withHub fun h => { h with loftIn := [(0, m)], loft := [b] }
def someLoft (mark : Option Nat) : LoftBale := ⟨2, 9, [(.hbm 0, 8, 5, false)], mark, false, [(0, (0, 65535))]⟩

theorem test_meets_LoftsAndCoordinators_loft :
    let st : LoftMsg := .store 2 9 (base.here, 0) (.hbm 64) 8 5 none (some (0, (0, 65535)))
    let s := withLoft st (someLoft none)
    (let h := { s.hub with loftIn := [] }
     s.hub.loftTake 0 = some (st, h) ∧ h.loftBale 2 9 = some (someLoft none) ∧ ¬ (2 ^ 31 < h.loftUsed + loftBytes 8)) ∧
    (withLoft (.seal 2 9 1) (someLoft none)).hub.loftTake 0 = some (.seal 2 9 1, { (withLoft (.seal 2 9 1) (someLoft none)).hub with loftIn := [] }) ∧
    (someLoft none).mark = none ∧ 1 = (someLoft none).stores.length ∧ (2 : Nat) ≠ (someLoft none).stores.length ∧ (someLoft (some 4)).mark = some 4 ∧
    s.hub.loftBale 3 9 = none ∧
    (withLoft (.decision 2 9 true) (someLoft none)).hub.loftTake 0 =
      some (.decision 2 9 true, { (withLoft (.decision 2 9 true) (someLoft none)).hub with loftIn := [] }) := by decide +kernel

theorem test_meets_LoftsAndCoordinators_full :
    let s := withHub fun h => { h with loft := (List.range 1024).map fun k => ⟨2, BitVec.ofNat 64 k, [(.hbm 0, 8, 5, false)], none, false, [(0, (0, 65535))]⟩ }
    s.hub.loftBale 2 9999 = none ∧ 1024 ≤ s.hub.loftIndex := by decide +kernel

theorem test_meets_LoftsAndCoordinators_coordinator :
    let s := withBale .sealed fun b => { b with counts := [(0, 1), (3, 2)] }
    let b := s.hub.bale 0
    (1 : Word) = baleHandle s.hub.node 0 b.gen ∧ baleIndex 1 = 0 ∧ b.st = some .sealed ∧ b.sealsSent = false ∧ b.doom = false ∧ b.lost = [] ∧ s.hub.loftIn = [] ∧
    (3 : BitVec 12) ≠ s.hub.node ∧ (0 : BitVec 12) = s.hub.node ∧
    (let u := withBale .sealed fun b => { b with counts := [(0, 1)], sealsSent := true, commitAsked := true, ready := [0] }
     let c := u.hub.bale 0
     c.st = some .sealed ∧ c.sealsSent = true ∧ c.commitAsked = true ∧ c.doom = false ∧ ∀ p ∈ c.counts, p.1 ∈ c.ready) ∧
    ((1 : Word), BaleAnswer.ready) ∈ ({ s.hub with baleAnswers := [(1, .ready)] }).baleAnswers ∧
    (1 : Word) ∈ ({ s.hub with baleDones := [1] }).baleDones ∧
    ((withBale .committing fun b => { b with counts := [(0, 1), (3, 2)] }).hub.bale 0).st = some .committing ∧ (3 : BitVec 12) ∉ b.done ∧
    ((withBale .sealed fun b => { b with lost := [3] }).hub.bale 0).lost = 3 :: [] ∧ ((withBale .opened id).hub.bale 0).st.isSome = true := by
  decide +kernel

/-! System registers, traps, reels. -/

theorem test_meets_SystemRegistersReadAndWrite :
    let s := withSupervisor
    let u := base
    Runs s gOn ∧ Runs u gOn ∧ (s.readSys s.here s.ctx 0x11).isSome = true ∧ (u.readSys u.here u.ctx 0x20).isSome = true ∧
    s.readSys s.here s.ctx 0x99 = none ∧ u.readSys u.here u.ctx 0x99 = none ∧ (opS 0x99).sreg.toNat = 0x99 ∧
    u.cur.mode = .user ∧ (0x11 ≤ (opS 0x14).sreg.toNat ∧ (opS 0x14).sreg.toNat ≤ 0x14) ∧ ¬ (0x11 ≤ (opS 0x10).sreg.toNat) ∧
    ¬ ((opS 0x15).sreg.toNat ≤ 0x14) ∧ neverWritten 0x22 = false ∧ neverWritten 0x24 = false ∧ neverWritten 0x25 = false ∧ neverWritten 0x20 = true ∧
    (s.readSys s.here s.ctx 0x24).isSome = true ∧ (s.readSys s.here s.ctx 0x25).isSome = true ∧ s.getS 4 &&& zeroFields 0x24 = 0 ∧
    (withS 4 2).getS 4 &&& zeroFields 0x22 ≠ 0 ∧ s.cur.mode = .supervisor ∧ s.cur.trapped = false ∧ u.cur.trapped = false := by
  unfold Runs
  decide +kernel

theorem test_meets_TrapsEnterTheHandler :
    let s := base
    (withCtx fun c => { c with trapped := true }).cur.trapped = true ∧ ((withCtx fun c => { c with trapped := true }).regionOf s.here).isSome = true ∧
    s.cur.trapped = false ∧ Runs s gOn ∧ s.cur.brkHalt = false ∧ (withCtx fun c => { c with brkHalt := true, landing := [(.s 3, 0)] }).cur.brkHalt = true ∧
    (∀ p ∈ (withCtx fun c => { c with brkHalt := true, landing := [(.s 3, 0)] }).cur.landing, p.2 ≤ base.curTile.cycle.toNat) ∧
    (let e := withCtx fun c => { c with evLate := true, evmask := true }
     e.cur.evLate = true ∧ e.cur.evmask = true ∧ e.cur.trapped = false) ∧
    (withTile fun x => { x with storeBad := [0] }).curTile.storeBad.contains base.cur.pc.toNat = true ∧
    s.curTile.storeBad.contains s.cur.pc.toNat = false ∧ majOf 0xFF = 0 ∧ majOf 0xFF00000000000000 ≠ 0 := by
  unfold Runs
  decide +kernel

theorem test_meets_StoreFaultsTrap :
    let f : StoreFault := ⟨Cause.perm, 64, 0⟩
    let s := withCtx fun c => { c with psf := some f }
    Runs s gOn ∧ s.cur.psf = some f ∧ s.cur.trapped = false ∧ ({ opM .i64 with ord := 3 } : FmtM).ord.getLsbD 1 = true ∧
    ({ opQ 0 with m7 := 0x50 } : FmtQ).ord.getLsbD 1 = true ∧ (s.modCur fun c => { c with mode := .supervisor }).cur.mode = .supervisor := by
  unfold Runs
  decide +kernel

theorem test_meets_EretReturns_and_others :
    base.cur.guardOn gOn = true ∧ withSupervisor.cur.mode = .supervisor ∧ base.cur.mode = .user ∧ base.cur.trapped = false ∧ Runs withSupervisor gOn ∧
    (∀ p ∈ withSupervisor.cur.landing, p.2 ≤ withSupervisor.curTile.cycle.toNat) := by
  unfold Runs
  decide +kernel

theorem test_meets_WfeWaitsForItsEvents :
    base.getS 4 &&& 3 = 0 ∧ (withS 4 1).getS 4 &&& 3 ≠ 0 ∧ (withS 4 1).cur.evpend &&& ((withS 4 1).getS 4 &&& 3) = 0 ∧
    (let s := withCtx fun c => { c.setS 4 1 with evLate := true }
     s.cur.evpend &&& (s.getS 4 &&& 3) ≠ 0) ∧ (withS 4 4).getS 4 &&& 3 = 0 := by decide +kernel

/-- A reel of one slot of one tile, below the tile that `scroll`s. -/
def someReel : Reel := ⟨64, true, 0, 0, 0, 0, 1, 0, 8, 0, 1, 0, [], 1, 1, 1, 2, ((0, 0), 0, 0), [], 0, 0, 0, 15⟩
def someBand (f : TileReel → TileReel) : TileReel :=
  f ⟨0, 0, 0, false, some 0, [(0, 8)], none, false, [], false, [], [], [], false, [], 1, none, none, [], [], none⟩

/-- The channel tile as the band tile of a reel in a running region. -/
def withReel (f : Reel → Reel) (b : TileReel → TileReel) : State :=
  let s := withChan fun x => { x with reel := some (someBand b) }
  { s.modRegion 0 (fun r => { r with reel := some (f someReel) }) with mem := mapped s.mem }

theorem test_meets_ReelInstructions :
    let d : Nat := 1 + 1 * 2 ^ 7 + 1 * 2 ^ 32
    natField d 52 12 = 0 ∧ natField d 19 13 = 0 ∧ natField d 32 20 ≠ 0 ∧ natField d 13 6 = 0 ∧ natField d 7 6 = 1 ∧ natField d 0 7 = 1 ∧
    (let s := (withS 5 (BitVec.ofNat 64 d))
     Runs s gOn ∧ s.cur.psf = none ∧ (s.getS 4).toNat % 64 = 0 ∧ (s.getS 5).toNat = d ∧ s.cur.performed .pkg = true ∧
     ((s.regionOf s.here).map fun r => (r.inBand 0 1 1 s.here, r.reel)) = some (false, none)) ∧
    (let s := withReel id id
     ((s.regionOf s.here).bind (·.reel)) = some someReel ∧ s.curTile.reel = some (someBand id) ∧ s.cur.performed .tile = true) ∧
    base.curTile.reel = none ∧ base.cur.trapped = false ∧ (withReel id id).curTile.reel ≠ none ∧ (withReel id id).cur.trapped = false ∧
    (let s := withChan fun x => x.setCtx 0 { x.ctxs[(0 : Fin 4)] with mode := .supervisor }
     s.cur.mode = .supervisor ∧ s.cur.port 0 = .output 0 ∧ s.writePort s.here s.ctx 0 = some (4, 8, 4) ∧ s.curTile.owned s.ctx 0 32 = true ∧
     s.curTile.scratchPoison s.ctx 0 32 = false ∧ s.cur.viaHeld 0 = false ∧ s.curTile.forwardPort s.ctx 0 = false ∧ s.seamed 0 = false ∧
     s.curTile.drainPort s.ctx 0 = false ∧ 32 / 8 ≤ 4 ∧ (s.getS 4).toNat % 32 = 0 ∧ s.curTile.reel = none ∧
     (∀ k : Fin 4, k = s.ctx ∨ (s.curTile.ctxs[k]).run = .parked ∨ (s.curTile.ctxs[k]).run = .disabled) ∧
     s.nothingOut s.here = true ∧ s.curTile.drained = true ∧ s.swapTaken s.here = true ∧
     s.cur.acqPending = false) := by
  unfold Runs
  decide +kernel

theorem test_meets_ReelHappenings :
    let s := withReel id id
    let r := (s.region 0).getD (Region.bare 0 0 0)
    let f := someReel
    s.region r.number = some r ∧ r.reel = some f ∧ r.phase = .running ∧ f.laid = true ∧ f.train < f.trains ∧ 0 < f.entryCredits ∧ f.trainTail = 0 ∧
    (s.imageBytes r none (f.trainVa + f.train * f.tstride + f.trainPos).toNat 8).toOption = some 0x10001 ∧ 0 ≤ (f.trainVa : Int) + f.train * f.tstride + f.trainPos ∧
    s.regionOf s.here = some r ∧ (s.tile s.here).reel = some (someBand id) ∧ (s.tile s.here).snapped = false ∧
    s.copyPieces s.here true = s ∧ s.copyPieces s.here false = s := by
  decide +kernel

theorem test_meets_ReelHappenings_swaps :
    let s := (withReel id fun b => { b with forwardReady := true, loading := some (some 0), framesDone := true }).modCtx base.here 0
      fun c => { c with run := .disabled }
    let b := someBand fun b => { b with forwardReady := true, loading := some (some 0), framesDone := true }
    (s.tile s.here).reel = some b ∧ s.quiet s.here = true ∧ s.swapReady s.here someReel b = true ∧ s.loaded b = true ∧ b.seamsOwed = [] ∧ (s.tile s.here).drained = true ∧
    (let u := (withReel id fun b => { b with forwardReady := true }).modCtx base.here 0 fun c => { c with run := .disabled }
     let c := someBand fun b => { b with forwardReady := true }
     u.swapReady u.here someReel c = true ∧ u.loaded c = false ∧ c.stage.isSome = true ∧ c.heldSince = none) ∧
    (let c := someBand id
     (s.tile s.here).forwardInputs someReel c = [31] ∧
     ((s.modTile s.here (·.modSink 31 fun y => { y with held := [⟨0, 11, .channel⟩] })).tile s.here).sealed 31 = true ∧ c.forwardReady = false) := by
  decide +kernel

/-- Whether an action of the feeder goes well. -/
def goesWell (x : Option (Except LoadStop State)) : Bool :=
  match x with
  | some (.ok _) => true
  | _ => false

theorem test_meets_ReelHappenings_copies :
    let s := withReel id fun b => { b with toSave := [(0, 64, 8)] }
    (s.acceptPiece s.here 0 .save true true 0 (0, 64, 8)).isSome = true ∧
    (let c := someBand fun b => { b with loading := some (some 0), restores := [(0, 64, 8)] }
     let u := withReel id fun b => { b with loading := some (some 0), restores := [(0, 64, 8)] }
     c.loading = some (some 0) ∧ c.segments = [] ∧ c.restoreDue = false ∧ c.restores = (0, 64, 8) :: [] ∧
     (u.acceptPiece u.here 0 .load true false (c.swaps + 1) (0, 64, 8)).isSome = true) := by decide +kernel

theorem test_meets_ReelHappenings_feeder :
    let s := withReel id fun b => { b with loading := some (some 0), segments := [(0, 64, 8)] }
    let r := (s.region 0).getD (Region.bare 0 0 0)
    goesWell ((r.slotTiles someReel 0).findSome? (s.loadAction r someReel)) = true := by decide +kernel

/-! Commands of a host. -/

/-- A command of the listed node 1, or of another, with its arguments. -/
def cmd (node : BitVec 12) (l : List Word) : Cmd := ⟨node, 7, Vector.ofFn fun i => (l[i.val]?).getD 0⟩

/-- The record of a command has come in from its node. -/
def withRecord (c : Cmd) (op : Nat) : State := withHub fun h => { h with cmdsIn := [⟨c.node, c.record op, 0, h.hosts.contains c.node, h.hosts.head? == some c.node⟩] }

theorem test_meets_UnlistedNodesAreDenied :
    let c := cmd 2 [1, 2, 3, 4, 5, 6, 7]
    base.power ≠ .recovery ∧
    ([0x01, 0x17, 0x27, 0x41].all fun op =>
      let s := withRecord c op
      match s.hub.cmdsIn.find? (fun y => y.node == c.node) with
      | some x => s.requestsDone x && !x.listed && recordFields x.record == c.record op
      | none => false) = true := by decide +kernel

theorem test_meets_QueueMemoryAndLinkCommands :
    Serves (withRecord (cmd 1 []) 0x02) (cmd 1 []) 0x02 ∧ Serves (withRecord (cmd 1 [16383, 2 ^ 56 - 128, 16, 2 ^ 28 - 1, 2]) 0x01) (cmd 1 [16383, 2 ^ 56 - 128, 16, 2 ^ 28 - 1, 2]) 0x01 ∧
    base.hub.writes = [] ∧ base.hub.doneOut = [] ∧
    (let c := cmd 1 [16383, 2 ^ 56 - 128, 16, 2 ^ 28 - 1, 2]
     c.arg 0 < 16384 ∧ c.arg 1 % 128 = 0 ∧ c.arg 1 < 2 ^ 56 ∧ 2 ≤ c.arg 2 ∧ c.arg 2 ≤ 16 ∧ c.arg 3 < 2 ^ 28 ∧ c.arg 4 ≤ 2) ∧
    (let w := base.hub.queue 0
     w.tail - w.head + 1 ≤ 2 ^ w.k ∧ 2 ^ w.k < w.tail - w.head + 2) ∧
    (let c := cmd 1 [2 ^ 19, 1]
     c.arg 0 % 2 ^ 19 = 0 ∧ c.arg 1 ≤ 1 ∧ inRange (c.arg 1) (c.arg 0) (2 ^ 19) = true) ∧ (2 ^ 16 - 1 < 2 ^ 16 ∧ (0 : Nat) + 2 ^ 56 ≤ 2 ^ 56) ∧
    (let c := cmd 1 [1023, 3, 0, 1]
     let e := accessEntry c.a[1] c.a[2] c.a[3]
     c.arg 0 < 1024 ∧ field c.a[1] 5 7 = 0 ∧ e.base % 2 ^ 16 = 0 ∧ e.base < 2 ^ 56 ∧ e.pages < 2 ^ 32 ∧ (e.v = true → 0 < e.pages)) ∧
    2 ^ 16 ≤ (cmd 1 [2 ^ 16]).arg 0 ∧
    (let c := cmd 1 [4095, 2 ^ 32 - 1, 1]
     c.arg 0 < 4096 ∧ c.arg 1 < 2 ^ 32 ∧ c.arg 2 ≤ 1 ∧ c.arg 2 ≠ base.hub.version.toNat) ∧
    (cmd 1 [31]).arg 0 = (31 : Fin 32).val ∧ ((cmd 1 [0]).arg 0 ≤ 1 ∧ ((cmd 1 [0]).arg 0 == 1) = base.hub.version) ∧
    ((cmd 1 [1]).arg 0 ≤ 1 ∧ ((cmd 1 [1]).arg 0 == 1) ≠ base.hub.version) ∧
    (let m := ((mapped base.mem).writeAt (.hbm 0x102000) 8 0x7F)
     (walk m 0 64).toOption.map (·.wo) = some true ∧ { base with mem := m }.walkHeld 0 64 = false) := by
  unfold Serves
  decide +kernel

theorem test_meets_DieAndPlatformCommands :
    Serves (withRecord (cmd 1 [7]) 0x39) (cmd 1 [7]) 0x39 ∧ base.hub.writes = [] ∧ base.hub.doneOut = [] ∧ (cmd 1 [7, 2]).arg 0 < 8 ∧ (cmd 1 [7, 2]).arg 1 ≤ 2 ∧
    (base.mayEnter 7 .hold = true ∧ base.dies[(7 : Fin 8)].st ≠ .hold) ∧ base.mayEnter 7 .run = false ∧ (base.mayEnter 7 .off = true ∧ base.dies[(7 : Fin 8)].st = .off) ∧
    (base.modDie 0 fun d => { d with st := .run }).mayEnter 0 .off = false ∧
    (cmd 1 [7, 15]).arg 1 < 16 ∧ base.dies[(7 : Fin 8)].clockStopped = none ∧
    ((cmd 1 [7, 79]).arg 1 < 80 ∧ base.columnHeld 7 79 = false ∧ base.dies[(7 : Fin 8)].repairing = none) ∧
    base.dies[(7 : Fin 8)].spares < 2 ∧ 2 ≤ (base.modDie 7 fun d => { d with spares := 2 }).dies[(7 : Fin 8)].spares ∧
    (let c := cmd 1 [0xFFFFFFFFF002]
     (((withRecord c 0x27).hub.cmdsIn.find? fun x => x.node == c.node).any (·.first)) = true ∧ field c.a[0] 48 16 = 0 ∧
     (((List.range 4).map fun i => bits c.a[0] (12 * i) 12).filter fun n => n != 0xFFF) ≠ []) ∧
    (let c := cmd 1 [4096, 0]
     c.arg 0 % 4096 = 0 ∧ c.arg 0 + c.arg 1 ≤ 2 ^ 40 ∧ c.arg 1 ≤ 2 ^ 26 ∧ base.mem.poisonAt (.hbm (c.arg 0)) (c.arg 1) = [] ∧ base.rangeHeld (.hbm (c.arg 0)) (c.arg 1) = false) ∧
    (let c := cmd 1 [0, 0, 0, 0, 64]
     c.arg 4 % 64 = 0 ∧ c.arg 4 + 128 + signatureBytes ≤ 2 ^ 40 ∧ base.hub.nvm.sigIndex < 2 ^ 40 ∧
     base.lineHeld (.hbm (c.arg 4)) (128 + signatureBytes) = false) := by
  unfold Serves
  decide +kernel

/-- The region of tile (0, 0), changed. -/
def withRegion (f : Region → Region) : State := base.modRegion 0 f
def someRegion (s : State) : Region := (s.region 0).getD (Region.bare 0 0 0)

theorem test_meets_RegionCommands :
    let c := cmd 1 [0, 0, 4096]
    Serves (withRecord c 0x31) c 0x31 ∧ c.arg 0 < 2048 ∧ c.arg 1 < 256 ∧ base.regionWaits (someRegion base) = false ∧
    base.regionNamed (c.arg 0) (c.arg 1) = some (someRegion base) ∧
    base.ending (someRegion base) = false ∧ (someRegion base).phase = .running ∧ base.regionIdle (someRegion base) = false ∧
    saveAreaGood (c.arg 2) ((someRegion base).launch.rows * (someRegion base).launch.cols) = true ∧ c.arg 2 < 2 ^ 40 ∧ c.arg 2 % 4096 = 0 ∧
    (let s := withRegion fun r => { r with phase := .paused }
     s.regionNamed 0 0 = some (someRegion s) ∧ (someRegion s).phase = .paused ∧ (cmd 1 [0, 0, 0]).arg 2 = 0) ∧
    (let s := withRegion fun r => { r with phase := .evicted }
     s.regionNamed 0 0 = some (someRegion s) ∧ (someRegion s).phase = .evicted) ∧
    (let s := withRegion fun r => { r with phase := .pausing none 1 7 }
     s.regionNamed 0 0 = some (someRegion s) ∧ s.regionWaits (someRegion s) = true) ∧
    (let s := withRegion fun r => { r with phase := .placed }
     s.regionNamed 0 0 = some (someRegion s) ∧ s.regionWaits (someRegion s) = false ∧ (someRegion s).phase = .placed) ∧
    base.regionNamed 1 0 = none ∧
    (let s := base.modCtx base.here 0 fun c => { c with run := .parked }
     s.ending (someRegion s) = s.regionIdle (someRegion s)) ∧
    (let f : FaultEntry := ⟨1, 0, 0, 0, 0, 0⟩
     let s := withRegion fun r => { r with faults := [f] }
     s.regions.find? (fun r => r.number == 0 && r.gen.toNat == 0) = some (someRegion s) ∧ s.regionWaits (someRegion s) = false ∧
     (someRegion s).faults = f :: [] ∧ (someRegion base).faults = []) := by
  unfold Serves
  decide +kernel

theorem test_meets_DebugBaleAndCircuitCommands :
    let c := cmd 1 [0, 0, 0, 0]
    Serves (withRecord c 0x34) c 0x34 ∧ c.arg 0 < 2048 ∧ c.arg 1 < 256 ∧ c.arg 2 < 2 ^ 16 ∧ c.arg 3 = (0 : Fin 4).val ∧ base.regionNamed 0 0 = some (someRegion base) ∧
    base.regionWaits (someRegion base) = false ∧ (someRegion base).holdsTiles = true ∧ c.arg 2 / 2 ^ 9 < (someRegion base).launch.rows ∧
    c.arg 2 % 2 ^ 9 < (someRegion base).launch.cols ∧ (someRegion base).tileAt 0 0 = base.here ∧ base.cur.run = .running ∧ base.cur.wait = .none ∧
    base.cur.stepDue = none ∧ (∀ p ∈ base.cur.landing, p.2 ≤ base.curTile.cycle.toNat) ∧ (base.ctxAt base.here 1).run = .disabled ∧
    selectorOf (cmd 1 [0, 0, 0, 0, 1, 5]) = some (.s 1) ∧ base.selects base.here 0 (.s 1) = true ∧ (withCtx fun c => { c with run := .halted true }).cur.isHalted = true ∧ base.cur.isHalted = false ∧
    (Selector.s 1).accepts 5 = true ∧
    (let c := cmd 1 [4095, 0, 1]
     c.arg 0 < 4096 ∧ c.arg 2 ≤ 1) ∧ ((cmd 1 [63]).arg 0 < 64 ∧ (cmd 1 [63]).arg 3 = 0) ∧
    (let c := cmd 1 [63, 31, 4, 4, 4095, 63]
     c.arg 0 < 64 ∧ c.arg 1 = (31 : Fin 32).val ∧ c.arg 3 ∈ [1, 2, 4] ∧ c.arg 2 % c.arg 3 = 0 ∧ c.arg 2 + c.arg 3 ≤ 8 ∧ c.arg 4 < 4096 ∧ c.arg 5 < 64 ∧
     (∀ x ∈ base.hub.circuits, ¬ (x.1 ≠ c.arg 0 ∧ x.2.port = 31 ∧ c.arg 2 < x.2.lane + x.2.lanes ∧ x.2.lane < c.arg 2 + c.arg 3)) ∧
     (let h := { base.hub with circuits := [(5, ⟨31, 7, 1, 2, 0, none, none, none, none, [], 0⟩)] }
      ∃ x ∈ h.circuits, x.1 ≠ c.arg 0 ∧ x.2.port = 31 ∧ c.arg 2 < x.2.lane + x.2.lanes ∧ x.2.lane < c.arg 2 + c.arg 3)) := by
  unfold Serves
  decide +kernel

/-! Links, regions and the platform. -/

/-- A flit of a kind and number with both its check sums. -/
def flit (kind seq : Nat) : BitVec 512 :=
  let f : BitVec 512 := BitVec.ofNat 512 (kind * 2 ^ 44 + seq * 2 ^ 22)
  let f := f ||| ((crc16 (headerBytes f)).zeroExtend 512 <<< 48)
  f ||| ((crc32 (flitBytes f 0 60)).zeroExtend 512 <<< 480)

/-- Port 0 with flits accepted, and with flits to be replayed. -/
def withPort (rx : List (BitVec 512)) (replay : List (BitVec 12 × Nat)) : State :=
  withHub fun h => h.modPort 0 fun x => { x with rx := rx, replay := replay }

theorem test_meets_PortsReceiveFlits :
    let x := base.hub.ports[(0 : Fin 32)]
    x.up = true ∧ base.hub.flitLanes 0 = true ∧ headerGood (flit 2 0) = true ∧ flitGood (flit 2 0) = true ∧ headerGood 0 = false ∧ flitKind (flit 2 0) ∉ [0, 4, 5] ∧
    flitSeq (flit 2 0) = x.rxSeq ∧ flitSeq (flit 2 1) ≠ x.rxSeq ∧ headerGood (flit 2 1) = true ∧ flitGood (flit 2 1) = true ∧
    flitKind (flit 7 0) = 7 ∧ headerGood (flit 7 0) = true ∧ flitGood (flit 7 0) = true ∧ x.rx = [] ∧ flitStream (flit 7 0) = 0 ∧ field (flit 7 0) 16 6 = 0 ∧
    (let rec0 : StreamRec := ⟨3, 1, 0, 0, 0, 0, 0, 0, false⟩
     lookupKey 0 ((withHub fun h => h.modPort 0 fun x => { x with streams := [(0, rec0)] }).hub.ports[(0 : Fin 32)]).streams = some rec0) ∧
    64 ≤ ((lookupKey 0 [(0, List.replicate 64 (0 : Byte))]).getD [] ++ flitBytes (flit 7 0) 8 0).length ∧
    (([4, 5, 1, 3].all fun k => ((withPort [flit k 3] [(3, 7)]).hub.ports[(0 : Fin 32)]).rx == [flit k 3] && flitKind (flit k 3) == k) = true) ∧
    (let l := ((withPort [flit 5 3] [(2, 0), (3, 7)]).hub.ports[(0 : Fin 32)]).replay
     (∀ e ∈ l.dropWhile fun e => e.1 != flitSeq (flit 5 3), e.2 < 8) ∧
     ∃ e ∈ [((2 : BitVec 12), 0), ((3 : BitVec 12), 8)].dropWhile fun e => e.1 != flitSeq (flit 5 3), 8 ≤ e.2) ∧
    x.unsent = [] ∧ ([((3 : BitVec 12), 0)].filter fun e => e.1 != flitSeq (flit 4 3)).length < 512 ∧
    (base.meet 3 1).isSome = true ∧ (withHub fun h => { h with peers := [(3, 5)] }).meet 3 4 = none := by decide +kernel

/-- A request of context 0 to node 3, at a place. -/
def someRequest (place : ReqPlace) : RemoteReq := ⟨0, 3, place, false, .ctx base.here 0, 0, false, some (0, 0), 0, false, none⟩

theorem test_meets_DyfoldTrafficArrives :
    let rec0 : StreamRec := ⟨3, 1, 0, 0, 0, 0, 0, 0, false⟩
    let s := withHub fun h => (h.modPort 0 fun x => { x with rx := [flit 2 0], streams := [(0, rec0)] })
    (s.hub.ports[(0 : Fin 32)]).rx = flit 2 0 :: [] ∧ flitKind (flit 2 0) = 2 ∧
    lookupKey (flitStream (flit 2 0)) (s.hub.ports[(0 : Fin 32)]).streams = some rec0 ∧
    rec0.ver = flitVer (flit 2 0) ∧ { rec0 with ver := true }.ver ≠ flitVer (flit 2 0) ∧ s.power ≠ .recovery ∧
    lookupKey (flitStream (flit 2 0)) ((withPort [flit 2 0] []).hub.ports[(0 : Fin 32)]).streams = none ∧
    ([ReqPlace.sent 0, .nowhere].all fun p =>
      (withHub fun h => { h with remote := [someRequest p] }).hub.remote.find? (fun q => q.rid == (someRequest p).rid) == some (someRequest p)) = true ∧
    (someRequest .nowhere).place = .nowhere ∧ base.timedOut (someRequest .nowhere) = true ∧ base.timedOut (someRequest (.sent 0)) = false ∧
    (∀ q ∈ base.hub.remote, q.rid ≠ 5) ∧
    (let c : Circuit := ⟨0, 0, 1, 3, 0, some (base.here, 1), some (base.here, 0), none, some 4, [], 0⟩
     let u := withHub fun h => { (h.modPort 0 fun x => { x with rx := [flit 6 0] }) with circuits := [(63, c)] }
     lookupKey (63 : Fin 64).val u.hub.circuits = some c ∧ c.source = some (base.here, 0) ∧ c.port = 0 ∧ c.port ≠ 1 ∧
     c.sink = some (base.here, 1) ∧ flitKind (flit 6 0) = 6 ∧ flitKind (flit 8 0) = 8) ∧
    (9 : Nat) < 10 ∧ (lookupKey 9 base.hub.bridges).getD 0 < 15 := by decide +kernel

/-- Circuit 63 of port 0 whose ends an evicted region holds. -/
def withAway (kind : Nat) : State :=
  (withHub fun h => { (h.modPort 0 fun x => { x with rx := [flit kind 0] }) with circuits := [(63, ⟨0, 0, 1, 3, 0, none, none, none, some 4, [], 0⟩)] }).modRegion 0
    fun r => { r with phase := .evicted, ends := [(63, true, (0, 0), 1), (63, false, (0, 0), 0)] }

theorem test_meets_DyfoldTrafficArrives_away :
    let s := withAway 6
    (s.hub.ports[(0 : Fin 32)]).rx = flit 6 0 :: [] ∧ ((lookupKey 63 s.hub.circuits).map fun c => (c.sink, c.source, c.port)) = some (none, none, 0) ∧
    s.endAway 63 true = true ∧ s.endAway 63 false = true ∧ ((withAway 8).hub.ports[(0 : Fin 32)]).rx = flit 8 0 :: [] := by decide +kernel

theorem test_meets_DyfoldTrafficArrives_requests :
    let r := { someRequest (.sent 0) with writes := false }
    let s := withHub fun h => { h with remote := [r] }
    s.hub.remote.find? (fun q => q.rid == 0) = some r ∧ s.askerGone r = false ∧
    15 ≤ (lookupKey 9 (withHub fun h => { h with bridges := [(9, 15)] }).hub.bridges).getD 0 ∧
    (let g : OutFlit := ⟨some 3, false, none, none, none⟩
     ((withHub fun h => h.modPort 0 fun x => { x with rx := [flit 4 3], unsent := [g] }).hub.ports[(0 : Fin 32)]).unsent = g :: []) := by decide +kernel

/-- A launch record for a region of one tile, with one frame and no action at its end. -/
def record : Nat := 2 ^ 64 + 2 ^ 96 + 2 ^ 112 + 2 ^ 128 + 2 ^ 139

/-- Queue 0 enabled on a ring at address 2^20 of the mapped memory, with one record. -/
def withQueue (v : Nat) : State :=
  { withHub (fun h => h.modQueue 0 fun q => { q with base := 2 ^ 30, st := .enabled, tail := 1 }) with
    mem := (mapped base.mem).writeAt (.hbm (2 ^ 30)) 128 v }

theorem test_meets_RegionsComeAndGo_records :
    let s := withQueue record
    let w := s.hub.queue 0
    w.st = .enabled ∧ w.head ≠ w.tail ∧ w.cand = none ∧
    (match s.unitBytes (queueOwner w.reads 0 w.headSeq) w.asid (w.base + 128 * (w.head % 2 ^ w.k)) 128 with
      | .value v => v == record
      | _ => false) = true ∧ recordFormed w 0 w.headSeq record = true ∧ doneFormed record = true ∧ (launchOf record).doneKind = 0 := by decide +kernel

/-- A queued launch of one tile on die 0 that runs. -/
def withCandidate : State := (withHub fun h => h.modQueue 0 fun q => { q with st := .enabled, tail := 1, cand := some (launchOf record) }).modDie 0
  fun d => { d with st := .run, passDue := true }

theorem test_meets_RegionsComeAndGo_placement :
    withCandidate.dies[(0 : Fin 8)].st = .run ∧ withCandidate.dies[(0 : Fin 8)].passDue = true ∧ (withCandidate.candidates 0).length = 1 := by
  decide +kernel

theorem test_meets_RegionsComeAndGo_regions :
    let s := { withRegion (fun r => { r with phase := .placed, launch := { r.launch with image := 2 ^ 30 } }) with mem := mapped base.mem }
    s.region 0 = some (someRegion s) ∧ (someRegion s).number = 0 ∧ (someRegion s).phase = .placed ∧
    (let u := withRegion fun r => { r with phase := .installed, starts := [(base.here, 0, 3)] }
     (someRegion u).phase = .installed ∧ (someRegion u).starts[0]? = some (base.here, 0, 3)) ∧
    (let u := withRegion fun r => { r with phase := .installed }
     (someRegion u).phase = .installed ∧ (someRegion u).starts = []) ∧
    (let u := base.modCtx base.here 0 fun c => { c with run := .parked }
     (someRegion u).phase = .running ∧ u.regionIdle (someRegion u) = true) ∧
    (let u := withTile fun x => { x with cycle := 64 }
     u.regionOf u.here = some (someRegion u) ∧ (u.tile u.here).windows < (u.tile u.here).cycle.toNat / 2 ^ ((someRegion u).launch.winlog + 6)) := by
  decide +kernel

theorem test_meets_RegionsComeAndGo_install :
    let s := withRegion fun r => { r with phase := .placed, launch := { r.launch with frames := 0, segments := 0 } }
    s.region (someRegion s).number = some (someRegion s) ∧
    (match s.loadImage (someRegion s) with
      | .ok _ => true
      | .error _ => false) = true := by decide +kernel

/-- A CFG group of one frame at sink 0 of the channel tile: a CODE frame, kind 1, with one zero word for the shadow copy or
the active one. -/
def cfgGroup (shadow : Bool) : List Entry :=
  let f : Nat := 1 + (if shadow then 2 ^ 8 else 0) + 2 ^ (32 + 192 + 11)
  (List.range 4).map fun i => ⟨BitVec.ofNat 256 (f / 2 ^ (64 * i) % 2 ^ 64), 0, .channel⟩

def withCfg (shadow : Bool) : State := withChan (·.modSink 0 fun y => { y with cfg := cfgGroup shadow })

theorem test_meets_RegionsComeAndGo_cfg :
    (∀ shadow, let s := withCfg shadow
      let x := s.tile s.here
      let f : Frame := BitVec.ofNat 256 (frameOf (x.cfg.sinkBytes 0) ((x.sink 0).cfg.take (x.cfg.cfgGroup 0)))
      s.regionOf s.here = some (someRegion s) ∧ 0 < x.cfg.cfgGroup 0 ∧ x.cfg.cfgGroup 0 ≤ (x.sink 0).cfg.length ∧ f.kind ≠ 5 ∧
      s.frameNames (someRegion s) s.here f = true ∧ f.shadow = shadow ∧ (x.applyFrame f).isSome = true) := by decide +kernel

theorem test_meets_RegionsPauseAndResume :
    (let s := withRegion fun r => { r with phase := .pausing none 1 7 }
     s.regionOf s.here = some (someRegion s) ∧ (s.tile s.here).snapped = false ∧ s.canSnapshot s.here = true) ∧
    (let s := (withRegion fun r => { r with phase := .pausing none 1 7 }).modTile base.here fun x => { x with matrix := { x.matrix with busy := true } }
     (s.tile s.here).stopping = false ∧ s.canSnapshot s.here = false) ∧
    ((base.modTile base.here fun x => { x with stopping := true }).tile base.here).stopping = true ∧
    (∀ ev ∈ [none, some 4096],
     let s := (withRegion fun r => { r with phase := .pausing ev 1 7 }).modTile base.here fun x => { x with snapped := true }
     s.region 0 = some (someRegion s) ∧ (∀ t ∈ (someRegion s).tiles, s.tilePart t = true) ∧ s.enginesDone (someRegion s) = true ∧
       ∀ a, ev = some a → s.imageHeld (s.images (someRegion s)) a = false) ∧
    (let s := withRegion fun r => { r with phase := .restoring 4096 true 1 7 }
     s.region 0 = some (someRegion s) ∧ (someRegion s).saved = []) := by decide +kernel

/-- An evicted region of one tile whose saved part holds an uncorrectable error. -/
def withSaved : State :=
  let s := withRegion fun r => { r with phase := .restoring 4096 true 1 7, saved := [((0, 0), base.curTile)] }
  { s with mem := { s.mem with hbmBad := [512] } }

theorem test_meets_RegionsPauseAndResume_image :
    withSaved.region 0 = some (someRegion withSaved) ∧ (someRegion withSaved).saved = [((0, 0), base.curTile)] ∧
    withSaved.imageHeld (someRegion withSaved).saved 4096 = false ∧ withSaved.imageGood (someRegion withSaved) 4096 = false := by
  have h : (someRegion withSaved).saved = [((0, 0), base.curTile)] := by decide +kernel
  have b : withSaved.mem.hbmBad = [512] := by decide +kernel
  refine ⟨by decide +kernel, h, by decide +kernel, ?_⟩
  simp [State.imageGood, h, b, Tile.part, saveBytes]

theorem test_meets_PlatformHappenings :
    2000 ≤ ((withHub fun h => { h with hubTemps := h.hubTemps.set 1 2000 }).temperature 9).toInt ∧
    2000 ≤ ((base.modDie 7 fun d => { d with temp := 2000 }).temperature 7).toInt ∧
    (base.modDie 7 fun d => { d with clockStopped := some 15 }).dies[(7 : Fin 8)].clockStopped = some 15 ∧
    (base.modDie 7 fun d => { d with repairing := some (79, 1, 2, 3) }).dies[(7 : Fin 8)].repairing = some (79, 1, 2, 3) ∧
    (let w : WaitingCmd := ⟨0x21, 1, 9, 7, []⟩
     (withHub fun h => { h with waiting := [w] }).hub.waiting.filter (fun w => w.op == 0x21 && w.arg % 8 == (7 : Fin 8).val) = w :: []) ∧
    base.hub.waiting.filter (fun w => w.op == 0x21 && w.arg % 8 == (7 : Fin 8).val) = [] := by decide +kernel

/-- The last index of the program, reached. -/
def atLast : State := withCtx fun c => { c with pc := 2047 }

theorem test_meets_GuardsPrivilegeAndTheLastIndex :
    base.cur.trapped = false ∧ base.cur.guardOn gOff = false ∧ base.cur.guardOn gOn = true ∧ base.cur.pc ≠ 2047 ∧
    atLast.cur.trapped = false ∧ atLast.cur.pc = 2047 ∧ atLast.cur.guardOn gOff = false ∧ base.cur.mode = .user ∧ withSupervisor.cur.mode = .supervisor ∧
    Instr.addi gOff (opB 1) ∈ wholeForms gOff (opA .i64) (opB 1) (opM .i64) (opQ 0) (opS 0) ∧
    Instr.jal gOff (opB 1) ∈ jumpForms gOff (opB 1) (opC 1) (opQ 0) (opS 0) ∧
    Instr.vadd gOff (opA .i8) ∈ laneForms gOff (opA .i8) ∧
    Instr.pclr gOn (opM .i64) ∈ supervisorForms gOn (opM .i64) (opQ 0) (opS 0) ∧
    Instr.addi gOff (opB 1) ∉ supervisorForms gOff (opM .i64) (opQ 0) (opS 0) := by decide +kernel

theorem test_meets_StepRunsTheDecodedInstruction :
    let s := State.reset.issuing 0x11000663ffffffff
    let v := { s with agenda := s.agenda.tail, stalled := false }
    let x := { v with ctx := (v.tile s.here).k }
    s.nextMove = .cycle s.here ∧ s.power ≠ .off ∧ v.tileRuns s.here = true ∧ (v.tile s.here).stopping = false ∧ x.cur.run = .running ∧ x.cur.stepDue = none ∧ x.cur.haltDue = none ∧ x.cur.wait = .none ∧
    x.cur.busyUntil ≤ x.curTile.cycle.toNat ∧
    x.ready (.addi gOn ⟨3, 6, .i64, 0xFFFFFFFF⟩) x.curWord = true ∧ (x.cur.evLate && x.cur.evmask && !x.cur.trapped) = false ∧
    x.curTile.storeBad.contains x.cur.pc.toNat = false ∧ (decode x.curWord).toOption = some (.addi gOn ⟨3, 6, .i64, 0xFFFFFFFF⟩) ∧
    (match exec (.addi gOn ⟨3, 6, .i64, 0xFFFFFFFF⟩) x with
      | .next u => !u.stalled && u.curTile.awake
      | _ => false) = true ∧
    (let u := { base with agenda := [.happen (.endWindow base.here 0)] }
     u.agenda = .happen (.endWindow base.here 0) :: [] ∧ issuedOnly (.endWindow base.here 0) = false ∧ u.power ≠ .off) := by decide +kernel

theorem test_meets_DecodeOfEncode :
    let i : Instr := .addi ⟨3, true⟩ ⟨31, 30, .i64, 0x80000000⟩
    (encode i).isSome = true ∧ i.wf = true ∧ ((encode i).bind fun w => (decode w).toOption) = some i := by decide +kernel

theorem test_meets_EncodeOfDecode :
    ((decode 0x0101180000000004).toOption.bind encode) = some 0x0101180000000004 := by decide +kernel

theorem test_meets_MemoryStaysCanonical :
    MemoryWf base ∧
    Instr.addi gOn (opB 1) ∈ computeForms gOn (opA .i64) (opB 1) (opC 0) ∧
    (match exec (.addi gOn (opB 1)) base with
      | .next _ => true
      | _ => false) = true ∧
    (match exec (.storeQueuePerform base.here 0) base with
      | .next _ => true
      | _ => false) = true := by
  unfold MemoryWf
  decide +kernel

/-! What rests on a bale that is prepared, on routing versions, and on the access table. -/

/-- A prepared bale with a store to an address of HBM, and the mapped memory. -/
def withPrepared (pa : Nat) (f : Hub → Hub) : State :=
  { withHub (fun h => f { h with loft := [⟨2, 9, [(.hbm pa, 8, 5, false)], none, true, []⟩] }) with mem := mapped base.mem }

theorem test_meets_QueueMemoryAndLinkCommands_waiting :
    let c := cmd 1 [0, 64]
    let w : WaitingCmd := ⟨0x12, 1, 7, 2 ^ 16 * 64, []⟩
    let record := fun (h : Hub) => { h with cmdsIn := [⟨1, c.record 0x12, 0, true, true⟩], waiting := [w] }
    Serves (withPrepared 0 record) c 0x12 ∧ c.arg 0 < 2 ^ 16 ∧ c.arg 1 < 2 ^ 56 ∧ (withPrepared 0 record).walkHeld 0 64 = true ∧
    (withPrepared 64 record).walkHeld 0 64 = false ∧ (walk (mapped base.mem) 0 64).toOption.map (·.wo) = some false ∧
    w ∈ (withPrepared 0 record).hub.waiting ∧ w.op = 0x12 ∧
    (let v : WaitingCmd := ⟨0x17, 1, 7, 0, []⟩
     let u := withHub fun h => { h with waiting := [v] }
     u.hub.waiting = [v] ∧ v.op = 0x17 ∧ (∀ i ∈ v.waits, u.underWay i = false) ∧ u.stamped (v.arg == 1) = false ∧
     (withAccess (.load 8 false) (.ready (.hbm 64))).stamped (v.arg == 1) = true ∧
     (({ base with beaconsOut := [⟨0, 1, base.here, 0, 5, 64, 0, 0, 3, true⟩] }).underWay (.packet 3)) = true) := by
  unfold Serves
  decide +kernel

theorem test_meets_DieAndPlatformCommands_waiting :
    let c := cmd 1 [4096, 64]
    let w : WaitingCmd := ⟨0x26, 1, 7, 4096 + 2 ^ 40 * 64, []⟩
    let record := fun (h : Hub) => { h with cmdsIn := [⟨1, c.record 0x26, 0, true, true⟩], waiting := [w] }
    Serves (withPrepared 4096 record) c 0x26 ∧ c.arg 0 % 4096 = 0 ∧ c.arg 0 + c.arg 1 ≤ 2 ^ 40 ∧ c.arg 1 ≤ 2 ^ 26 ∧ 2 ^ 26 < (cmd 1 [4096, 2 ^ 26 + 1]).arg 1 ∧
    (withPrepared 4096 record).rangeHeld (.hbm 4096) 64 = true ∧ (withPrepared 0 record).rangeHeld (.hbm 4096) 64 = false ∧
    ({ base.mem with hbmBad := [512] }).poisonAt (.hbm 4096) 64 ≠ [] ∧ w ∈ (withPrepared 0 record).hub.waiting ∧
    (((withHub fun h => { h with cmdsIn := [⟨1, c.record 0x27, 0, true, false⟩] }).hub.cmdsIn.find? fun x => x.node == c.node).any (·.first)) = false := by
  unfold Serves
  decide +kernel

/-- A stream of node 3, and an entry of the access table that names it. -/
def peerRec : StreamRec := ⟨3, 1, 0, 0, 0, 0, 0, 0, false⟩
def peerEntry (right : Bool) : AccessEntry := ⟨true, 3, 0, 0, 0, 0, 2 ^ 32, right, right, right, right⟩

/-- What the statement asks of an entry in the table. -/
def namesPeer (e : AccessEntry) (va : Nat) : Bool :=
  e.v && e.srcNode == peerRec.srcNode && e.srcTenant == peerRec.tenant && decide (e.base / 2 ^ 16 ≤ va / 2 ^ 16 ∧ va / 2 ^ 16 < e.base / 2 ^ 16 + e.pages)

theorem test_meets_DyfoldTrafficArrives_access :
    namesPeer (peerEntry true) 64 = true ∧ namesPeer (peerEntry false) 64 = true ∧ namesPeer (peerEntry true) (2 ^ 48) = false ∧
    namesPeer (peerEntry true) (2 ^ 48 - 1) = true ∧ lookupKey 1023 (withHub fun h => { h with access := [(1023, peerEntry true)] }).hub.access = some (peerEntry true) ∧
    base.hub.access = [] ∧ (withPrepared 0 id).walkHeld 0 64 = true ∧ (withPrepared 64 id).walkHeld 0 64 = false ∧
    (requestVa (.read 7 64 8) = some 64 ∧ requestTag (.read 7 64 8) = some 7) ∧ (requestVa (.baleStore 9 64 8 5) = some 64 ∧ requestTag (.baleStore 9 64 8 5) = none) ∧
    requestVa (.seal 9 1) = none := by decide +kernel

theorem test_meets_DyfoldTrafficArrives_leaves :
    let m := mapped base.mem
    let leaf := (walk m 0 64).toOption
    (leaf.map fun l => (l.base.isRemote, l.refuses (requestAccess (.read 7 64 8)) true)) = some (false, none) ∧
    ((walk (m.writeAt (.hbm 0x102000) 8 0x43) 0 64).toOption.map fun l => (l.base.isRemote, (l.refuses (requestAccess (.read 7 64 8)) true).isSome)) = some (false, true) ∧
    ((walk (m.writeAt (.hbm 0x102000) 8 (0x15F + 5 * 2 ^ 52)) 0 64).toOption.map (·.base.isRemote)) = some true ∧
    (match walk m 0 (2 ^ 50) with
      | .error (.xlate _ _) => true
      | _ => false) = true ∧
    (match walk { m with hbmBad := [0x102000 / 8] } 0 64 with
      | .error (.poison _) => true
      | _ => false) = true := by decide +kernel

theorem test_meets_LoftsAndCoordinators_header :
    let m : LoftMsg := .store base.hub.node 1 (base.here, 0) (.hbm 64) 8 5 none none
    let s := withHub fun h => { h with loftIn := [(0, m)], bales := [(0, { Bale.free with st := some .opened })] }
    s.hub.loftTake 0 = some (m, { s.hub with loftIn := [] }) ∧ (s.hub.bale (baleIndex 1)).st.isSome = true ∧
    bits (1 : Word) 0 8 = (s.hub.bale (baleIndex 1)).gen ∧ (2 : BitVec 12) ≠ s.hub.node := by decide +kernel

theorem test_meets_ReelHappenings_laying :
    let s := withReel (fun f => { f with laid := false }) id
    goesWell (some ({ s with mem := s.mem.writeAt (.hbm 64) 64 (4096 + 2 ^ 256 + 2 ^ 323) }.layReel (someRegion s) { someReel with laid := false })) = true := by
  decide +kernel

theorem test_meets_ReelHappenings_seams :
    let b := someBand fun b => { b with forwardReady := true, seamsOwed := [0] }
    let s := withReel id fun b => { b with forwardReady := true, seamsOwed := [0] }
    (s.tile s.here).reel = some b ∧ b.stage.isSome = true ∧ (∃ e ∈ b.seamsOwed, s.seamGoes s.here e = true) := by decide +kernel

theorem test_meets_ReelHappenings_stages :
    let b := someBand fun b => { b with forwardReady := true, loading := some (some 0), framesDone := true }
    let s := (withReel id fun b => { b with forwardReady := true, loading := some (some 0), framesDone := true }).modCtx base.here 0
      fun c => { c with run := .disabled }
    let v := s.modCurTile fun x => { x with cfgShadow := { x.cfgShadow with switch := x.cfg.switch } }
    (b.loading.bind id).bind (s.badStage (someRegion s) someReel b.slot) = none ∧
    ((b.loading.bind id).bind (v.badStage (someRegion v) someReel b.slot)).isSome = true ∧ v.swapReady v.here someReel b = true ∧ v.loaded b = true ∧
    (v.tile v.here).drained = true := by decide +kernel

/-- A candidate for one tile, for more rows than there are, and a restored region. -/
def candidate (evicted : Option Nat) : Candidate := ⟨launchOf record, 0, 0, evicted⟩
def tooTall : Candidate := { candidate none with launch := { launchOf record with rows := 100 } }

theorem test_meets_RegionsComeAndGo_tryPlace :
    let fits := fun (s : State) (c : Candidate) (n : Nat) => s.freeAt c.launch (positionOf 0 n) && s.oneDie c (positionOf 0 n)
    let run := base.modDie 0 fun d => { d with st := .run }
    ((List.range 3200).all fun n => !fits run tooTall n) = true ∧
    ((List.range 3200).find? (fits run (candidate none))).any (fun n => (diesOf (positionOf 0 n).1 (positionOf 0 n).2 1 1).all fun e => run.dies[dieOf e].st == .run) = true ∧
    ((List.range 3200).find? (fits base (candidate (some 0)))).any (fun n => !(diesOf (positionOf 0 n).1 (positionOf 0 n).2 1 1).all fun e => base.dies[dieOf e].st == .run) = true ∧
    run.freeNumbers 0 ≠ [] := by decide +kernel

theorem test_meets_RegionsComeAndGo_active :
    let f : Frame := 4 + 2 ^ 13
    let s := (withCfg false).modRegion 0 fun r => { r with phase := .installed }
    let x := s.tile s.here
    (someRegion s).phase = .installed ∧ s.regionOf s.here = some (someRegion s) ∧ f.kind = 4 ∧ f.shadow = false ∧
    s.frameNames (someRegion s) s.here f = true ∧ (x.applyFrame f).isSome = true ∧ (1 : Nat) ≠ 2 ∧ (1 : Nat) ≠ 4 := by decide +kernel

/-- A context at a `blwait` that is not eligible, with a LATE that is not masked. -/
def lateWaiter : State := withCtx fun c => { c with wait := .bale 3 1, evLate := true, evmask := true }

theorem test_meets_StepRunsTheDecodedInstruction_late :
    let s := lateWaiter
    let v := { s with agenda := s.agenda.tail, stalled := false }
    let x := { v with ctx := (v.tile s.here).k }
    s.nextMove = .cycle s.here ∧ s.power ≠ .off ∧ v.tileRuns s.here = true ∧ (v.tile s.here).stopping = false ∧ x.cur.run = .running ∧
    x.cur.stepDue = none ∧ x.cur.haltDue = none ∧ x.cur.busyUntil ≤ x.curTile.cycle.toNat ∧ x.cur.wait = .bale 3 1 ∧ x.cur.evLate = true ∧
    x.cur.evmask = true ∧ x.cur.trapped = false ∧
    (match exec .lateTrap x with
      | .next u => !u.stalled && u.curTile.awake
      | _ => false) = true ∧
    base.hub.waiting = [] ∧ base.hub.unrouted = [] := by decide +kernel

theorem test_meets_MemoryStaysCanonical_writers :
    ([Instr.transferPacketLand 7 ⟨0, .clean⟩, .baleDecisionApply 0, .readStreamElement base.here 0, .writeStreamElement base.here 0, .pageinit (cmd 1 []),
      .attest (cmd 1 []), .ctxwr (cmd 1 []), .resolve (cmd 1 []), .install 0, .snapshotComplete 0, .regionRestore 0, .powerUp, .modulePowerOff,
      .thermalTrip 0].all fun i => match exec i base with
        | .next _ => true
        | _ => false) = true := by decide +kernel

end Sys2Proof.Tests
end

/-! Stores to global memory (R15, R277). -/

namespace Sys2Proof

open Sys2Proof.Machine

/-- The words that a store covers whole are those between its first and its last byte. -/
theorem mem_wholeWordsOf {a n w : Nat} : w ∈ wholeWordsOf a n ↔ a ≤ 8 * w ∧ 8 * w + 8 ≤ a + n := by
  have inside : a ≤ 8 * w ∧ 8 * w + 8 ≤ a + n → w ∈ wordsOf a n := by
    intro h
    rw [wordsOf, if_neg (by omega), List.mem_map]
    exact ⟨w - a / 8, List.mem_range.2 (by omega), by omega⟩
  simpa [wholeWordsOf] using inside

/-- The words of a list that a store does not cover whole are what is left of it. -/
theorem mem_filter_wholeWordsOf {bad : List Nat} {a n w : Nat} :
    w ∈ bad.filter (fun w => !(wholeWordsOf a n).contains w) ↔ w ∈ bad ∧ ¬ (a ≤ 8 * w ∧ 8 * w + 8 ≤ a + n) := by
  simp only [List.mem_filter, List.contains_eq_mem, mem_wholeWordsOf, Bool.not_eq_true', decide_eq_false_iff_not]

/-- Settles O20: a store to either memory is a `Memory.writeN`, and takes the words that it covers whole from the erroneous ones. -/
theorem globalStoresChangeTheirBytes : Obligations.GlobalStoresChangeTheirBytes := by
  intro m pa n v hbm lpddr
  refine ⟨Memory.readN_writeN hbm pa n v, Memory.readN_writeN lpddr pa n v, fun a ha => ⟨?_, ?_⟩, rfl, rfl,
    fun w => mem_filter_wholeWordsOf, fun w => mem_filter_wholeWordsOf, rfl, rfl,
    Global.hbm_writeAt hbm _ n v, Global.lpddr_writeAt lpddr _ n v⟩
  · exact Memory.read_writeN_outside ha
  · exact Memory.read_writeN_outside ha

/-- Settles O59: nothing is listed after reset, and an empty list is canonical. -/
theorem resetMemoryIsCanonical : Obligations.ResetMemoryIsCanonical :=
  ⟨⟨rfl, rfl, List.forall_mem_nil _, List.forall_mem_nil _⟩, rfl, rfl, rfl⟩

/-! What a flit given to a port or to a node stream leaves of the hub. -/

namespace Machine

@[simp] theorem Hub.modPort_nvm (h : Hub) (p : Fin 32) (f : Port → Port) : (h.modPort p f).nvm = h.nvm := rfl
@[simp] theorem Hub.modPort_toHost (h : Hub) (p : Fin 32) (f : Port → Port) : (h.modPort p f).toHost = h.toHost := rfl
@[simp] theorem Hub.setPlace_nvm (h : Hub) (f : OutFlit) (x : ReqPlace) : (h.setPlace f x).nvm = h.nvm := rfl
@[simp] theorem Hub.setPlace_toHost (h : Hub) (f : OutFlit) (x : ReqPlace) : (h.setPlace f x).toHost = h.toHost := rfl

theorem Hub.noteBale_same (h : Hub) (bale : Option (BitVec 12 × Word)) (node : BitVec 12) (p : Fin 32) :
    (h.noteBale bale node p).nvm = h.nvm ∧ (h.noteBale bale node p).toHost = h.toHost := by
  unfold Hub.noteBale
  split
  · exact ⟨rfl, rfl⟩
  · split <;> exact ⟨rfl, rfl⟩

theorem Hub.sendOn_same (h : Hub) (node : BitVec 12) (p : Fin 32) (f : OutFlit) :
    (h.sendOn node p f).nvm = h.nvm ∧ (h.sendOn node p f).toHost = h.toHost := by
  unfold Hub.sendOn
  dsimp only
  split
  · simp [Hub.noteBale_same]
  · exact ⟨rfl, rfl⟩

theorem Hub.streamTo_same (h : Hub) (ver : Bool) (node : BitVec 12) :
    (h.streamTo ver node).2.nvm = h.nvm ∧ (h.streamTo ver node).2.toHost = h.toHost := by
  unfold Hub.streamTo
  dsimp only
  repeat' split
  all_goals exact ⟨rfl, rfl⟩

theorem Hub.route_same (h : Hub) (node : BitVec 12) (f : OutFlit) :
    (h.route node f).nvm = h.nvm ∧ (h.route node f).toHost = h.toHost := by
  have taken := h.streamTo_same f.ver node
  unfold Hub.route
  split
  · next p g e => rw [e] at taken; simpa [Hub.sendOn_same] using taken
  · next g e => rw [e] at taken; simpa using taken

theorem Hub.giveFlit_same (h : Hub) (f : OutFlit) : (h.giveFlit f).nvm = h.nvm ∧ (h.giveFlit f).toHost = h.toHost := by
  unfold Hub.giveFlit
  split
  · exact ⟨rfl, rfl⟩
  · split
    · exact ⟨rfl, rfl⟩
    · exact Hub.route_same _ _ _

@[simp] theorem State.respond_hub_nvm (s : State) (n : BitVec 12) (tag : BitVec 32) (op st : Nat) (r : List Word) :
    (s.respond n tag op st r).hub.nvm = s.hub.nvm := (Hub.giveFlit_same _ _).1

@[simp] theorem State.respond_hub_toHost (s : State) (n : BitVec 12) (tag : BitVec 32) (op st : Nat) (r : List Word) :
    (s.respond n tag op st r).hub.toHost = s.hub.toHost ++ [(n, HostMsg.record ⟨n, op, st, tag, r⟩)] := (Hub.giveFlit_same _ _).2

theorem State.sendHello_nvm (s : State) (p : Fin 32) : (s.sendHello p).hub.nvm = s.hub.nvm := by
  show (Hub.sendPort _ p).nvm = _
  unfold Hub.sendPort
  split <;> rfl

/-- A hello on every port of a list changes the hub alone, and nothing of flash. -/
theorem State.foldl_sendHello (l : List (Fin 32)) (s : State) :
    ∃ h : Hub, l.foldl State.sendHello s = { s with hub := h } ∧ h.nvm = s.hub.nvm := by
  induction l generalizing s with
  | nil => exact ⟨s.hub, rfl, rfl⟩
  | cons p rest ih =>
    obtain ⟨h, e, hn⟩ := ih (s.sendHello p)
    exact ⟨h, e, hn.trans (s.sendHello_nvm p)⟩

/-- The changed die, by the spelling of its index that `simp` uses. -/
@[simp] theorem State.modDie_at (s : State) (d : Fin 8) (f : Die → Die) : (s.modDie d f).dies[d.val] = f s.dies[d.val] :=
  s.modDie_same d f

/-- A placement pass due on one die is a mark of that die alone. -/
theorem State.passOn_singleton (s : State) (d : Fin 8) : s.passOn [d.val] = s.modDie d fun x => { x with passDue := true } := by
  have e : dieOf d.val = d := Fin.ext (Nat.mod_eq_of_lt d.isLt)
  simp [State.passOn, e]

/-! The happenings of a die's clock and of a repair, where they take place. -/

theorem execClockstepResume_unasked {s : State} {d : Fin 8} {st : BitVec 4} (stopped : s.dies[d].clockStopped = some st)
    (unasked : (s.hub.waiting.filter fun w => w.op == 0x21 && w.arg % 8 == d.val) = []) :
    execClockstepResume d s = .next (s.modDie d fun x => { x with step := st, clockStopped := none }) := by
  simp only [execClockstepResume, stopped, unasked]

theorem execClockstepResume_asked {s : State} {d : Fin 8} {st : BitVec 4} {w : WaitingCmd} {rest : List WaitingCmd}
    (stopped : s.dies[d].clockStopped = some st) (first : (s.hub.waiting.filter fun w => w.op == 0x21 && w.arg % 8 == d.val) = w :: rest) :
    execClockstepResume d s = .next (State.respond
      { (s.modDie d fun x => { x with step := st, clockStopped := rest.head?.map fun v => BitVec.ofNat 4 (v.arg / 8) }) with
        hub := { s.hub with waiting := s.hub.waiting.erase w } } w.node w.tag 0x21 0 []) := by
  simp only [execClockstepResume, stopped, first]
  rfl

theorem execRepairEnd_repairing {s : State} {d : Fin 8} {col n : Nat} {node : BitVec 12} {tag : BitVec 32}
    (repairing : s.dies[d].repairing = some (col, n, node, tag)) :
    execRepairEnd d s = .next (State.respond ({ (s.modDie d fun x =>
        { x with repairing := none, failed := x.failed.erase col, spares := x.spares + 1 }) with
      hub := { s.hub with nvm := { s.hub.nvm with repairMap := s.hub.nvm.repairMap ++ [(d.val, col)] } } }.modDie d
        fun x => { x with passDue := true }) node tag 0x23 0 []) := by
  simp only [execRepairEnd, repairing, State.passOn_singleton]
  rfl

end Machine

/-- Settles O53, happening by happening: each state is the one its meaning builds, and what is sent leaves flash as it is. -/
theorem platformHappenings : Obligations.PlatformHappenings := by
  intro s
  refine ⟨?_, fun n hn hot => ?_, ⟨_, rfl, rfl, rfl, rfl, rfl, rfl⟩, fun d st stopped => ?_, fun d col n node tag repairing => ?_⟩
  · obtain ⟨h, e, hn⟩ := State.foldl_sendHello (List.finRange 32) _
    refine ⟨_, rfl, ?_⟩
    rw [State.powerUp, e]
    exact ⟨congrArg Nvm.incarnation hn, rfl, rfl, rfl, rfl⟩
  · exact ⟨_, if_neg (by simp; omega), rfl, rfl, rfl, rfl, rfl⟩
  · exact ⟨fun unasked => ⟨_, execClockstepResume_unasked stopped unasked, rfl, rfl⟩,
      fun w rest first => ⟨_, execClockstepResume_asked stopped first, rfl, by simp, by simp, rfl, by simp⟩⟩
  · exact ⟨_, execRepairEnd_repairing repairing, rfl, by simp, by simp, by simp, by simp, by simp⟩

end Sys2Proof

/-! Canonical memory (R15, R159, R277): what each operation on a memory, a tile and the state keeps of it. -/

namespace Sys2Proof

open Sys2Proof.Machine

-- So many short proofs elaborated at once hold more threads than the check's memory limit has room for: one at a time.
set_option Elab.async false

/-- Both memories of the package have their canonical form. -/
def Canonical (m : Global) : Prop := m.hbm.wf = true ∧ m.lpddr.wf = true

/-- The scratch of every tile of a snapshot has its canonical form. -/
def SavedCanonical (saved : List ((Nat × Nat) × Tile)) : Prop := ∀ p ∈ saved, p.2.scratch.wf = true

namespace Canonical

variable {m m' : Global}

theorem writeAt (h : Canonical m) {t : Target} {n v : Nat} : Canonical (m.writeAt t n v) :=
  ⟨Global.hbm_writeAt h.1 t n v, Global.lpddr_writeAt h.2 t n v⟩

theorem poisonCells (h : Canonical m) {t : Target} {cells : List Host.Cell} : Canonical (m.poisonCells t cells) := by
  cases t <;> exact h

theorem setPresent (h : Canonical m) {t : Target} : Canonical (m.setPresent t) := by cases t <;> exact h

theorem clearPresent (h : Canonical m) {t : Target} {n : Nat} : Canonical (m.clearPresent t n) := by cases t <;> exact h

/-- What a packet or an access leaves whose data may have failed its check (R399). -/
theorem poisonCells_ite (h : Canonical m) {t : Target} {cells : List Host.Cell} {bad : Bool} :
    Canonical (if bad then m.poisonCells t cells else m) := by
  split
  · exact h.poisonCells
  · exact h

theorem storeAt (h : Canonical m) {t : Target} {n v : Nat} {bad : Bool} : Canonical (m.storeAt t n v bad) := h.writeAt.poisonCells_ite

theorem landCells (h : Canonical m) {t : Target} {wo : Bool} {cells : List Host.Cell} (e : m.landCells t wo cells = .ok m') :
    Canonical m' := Global.wf_landCells h.1 h.2 t wo cells e

/-- An element of a stream is stored part by part. -/
theorem unitWrite {v : Nat} {parts : List Part} (h : Canonical m) (e : m.unitWrite v parts = .ok m') : Canonical m' := by
  induction parts generalizing m with
  | nil => cases e; exact h
  | cons p rest ih =>
    obtain ⟨t, off, n, wo⟩ := p
    unfold Global.unitWrite at e
    extract_lets whole at e
    split at e
    · cases e
    · split at e
      · cases e
      · refine ih ?_ e
        split
        · exact h.writeAt.setPresent
        · exact h.writeAt

theorem foldl_poisonCells (h : Canonical m) {parts : List Part} {cells : Part → List Host.Cell} :
    Canonical (parts.foldl (fun m p => m.poisonCells p.1 (cells p)) m) := by
  induction parts generalizing m with
  | nil => exact h
  | cons _ _ ih => exact ih h.poisonCells

theorem addProgram {p : Program} (h : Canonical m) (e : m.addProgram p = some m') : Canonical m' := by
  unfold Global.addProgram at e
  extract_lets same at e
  split at e
  · split at e
    · cases e; exact h
    · cases e
  · split at e
    · cases e
    · cases e; exact h

end Canonical

/-! What an operation on a tile or on a region keeps of scratch. -/

theorem wf_scratchWrite {x : Tile} (h : x.scratch.wf = true) (cells : List Host.Cell) : (x.scratchWrite cells).scratch.wf = true :=
  Memory.wf_writeCells h cells

theorem wf_landBytes {x : Tile} (h : x.scratch.wf = true) (cells : List Host.Cell) (bad : Bool) : (x.landBytes cells bad).scratch.wf = true := by
  unfold Tile.landBytes
  split
  · exact wf_scratchWrite h cells
  · exact wf_scratchWrite h cells

theorem applyFrame_scratch {x y : Tile} {f : Frame} (e : x.applyFrame f = some y) : y.scratch = x.scratch := by
  have settings : ∀ g : Settings → Option Settings, (if f.shadow then (g x.cfgShadow).map fun c => { x with cfgShadow := c }
      else (g x.cfg).map fun c => { x with cfg := c }) = some y → y.scratch = x.scratch := by
    intro g e
    split at e
    · obtain ⟨c, -, rfl⟩ := Option.map_eq_some_iff.1 e; rfl
    · obtain ⟨c, -, rfl⟩ := Option.map_eq_some_iff.1 e; rfl
  unfold Tile.applyFrame at e
  extract_lets set at e
  split at e
  · obtain ⟨w, -, rfl⟩ := Option.map_eq_some_iff.1 e
    split <;> rfl
  · exact settings _ e
  · exact settings _ e
  · split at e
    · cases e
    · exact settings _ e
  · cases e

theorem joined_scratch (x : Tile) : x.joined.scratch = x.scratch := by
  have sinks : ∀ (l : List (Fin 64)) (y : Tile), (l.foldl (fun x k =>
      let c := x.cfg.sinks[k]
      if c.valid && c.typed then x.modSink k.val fun y => { y with scale := c.scale } else x) y).scratch = y.scratch := by
    intro l
    induction l with
    | nil => intro y; rfl
    | cons k rest ih =>
      intro y
      refine (ih _).trans ?_
      dsimp only
      split <;> rfl
  exact sinks _ x

theorem takesSettings_scratch (x : Tile) : x.takesSettings.scratch = x.scratch := rfl

theorem configured_scratch (x : Tile) : x.configured.scratch = x.scratch := (takesSettings_scratch _).trans (joined_scratch x)

theorem addFault_saved (r : Region) (f : FaultEntry) : (r.addFault f).saved = r.saved := by
  unfold Region.addFault
  dsimp only
  split <;> rfl

namespace MemoryWf

variable {s u : State}

theorem canonical (h : MemoryWf s) : Canonical s.mem := ⟨h.1, h.2.1⟩

/-- A tile that is not listed is a cleared one, whose scratch lists nothing. -/
theorem wf_tile (h : MemoryWf s) (t : TileId) : (s.tile t).scratch.wf = true := by
  unfold State.tile
  cases e : lookupKey t s.tiles with
  | none => rfl
  | some x => exact h.2.2.1 (t, x) (mem_of_lookupKey e)

/-- A change that keeps both memories and all regions, and adds no tile. -/
theorem frame (h : MemoryWf s) (hbm : u.mem.hbm = s.mem.hbm := by rfl) (lpddr : u.mem.lpddr = s.mem.lpddr := by rfl)
    (tiles : u.tiles ⊆ s.tiles := by exact fun _ h => h) (regions : u.regions = s.regions := by rfl) : MemoryWf u :=
  ⟨hbm ▸ h.1, lpddr ▸ h.2.1, fun p hp => h.2.2.1 p (tiles hp), regions ▸ h.2.2.2⟩

theorem withMem (h : MemoryWf s) {m : Global} (hm : Canonical m) : MemoryWf { s with mem := m } :=
  ⟨hm.1, hm.2, h.2.2.1, h.2.2.2⟩

theorem setTile (h : MemoryWf s) {t : TileId} {x : Tile} (hx : x.scratch.wf = true) : MemoryWf (s.setTile t x) := by
  refine ⟨h.1, h.2.1, fun p hp => ?_, h.2.2.2⟩
  rcases mem_putKey hp with e | old
  · rw [e]; exact hx
  · exact h.2.2.1 p old

/-- A tile changed so that its scratch stays canonical. -/
theorem modTile_of (h : MemoryWf s) {t : TileId} {f : Tile → Tile} (hf : (s.tile t).scratch.wf = true → (f (s.tile t)).scratch.wf = true) :
    MemoryWf (s.modTile t f) := h.setTile (hf (h.wf_tile t))

/-- A tile changed outside its scratch. -/
theorem modTile (h : MemoryWf s) {t : TileId} {f : Tile → Tile} (hf : (f (s.tile t)).scratch = (s.tile t).scratch := by rfl) :
    MemoryWf (s.modTile t f) := h.modTile_of fun hx => hf ▸ hx

theorem modCtx (h : MemoryWf s) {t : TileId} {k : Fin 4} {f : Ctx → Ctx} : MemoryWf (s.modCtx t k f) := h.modTile

/-- Records of regions changed so that saved tiles stay canonical. -/
theorem mapRegions (h : MemoryWf s) {p : Region → Bool} {f : Region → Region}
    (hf : ∀ r, SavedCanonical r.saved → SavedCanonical (f r).saved) :
    MemoryWf { s with regions := s.regions.map fun x => if p x then f x else x } := by
  refine ⟨h.1, h.2.1, h.2.2.1, fun r hr => ?_⟩
  obtain ⟨old, ho, rfl⟩ := List.mem_map.1 hr
  split
  · exact hf old (h.2.2.2 old ho)
  · exact h.2.2.2 old ho

theorem modRegion_of (h : MemoryWf s) {n : Nat} {f : Region → Region}
    (hf : ∀ r, SavedCanonical r.saved → SavedCanonical (f r).saved) : MemoryWf (s.modRegion n f) :=
  h.mapRegions hf

theorem modRegion (h : MemoryWf s) {n : Nat} {f : Region → Region} (hf : ∀ r, (f r).saved = r.saved := by intro _; rfl) :
    MemoryWf (s.modRegion n f) := h.modRegion_of fun r hr => hf r ▸ hr

theorem modRecord_of (h : MemoryWf s) {n : Nat} {gen : BitVec 8} {f : Region → Region}
    (hf : ∀ r, SavedCanonical r.saved → SavedCanonical (f r).saved) : MemoryWf (s.modRecord n gen f) :=
  h.mapRegions hf

theorem modRecord (h : MemoryWf s) {n : Nat} {gen : BitVec 8} {f : Region → Region} (hf : ∀ r, (f r).saved = r.saved := by intro _; rfl) :
    MemoryWf (s.modRecord n gen f) := h.modRecord_of fun r hr => hf r ▸ hr

theorem nextSeq (h : MemoryWf s) {n : Nat} : MemoryWf { s with nextSeq := n } := h.frame

theorem hub (h : MemoryWf s) {x : Hub} : MemoryWf { s with hub := x } := h.frame

theorem foldl_mem {α : Type} {l : List α} {f : State → α → State} (h : MemoryWf s) (hf : ∀ u, ∀ a ∈ l, MemoryWf u → MemoryWf (f u a)) :
    MemoryWf (l.foldl f s) := List.foldlRecOn l f h fun u hu a ha => hf u a ha hu

theorem foldl {α : Type} (h : MemoryWf s) {l : List α} {f : State → α → State} (hf : ∀ u a, MemoryWf u → MemoryWf (f u a)) :
    MemoryWf (l.foldl f s) := h.foldl_mem fun u a _ => hf u a

/-! Messages, bales and the closing of regions (R99-R103, R363-R377, R389). -/

theorem tell (h : MemoryWf s) {m : PeerMsg} {ver : Bool} : MemoryWf (s.tell m ver) := h.frame

theorem askRemote (h : MemoryWf s) {node : BitVec 12} {who : Walker} {acc : Nat} {page : BitVec 16 × Span} {ver : Bool} {q : Nat → PeerRequest} :
    MemoryWf (s.askRemote node who acc page ver q) := h.frame

theorem respond (h : MemoryWf s) {node : BitVec 12} {tag : BitVec 32} {op st : Nat} {r : List Word} : MemoryWf (s.respond node tag op st r) :=
  h.frame

theorem stall (h : MemoryWf s) : MemoryWf s.stall := h.frame

theorem nextGeneration (h : MemoryWf s) {r : Region} : MemoryWf (s.nextGeneration r) := h.frame

theorem passOn (h : MemoryWf s) {ds : List Nat} : MemoryWf (s.passOn ds) := h.foldl fun _ _ h => h.frame

theorem doneWritten (h : MemoryWf s) {d : DoneOut} {failed : Bool} : MemoryWf (s.doneWritten d failed) := by
  unfold State.doneWritten
  dsimp only
  split <;> exact h.frame

theorem writeDone (h : MemoryWf s) {d : DoneOut} : MemoryWf (s.writeDone d) := by
  unfold State.writeDone
  split
  · exact h
  · exact (h.withMem h.canonical.writeAt).doneWritten

theorem doneAction (h : MemoryWf s) {l : Launch} {queue seq outcome cause info : Nat} {region : Option (Nat × BitVec 8)} :
    MemoryWf (s.doneAction l queue seq outcome cause info region) := by
  unfold State.doneAction
  dsimp only
  split
  · exact h
  · split
    · exact h.frame
    · split
      · exact h.frame
      · split
        · exact h.frame
        · exact h.hub.writeDone

theorem freeRegion (h : MemoryWf s) {r : Region} : MemoryWf (s.freeRegion r) := by
  have gated : MemoryWf { s with tiles := s.tiles.filter fun p => p.2.region != some r.number } :=
    h.frame (tiles := List.filter_subset_self _)
  refine passOn (modRecord ?_ fun r => ?_)
  · split
    · exact gated.nextGeneration
    · exact gated
  · split <;> rfl

theorem closeOne (h : MemoryWf s) {r : Region} : MemoryWf (s.closeOne r) := by
  unfold State.closeOne
  split
  · next outcome wrote _ =>
    have begun : MemoryWf (s.modRecord r.number r.gen fun x => match x.phase with
        | .closing o _ => { x with phase := .closing o true }
        | _ => x) := h.modRecord fun x => by split <;> rfl
    dsimp only
    split <;> split
    · exact h.freeRegion
    · exact h
    · exact begun.hub.doneAction.freeRegion
    · exact begun.hub.doneAction
  · exact h

theorem settleClosing (h : MemoryWf s) : MemoryWf s.settleClosing := h.foldl fun _ _ h => h.closeOne

theorem sendDecision (h : MemoryWf s) {k : Nat} {commit : Bool} : MemoryWf (s.sendDecision k commit) := by
  refine h.foldl fun u p hu => ?_
  split
  · exact hu.frame
  · split
    · exact hu
    · exact hu.tell

theorem abortBale (h : MemoryWf s) {k cause : Nat} {node : BitVec 12} : MemoryWf (s.abortBale k cause node) :=
  h.hub.sendDecision.hub

theorem endBales (h : MemoryWf s) {r : Region} : MemoryWf (s.endBales r) := by
  refine h.foldl fun u p hu => ?_
  dsimp only
  split
  · exact hu
  · split
    · exact hu
    · exact hu.hub.abortBale
    · exact hu.hub.abortBale
    · exact hu.frame
    · exact hu.frame
    · exact hu.frame

theorem purgePeers (h : MemoryWf s) {r : Region} : MemoryWf (s.purgePeers r) := h.hub.foldl fun _ _ h => h.tell

theorem beginClose (h : MemoryWf s) {r : Region} {tiles : List TileId} {outcome : BitVec 8} : MemoryWf (s.beginClose r tiles outcome) := by
  unfold State.beginClose
  extract_lets answered due halts halted theirs sinks counted away _ _ gated _ cleared
  have hAnswered : MemoryWf answered := by
    unfold answered
    split
    · exact h.respond
    · exact h.respond
    · exact h
  have hDue : MemoryWf due := by
    unfold due
    split
    · exact hAnswered.respond
    · exact hAnswered
  have hHalted : MemoryWf halted := hDue.foldl fun _ _ h => h.respond
  have hCounted : MemoryWf counted := by
    refine hHalted.foldl fun u e hu => ?_
    split
    · split
      · exact hu.frame
      · exact hu
    · exact hu
  have hGated : MemoryWf gated := hCounted.frame (tiles := List.filter_subset_self _)
  have hCleared : MemoryWf cleared := hGated.foldl fun _ _ h => h.setTile rfl
  exact hCleared.modRecord_of fun _ _ => List.forall_mem_nil _

theorem killRegion (h : MemoryWf s) {n : Nat} {outcome : BitVec 8} : MemoryWf (s.killRegion n outcome) := by
  unfold State.killRegion
  split
  · exact h
  · extract_lets tiles mine ids dropped stale
    have hDropped : MemoryWf dropped := h.frame
    have hStale : MemoryWf stale := hDropped.foldl fun _ _ h => h.frame
    exact hStale.endBales.nextGeneration.purgePeers.beginClose.settleClosing

theorem regionFault (h : MemoryWf s) {n : Nat} {f : FaultEntry} : MemoryWf (s.regionFault n f) := by
  unfold State.regionFault
  split
  · exact h
  · extract_lets early recorded noted
    have hNoted : MemoryWf noted := (h.modRecord fun r => addFault_saved r f).hub
    split
    · exact hNoted
    · exact hNoted.killRegion

theorem headerFault (h : MemoryWf s) {region : Option Nat} : MemoryWf (s.headerFault region) := by
  unfold State.headerFault
  split
  · exact h
  · exact h.regionFault

theorem tileFault (h : MemoryWf s) {t : TileId} {cause kind : BitVec 8} {c o : Nat} {info loc : Word} :
    MemoryWf (s.tileFault t cause kind c o info loc) := by
  unfold State.tileFault
  split
  · exact h
  · exact h.regionFault

theorem trapIn (h : MemoryWf s) {t : TileId} {k : Fin 4} {cause : BitVec 8} {epc : BitVec 11} {eva einfo : Word} :
    MemoryWf (s.trapIn t k cause epc eva einfo) := by
  unfold State.trapIn
  split
  · exact h.tileFault
  · exact h.modCtx

/-! Accesses of contexts to global memory (R287-R301). -/

theorem doom (h : MemoryWf s) {t : TileId} {b : Word} : MemoryWf (s.doom t b) := by
  unfold State.doom
  split
  · exact h
  · exact h.hub

theorem accFault (h : MemoryWf s) {t : TileId} {k : Fin 4} {a : GAccess} {cause : BitVec 8} {va : Nat} {low : Word} :
    MemoryWf (s.accFault t k a cause va low) := by
  unfold State.accFault
  extract_lets doomed dropped
  have hDoomed : MemoryWf doomed := by
    unfold doomed
    split
    · exact h.doom
    · exact h
  have hDropped : MemoryWf dropped := hDoomed.modCtx
  split
  · exact hDropped.trapIn
  · exact hDropped.modCtx

theorem accFaultOpen (h : MemoryWf s) {t : TileId} {k : Fin 4} {a : GAccess} {cause : BitVec 8} {va : Nat} :
    MemoryWf (s.accFaultOpen t k a cause va) := by
  have free : MemoryWf s.freeWord.2 := h.frame
  exact free.accFault

theorem accDone (h : MemoryWf s) {t : TileId} {k : Fin 4} {a : GAccess} {put : Ctx → Ctx} : MemoryWf (s.accDone t k a put) := h.modCtx

theorem loadAt (h : MemoryWf s) {t : TileId} {k : Fin 4} {a : GAccess} {tgt : Target} {bad : Bool} : MemoryWf (s.loadAt t k a tgt bad) := by
  unfold State.loadAt
  split
  · exact h.accFault
  · split
    · exact h.accFault
    · exact h.accDone

theorem deferRead (h : MemoryWf s) {t : TileId} {k : Fin 4} {a : GAccess} {tgt : Target} : MemoryWf (s.deferRead t k a tgt) := by
  unfold State.deferRead
  split
  · exact h.stall
  · exact h.modCtx

theorem performAt (h : MemoryWf s) {t : TileId} {k : Fin 4} {a : GAccess} {tgt : Target} {bad : Bool} :
    MemoryWf (s.performAt t k a tgt bad) := by
  have reads : ∀ held : Bool, MemoryWf (if held then s.deferRead t k a tgt else s.loadAt t k a tgt bad) := by
    intro held
    split
    · exact h.deferRead
    · exact h.loadAt
  have stores : ∀ {m : Global} {put : Ctx → Ctx}, Canonical m → MemoryWf ({ s with mem := m }.accDone t k a put) :=
    fun hm => (h.withMem hm).accDone
  unfold State.performAt
  split
  · exact reads _
  · exact reads _
  · exact reads _
  · exact h.stall
  · split
    · exact h.stall
    · split
      · split
        · exact h.accFaultOpen
        · exact stores h.canonical.storeAt.setPresent
      · exact stores h.canonical.clearPresent
      · extract_lets n m v
        split
        · exact h.accFault
        · exact stores h.canonical.writeAt
      · split
        · have opened : MemoryWf s.openLevel.2 := h.frame
          exact opened.accFault
        · split
          · exact h.accFault
          · exact stores h.canonical.writeAt
      · exact stores h.canonical.storeAt

/-! What the hub still writes, requests of peers, and accesses served at slices (R245, R294, R296, R374, R416). -/

theorem hubWrite (h : MemoryWf s) {w : HubWrite} : MemoryWf (s.hubWrite w) := by
  unfold State.hubWrite
  extract_lets _ gone
  have hGone : MemoryWf gone := h.hub
  split
  · split
    · exact h
    · exact (hGone.withMem h.canonical.clearPresent).respond
  · split
    · exact h
    · extract_lets cells m
      have hm : Canonical m := by
        unfold m
        split
        · next e => exact h.canonical.landCells e
        · exact h.canonical
      exact (hGone.withMem hm).respond

theorem serveHub (h : MemoryWf s) : MemoryWf s.serveHub := by
  unfold State.serveHub
  extract_lets done
  have hDone : MemoryWf done := by
    refine h.foldl fun u d hu => ?_
    split
    · exact hu.writeDone
    · exact hu
  exact (hDone.foldl fun _ _ h => h.hubWrite).settleClosing

theorem refuseRequest (h : MemoryWf s) {node : BitVec 12} {q : PeerRequest} {cause : BitVec 8} {reason mark : Nat} {number : Option Nat} :
    MemoryWf (s.refuseRequest node q cause reason mark number) := by
  unfold State.refuseRequest
  split
  · cases number <;> exact h.hub
  · split
    · exact h.tell
    · exact h

theorem translateRequest (h : MemoryWf s) {q : InReq} : MemoryWf (s.translateRequest q) := by
  unfold State.translateRequest
  split
  · exact h
  · split
    · exact h
    · extract_lets gone
      split
      · exact h.hub.refuseRequest
      · exact h.frame
      · exact h.frame

theorem answerPeer (h : MemoryWf s) {q : InReq} {tag : Nat} {a : RemoteAnswer} : MemoryWf (s.answerPeer q tag a) := h.frame

theorem serveInbound (h : MemoryWf s) {q : InReq} : MemoryWf (s.serveInbound q) := by
  unfold State.serveInbound
  split
  · split
    · exact h
    · split
      · exact h
      · exact h.answerPeer
      · exact h.answerPeer
  · exact h

theorem serveDeferred (h : MemoryWf s) : MemoryWf s.serveDeferred := by
  unfold State.serveDeferred
  extract_lets translated loaded
  have hTranslated : MemoryWf translated := h.foldl fun _ _ h => h.translateRequest
  have hLoaded : MemoryWf loaded := by
    refine hTranslated.foldl fun u p hu => hu.foldl fun u k hu => hu.foldl fun u a hu => ?_
    split
    · split
      · exact hu.loadAt
      · exact hu
    · exact hu
  exact (hLoaded.foldl fun _ _ h => h.serveInbound).serveHub

theorem performCtx (h : MemoryWf s) {t : TileId} {k : Fin 4} {a : GAccess} {bad : Bool} : MemoryWf (s.performCtx t k a bad) := by
  unfold State.performCtx
  split
  · split
    · exact h.stall
    · split
      · split
        · exact h.accFault
        · exact h.askRemote.modCtx
      · exact h.performAt.serveDeferred
  · exact h.performAt
  · exact h.stall

theorem holdPeer (h : MemoryWf s) {q : InReq} {tag : Nat} : MemoryWf (s.holdPeer q tag) := by
  unfold State.holdPeer
  split
  · exact h.stall
  · split
    · exact h.answerPeer
    · exact h.hub.tell

theorem performInbound (h : MemoryWf s) {q : InReq} {bad : Bool} : MemoryWf (s.performInbound q bad) := by
  have stores : ∀ {m : Global} {tag : Nat} {a : RemoteAnswer}, Canonical m → MemoryWf ({ s with mem := m }.answerPeer q tag a) :=
    fun hm => (h.withMem hm).answerPeer
  unfold State.performInbound
  extract_lets tgt
  split
  · split
    · exact h.holdPeer
    · split
      · exact h.answerPeer
      · split
        · exact h.holdPeer
        · exact h.answerPeer
        · exact h.answerPeer
  · split
    · exact h.holdPeer
    · split
      · exact h.answerPeer
      · next m landed =>
        have hm : Canonical m := h.canonical.landCells landed
        extract_lets m'
        have hm' : Canonical m' := hm.poisonCells_ite
        exact (stores hm').serveDeferred
  · extract_lets n
    split
    · exact h.holdPeer
    · split
      · exact h.answerPeer
      · exact stores h.canonical.writeAt
  · split
    · exact h.holdPeer
    · split
      · exact h.answerPeer
      · split
        · exact h.answerPeer
        · exact stores h.canonical.writeAt
  · exact h.stall

/-! Elements of streams (R207-R210, R316). -/

theorem modElem (h : MemoryWf s) {t : TileId} {g : Fin 4} {n : Nat} {f : Elem → Elem} : MemoryWf (s.modElem t g n f) := h.modTile

theorem deferElem (h : MemoryWf s) {t : TileId} {g : Fin 4} {e : Elem} : MemoryWf (s.deferElem t g e) := by
  unfold State.deferElem
  split
  · exact h.stall
  · exact h.modElem

theorem performElem (h : MemoryWf s) {t : TileId} {g : Fin 4} {e : Elem} {bad : Bool} : MemoryWf (s.performElem t g e bad) := by
  unfold State.performElem
  extract_lets a held ends old
  have hEnds : ∀ f, MemoryWf (ends f) := by
    intro f
    cases f
    · exact h.deferElem
    · exact h.modElem
  split
  · split
    · exact h.modElem
    · exact h.askRemote.modElem
  · split
    · split
      · exact h.deferElem
      · split
        · exact hEnds _
        · exact h.modElem
    · split
      · exact h.stall
      · split
        · exact hEnds _
        · next m stored =>
          have hm : Canonical m := h.canonical.unitWrite stored
          extract_lets m'
          have hm' : Canonical m' := by
            unfold m'
            split
            · exact hm.foldl_poisonCells
            · exact hm
          exact (h.withMem hm').modElem.serveDeferred

theorem pushElem (h : MemoryWf s) {t : TileId} {g : Fin 4} {e : Elem} {f : Agen → Agen} : MemoryWf (s.pushElem t g e f) :=
  h.modTile.nextSeq

theorem elemDone (h : MemoryWf s) {t : TileId} {g : Fin 4} {v : Nat} {f : Agen → Agen} : MemoryWf (s.elemDone t g v f) := h.pushElem

theorem elemFails (h : MemoryWf s) {t : TileId} {g : Fin 4} {cause : BitVec 8} : MemoryWf (s.elemFails t g cause) := h.pushElem

theorem requestWalk (h : MemoryWf s) {d : Fin 8} {asid : BitVec 16} {va : Nat} {who : Walker} (e : s.requestWalk d asid va who = some u) :
    MemoryWf u := by
  obtain ⟨x, -, rfl⟩ := Option.map_eq_some_iff.1 e
  exact h.frame

theorem issueElem (h : MemoryWf s) {t : TileId} {g : Fin 4} {k : Access} {v : Nat} {f : Agen → Agen} : MemoryWf (s.issueElem t g k v f) := by
  unfold State.issueElem
  extract_lets x a y n va miss
  have hMiss : MemoryWf miss := by
    unfold miss
    split
    · exact h.stall
    · next asked => exact (h.requestWalk asked).modTile
  split
  · exact h.elemFails
  · split
    · exact hMiss
    · split
      · exact hMiss
      · split
        · exact h.elemFails
        · extract_lets len parts spans serial
          split
          · exact h.modTile
          · split
            · exact h.stall
            · exact h.pushElem

theorem atSlice (h : MemoryWf s) {k : Nat} {a : AccRef} {deferred : Bool} {perform : State → State}
    (hp : ∀ u, MemoryWf u → MemoryWf (perform u)) : MemoryWf (s.atSlice k a deferred perform) := by
  unfold State.atSlice
  split
  · exact hp s h
  · split
    · next u served =>
      refine hp u ?_
      unfold State.servedAt at served
      split at served
      · split at served
        · cases served; exact h.frame
        · cases served
      · cases served
    · exact h.stall

theorem performRef (h : MemoryWf s) {r : Served} {atomic : Bool} : MemoryWf (s.performRef r atomic) := by
  unfold State.performRef
  extract_lets bad
  split
  · split
    · exact h.stall
    · extract_lets go
      have hGo : ∀ u, MemoryWf u → MemoryWf (go u) := by
        intro u hu
        unfold go
        split
        · exact hu.headerFault
        · exact hu.performCtx
      split
      · exact h.stall
      · split
        · exact h.atSlice hGo
        · exact h.atSlice hGo
        · exact h.stall
  · split
    · exact h.stall
    · extract_lets go
      have hGo : ∀ u, MemoryWf u → MemoryWf (go u) := by
        intro u hu
        unfold go
        split
        · exact hu.answerPeer
        · exact hu.performInbound
      split
      · exact h.atSlice hGo
      · exact h.stall
  · split
    · exact h.stall
    · extract_lets x go
      have hGo : ∀ u, MemoryWf u → MemoryWf (go u) := by
        intro u hu
        unfold go
        split
        · exact hu.headerFault
        · exact hu.performElem
      split
      · exact h.stall
      · exact h.atSlice hGo

/-! Packets of transfers and decisions of bales (R251, R372, R374, R399). -/

theorem dropPacket (h : MemoryWf s) {id : Word} {k : Nat} {f : Transfer → Transfer} : MemoryWf (s.dropPacket id k f) := h.frame

theorem modXfer (h : MemoryWf s) {id : Word} {f : Transfer → Transfer} : MemoryWf (s.modXfer id f) := h.frame

theorem letIn (h : MemoryWf s) {t : TileId} {n : Nat} : MemoryWf (s.letIn t n) := h.modTile

theorem serveWrite (h : MemoryWf s) {r : Option Region} {x : Transfer} {k : Nat} {p : Packet} {bad : Bool} :
    MemoryWf (s.serveWrite r x k p bad) := by
  unfold State.serveWrite
  extract_lets n done
  split
  · split
    · exact h.dropPacket
    · extract_lets asked
      have hAsked : MemoryWf asked := h.foldl fun _ _ h => h.askRemote
      exact hAsked.dropPacket
  · split
    · exact h.stall
    · split
      · exact h.dropPacket
      · next m landed =>
        have hm : Canonical m := h.canonical.landCells landed
        extract_lets m'
        have hm' : Canonical m' := hm.poisonCells_ite
        exact (h.withMem hm').dropPacket.serveDeferred
  · extract_lets t y room landed
    split
    · exact h.dropPacket
    · split
      · split
        · exact h.stall
        · exact h.letIn.modXfer
      · have hLanded : MemoryWf landed := h.letIn.modTile_of fun hx => wf_landBytes hx _ _
        exact hLanded.dropPacket
  · exact h.dropPacket

theorem lateReply (h : MemoryWf s) {d : Fin 8} {n : Nat} {gen : BitVec 8} : MemoryWf (s.lateReply d n gen) := by
  unfold State.lateReply
  split
  · exact h
  · exact h.frame

theorem serveResponse (h : MemoryWf s) {r : Option Region} {x : Transfer} {k : Nat} {p : Packet} {bad : Bool} :
    MemoryWf (s.serveResponse r x k p bad) := by
  unfold State.serveResponse
  split
  · exact h.dropPacket.lateReply
  · exact h.dropPacket

theorem deferPacket (h : MemoryWf s) {id : Word} {k : Nat} {p : Packet} {t : Target} : MemoryWf (s.deferPacket id k p t) := by
  unfold State.deferPacket
  split
  · exact h.stall
  · exact h.modXfer

theorem respondRead (h : MemoryWf s) {id : Word} {k v : Nat} : MemoryWf (s.respondRead id k v) := h.frame

theorem serveRead (h : MemoryWf s) {r : Region} {x : Transfer} {k : Nat} {p : Packet} : MemoryWf (s.serveRead r x k p) := by
  unfold State.serveRead
  split
  · exact h.askRemote.dropPacket
  · split
    · exact h.deferPacket
    · split
      · exact h.deferPacket
      · exact h.dropPacket
      · exact h.respondRead
  · extract_lets y
    split
    · exact h.dropPacket
    · split
      · exact h.dropPacket
      · exact h.respondRead
  · exact h.dropPacket

theorem serveOrphan (h : MemoryWf s) {x : Transfer} {k : Nat} {p : Packet} : MemoryWf (s.serveOrphan x k p) := by
  unfold State.serveOrphan
  split
  · split
    · exact h.dropPacket
    · split
      · exact h.dropPacket
      · exact h.respondRead
      · exact h.respondRead
  · exact h.dropPacket

theorem applyDecision (h : MemoryWf s) {c : BitVec 12} {g : Word} {commit : Bool} : MemoryWf (s.applyDecision c g commit) := by
  unfold State.applyDecision
  split
  · exact h
  · extract_lets stored
    have hStored : MemoryWf stored := by
      unfold stored
      split
      · exact h.foldl fun _ _ h => h.withMem h.canonical.storeAt
      · exact h
    exact hStored.hub.hub.serveDeferred

/-! Commands of hosts (R84, R395-R397, R419-R434). -/

theorem initPage (h : MemoryWf s) {asid : BitVec 16} {va : Nat} {node : BitVec 12} {tag : BitVec 32} : MemoryWf (s.initPage asid va node tag) := by
  unfold State.initPage
  split
  · split
    · exact h.hub.serveHub
    · exact h.respond
  · exact h.respond

theorem deny (h : MemoryWf s) {c : Cmd} {op : Nat} : MemoryWf (s.deny c op) := by
  unfold State.deny
  split
  · exact h
  · exact h.respond

/-- A command keeps memory canonical where its effect does. -/
theorem command (h : MemoryWf s) {c : Cmd} {op : Nat} {inRecovery formed : Bool} {effect : State → State}
    (he : ∀ u, MemoryWf u → MemoryWf (effect u)) (e : s.command c op inRecovery formed effect = .next u) : MemoryWf u := by
  unfold State.command at e
  cases e
  split
  · exact h.stall
  · split
    · exact h.stall
    · extract_lets _ taken
      have hTaken : MemoryWf taken := h.hub
      split
      · exact hTaken.deny
      · split
        · exact hTaken.respond
        · split
          · exact hTaken.respond
          · exact he _ hTaken

theorem ctxCommand (h : MemoryWf s) {c : Cmd} {op : Nat} {formed : Bool} {effect : TileId → Fin 4 → State → State}
    (he : ∀ t k u, MemoryWf u → MemoryWf (effect t k u)) (e : s.ctxCommand c op formed effect = .next u) : MemoryWf u := by
  unfold State.ctxCommand State.regionCommand at e
  refine h.command (fun u hu => ?_) e
  split
  · exact hu.respond
  · split
    · exact hu.respond
    · dsimp only
      split
      · exact hu.respond
      · split
        · exact hu.respond
        · exact he _ _ _ hu

theorem putSelected (h : MemoryWf s) {t : TileId} {k : Fin 4} {x : Selector} {v : Word} : MemoryWf (s.putSelected t k x v) := by
  unfold State.putSelected
  split
  · exact h.modTile_of fun hx => wf_scratchWrite hx _
  · exact h.modCtx

/-! Install (R94-R96). -/

theorem installFrame (h : MemoryWf s) {r : Region} {index : Nat} {f : Frame} (e : s.installFrame r index f = .ok u) : MemoryWf u := by
  unfold State.installFrame at e
  split at e
  · split at e
    · next g added =>
      cases e
      obtain ⟨p, -, hp⟩ := Option.bind_eq_some_iff.1 added
      exact h.withMem (h.canonical.addProgram hp)
    · cases e
  · split at e
    · cases e
    · extract_lets t at e
      split at e
      · next x applied =>
        cases e
        exact h.setTile (applyFrame_scratch applied ▸ h.wf_tile t)
      · cases e

theorem installFrames (h : MemoryWf s) {r : Region} {n : Nat} (e : s.installFrames r n = .ok u) : MemoryWf u := by
  induction n generalizing u with
  | zero => cases e; exact h
  | succ n ih =>
    unfold State.installFrames at e
    split at e
    · cases e
    · next v earlier =>
      split at e
      · cases e
      · exact (ih earlier).installFrame e

theorem installSegments {r : Region} {n va : Nat} (h : MemoryWf s) (e : s.installSegments r n va = .ok u) : MemoryWf u := by
  induction n generalizing s va with
  | zero => cases e; exact h
  | succ n ih =>
    unfold State.installSegments at e
    split at e
    · cases e
    · extract_lets row col addr len at e
      split at e
      · cases e
      · split at e
        · cases e
        · exact ih (h.modTile_of fun hx => wf_scratchWrite hx _) e

/-- A run of steps each of which may fail keeps memory canonical where every step does. -/
theorem foldl_bind {α : Type} {f : State → α → Option State} (hf : ∀ s a u, MemoryWf s → f s a = some u → MemoryWf u) {l : List α}
    (h : MemoryWf s) (e : l.foldl (fun o a => o.bind fun s => f s a) (some s) = some u) : MemoryWf u := by
  have failed : ∀ l : List α, l.foldl (fun o a => o.bind fun s => f s a) none = none := by
    intro l
    induction l with
    | nil => rfl
    | cons a rest ih => exact ih
  induction l generalizing s with
  | nil => cases e; exact h
  | cons a rest ih =>
    rw [List.foldl_cons, Option.bind_some] at e
    cases step : f s a with
    | none => rw [step, failed] at e; cases e
    | some v => rw [step] at e; exact ih (hf s a v h step) e

theorem joinTile (h : MemoryWf s) {r : Region} {t : TileId} (e : s.joinTile r t = some u) : MemoryWf u := by
  refine foldl_bind (fun s edge u hs step => ?_) h e
  obtain ⟨sink, e, k, slots⟩ := edge
  dsimp -zeta only at step
  extract_lets joined c at step
  split at step
  · cases step
  · split at step
    · cases step; exact hs
    · split at step
      · cases step; exact hs.hub
      · cases step; exact hs.hub.modTile

theorem joinCircuits {r : Region} {l : List TileId} (h : MemoryWf s) (e : s.joinCircuits r l = .inr u) : MemoryWf u := by
  induction l generalizing s with
  | nil => cases e; exact h
  | cons t rest ih =>
    unfold State.joinCircuits at e
    split at e
    · cases e
    · next v joined => exact ih (h.joinTile joined) e

theorem wakeTiles (h : MemoryWf s) {r : Region} : MemoryWf (s.wakeTiles r) := h.foldl fun _ _ h => h.setTile rfl

theorem fillCredits (h : MemoryWf s) {known : List (Nat × (TileId × Nat) × Nat)} {t : TileId} : MemoryWf (s.fillCredits known t) := by
  refine h.foldl fun u p hu => ?_
  split
  · exact hu
  · exact hu.modTile

theorem loadImage (h : MemoryWf s) {r : Region} (e : s.loadImage r = .ok u) : MemoryWf u := by
  unfold State.loadImage at e
  split at e
  · cases e
  · next framed frames =>
    have hFramed : MemoryWf framed := h.wakeTiles.installFrames frames
    split at e
    · cases e
    · next filled segments =>
      have hFilled : MemoryWf filled := hFramed.installSegments segments
      extract_lets configured at e
      have hConfigured : MemoryWf configured := hFilled.foldl fun _ _ h => h.modTile (configured_scratch _)
      split at e
      · cases e
      · next wired circuits =>
        have hWired : MemoryWf wired := hConfigured.joinCircuits circuits
        split at e
        · cases e
        · cases e
          exact hWired.foldl fun _ _ h => h.fillCredits

theorem askLine (h : MemoryWf s) {owner line : Nat} {node : BitVec 12} {rva : Nat} {page : BitVec 16 × Span} :
    MemoryWf (s.askLine owner line node rva page) := by
  unfold State.askLine
  split
  · exact h.stall
  · exact h.hub.askRemote

theorem loadStopped (h : MemoryWf s) {r : Region} {cause : BitVec 8} {place : BitVec 32} {header : Option Word} {index : Option Nat} :
    MemoryWf (s.loadStopped r cause place header index) := by
  cases header <;> cases index <;> exact MemoryWf.regionFault h.frame

/-! Eviction and restoration (R390-R394). -/

theorem saved_of_region (h : MemoryWf s) {n : Nat} {r : Region} (e : s.region n = some r) : SavedCanonical r.saved :=
  h.2.2.2 r (List.mem_of_find?_eq_some e)

theorem images_wf (h : MemoryWf s) (r : Region) : SavedCanonical (s.images r) := by
  intro p hp
  obtain ⟨t, -, rfl⟩ := List.mem_map.1 hp
  exact h.wf_tile t

theorem writeImage (h : MemoryWf s) {saved : List ((Nat × Nat) × Tile)} {save : Nat} : MemoryWf (s.writeImage saved save) :=
  h.withMem (List.foldlRecOn (motive := fun m : Global × Nat => Canonical m.1) _ _ h.canonical fun _ hm _ _ => ⟨Memory.wf_writeCells hm.1 _, hm.2⟩)

theorem mapXfers (h : MemoryWf s) {r : Region} {f : Transfer → Transfer} : MemoryWf (s.mapXfers r f) := h.frame

theorem forgetXfers (h : MemoryWf s) {r : Region} {keepCopies : Bool} : MemoryWf (s.forgetXfers r keepCopies) := h.frame

theorem dropWalkers (h : MemoryWf s) {tiles : List TileId} {ids : List Word} : MemoryWf (s.dropWalkers tiles ids) := h.frame

theorem evictTiles (h : MemoryWf s) {r : Region} {save : Nat} : MemoryWf (s.evictTiles r save) := by
  unfold State.evictTiles
  extract_lets tiles saved ends mapped _ gated
  have hGated : MemoryWf gated := MemoryWf.frame h.mapXfers (tiles := List.filter_subset_self _)
  have hSaved : SavedCanonical saved := h.images_wf r
  exact (hGated.writeImage.modRegion_of fun _ _ => hSaved).passOn

theorem replaceEnd (h : MemoryWf s) {r : Region} {e : Nat × Bool × (Nat × Nat) × Nat} : MemoryWf (s.replaceEnd r e) := by
  unfold State.replaceEnd
  extract_lets t
  split
  · exact h
  · split
    · exact h.hub.modTile
    · exact h.hub.modTile

/-- The tiles of an evicted region come back as they were saved. -/
theorem placeTiles (h : MemoryWf s) {r : Region} (hr : SavedCanonical r.saved) : MemoryWf (s.placeTiles r) := by
  unfold State.placeTiles
  extract_lets placed mapped joined
  have hPlaced : MemoryWf placed := h.foldl_mem fun _ p hp h => h.setTile (hr p hp)
  have hMapped : MemoryWf mapped := hPlaced.mapXfers
  have hJoined : MemoryWf joined := hMapped.foldl fun _ _ h => h.replaceEnd
  exact hJoined.modRegion_of fun _ _ => List.forall_mem_nil _

theorem recredit (h : MemoryWf s) {t : TileId} : MemoryWf (s.recredit t) := by
  refine h.foldl fun u e hu => ?_
  split
  · exact hu
  · exact hu.modTile

theorem renameXfer (h : MemoryWf s) {x : Transfer} {new : Word} : MemoryWf (s.renameXfer x new) := by
  unfold State.renameXfer
  extract_lets renamed counted
  have hRenamed : MemoryWf renamed := h.modXfer
  have hCounted : MemoryWf counted := by
    unfold counted
    split
    · exact hRenamed
    · exact hRenamed.modTile
  exact hCounted.modTile

theorem resubmitAll (h : MemoryWf s) {r : Region} : MemoryWf (s.resubmitAll r) := h.foldl fun _ _ h => h.renameXfer

theorem sendBeacon (h : MemoryWf s) {t : TileId} {g : Fin 16} {only : Option (Fin 8 × Fin 64)} : MemoryWf (s.sendBeacon t g only) := by
  unfold State.sendBeacon
  extract_lets c step dests sent
  have hSent : MemoryWf sent := h.foldl fun _ _ h => h.frame
  split
  · exact hSent
  · exact hSent.modTile

theorem rewatch (h : MemoryWf s) {r : Region} : MemoryWf (s.rewatch r) := by
  unfold State.rewatch
  extract_lets mine subscribed
  have hSubscribed : MemoryWf subscribed := by
    refine h.foldl fun u x hu => ?_
    split
    · exact hu
    · exact hu.modTile
  refine hSubscribed.foldl fun u t hu => hu.foldl fun u g hu => ?_
  split
  · exact hu
  · exact hu.sendBeacon

/-! What the contexts of a restored tile go on with (R265, R282, R286, R357, R369). -/

theorem tagStore (h : MemoryWf s) {t : TileId} {k : Fin 4} {a : GAccess} {b : Word} {n : Nat} {leaf : Leaf} :
    MemoryWf (s.tagStore t k a b n leaf) := by
  unfold State.tagStore
  extract_lets tgt idx bale dest known counts counted sent
  clear_value tgt
  split
  · exact h.modCtx.trapIn
  · split
    · exact h.doom.modCtx.trapIn
    · have hSent : MemoryWf sent := by
        unfold sent
        split
        · exact h.frame
        · exact h.frame
      exact hSent.accDone

theorem arrive (h : MemoryWf s) {t : TileId} {k : Fin 4} {id : Nat} {leaf : Leaf} : MemoryWf (s.arrive t k id leaf) := h.modCtx.nextSeq

theorem translateQueue {fuel : Nat} {t : TileId} {k : Fin 4} (h : MemoryWf s) : MemoryWf (State.translateQueue fuel s t k) := by
  induction fuel generalizing s with
  | zero => exact h
  | succ fuel ih =>
    unfold State.translateQueue
    extract_lets c next
    clear_value next
    split
    · exact h
    · split
      · exact h
      · split
        · exact h
        · split
          · split
            · exact h
            · next asked => exact (h.requestWalk asked).modCtx
          · next leaf tlb _ =>
            extract_lets found translated
            have hFound : MemoryWf found := h.modCtx
            refine ih ?_
            unfold translated
            split
            · exact hFound.accFault
            · split
              · exact hFound.tagStore
              · exact hFound.arrive

theorem settleGwait (h : MemoryWf s) {t : TileId} {k : Fin 4} : MemoryWf (s.settleGwait t k) := by
  unfold State.settleGwait
  extract_lets x
  split
  · split
    · exact h
    · extract_lets all recorded woken
      have hRecorded : MemoryWf recorded := by
        refine h.foldl fun u w hu => ?_
        split
        · exact hu.modCtx
        · exact hu
      have hWoken : MemoryWf woken := hRecorded.modCtx
      split
      · exact hWoken.modCtx
      · exact hWoken.trapIn
  · exact h

theorem setPieceOrder (h : MemoryWf s) {t : TileId} {k : Fin 4} {kind : XKind} {e : Fin 64} {n : Option Nat} :
    MemoryWf (s.setPieceOrder t k kind e n) := by
  unfold State.setPieceOrder
  split
  · exact h.modCtx
  · exact h.modTile

theorem acceptPiece (h : MemoryWf s) {t : TileId} {k : Fin 4} {kind : XKind} {shadow out : Bool} {mark : Nat} {p : Piece} {id : Word}
    (e : s.acceptPiece t k kind shadow out mark p = some (id, u)) : MemoryWf u := by
  unfold State.acceptPiece at e
  split at e
  · split at e
    · cases e
    · split at e
      · cases e
      · cases e
        exact MemoryWf.frame h.setPieceOrder
  · cases e

theorem askPiece (h : MemoryWf s) {t : TileId} {k : Fin 4} {kind : XKind} : MemoryWf (s.askPiece t k kind) := by
  unfold State.askPiece
  split
  · exact h
  · split
    · exact h
    · exact MemoryWf.frame h.setPieceOrder

theorem copyStep (h : MemoryWf s) {t : TileId} {k : Fin 4} : MemoryWf (s.copyStep t k) := by
  unfold State.copyStep
  split
  · extract_lets finish next
    have hNext : ∀ done, MemoryWf (next done s) := by
      intro done
      unfold next
      split
      · exact h.modCtx
      · split
        · exact h.askPiece.modCtx
        · next accepted => exact (h.acceptPiece accepted).modCtx
    split
    · exact hNext _
    · split
      · exact hNext _
      · split
        · exact h.modCtx
        · split
          · exact hNext _
          · exact h
  · exact h

theorem rewake (h : MemoryWf s) {t : TileId} : MemoryWf (s.rewake t) := h.foldl fun _ _ h => h.translateQueue.settleGwait.copyStep

/-! Issue: an instruction keeps memory canonical where its effect does, since a trap does (R38, R55, R381). -/

theorem retire (h : MemoryWf s) : MemoryWf s.retire := h.modCtx

theorem modCur (h : MemoryWf s) {f : Ctx → Ctx} : MemoryWf (s.modCur f) := h.modCtx

theorem trapIll (h : MemoryWf s) : MemoryWf s.trapIll := h.trapIn

theorem issue (h : MemoryWf s) {g : Guard} {f : State → State} (hf : MemoryWf (f s)) : MemoryWf (s.issue g f) := by
  unfold State.issue
  split
  · exact h.trapIll
  · split
    · exact hf
    · exact h.retire

theorem issueJump (h : MemoryWf s) {g : Guard} {f : State → State} (hf : MemoryWf (f s)) : MemoryWf (s.issueJump g f) := by
  unfold State.issueJump
  split
  · exact hf
  · split
    · exact h.trapIll
    · exact h.retire

theorem issueLanes (h : MemoryWf s) {g : Guard} {f : Word → State → State} (hf : ∀ m, MemoryWf (f m s)) : MemoryWf (s.issueLanes g f) := by
  unfold State.issueLanes
  split
  · exact h.trapIll
  · exact hf _

theorem goTo (h : MemoryWf s) {t : Int} : MemoryWf (s.goTo t) := by
  unfold State.goTo
  split
  · exact h.modCur
  · exact h.trapIll

theorem branch (h : MemoryWf s) {taken : Bool} {off : BitVec 32} : MemoryWf (s.branch taken off) := h.goTo

theorem jumpLink (h : MemoryWf s) {d : Reg} {t : Int} : MemoryWf (s.jumpLink d t) := by
  unfold State.jumpLink
  split
  · exact h.modCur
  · exact h.trapIll

theorem afterStoreFault (h : MemoryWf s) {f : State → State} (hf : MemoryWf (f s)) : MemoryWf (s.afterStoreFault f) := by
  unfold State.afterStoreFault
  split
  · exact hf
  · exact h.modCur.trapIn

theorem ite {a b : State} {p : Prop} [Decidable p] (ha : MemoryWf a) (hb : MemoryWf b) : MemoryWf (if p then a else b) := by
  split
  · exact ha
  · exact hb

theorem yieldTask (h : MemoryWf s) {c : Fin 4} : MemoryWf (s.modCurTile (·.yieldTask c)) := by
  refine h.modTile ?_
  unfold Tile.yieldTask Tile.dispatch
  dsimp only
  split
  · split <;> rfl
  · rfl

theorem writeS (h : MemoryWf s) {d : Reg} {v : Word} : MemoryWf (s.writeS d v) := h.modCur

theorem writeP (h : MemoryWf s) {d : Reg} {v : Word} : MemoryWf (s.writeP d v) := h.modCur

theorem writeV (h : MemoryWf s) {d : Reg} {x : Vec} : MemoryWf (s.writeV d x) := h.modCur

/-- Each computing form issues a branch, a jump, a `yield`, a `park`, or an effect that writes one register and retires. -/
theorem completes_computeForms (h : MemoryWf s) (g : Guard) (a : FmtA) (b : FmtB) (c : FmtC) :
    ∀ i ∈ computeForms g a b c, Completes i s MemoryWf := by
  simp only [computeForms, List.forall_mem_cons, List.not_mem_nil, false_imp_iff, implies_true, and_true]
  and_intros
  all_goals refine ⟨_, rfl, ?_⟩
  all_goals simp only [h.issue, h.issueJump, h.issueLanes, h.branch, h.jumpLink, h.afterStoreFault, h.yieldTask, h.retire, h.modCur,
    h.writeS, h.writeP, h.writeV, ite, State.intOp, State.bitOp, State.immOp, State.immBits, State.floatOp, State.floatCode,
    State.vecInt, State.vecBits, State.vecFloat, State.vecLanes, State.vecCond, State.vecPerm, State.reduceInt, implies_true]

/-! The happenings and commands that write memory. -/

theorem storeQueuePerform (h : MemoryWf s) {t : TileId} {k : Fin 4} (e : execStoreQueuePerform t k s = .next u) : MemoryWf u := by
  unfold execStoreQueuePerform at e
  split at e
  · cases e; exact h.stall
  · cases e; exact h.modTile_of fun hx => wf_scratchWrite hx _

theorem transferPacketLand (h : MemoryWf s) {id : Word} {l : Landing} (e : execTransferPacketLand id l s = .next u) : MemoryWf u := by
  unfold execTransferPacketLand at e
  split at e
  · cases e; exact h.stall
  · split at e
    · cases e; exact h.stall
    · extract_lets r known at e
      split at e
      · cases e; exact h.stall
      · split at e
        · cases e
          refine MemoryWf.settleClosing ?_
          split
          · exact h.dropPacket.regionFault
          · exact h.dropPacket
        · split at e
          · cases e; exact h.serveWrite.settleClosing
          · cases e; exact h.serveResponse.settleClosing
          · cases e; exact h.serveRead
          · cases e; exact h.serveOrphan.settleClosing

theorem baleDecisionApply (h : MemoryWf s) {k : Nat} (e : execBaleDecisionApply k s = .next u) : MemoryWf u := by
  unfold execBaleDecisionApply at e
  split at e
  · extract_lets applied at e
    have hApplied : MemoryWf applied := h.hub.applyDecision
    split at e
    · cases e; exact hApplied.hub
    · cases e; exact hApplied.tell
  · cases e; exact h.stall

theorem readStreamElement (h : MemoryWf s) {t : TileId} {g : Fin 4} (e : execReadStreamElement t g s = .next u) : MemoryWf u := by
  unfold execReadStreamElement at e
  extract_lets x a y va n at e
  split at e
  · cases e; exact h.stall
  · split at e
    · cases e; exact h.elemDone
    · split at e
      · cases e; exact h.elemFails
      · split at e
        · cases e; exact h.elemFails
        · cases e; exact h.elemDone
    · cases e; exact h.issueElem

theorem writeStreamElement (h : MemoryWf s) {t : TileId} {g : Fin 4} (e : execWriteStreamElement t g s = .next u) : MemoryWf u := by
  unfold execWriteStreamElement at e
  extract_lets x a y va n at e
  split at e
  · cases e; exact h.stall
  · split at e
    · cases e; exact h.stall
    · split at e
      · cases e; exact h.elemFails
      · split at e
        · cases e; exact h.modTile
        · extract_lets value v at e
          split at e
          · split at e
            · cases e; exact h.elemFails
            · cases e
              have stored : MemoryWf (s.modTile t fun x => x.scratchWrite (x.scratchCells va n v)) := h.modTile_of fun hx => wf_scratchWrite hx _
              exact stored.elemDone
          · cases e; exact h.issueElem

theorem pageinit (h : MemoryWf s) {c : Cmd} (e : execPageinit c s = .next u) : MemoryWf u := by
  refine h.command (fun v hv => ?_) e
  dsimp only
  split
  · exact hv.hub
  · exact hv.initPage

theorem attest (h : MemoryWf s) {c : Cmd} (e : execAttest c s = .next u) : MemoryWf u := by
  unfold execAttest at e
  extract_lets a at e
  refine h.command (fun v hv => ?_) e
  dsimp only
  split
  · exact hv.respond
  · exact hv.hub.hub.serveHub

theorem ctxwr (h : MemoryWf s) {c : Cmd} (e : execCtxwr c s = .next u) : MemoryWf u := by
  unfold execCtxwr at e
  split at e
  · exact h.ctxCommand (fun _ _ _ hv => hv) e
  · refine h.ctxCommand (fun t k v hv => ?_) e
    split
    · exact hv.respond
    · exact hv.putSelected.respond

theorem resolve (h : MemoryWf s) {c : Cmd} (e : execResolve c s = .next u) : MemoryWf u :=
  h.command (fun _ hv => hv.applyDecision.respond) e

theorem install (h : MemoryWf s) {n : Nat} (e : execInstall n s = .next u) : MemoryWf u := by
  unfold execInstall at e
  split at e
  · cases e; exact h.stall
  · split at e
    · cases e; exact h.stall
    · split at e
      · cases e; exact h.stall
      · cases e; exact h.askLine
      · cases e; exact h.loadStopped
      · next loaded image =>
        cases e
        exact (h.loadImage image).hub.modRegion

theorem snapshotComplete (h : MemoryWf s) {n : Nat} (e : execSnapshotComplete n s = .next u) : MemoryWf u := by
  unfold execSnapshotComplete at e
  split at e
  · cases e; exact h.stall
  · next r _ =>
    split at e
    · extract_lets tiles held ids suspended quiet at e
      split at e
      · cases e; exact h.stall
      · have hSuspended : MemoryWf suspended := h.dropWalkers.purgePeers.mapXfers.forgetXfers
        have hQuiet : MemoryWf quiet := hSuspended.frame
        split at e
        · cases e; exact hQuiet.modRegion.respond
        · cases e; exact hQuiet.evictTiles.respond
    · cases e; exact h.stall

theorem regionRestore (h : MemoryWf s) {n : Nat} (e : execRegionRestore n s = .next u) : MemoryWf u := by
  unfold execRegionRestore at e
  split at e
  · cases e; exact h.stall
  · next r found =>
    split at e
    · extract_lets evicted placed at e
      have hPlaced : MemoryWf placed := by
        unfold placed
        split
        · exact h.placeTiles (h.saved_of_region found)
        · exact h
      split at e
      · cases e; exact h.stall
      · split at e
        · cases e; exact h.regionFault
        · split at e
          · cases e; exact hPlaced.stall
          · extract_lets tiles awake credited running watched woken at e
            have hAwake : MemoryWf awake := hPlaced.foldl fun _ _ h => h.modTile
            have hCredited : MemoryWf credited := hAwake.foldl fun _ _ h => h.recredit
            have hRunning : MemoryWf running := hCredited.modRegion.resubmitAll
            have hWatched : MemoryWf watched := hRunning.rewatch
            have hWoken : MemoryWf woken := (hWatched.foldl fun _ _ h => h.rewake).forgetXfers
            cases e
            exact hWoken.respond
    · cases e; exact h.stall

/-- Without power, memory lists nothing. -/
theorem powerOff (s : State) : MemoryWf s.powerOff := resetMemoryIsCanonical.1.frame

theorem powerUp (s : State) : MemoryWf s.powerUp := foldl (powerOff s).frame fun _ _ h => h.tell

theorem thermalTrip (h : MemoryWf s) {n : Nat} (e : execThermalTrip n s = .next u) : MemoryWf u := by
  unfold execThermalTrip at e
  split at e
  · cases e; exact h.stall
  · cases e; exact powerOff _

end MemoryWf

/-- Settles O60: each of the moves it names keeps the memories canonical, by the lemma about its meaning. -/
theorem memoryStaysCanonical : Obligations.MemoryStaysCanonical := by
  intro g a b c i s t move h e
  rcases move with compute | ⟨k, n, rfl⟩ | ⟨r, rfl | rfl⟩ | ⟨id, l, rfl⟩ | ⟨k, rfl⟩ | ⟨k, n, rfl | rfl⟩ | ⟨cmd, command⟩ | ⟨n, region⟩ |
    rfl | rfl | ⟨n, rfl⟩
  · obtain ⟨u, eu, hu⟩ := h.completes_computeForms g a b c i compute
    rw [eu] at e
    cases e
    exact hu
  · exact h.storeQueuePerform e
  · cases e; exact h.performRef
  · cases e; exact h.performRef
  · exact h.transferPacketLand e
  · exact h.baleDecisionApply e
  · exact h.readStreamElement e
  · exact h.writeStreamElement e
  · simp only [List.mem_cons, List.not_mem_nil, or_false] at command
    rcases command with rfl | rfl | rfl | rfl
    · exact h.pageinit e
    · exact h.attest e
    · exact h.ctxwr e
    · exact h.resolve e
  · simp only [List.mem_cons, List.not_mem_nil, or_false] at region
    rcases region with rfl | rfl | rfl
    · exact h.install e
    · exact h.snapshotComplete e
    · exact h.regionRestore e
  · cases e; exact MemoryWf.powerUp s
  · cases e; exact MemoryWf.powerOff s
  · exact h.thermalTrip e

end Sys2Proof

/-! The encoding (R37-R53): decoding and encoding undo each other. -/

namespace Sys2Proof

namespace Laws.Encodes

/-- Every word that the encoder makes names its instruction: the law of each constructor, in the order of `Instr`. -/
theorem statement (i : Instr) : Statement i :=
  Instr.rec (motive := Statement)
    br beq bne blt bge bltu bgeu bp bnp jal jalr yield park nop add sub mul mulh mulhu div divu rem remu and or xor andn sll srl sra rol
    min max minu maxu slt sltu sel clz ctz popc brev addi andi ori xori slli srli srai slti sltiu li lhi pand por pxor pandn pnot pfrom
    pto icmp lea sbank clamp fadd fsub fmul fma fdiv fsqrt fmin fmax fcmp fcvt fclass fsgnj vadd vsub vmul vmulh vmin vmax vabs vand vor
    vxor vsll vsrl vsra vfadd vfsub vfmul vfma vfmin vfmax vfabs vfneg vfrcp vfrsq vfexp2 vflog2 vcmp vfcmp vcvt vscale vbcast vext vins
    vperm vslide vzip vunzip vsel vcompress vexpand vmov vredadd vredmax vredmin vredfadd vdot mma mmav mzero mswap mrd mwr mdrain mcfg
    mcfgGive nred nres nclr ld st vld vst vldx vstx vlds vsts gld gst gvld gvst gldw gstw gprf pclr amoadd amofadd amomin amomax amominu
    amomaxu amoand amoor amoxor amoswap amocas amocall fence fencex send vsend recv vrecv tsend tpeek trecv chk bind unbind agrun agstop
    agstat gadv gset gget gwait grate glate glatePop xfer xvia xgath xscat xcancel xstat baralloc barfree barref barinit barrive barexp
    barwait bartest blopen blseal blcommit blabort blwait blstat blst blvst scroll scrollQ stsave stload cfgw cfgswap sysrd syswr
    horizonWrite evpendWrite trap eret ebrk wfe tlbinv chalt cresume lateTrap illegalWord dispatch unitFree registerWriteLand
    storeQueuePerform headRecordExamine placementPass install sourceStart governorWindow regionComplete channelEntryArrive creditReturn
    typedJoinConvert cfgApply steerFire mergeFire carryFire forkFire readStreamElement writeStreamElement matrixFire matrixSwapToken
    matrixTokenPair mmavDone drainEntry spindlePartialArrive spindleRoundComplete spindleCreditArrive endWindow beaconTimeout
    beaconArrive enginePacketIssue packetArbiterGrant holdReevaluate watchRegister watchRetry transferPacketLand transferDone
    completionEntryAppend transferError walkComplete slicePerform atomicPerform retryResend invalidationComplete barrierOperation
    transferArrival loftStoreArrive sealSend sealArrive baleReply baleCommitDecision baleDecisionApply baleDoneReply feederLoad
    feederTrainAppend forwardReady reelSwap stateSave stateRestore tileSnapshot snapshotComplete regionRestore flitReceive nakReplay
    streamOpen streamClose dataFlit hello creditFlit circFlit hold remoteResponse remoteTimeoutExpiry bridgeReplay qconfig doorbell
    qread rootbase inval pageinit access timeout nodeport linkup routever diestate kill pause evict resume halt release ctxrd ctxwr
    faultq stale resolve circuit clockstep ratio repair thermal attest fwstage hostlist powerUp thermalTrip repairEnd ack
    clockstepResume modulePowerOff i

end Laws.Encodes

/-- Settles O57: the encoder's word names the instruction and its MAJ is not zero, so that the checks of `wf` alone decide. -/
theorem decodeOfEncode : Obligations.DecodeOfEncode := by
  intro i w encoded wellFormed
  obtain ⟨majNonzero, named⟩ := Laws.Encodes.statement i wellFormed w encoded
  simp only [decode, if_neg majNonzero, named, wellFormed, if_true]

/-- What decodes is what the word names before the checks of its fields. -/
theorem construct_of_decode {w : Word} {i : Instr} (h : decode w = .ok i) : construct w = some i := by
  unfold decode at h
  split at h
  · cases h
  · split at h
    · cases h
    · split at h
      · cases h; assumption
      · cases h

/-- The encoder gives an instruction of a major the number by which the decoder finds its constructor. -/
def EncodesBack {F : Type} (ctor : Nat → F → Option (Guard → Instr)) (enc : Nat → Guard → F → Word) : Prop :=
  ∀ fn o k g, ctor fn o = some k → encode (k g) = some (enc fn g o)

/-- A word that names an instruction by its fields is the encoder's, where its format and the constructors of its major go back. -/
theorem encode_of_fields {F : Type} {fields : Word → Option F} {ctor : Nat → F → Option (Guard → Instr)}
    {enc : Nat → Nat → Guard → F → Word} {w : Word} {i : Instr} {maj fn : Nat} (maj_eq : majOf w = maj)
    (format : ∀ {o}, fields w = some o → enc (majOf w) fn (guardOf w) o = w) (major : EncodesBack ctor (enc maj))
    (named : ((fields w).bind fun o => (ctor fn o).map fun k => k (guardOf w)) = some i) : encode i = some w := by
  obtain ⟨o, read, found⟩ := Option.bind_eq_some_iff.1 named
  obtain ⟨k, constructed, rfl⟩ := Option.map_eq_some_iff.1 found
  rw [major fn o k _ constructed, ← maj_eq, format read]

/-! Major by major. -/

theorem encodesBack_01 : EncodesBack ctor01 (encC 0x01) := by
  intro fn o k g h
  unfold ctor01 at h
  (repeat' split at h) <;> cases h <;> rfl

theorem encodesBack_02 : EncodesBack ctor02 (encB 0x02) := by
  intro fn o k g h
  unfold ctor02 at h
  (repeat' split at h) <;> cases h <;> rfl

theorem encodesBack_10 : EncodesBack ctor10 (encA 0x10) := by
  intro fn o k g h
  unfold ctor10 at h
  (repeat' split at h) <;> cases h <;> rfl

theorem encodesBack_11 : EncodesBack ctor11 (encB 0x11) := by
  intro fn o k g h
  unfold ctor11 at h
  (repeat' split at h) <;> cases h <;> rfl

theorem encodesBack_12 : EncodesBack ctor12 (encA 0x12) := by
  intro fn o k g h
  unfold ctor12 at h
  (repeat' split at h) <;> cases h <;> rfl

theorem encodesBack_13 : EncodesBack ctor13 (encA 0x13) := by
  intro fn o k g h
  unfold ctor13 at h
  (repeat' split at h) <;> cases h <;> rfl

theorem encodesBack_14 : EncodesBack ctor14 (encA 0x14) := by
  intro fn o k g h
  unfold ctor14 at h
  (repeat' split at h) <;> cases h <;> rfl

theorem encodesBack_30 : EncodesBack ctor30 (encA 0x30) := by
  intro fn o k g h
  unfold ctor30 at h
  (repeat' split at h) <;> cases h <;> rfl

theorem encodesBack_31 : EncodesBack ctor31 (encA 0x31) := by
  intro fn o k g h
  unfold ctor31 at h
  (repeat' split at h) <;> cases h <;> rfl

theorem encodesBack_32 : EncodesBack ctor32 (encA 0x32) := by
  intro fn o k g h
  unfold ctor32 at h
  (repeat' split at h) <;> cases h <;> rfl

theorem encodesBack_33 : EncodesBack ctor33 (encA 0x33) := by
  intro fn o k g h
  unfold ctor33 at h
  (repeat' split at h) <;> cases h <;> rfl

theorem encodesBack_34 : EncodesBack ctor34 (encA 0x34) := by
  intro fn o k g h
  unfold ctor34 at h
  (repeat' split at h) <;> cases h <;> rfl

theorem encodesBack_50 : EncodesBack ctor50 (encQ 0x50) := by
  intro fn o k g h
  unfold ctor50 at h
  (repeat' split at h) <;> cases h <;> rfl

theorem encodesBack_52 : EncodesBack ctor52 (encQ 0x52) := by
  intro fn o k g h
  unfold ctor52 at h
  (repeat' split at h) <;> cases h <;> rfl

theorem encodesBack_60 : EncodesBack ctor60 (encM 0x60) := by
  intro fn o k g h
  unfold ctor60 at h
  (repeat' split at h) <;> cases h <;> rfl

theorem encodesBack_70 : EncodesBack ctor70 (encM 0x70) := by
  intro fn o k g h
  unfold ctor70 at h
  (repeat' split at h) <;> cases h <;> rfl

theorem encodesBack_72 : EncodesBack ctor72 (encM 0x72) := by
  intro fn o k g h
  unfold ctor72 at h
  (repeat' split at h) <;> cases h <;> rfl

theorem encodesBack_74 : EncodesBack ctor74 (encM 0x74) := by
  intro fn o k g h
  unfold ctor74 at h
  (repeat' split at h) <;> cases h <;> rfl

theorem encodesBack_80 : EncodesBack ctor80 (encQ 0x80) := by
  intro fn o k g h
  unfold ctor80 at h
  (repeat' split at h) <;> cases h <;> rfl

theorem encodesBack_82 : EncodesBack ctor82 (encQ 0x82) := by
  intro fn o k g h
  unfold ctor82 at h
  (repeat' split at h) <;> cases h <;> rfl

theorem encodesBack_90 : EncodesBack ctor90 (encQ 0x90) := by
  intro fn o k g h
  unfold ctor90 at h
  (repeat' split at h) <;> cases h <;> rfl

theorem encodesBack_92 : EncodesBack ctor92 (encQ 0x92) := by
  intro fn o k g h
  unfold ctor92 at h
  (repeat' split at h) <;> cases h <;> rfl

theorem encodesBack_A0 : EncodesBack ctorA0 (encQ 0xA0) := by
  intro fn o k g h
  unfold ctorA0 at h
  (repeat' split at h) <;> cases h <;> rfl

theorem encodesBack_A4 : EncodesBack ctorA4 (encQ 0xA4) := by
  intro fn o k g h
  unfold ctorA4 at h
  (repeat' split at h) <;> cases h <;> rfl

theorem encodesBack_A5 : EncodesBack ctorA5 (encM 0xA5) := by
  intro fn o k g h
  unfold ctorA5 at h
  (repeat' split at h) <;> cases h <;> rfl

theorem encodesBack_B0 : EncodesBack ctorB0 (encQ 0xB0) := by
  intro fn o k g h
  unfold ctorB0 at h
  (repeat' split at h) <;> cases h <;> rfl

theorem encodesBack_C0 : EncodesBack ctorC0 (encS 0xC0) := by
  intro fn o k g h
  unfold ctorC0 at h
  (repeat' split at h) <;> cases h <;> rfl

/-- Settles O58: the fields that the decoder read, placed where it read them, are the whole word. -/
theorem encodeOfDecode : Obligations.EncodeOfDecode := by
  intro i w decoded
  have named := construct_of_decode decoded
  unfold construct at named
  split at named
  case _ maj => exact encode_of_fields maj encC_of_fields encodesBack_01 named
  case _ maj => exact encode_of_fields maj encB_of_fields encodesBack_02 named
  case _ maj => exact encode_of_fields maj encA_of_fields encodesBack_10 named
  case _ maj => exact encode_of_fields maj encB_of_fields encodesBack_11 named
  case _ maj => exact encode_of_fields maj encA_of_fields encodesBack_12 named
  case _ maj => exact encode_of_fields maj encA_of_fields encodesBack_13 named
  case _ maj => exact encode_of_fields maj encA_of_fields encodesBack_14 named
  case _ maj => exact encode_of_fields maj encA_of_fields encodesBack_30 named
  case _ maj => exact encode_of_fields maj encA_of_fields encodesBack_31 named
  case _ maj => exact encode_of_fields maj encA_of_fields encodesBack_32 named
  case _ maj => exact encode_of_fields maj encA_of_fields encodesBack_33 named
  case _ maj => exact encode_of_fields maj encA_of_fields encodesBack_34 named
  case _ maj => exact encode_of_fields maj encQ_of_fields encodesBack_50 named
  case _ maj => exact encode_of_fields maj encQ_of_fields encodesBack_52 named
  case _ maj => exact encode_of_fields maj encM_of_fields encodesBack_60 named
  case _ maj => exact encode_of_fields maj encM_of_fields encodesBack_70 named
  case _ maj => exact encode_of_fields maj encM_of_fields encodesBack_72 named
  case _ maj => exact encode_of_fields maj encM_of_fields encodesBack_74 named
  case _ maj => exact encode_of_fields maj encQ_of_fields encodesBack_80 named
  case _ maj => exact encode_of_fields maj encQ_of_fields encodesBack_82 named
  case _ maj => exact encode_of_fields maj encQ_of_fields encodesBack_90 named
  case _ maj => exact encode_of_fields maj encQ_of_fields encodesBack_92 named
  case _ maj => exact encode_of_fields maj encQ_of_fields encodesBack_A0 named
  case _ maj => exact encode_of_fields maj encQ_of_fields encodesBack_A4 named
  case _ maj => exact encode_of_fields maj encM_of_fields encodesBack_A5 named
  case _ maj => exact encode_of_fields maj encQ_of_fields encodesBack_B0 named
  case _ maj => exact encode_of_fields maj encS_of_fields encodesBack_C0 named
  case _ => cases named

/-- Settles O56: the decoder, run on each word. -/
theorem wordsDecode : Obligations.WordsDecode := by
  unfold Obligations.WordsDecode
  decide

end Sys2Proof

/-! Guards, privilege and the last index (R38, R51, R53, R55). -/

namespace Sys2Proof

open Sys2Proof.Machine

/-- What is left of an instruction whose guard is off: it retires, or raises ILL at the last index (R38, R55). -/
def Machine.State.skipped (s : State) : State := if s.cur.pc = 2047 then s.trapIll else s.retire

section Skipped

variable {s : State} {g : Guard}

theorem skipped_retires (h : s.cur.pc ≠ 2047) : Retired s s.skipped := by
  rw [State.skipped, if_neg h]
  exact retired_retire s

theorem trapIll_enters (h : s.cur.trapped = false) : Trapped s s.trapIll Cause.ill 0 s.curWord := trapped_trap h _ _ _

theorem skipped_last (h : s.cur.pc = 2047) : s.skipped = s.trapIll := if_pos h

theorem issue_skipped (h : s.cur.guardOn g = false) (f : State → State) : s.issue g f = s.skipped := by
  simp [State.issue, State.skipped, h]

theorem issueJump_skipped (h : s.cur.guardOn g = false) (f : State → State) : s.issueJump g f = s.skipped := by
  simp [State.issueJump, State.skipped, h]

theorem issueLanes_last (h : s.cur.pc = 2047) (f : Word → State → State) : s.issueLanes g f = s.trapIll := if_pos h

variable {a : FmtA} {b : FmtB} {c : FmtC} {m : FmtM} {q : FmtQ} {r : FmtS}

/-- The instructions that their guard governs whole issue, those of supervisor mode after the check of the mode. -/
theorem exec_wholeForms : ∀ i ∈ wholeForms g a b m q r, (i ∈ supervisorForms g m q r → s.cur.mode = .supervisor) →
    ∃ f, exec i s = .next (s.issue g f) := by
  simp only [wholeForms, List.forall_mem_cons, List.not_mem_nil, false_imp_iff, implies_true, and_true]
  and_intros
  any_goals exact fun _ => ⟨_, rfl⟩
  all_goals exact fun allowed => ⟨_, congrArg Host.Outcome.next (supervised_runs (allowed (by simp [supervisorForms])) _)⟩

/-- A jump whose guard is off is skipped; `ebrk` is one with and without BRKHALT, and `cfgswap` after the check of the mode. -/
theorem exec_jumpForms_off (off : s.cur.guardOn g = false) : ∀ i ∈ jumpForms g b c q r,
    (i ∈ supervisorForms g m q r → s.cur.mode = .supervisor) → exec i s = .next s.skipped := by
  simp only [jumpForms, List.forall_mem_cons, List.not_mem_nil, false_imp_iff, implies_true, and_true]
  and_intros
  iterate 12 · exact fun _ => congrArg Host.Outcome.next (issueJump_skipped off _)
  case _ => -- cfgswap
    exact fun allowed => congrArg Host.Outcome.next
      ((supervised_runs (allowed (by simp [supervisorForms])) _).trans (issueJump_skipped off _))
  case _ => -- eret
    exact fun _ => congrArg Host.Outcome.next (issueJump_skipped off _)
  case _ => -- ebrk
    intro _
    show Host.Outcome.next (if _ then _ else _) = _
    rw [issue_skipped off, issueJump_skipped off, ite_self]

theorem exec_laneForms : ∀ i ∈ laneForms g a, ∃ f, exec i s = .next (s.issueLanes g f) := by
  simp only [laneForms, List.forall_mem_cons, List.not_mem_nil, false_imp_iff, implies_true, and_true]
  and_intros
  all_goals exact ⟨_, rfl⟩

theorem exec_supervisorForms_user (user : s.cur.mode = .user) : ∀ i ∈ supervisorForms g m q r,
    exec i s = .next (s.trap Cause.priv s.curWord) := by
  simp only [supervisorForms, List.forall_mem_cons, List.not_mem_nil, false_imp_iff, implies_true, and_true]
  and_intros
  all_goals exact congrArg Host.Outcome.next (supervised_user user _)

end Skipped

/-- Settles O54: guarded off, every form is skipped; at the last index the whole and the lane forms trap before their effect. -/
theorem guardsPrivilegeAndTheLastIndex : Obligations.GuardsPrivilegeAndTheLastIndex := by
  intro g a b c m q r s i whole jump lanes allowed
  have skips : whole ∨ jump → allowed → s.cur.guardOn g = false → exec i s = .next s.skipped := by
    rintro (isWhole | isJump) ok off
    · obtain ⟨f, e⟩ := exec_wholeForms i isWhole ok
      rw [e, issue_skipped off]
    · exact exec_jumpForms_off off i isJump ok
  have last : whole ∨ lanes → allowed → s.cur.pc = 2047 → exec i s = .next s.trapIll := by
    rintro (isWhole | isLanes) ok pc
    · obtain ⟨f, e⟩ := exec_wholeForms i isWhole ok
      rw [e, issue_last pc]
    · obtain ⟨f, e⟩ := exec_laneForms i isLanes
      rw [e, issueLanes_last pc]
  refine ⟨fun form ok off pc => ⟨_, skips form ok off, skipped_retires pc⟩, fun untrapped => ⟨fun form ok off pc => ?_,
    fun form ok pc => ⟨_, last form ok pc, trapIll_enters untrapped⟩,
    fun form user => ⟨_, exec_supervisorForms_user user i form, trapped_trap untrapped _ _ _⟩⟩⟩
  exact ⟨_, (skips form ok off).trans (congrArg _ (skipped_last pc)), trapIll_enters untrapped⟩

end Sys2Proof

/-! Traps and pending store faults (R54, R289, R381-R387). -/

namespace Sys2Proof

open Sys2Proof.Machine

section Traps

variable {s : State} {g : Guard} {i : Instr}

/-- Trap entry of a context that is in no trap changes that context alone (R381). -/
theorem trapIn_untrapped (h : s.cur.trapped = false) (cause : BitVec 8) (epc : BitVec 11) (eva info : Word) :
    s.trapIn s.here s.ctx cause epc eva info = s.modCur fun c => c.trapEntry cause epc eva info := by
  have untrapped : (s.ctxAt s.here s.ctx).trapped = false := h
  simp [State.trapIn, untrapped, State.modCur]

/-- A trap met in a trap is a fault of the region, KIND 2, with the values that entry would have written (R387). -/
theorem trapAt_trapped (h : s.cur.trapped = true) {r : Region} (region : s.regionOf s.here = some r) (cause : BitVec 8) (eva info : Word) :
    s.trapAt eva cause info = s.regionFault r.number ⟨cause, 2, placeWord (r.relative s.here).1 (r.relative s.here).2 s.ctx.val 0, info,
      s.cur.pc.zeroExtend 64, s.curTile.cycle⟩ := by
  have trapped : (s.ctxAt s.here s.ctx).trapped = true := h
  simp only [State.trapAt, State.trapIn, trapped, if_true, State.tileFault, region]
  rfl

/-- A context halts once its register writes have landed (R395). -/
theorem haltHere_landed (landed : ∀ p ∈ s.cur.landing, p.2 ≤ s.curTile.cycle.toNat) (cause : BitVec 8) :
    s.haltHere cause = s.modCur fun c => c.retire.halt cause s.cur.pc := by
  have all : (s.cur.landing.all fun p => decide (p.2 ≤ s.curTile.cycle.toNat)) = true := by simpa using landed
  rw [State.haltHere, if_pos all, State.retire, State.modCur_modCur]

section StoreFaults

variable {f : StoreFault} {effect : State → State}

/-- A pending store fault is taken as a trap in place of the effect, and is pending no more (R289). -/
theorem afterStoreFault_takes (held : s.cur.psf = some f) (untrapped : s.cur.trapped = false) :
    Trapped (s.modCur fun c => { c with psf := none }) (s.afterStoreFault effect) f.cause f.va f.info := by
  simp only [State.afterStoreFault, held]
  exact trapped_trap (by simpa using untrapped) _ _ _

/-- A release takes it (R289). -/
theorem takesFault_takes {ord : BitVec 2} (release : ord.getLsbD 1 = true) (held : s.cur.psf = some f) (untrapped : s.cur.trapped = false) :
    Trapped (s.modCur fun c => { c with psf := none }) (s.takesFault ord effect) f.cause f.va f.info := by
  rw [State.takesFault, if_pos release]
  exact afterStoreFault_takes held untrapped

end StoreFaults

/-- The instructions that a pending store fault precedes whatever their fields (R289). -/
theorem exec_storeFaultForms (m : FmtM) (q : FmtQ) : ∀ i ∈ [Instr.fence g m, .fencex g m, .agrun g q, .blcommit g q, .scroll g q],
    ∃ f : State → State, exec i s = .next (s.issue g (·.afterStoreFault f)) := by
  simp only [List.forall_mem_cons, List.not_mem_nil, false_imp_iff, implies_true, and_true]
  and_intros
  all_goals exact ⟨_, rfl⟩

/-- An atomic is a global access: the pending store fault precedes it when it releases. -/
theorem exec_atomicOp {m : FmtM} {fn : BitVec 4} (e : exec i s = .next (s.issue g (·.atomicOp fn m))) :
    ∃ f : State → State → State, exec i s = .next (s.issue g fun s => s.takesFault m.ord (f s)) := by
  unfold State.atomicOp State.globalOp at e
  exact ⟨_, e⟩

/-- The stores and atomics that a pending store fault precedes when they release (R289). -/
theorem exec_releaseForms (m : FmtM) : ∀ i ∈ [Instr.st g m, .vst g m, .vstx g m, .vsts g m, .gst g m, .gvst g m, .gstw g m, .amoadd g m,
      .amofadd g m, .amomin g m, .amomax g m, .amominu g m, .amomaxu g m, .amoand g m, .amoor g m, .amoxor g m, .amoswap g m, .amocas g m, .amocall g m],
    ∃ f : State → State → State, exec i s = .next (s.issue g fun s => s.takesFault m.ord (f s)) := by
  simp only [List.forall_mem_cons, List.not_mem_nil, false_imp_iff, implies_true, and_true]
  and_intros
  iterate 7 · exact ⟨_, rfl⟩ -- stores
  iterate 11 · exact exec_atomicOp rfl -- atomics
  · exact ⟨_, rfl⟩ -- `amocall`

/-- The sends, transfers and arrivals that a pending store fault precedes when they release (R289). -/
theorem exec_releaseSends (q : FmtQ) : ∀ i ∈ [Instr.send g q, .vsend g q, .tsend g q, .xfer g q, .xvia g q, .xgath g q, .xscat g q, .barrive g q],
    ∃ f : State → State → State, exec i s = .next (s.issue g fun s => s.takesFault q.ord (f s)) := by
  simp only [List.forall_mem_cons, List.not_mem_nil, false_imp_iff, implies_true, and_true]
  and_intros
  all_goals exact ⟨_, rfl⟩

theorem exec_pclr (m : FmtM) (allowed : s.cur.mode = .supervisor) :
    ∃ f : State → State → State, exec (.pclr g m) s = .next (s.issue g fun s => s.takesFault m.ord (f s)) :=
  ⟨_, congrArg Host.Outcome.next (supervised_runs allowed _)⟩

end Traps

/-- Settles O38: each trap is one entry of the handler, and each form of R289 meets the pending store fault before its effect. -/
theorem trapsEnterTheHandler : Obligations.TrapsEnterTheHandler := by
  refine ⟨⟨fun s cause eva info trapped r region => trapAt_trapped trapped region cause eva info,
    fun g o s untrapped => ⟨fun runs => ?trap, fun brkHalt on => ?ebrk, fun brkHalt runs landed => ?halts, fun late mask => ?late,
      fun w bad => ?poisoned, fun w good => ⟨fun zero => ?zero, fun nonzero => ?ill⟩⟩⟩, ?storeFaults⟩
  case trap =>
    refine ⟨_, congrArg Host.Outcome.next (issue_runs runs _), ?_⟩
    rw [trapIn_untrapped untrapped]
    exact ⟨State.cur_modCur _ _, onlyContext_modCur _ _⟩
  case ebrk =>
    refine ⟨_, congrArg Host.Outcome.next (if_neg (by simp [brkHalt])), ?_⟩
    rw [issueJump_runs on]
    exact trapped_trap untrapped _ _ _
  case halts =>
    refine ⟨_, congrArg Host.Outcome.next (if_pos brkHalt), ?_⟩
    rw [issue_runs runs, haltHere_landed landed]
    exact ⟨State.cur_modCur _ _, onlyContext_modCur _ _⟩
  case late =>
    exact ⟨_, congrArg Host.Outcome.next (if_pos (by simp [Ctx.latePending, late, mask, untrapped])), trapped_trap untrapped _ _ _⟩
  case poisoned =>
    exact ⟨_, congrArg Host.Outcome.next (if_pos bad), trapped_trap untrapped _ _ _⟩
  case zero =>
    refine ⟨_, congrArg Host.Outcome.next (if_neg (by rw [good]; exact Bool.false_ne_true)), ?_⟩
    rw [if_pos zero]
    exact trapped_trap untrapped _ _ _
  case ill =>
    refine ⟨_, congrArg Host.Outcome.next (if_neg (by rw [good]; exact Bool.false_ne_true)), ?_⟩
    rw [if_neg nonzero]
    exact trapped_trap untrapped _ _ _
  case storeFaults =>
    intro g b m q s f runs held untrapped takes
    have releases : ∀ {i : Instr} {ord : BitVec 2}, ord.getLsbD 1 = true →
        (∃ f : State → State → State, exec i s = .next (s.issue g fun s => s.takesFault ord (f s))) → takes i := by
      rintro i ord release ⟨f, e⟩
      exact ⟨_, e.trans (congrArg _ (issue_runs runs _)), takesFault_takes release held untrapped⟩
    refine ⟨⟨_, congrArg Host.Outcome.next (issueJump_runs runs.2 _), afterStoreFault_takes held untrapped⟩, fun i form => ?_,
      fun release => ⟨fun i form => releases release (exec_releaseForms m i form), fun allowed => releases release (exec_pclr m allowed)⟩,
      fun release i form => releases release (exec_releaseSends q i form)⟩
    obtain ⟨f, e⟩ := exec_storeFaultForms m q i form
    exact ⟨_, e.trans (congrArg _ (issue_runs runs _)), afterStoreFault_takes held untrapped⟩

end Sys2Proof

/-! The load of a region's image (R94): what it leaves of the package, and how it leaves the region's tiles. -/

namespace Sys2Proof

open Sys2Proof.Machine

/-! Folds. -/

/-- What one step of a fold establishes, and the others keep, holds after the fold; `I` is what the steps may rely on. -/
theorem foldl_establishes {σ α : Type} {I P : σ → Prop} {f : σ → α → σ} {l : List α} {a : α} (ha : a ∈ l)
    (keepI : ∀ s, ∀ b ∈ l, I s → I (f s b)) (est : ∀ s, I s → P (f s a)) (keepP : ∀ s, ∀ b ∈ l, I s → P s → P (f s b))
    {s : σ} (h : I s) : P (l.foldl f s) := by
  induction l generalizing s with
  | nil => cases ha
  | cons b rest ih =>
    rcases List.mem_cons.1 ha with rfl | later
    · refine (List.foldlRecOn (motive := fun s => I s ∧ P s) rest f ⟨keepI s a (by simp) h, est s h⟩ fun s hs b hb => ?_).2
      exact ⟨keepI s b (by simp [hb]) hs.1, keepP s b (by simp [hb]) hs.1 hs.2⟩
    · exact ih later (fun s b hb => keepI s b (by simp [hb])) (fun s b hb => keepP s b (by simp [hb])) (keepI s b (by simp) h)

/-- What every step keeps holds after a run of steps each of which may fail. -/
theorem foldl_bind_keeps {σ α : Type} {P : σ → Prop} {f : σ → α → Option σ} {l : List α} {s u : σ}
    (keep : ∀ s, ∀ a ∈ l, P s → ∀ u, f s a = some u → P u) (h : P s)
    (e : l.foldl (fun o a => o.bind fun s => f s a) (some s) = some u) : P u := by
  refine List.foldlRecOn (motive := fun o => ∀ u, o = some u → P u) l _ (fun u e => ?_) (fun o ho a ha u e => ?_) u e
  · cases e; exact h
  · obtain ⟨v, hv, step⟩ := Option.bind_eq_some_iff.1 e
    exact keep v a ha (ho v hv) u step

/-! What an operation on a tile leaves of it. -/

theorem applyFrame_same {x y : Tile} {f : Frame} (e : x.applyFrame f = some y) :
    y.awake = x.awake ∧ y.region = x.region ∧ y.cycle = x.cycle ∧ y.ctxs = x.ctxs := by
  have settings : ∀ g : Settings → Option Settings, (if f.shadow then (g x.cfgShadow).map fun c => { x with cfgShadow := c }
      else (g x.cfg).map fun c => { x with cfg := c }) = some y →
      y.awake = x.awake ∧ y.region = x.region ∧ y.cycle = x.cycle ∧ y.ctxs = x.ctxs := by
    intro g e
    split at e
    · obtain ⟨c, -, rfl⟩ := Option.map_eq_some_iff.1 e; exact ⟨rfl, rfl, rfl, rfl⟩
    · obtain ⟨c, -, rfl⟩ := Option.map_eq_some_iff.1 e; exact ⟨rfl, rfl, rfl, rfl⟩
  unfold Tile.applyFrame at e
  extract_lets set at e
  split at e
  · obtain ⟨w, -, rfl⟩ := Option.map_eq_some_iff.1 e
    split <;> exact ⟨rfl, rfl, rfl, rfl⟩
  · exact settings _ e
  · exact settings _ e
  · split at e
    · cases e
    · exact settings _ e
  · cases e

/-- A typed join's scale is a field of its sink alone. -/
theorem joined_same (x : Tile) : x.joined.awake = x.awake ∧ x.joined.region = x.region ∧ x.joined.cycle = x.cycle ∧
    x.joined.ctxs = x.ctxs ∧ x.joined.cfg = x.cfg := by
  refine List.foldlRecOn (motive := fun y : Tile => y.awake = x.awake ∧ y.region = x.region ∧ y.cycle = x.cycle ∧ y.ctxs = x.ctxs ∧ y.cfg = x.cfg)
    (List.finRange 64) _ ⟨rfl, rfl, rfl, rfl, rfl⟩ fun y hy k _ => ?_
  dsimp only
  split <;> exact hy

@[simp] theorem configured_ctxs (x : Tile) (k : Fin 4) : x.configured.ctxs[k] = x.ctxs[k].configured x.cfg k := by
  obtain ⟨-, -, -, ctxs, cfg⟩ := joined_same x
  simp [Tile.configured, Tile.takesSettings, ctxs, cfg]

@[simp] theorem configured_counters (x : Tile) (g : Fin 16) : x.configured.counters[g] = Counter.installed x.cfg.beacon[g] := by
  obtain ⟨-, -, -, -, cfg⟩ := joined_same x
  simp [Tile.configured, Tile.takesSettings, cfg]

theorem configured_same (x : Tile) : x.configured.awake = x.awake ∧ x.configured.region = x.region ∧ x.configured.cycle = x.cycle ∧
    x.configured.cfg = x.cfg := by
  obtain ⟨awake, region, cycle, -, cfg⟩ := joined_same x
  simp [Tile.configured, Tile.takesSettings, awake, region, cycle, cfg]

/-- The contexts of a tile take from any settings what cleared ones take from them. -/
def LikeCleared (x : Tile) : Prop := ∀ (c : Settings) (k : Fin 4), x.ctxs[k].configured c k = (Tile.cleared.ctxs[k]).configured c k

/-- The contexts of a tile are cleared ones that have taken its settings, and its counters those that install leaves. -/
def TakenSettings (x : Tile) : Prop :=
  (∀ k : Fin 4, x.ctxs[k] = (Tile.cleared.ctxs[k]).configured x.cfg k) ∧ ∀ g : Fin 16, x.counters[g] = Counter.installed x.cfg.beacon[g]

/-- A tile that a region's install has woken and that nothing has run on. -/
structure Fresh (r : Region) (x : Tile) : Prop where
  awake : x.awake = true
  region : x.region = some r.number
  cycle : x.cycle = 0
  ctxs : LikeCleared x

/-- A fresh tile whose contexts and counters have taken its settings. -/
structure Settled (r : Region) (x : Tile) : Prop extends Fresh r x where
  taken : TakenSettings x

theorem Fresh.applyFrame {r : Region} {x y : Tile} {f : Frame} (h : Fresh r x) (e : x.applyFrame f = some y) : Fresh r y := by
  obtain ⟨awake, region, cycle, ctxs⟩ := applyFrame_same e
  exact ⟨awake.trans h.awake, region.trans h.region, cycle.trans h.cycle, by unfold LikeCleared; rw [ctxs]; exact h.ctxs⟩

theorem Fresh.scratchWrite {r : Region} {x : Tile} (h : Fresh r x) (cells : List Host.Cell) : Fresh r (x.scratchWrite cells) :=
  ⟨h.awake, h.region, h.cycle, h.ctxs⟩

theorem Fresh.configured {r : Region} {x : Tile} (h : Fresh r x) : Settled r x.configured := by
  obtain ⟨awake, region, cycle, cfg⟩ := configured_same x
  refine { awake := awake.trans h.awake, region := region.trans h.region, cycle := cycle.trans h.cycle, ctxs := fun c k => ?_
           taken := ⟨fun k => ?_, fun g => ?_⟩ }
  · rw [configured_ctxs]
    exact h.ctxs c k
  · rw [configured_ctxs, cfg]
    exact h.ctxs x.cfg k
  · rw [configured_counters, cfg]

theorem Settled.modSource {r : Region} {x : Tile} (h : Settled r x) (e : Nat) (f : Source → Source) : Settled r (x.modSource e f) :=
  ⟨⟨h.awake, h.region, h.cycle, h.ctxs⟩, h.taken⟩

/-- How far an image has been loaded: memory, regions and the tiles outside the region are as before, and every tile of it is as said. -/
structure Loading (s : State) (r : Region) (P : Tile → Prop) (u : State) : Prop where
  hbm : u.mem.hbm = s.mem.hbm
  lpddr : u.mem.lpddr = s.mem.lpddr
  regions : u.regions = s.regions
  outside : ∀ t, t ∉ r.tiles → u.tile t = s.tile t
  inside : ∀ t ∈ r.tiles, P (u.tile t)

theorem Machine.Region.tileAt_mem (r : Region) {row col : Nat} (hr : row < r.launch.rows) (hc : col < r.launch.cols) : r.tileAt row col ∈ r.tiles := by
  simp only [Region.tiles, List.mem_flatMap, List.mem_map, List.mem_range]
  exact ⟨row, hr, col, hc, rfl⟩

theorem addProgram_same {m m' : Global} {p : Program} (e : m.addProgram p = some m') : m'.hbm = m.hbm ∧ m'.lpddr = m.lpddr := by
  unfold Global.addProgram at e
  extract_lets same at e
  split at e
  · split at e
    · cases e; exact ⟨rfl, rfl⟩
    · cases e
  · split at e
    · cases e
    · cases e; exact ⟨rfl, rfl⟩

namespace Loading

variable {s u v : State} {r : Region} {P Q : Tile → Prop} {t : TileId}

theorem mono (h : Loading s r P u) (inside : ∀ t ∈ r.tiles, Q (u.tile t)) : Loading s r Q u :=
  ⟨h.hbm, h.lpddr, h.regions, h.outside, inside⟩

theorem hub (h : Loading s r P u) (x : Hub) : Loading s r P { u with hub := x } := ⟨h.hbm, h.lpddr, h.regions, h.outside, h.inside⟩

theorem setTile (h : Loading s r P u) (ht : t ∈ r.tiles) {x : Tile} (hx : P x) : Loading s r P (u.setTile t x) where
  hbm := h.hbm
  lpddr := h.lpddr
  regions := h.regions
  outside j hj := by
    have other : j ≠ t := by rintro rfl; exact hj ht
    rw [State.tile_setTile_other u other, h.outside j hj]
  inside j hj := by
    by_cases e : j = t
    · rw [e, State.tile_setTile_same]; exact hx
    · rw [State.tile_setTile_other u e]; exact h.inside j hj

theorem modTile (h : Loading s r P u) (ht : t ∈ r.tiles) {f : Tile → Tile} (hf : ∀ x, P x → P (f x)) : Loading s r P (u.modTile t f) :=
  h.setTile ht (hf _ (h.inside t ht))

theorem wakeTiles : Loading s r (Fresh r) (s.wakeTiles r) := by
  have any : Loading s r (fun _ => True) (s.wakeTiles r) :=
    List.foldlRecOn r.tiles _ ⟨rfl, rfl, rfl, fun _ _ => rfl, fun _ _ => trivial⟩ fun _ hu _ ht => hu.setTile ht trivial
  have woken : ∀ u : State, ∀ t, Fresh r ((u.setTile t { Tile.cleared with
      awake := true, region := some r.number, born := u.dies[t.dieIx].clock }).tile t) := by
    intro u t
    rw [State.tile_setTile_same]
    exact ⟨rfl, rfl, rfl, fun _ _ => rfl⟩
  refine any.mono fun t ht => foldl_establishes (I := fun _ => True) (P := fun u : State => Fresh r (u.tile t)) ht
    (fun _ _ _ _ => trivial) (fun u _ => woken u t) (fun u b _ _ hu => ?_) trivial
  by_cases e : t = b
  · rw [e]; exact woken u b
  · rw [State.tile_setTile_other u e]; exact hu

theorem installFrame (h : Loading s r (Fresh r) u) {index : Nat} {f : Frame} (e : u.installFrame r index f = .ok v) : Loading s r (Fresh r) v := by
  unfold State.installFrame at e
  split at e
  · split at e
    · next added =>
      cases e
      obtain ⟨p, -, hp⟩ := Option.bind_eq_some_iff.1 added
      obtain ⟨hbm, lpddr⟩ := addProgram_same hp
      exact ⟨hbm.trans h.hbm, lpddr.trans h.lpddr, h.regions, h.outside, h.inside⟩
    · cases e
  · split at e
    · cases e
    · next placed =>
      simp only [Bool.or_eq_true, decide_eq_true_eq, not_or, Nat.not_le] at placed
      have ht := r.tileAt_mem placed.1 placed.2
      extract_lets t at e
      split at e
      · next x applied =>
        cases e
        exact h.setTile ht ((h.inside _ ht).applyFrame applied)
      · cases e

theorem installFrames (h : Loading s r (Fresh r) u) {n : Nat} (e : u.installFrames r n = .ok v) : Loading s r (Fresh r) v := by
  induction n generalizing v with
  | zero => cases e; exact h
  | succ n ih =>
    unfold State.installFrames at e
    split at e
    · cases e
    · next earlier =>
      split at e
      · cases e
      · exact (ih earlier).installFrame e

theorem installSegments {n va : Nat} (h : Loading s r (Fresh r) u) (e : u.installSegments r n va = .ok v) : Loading s r (Fresh r) v := by
  induction n generalizing u va with
  | zero => cases e; exact h
  | succ n ih =>
    unfold State.installSegments at e
    split at e
    · cases e
    · extract_lets row col addr len at e
      split at e
      · cases e
      · next formed =>
        simp only [Bool.or_eq_true, decide_eq_true_eq, not_or, Nat.not_le] at formed
        obtain ⟨⟨-, hrow⟩, hcol⟩ := formed
        split at e
        · cases e
        · exact ih (h.modTile (r.tileAt_mem hrow hcol) fun x hx => hx.scratchWrite _) e

theorem configured (h : Loading s r (Fresh r) u) : Loading s r (Settled r) (r.tiles.foldl (fun u t => u.modTile t Tile.configured) u) := by
  have keepFresh : ∀ u, ∀ b ∈ r.tiles, Loading s r (Fresh r) u → Loading s r (Fresh r) (u.modTile b Tile.configured) :=
    fun u b hb hu => hu.modTile hb fun x hx => hx.configured.toFresh
  have settles : ∀ u, ∀ b ∈ r.tiles, Loading s r (Fresh r) u → Settled r ((u.modTile b Tile.configured).tile b) := by
    intro u b hb hu
    rw [State.tile_modTile_same]
    exact (hu.inside b hb).configured
  refine (List.foldlRecOn r.tiles _ h fun u hu b hb => keepFresh u b hb hu).mono fun t ht => foldl_establishes
    (I := Loading s r (Fresh r)) (P := fun u : State => Settled r (u.tile t)) ht keepFresh (fun u => settles u t ht) (fun u b hb hu settled => ?_) h
  by_cases e : t = b
  · rw [e]; exact settles u b hb hu
  · rw [State.tile_modTile_other u e]; exact settled

theorem joinTile (h : Loading s r (Settled r) u) (ht : t ∈ r.tiles) (e : u.joinTile r t = some v) : Loading s r (Settled r) v := by
  refine foldl_bind_keeps (fun u edge _ hu v step => ?_) h e
  obtain ⟨sink, e, k, slots⟩ := edge
  dsimp -zeta only at step
  extract_lets joined c at step
  split at step
  · cases step
  · split at step
    · cases step; exact hu
    · split at step
      · cases step; exact hu.hub _
      · cases step; exact (hu.hub _).modTile ht fun x hx => hx.modSource _ _

theorem joinCircuits {l : List TileId} (hl : l ⊆ r.tiles) (h : Loading s r (Settled r) u) (e : u.joinCircuits r l = .inr v) :
    Loading s r (Settled r) v := by
  induction l generalizing u with
  | nil => cases e; exact h
  | cons t rest ih =>
    unfold State.joinCircuits at e
    split at e
    · cases e
    · next joined => exact ih (List.subset_of_cons_subset hl) (h.joinTile (hl List.mem_cons_self) joined) e

theorem fillCredits (h : Loading s r (Settled r) u) (ht : t ∈ r.tiles) (known : List (Nat × (TileId × Nat) × Nat)) :
    Loading s r (Settled r) (u.fillCredits known t) := by
  refine List.foldlRecOn (motive := Loading s r (Settled r)) _ _ h fun u hu p _ => ?_
  split
  · exact hu
  · exact hu.modTile ht fun x hx => hx.modSource _ _

/-- A load that goes through is one in which the tiles have taken their settings, and then their sources their credits. -/
theorem loadImage (e : s.loadImage r = .ok u) : ∃ v, Loading s r (Settled r) v ∧ u = r.tiles.foldl (fun v t => v.fillCredits [] t) v := by
  unfold State.loadImage at e
  split at e
  · cases e
  · next frames =>
    have framed := wakeTiles.installFrames frames
    split at e
    · cases e
    · next segments =>
      have filled := framed.installSegments segments
      extract_lets configured at e
      split at e
      · cases e
      · next v circuits =>
        have wired := filled.configured.joinCircuits (fun _ h => h) circuits
        split at e
        · cases e
        · cases e; exact ⟨v, wired, rfl⟩

end Loading

/-! The credits of a tile's sources (R170). -/

@[simp] theorem source_modSource_same (x : Tile) (k : Nat) (f : Source → Source) : (x.modSource k f).source k = f (x.source k) := by
  simp [Tile.source, Tile.modSource]

theorem source_modSource_other (x : Tile) {k j : Nat} (h : j ≠ k) (f : Source → Source) : (x.modSource k f).source j = x.source j := by
  simp [Tile.source, Tile.modSource, lookupKey_putKey_other h]

/-- The route of a channel is that of the settings in use. -/
theorem followOut_congr {s u : State} (cfg : ∀ t, (u.tile t).cfg = (s.tile t).cfg) (fuel : Nat) (t : TileId) (w : SwitchCfg) :
    u.followOut fuel t w = s.followOut fuel t w := by
  induction fuel generalizing t w with
  | zero => rfl
  | succ n ih => simp only [State.followOut, cfg, ih]

theorem channelsFrom_congr {s u : State} (cfg : ∀ t, (u.tile t).cfg = (s.tile t).cfg) (t : TileId) : u.channelsFrom t = s.channelsFrom t := by
  simp only [State.channelsFrom, cfg, followOut_congr cfg]

theorem cfg_modSource (s : State) (t : TileId) (e : Nat) (f : Source → Source) (j : TileId) :
    ((s.modTile t (·.modSource e f)).tile j).cfg = (s.tile j).cfg := by
  by_cases h : j = t
  · rw [h, State.tile_modTile_same]; rfl
  · rw [State.tile_modTile_other s h]

theorem fillCredits_cfg (s : State) (known : List (Nat × (TileId × Nat) × Nat)) (t j : TileId) :
    ((s.fillCredits known t).tile j).cfg = (s.tile j).cfg := by
  refine List.foldlRecOn (motive := fun u : State => (u.tile j).cfg = (s.tile j).cfg) _ _ rfl fun u hu p _ => ?_
  split
  · exact hu
  · rw [cfg_modSource]; exact hu

theorem fillCredits_other (s : State) (known : List (Nat × (TileId × Nat) × Nat)) {t j : TileId} (h : j ≠ t) :
    (s.fillCredits known t).tile j = s.tile j := by
  refine List.foldlRecOn (motive := fun u : State => u.tile j = s.tile j) _ _ rfl fun u hu p _ => ?_
  split
  · exact hu
  · rw [State.tile_modTile_other u h]; exact hu

/-- The sources of a list of channels hold their capacities: of two channels of one source, that of one of them. -/
def Credited (x : Tile) (channels : List (Nat × (TileId × Nat) × Nat)) : Prop :=
  ∀ p ∈ channels, ∃ q ∈ channels, q.1 = p.1 ∧ x.source p.1 = ⟨q.2.2, 0⟩

/-- Sources written one after another hold what was written last. -/
theorem credited_foldl (s : State) (t : TileId) (l : List (Nat × (TileId × Nat) × Nat)) :
    Credited ((l.foldl (fun s p => s.modTile t (·.modSource p.1 fun _ => ⟨p.2.2, 0⟩)) s).tile t) l := by
  induction l using List.reverseRecOn with
  | nil => exact List.forall_mem_nil _
  | append_singleton l last ih =>
    intro p hp
    rw [List.foldl_append, List.foldl_cons, List.foldl_nil, State.tile_modTile_same]
    by_cases e : p.1 = last.1
    · exact ⟨last, by simp, e.symm, by rw [e, source_modSource_same]⟩
    · obtain ⟨q, hq, same, holds⟩ := ih p (by
        rcases List.mem_append.1 hp with h | h
        · exact h
        · exact absurd (congrArg Prod.fst (List.mem_singleton.1 h)) e)
      exact ⟨q, List.mem_append_left _ hq, same, by rw [source_modSource_other _ e, holds]⟩

theorem fillCredits_credited (s : State) (t : TileId) : Credited ((s.fillCredits [] t).tile t) (s.channelsFrom t) := by
  have e : s.fillCredits [] t = (s.channelsFrom t).foldl (fun s p => s.modTile t (·.modSource p.1 fun _ => ⟨p.2.2, 0⟩)) s := by
    simp [State.fillCredits]
  rw [e]
  exact credited_foldl s t _

/-- After the credits of all tiles of a list, the sources of each hold the capacities of its channels (R170). -/
theorem foldl_fillCredits_credited {v : State} {l : List TileId} {t : TileId} (ht : t ∈ l) :
    let u := l.foldl (fun v t => v.fillCredits [] t) v
    Credited (u.tile t) (u.channelsFrom t) := by
  intro u
  have keepCfg : ∀ u : State, ∀ b ∈ l, (∀ j, (u.tile j).cfg = (v.tile j).cfg) → ∀ j, ((u.fillCredits [] b).tile j).cfg = (v.tile j).cfg :=
    fun u b _ cfg j => (fillCredits_cfg u [] b j).trans (cfg j)
  have fills : ∀ u : State, (∀ j, (u.tile j).cfg = (v.tile j).cfg) → Credited ((u.fillCredits [] t).tile t) (v.channelsFrom t) :=
    fun u cfg => channelsFrom_congr cfg t ▸ fillCredits_credited u t
  have cfg : ∀ j, (u.tile j).cfg = (v.tile j).cfg :=
    List.foldlRecOn (motive := fun u : State => ∀ j, (u.tile j).cfg = (v.tile j).cfg) l _ (fun _ => rfl) fun u hu b hb => keepCfg u b hb hu
  rw [channelsFrom_congr cfg]
  refine foldl_establishes (P := fun u : State => Credited (u.tile t) (v.channelsFrom t)) ht keepCfg fills (fun u b _ cfg credited => ?_) (fun _ => rfl)
  by_cases e : t = b
  · exact e ▸ fills u cfg
  · rw [fillCredits_other u [] e]; exact credited

/-- R94: the whole of what a load that goes through leaves. -/
theorem loadImage_loads {s u : State} {r : Region} (e : s.loadImage r = .ok u) :
    Loading s r (Settled r) u ∧ ∀ t ∈ r.tiles, Credited (u.tile t) (u.channelsFrom t) := by
  obtain ⟨v, wired, rfl⟩ := Loading.loadImage e
  exact ⟨List.foldlRecOn r.tiles _ wired fun u hu t ht => hu.fillCredits ht [], fun t ht => foldl_fillCredits_credited ht⟩

end Sys2Proof

/-! Regions come and go (R85-R99, R176, R187). -/

namespace Sys2Proof

open Sys2Proof.Machine

/-! Placement. -/

section Placement

variable {s : State} {d : Fin 8} {c : Candidate}

/-- Whether a candidate may lie at the n-th position of a die. -/
def Machine.State.fitsAt (s : State) (d : Fin 8) (c : Candidate) (n : Nat) : Bool :=
  s.freeAt c.launch (positionOf d.val n) && s.oneDie c (positionOf d.val n)

/-- Whether every die that a candidate would touch at the n-th position runs. -/
def Machine.State.runsAt (s : State) (d : Fin 8) (c : Candidate) (n : Nat) : Bool :=
  (diesOf (positionOf d.val n).1 (positionOf d.val n).2 c.launch.rows c.launch.cols).all fun e => s.dies[dieOf e].st == .run

theorem fitsAt_eq_true {n : Nat} :
    s.fitsAt d c n = true ↔ s.freeAt c.launch (positionOf d.val n) = true ∧ s.oneDie c (positionOf d.val n) = true := Bool.and_eq_true_iff

theorem runsAt_eq_true {n : Nat} : s.runsAt d c n = true ↔
    ∀ e ∈ diesOf (positionOf d.val n).1 (positionOf d.val n).2 c.launch.rows c.launch.cols, s.dies[dieOf e].st = .run := by
  simp [State.runsAt]

/-- A candidate that fits nowhere only ages. -/
theorem tryPlace_nowhere (nowhere : ∀ n < 3200, s.fitsAt d c n = false) : s.tryPlace d c = s.ageCandidate c := by
  have none : (List.range 3200).find? (s.fitsAt d c) = none := by
    rw [List.find?_range_eq_none]
    intro n hn
    rw [nowhere n hn, Bool.not_false]
  unfold State.fitsAt at none
  unfold State.tryPlace
  simp only [none]

/-- The first position at which a candidate fits decides (R92). -/
theorem tryPlace_first {n : Nat} (hn : n < 3200) (fits : s.fitsAt d c n = true) (first : ∀ m < n, s.fitsAt d c m = false) :
    s.tryPlace d c = if !s.runsAt d c n then s.ageCandidate c else match c.evicted with
      | some k => s.modRegion k fun r => match r.phase with
        | .restoring save _ node tag =>
          { r with phase := .restoring save true node tag, top := (positionOf d.val n).1, left := (positionOf d.val n).2, waited := 0 }
        | _ => r
      | none => if (s.freeNumbers d).isEmpty then s.ageCandidate c
        else (s.pick (s.freeNumbers d).length).2.placeLaunch c.queue c.launch
          (256 * d.val + (s.freeNumbers d)[(s.pick (s.freeNumbers d).length).1]?.getD 0) (positionOf d.val n) := by
  have found : (List.range 3200).find? (s.fitsAt d c) = some n := by
    rw [List.find?_range_eq_some]
    refine ⟨fits, List.mem_range.2 hn, fun m hm => ?_⟩
    rw [first m hm, Bool.not_false]
  unfold State.fitsAt at found
  unfold State.tryPlace
  simp only [found]
  rfl

end Placement

/-- A launch placed under a number of a die: its region, and its queue's head gone (R85, R92, R93). -/
theorem placeLaunch_places (s : State) (q : Nat) (l : Launch) (d : Fin 8) {i : Nat} (hi : i < 256) (p : Nat × Nat) :
    let t := s.placeLaunch q l (256 * d.val + i) p
    ∃ r : Region, t.regions = (s.regions.filter fun x => x.number ≠ 256 * d.val + i) ++ [r] ∧ r.number = 256 * d.val + i ∧ r.phase = .placed ∧
      r.gen = (lookupKey i s.dies[d].gens).getD 0 ∧ r.launch = l ∧ (r.top, r.left) = p ∧ r.queue = q ∧
      (t.hub.queue q).head = (s.hub.queue q).head + 1 ∧ (t.hub.queue q).cand = none ∧ t.tiles = s.tiles ∧ t.mem = s.mem := by
  have die : dieOf ((256 * d.val + i) / 256) = d := Fin.ext (by simp only [dieOf]; omega)
  have index : (256 * d.val + i) % 256 = i := by omega
  have queue : (s.placeLaunch q l (256 * d.val + i) p).hub.queue q = (s.hub.queue q).advance := by
    simp [State.placeLaunch, Hub.queue, Hub.modQueue]
  refine ⟨_, rfl, rfl, rfl, ?_, rfl, rfl, rfl, ?_, ?_, rfl, rfl⟩
  · simp only [die, index]
  · rw [queue]; rfl
  · rw [queue]; rfl

/-- Any choice among the free numbers of a die is one of them. -/
theorem getElem?_pick_mem (s : State) {l : List Nat} {k : Nat} (hk : k ∈ l) : l[(s.pick l.length).1]?.getD 0 ∈ l := by
  have chosen : (s.pick l.length).1 < l.length := Nat.mod_lt _ (List.length_pos_of_mem hk)
  rw [List.getElem?_eq_getElem chosen]
  exact List.getElem_mem chosen

theorem lt_of_mem_freeNumbers {s : State} {d : Fin 8} {i : Nat} (h : i ∈ s.freeNumbers d) : i < 256 :=
  List.mem_range.1 (List.mem_filter.1 h).1

/-! The order of a pass (R91). -/

/-- What stands before another candidate is of no higher class, and what does not, of no lower one. -/
theorem class_le_of_before {a b : Candidate} (h : a.before b = true) : a.class ≤ b.class := by
  simp only [Candidate.before, Bool.or_eq_true, Bool.and_eq_true, decide_eq_true_eq, beq_iff_eq] at h
  omega

theorem class_le_of_not_before {a b : Candidate} (h : a.before b = false) : b.class ≤ a.class := by
  simp only [Candidate.before, Bool.or_eq_false_iff, decide_eq_false_iff_not] at h
  omega

theorem mem_insertCandidate {a x : Candidate} {l : List Candidate} (h : x ∈ insertCandidate a l) : x = a ∨ x ∈ l := by
  induction l with
  | nil => exact .inl (List.mem_singleton.1 h)
  | cons b rest ih =>
    unfold insertCandidate at h
    split at h
    · exact List.mem_cons.1 h
    · rcases List.mem_cons.1 h with rfl | later
      · exact .inr (by simp)
      · exact (ih later).imp_right (List.mem_cons_of_mem _)

/-- A candidate put in its place keeps the order of classes. -/
theorem pairwise_insertCandidate (a : Candidate) {l : List Candidate} (h : l.Pairwise fun a b => ¬ b.class < a.class) :
    (insertCandidate a l).Pairwise fun a b => ¬ b.class < a.class := by
  induction l with
  | nil => exact List.pairwise_singleton _ _
  | cons b rest ih =>
    obtain ⟨least, sorted⟩ := List.pairwise_cons.1 h
    unfold insertCandidate
    split
    · next before =>
      have le := class_le_of_before before
      refine List.pairwise_cons.2 ⟨fun x hx => ?_, h⟩
      rcases List.mem_cons.1 hx with rfl | later
      · omega
      · have := least x later
        omega
    · next after =>
      have le := class_le_of_not_before (by simpa using after)
      refine List.pairwise_cons.2 ⟨fun x hx => ?_, ih sorted⟩
      rcases mem_insertCandidate hx with rfl | later
      · omega
      · exact least x later

theorem pairwise_candidates (s : State) (d : Fin 8) : (s.candidates d).Pairwise fun a b => ¬ b.class < a.class :=
  List.foldlRecOn (motive := List.Pairwise fun a b : Candidate => ¬ b.class < a.class) _ _ List.Pairwise.nil fun _ h c _ => pairwise_insertCandidate c h

/-! The happenings of a region, where they take place. -/

section Happenings

variable {s : State} {r : Region}

/-- A head record that keeps R87, R88 and R90 goes on to its launch. -/
theorem execHeadRecordExamine_formed {q v : Nat} (enabled : (s.hub.queue q).st = .enabled) (more : (s.hub.queue q).head ≠ (s.hub.queue q).tail)
    (unplaced : (s.hub.queue q).cand = none)
    (read : s.unitBytes (queueOwner (s.hub.queue q).reads q (s.hub.queue q).headSeq) (s.hub.queue q).asid
      ((s.hub.queue q).base + 128 * ((s.hub.queue q).head % 2 ^ (s.hub.queue q).k)) 128 = .value v)
    (formed : recordFormed (s.hub.queue q) q (s.hub.queue q).headSeq v = true) (done : doneFormed v = true)
    (writable : (launchOf v).doneKind = 0 ∨ (s.walkHeld (s.hub.queue q).asid (launchOf v).doneVa = false ∧
      s.doneWritable { launchOf v with asid := (s.hub.queue q).asid } = true)) :
    execHeadRecordExamine q s = .next (s.headLaunch q (s.hub.queue q) (launchOf v)) := by
  unfold execHeadRecordExamine
  dsimp only
  rw [if_neg (by simp [enabled, more, unplaced]), read]
  dsimp only
  rw [if_neg (by rcases writable with none | ⟨free, -⟩ <;> simp [*])]
  have usable : (doneFormed v && (decide ((launchOf v).doneKind = 0) || s.doneWritable { launchOf v with asid := (s.hub.queue q).asid })) = true := by
    rcases writable with none | ⟨-, ok⟩ <;> simp [*]
  rw [if_pos usable, if_neg (by simp [formed])]

theorem execPlacementPass_due {d : Fin 8} (runs : s.dies[d].st = .run) (due : s.dies[d].passDue = true) :
    execPlacementPass d s = .next ((s.candidates d).foldl (fun s c => s.tryPlace d c) (s.modDie d fun x => { x with passDue := false })) := by
  unfold execPlacementPass
  dsimp only
  rw [runs, due]
  rfl

theorem execInstall_loaded {u : State} (inService : s.region r.number = some r) (placed : r.phase = .placed) (loaded : s.loadImage r = .ok u) :
    execInstall r.number s = .next ((u.forgetLines r.owner).modRegion r.number fun x =>
      { x with phase := .installed, starts := (u.forgetLines r.owner).startPorts r }) := by
  unfold execInstall
  simp only [inService, placed, loaded, ne_eq, not_true_eq_false, if_false]

theorem execSourceStart_delivers {k : Nat} {t : TileId} {c : Fin 4} {port : Fin 16} (inService : s.region r.number = some r)
    (ready : r.phase = .installed ∨ r.phase = .running) (next : r.starts[k]? = some (t, c, port))
    (unbound : (s.ctxAt t c).startPorts.getLsbD port.val = true) :
    execSourceStart r.number k s = .next ((s.modCtx t c fun y => { y with startQ := y.startQ.set port (y.startQ[port] ++
      (r.launch.args.toList.take r.launch.argw).map fun w => Entry.mk (w.zeroExtend 256) 0 .direct) }).modRegion r.number
        fun r => { r.started with starts := r.starts.eraseIdx k }) := by
  unfold execSourceStart
  simp only [inService]
  rw [if_neg (by rcases ready with e | e <;> simp [e])]
  simp only [next, unbound, if_true]
  rfl

theorem execSourceStart_none (inService : s.region r.number = some r) (installed : r.phase = .installed) (empty : r.starts = []) (k : Nat) :
    execSourceStart r.number k s = .next (s.modRegion r.number Region.started) := by
  unfold execSourceStart
  simp [inService, installed, empty]

theorem started_running (notDue : r.preemptDue = none) : r.started.phase = .running := by
  unfold Region.started
  rw [notDue]

/-- A region that has met R99 closes; what it queued at pools, walks and beacons is dropped before. -/
theorem execRegionComplete_idle (inService : s.region r.number = some r) (running : r.phase = .running) (idle : s.regionIdle r = true) :
    ∃ u : State, execRegionComplete r.number s = .next ((u.endBales r).beginClose r r.tiles 0).settleClosing ∧ u.tiles = s.tiles ∧
      u.regions = s.regions ∧ u.hub = s.hub ∧ u.mem = s.mem ∧ ∀ b ∈ u.beacons, b.tile ∉ r.tiles := by
  unfold execRegionComplete
  simp only [inService]
  rw [if_neg (by simp [running, idle])]
  refine ⟨_, rfl, rfl, rfl, rfl, rfl, fun b hb => ?_⟩
  simpa using (List.mem_filter.1 hb).2

theorem windowOf_region {t : TileId} (region : s.regionOf t = some r) :
    s.windowOf t = (s.tile t).cycle.toNat / 2 ^ (r.launch.winlog + 6) := by
  simp [State.windowOf, region]

theorem execGovernorWindow_ends {t : TileId} (region : s.regionOf t = some r)
    (ended : (s.tile t).windows < (s.tile t).cycle.toNat / 2 ^ (r.launch.winlog + 6)) :
    execGovernorWindow t s = .next (s.modTile t fun x =>
      { x with admitted := 0, windows := (s.tile t).cycle.toNat / 2 ^ (r.launch.winlog + 6) }) := by
  unfold execGovernorWindow
  simp only [region, windowOf_region region, ended, if_true]

end Happenings

/-! Frames on CFG tokens (R176). -/

section CfgGroups

variable {s : State} {r : Region} {t : TileId} {k : Fin 64}

/-- The frame of the CFG group at the head of a port sink. -/
def Machine.State.groupFrame (s : State) (t : TileId) (k : Fin 64) : Frame :=
  BitVec.ofNat 256 (frameOf ((s.tile t).cfg.sinkBytes k.val) (((s.tile t).sink k.val).cfg.take ((s.tile t).cfg.cfgGroup k.val)))

/-- The state with that group taken. -/
def Machine.State.takeGroup (s : State) (t : TileId) (k : Fin 64) : State :=
  s.modTile t (·.modSink k.val fun y => { y with cfg := y.cfg.drop ((s.tile t).cfg.cfgGroup k.val) })

/-- A frame for the active copy that is neither ROUTE nor TILECFG leaves the region's circuits and start ports as they are. -/
theorem applyActive_other {y : Tile} {f : Frame} (notRoute : f.kind ≠ 2) (notTile : f.kind ≠ 4) :
    s.applyActive r t y f = some (s.setTile t (y.reconfigured (s.tile t).cfg f.kind)) := by
  simp only [State.applyActive, notRoute, notTile, if_false]

variable (region : s.regionOf t = some r) (port : k.val < 32) (grouped : 0 < (s.tile t).cfg.cfgGroup k.val)
  (whole : (s.tile t).cfg.cfgGroup k.val ≤ ((s.tile t).sink k.val).cfg.length)
include region port grouped whole

/-- A whole group at a port sink whose frame breaks a rule, names another tile, or is for the active copy too late is a load fault. -/
theorem execCfgApply_refused (bad : (s.groupFrame t k).kind = 5 ∨ (s.takeGroup t k).frameNames r t (s.groupFrame t k) = false ∨
      ((s.groupFrame t k).shadow = false ∧ r.phase ≠ .installed)) :
    execCfgApply t k s = .next ((s.takeGroup t k).loadFault t (s.groupFrame t k).header) := by
  unfold State.groupFrame State.takeGroup at *
  unfold execCfgApply
  dsimp only
  rw [if_neg (by simp; omega), region]
  dsimp only
  rw [if_pos (by rcases bad with kind | names | ⟨active, started⟩ <;> simp [*])]

/-- Any other whose frame the tile can take goes into the shadow copy, where its circuits break no rule. -/
theorem execCfgApply_shadow {y : Tile} (kind : (s.groupFrame t k).kind ≠ 5)
    (names : (s.takeGroup t k).frameNames r t (s.groupFrame t k) = true) (shadow : (s.groupFrame t k).shadow = true)
    (applied : ((s.takeGroup t k).tile t).applyFrame (s.groupFrame t k) = some y) :
    execCfgApply t k s = .next (if ((s.takeGroup t k).setTile t y).routeOk r t (s.groupFrame t k) then (s.takeGroup t k).setTile t y
      else (s.takeGroup t k).loadFault t (s.groupFrame t k).header) := by
  unfold State.groupFrame State.takeGroup at *
  unfold execCfgApply
  dsimp only
  rw [if_neg (by simp; omega), region]
  dsimp only
  rw [if_neg (by simp [*]), applied]
  dsimp only
  rw [if_pos shadow]

/-- It goes into the active copy before the region's sources have started (log entry 121). -/
theorem execCfgApply_active {y : Tile} (kind : (s.groupFrame t k).kind ≠ 5)
    (names : (s.takeGroup t k).frameNames r t (s.groupFrame t k) = true) (active : (s.groupFrame t k).shadow = false) (installed : r.phase = .installed)
    (applied : ((s.takeGroup t k).tile t).applyFrame (s.groupFrame t k) = some y) :
    execCfgApply t k s = .next (((s.takeGroup t k).applyActive r t y (s.groupFrame t k)).getD
      ((s.takeGroup t k).loadFault t (s.groupFrame t k).header)) := by
  unfold State.groupFrame State.takeGroup at *
  unfold execCfgApply
  dsimp only
  rw [if_neg (by simp; omega), region]
  dsimp only
  rw [if_neg (by simp [*]), applied]
  dsimp only
  rw [if_neg (by rw [active]; exact Bool.false_ne_true)]

end CfgGroups

/-- Settles O51, clause by clause: each happening is run where its guards hold, and the load of an image is `loadImage_loads`. -/
theorem regionsComeAndGo : Obligations.RegionsComeAndGo := by
  intro s
  refine ⟨?head, ?pass, ?place, pairwise_candidates s, ?region, ?governor, ?frames⟩
  case head =>
    intro q v w l enabled more unplaced read formed done writable
    exact ⟨_, execHeadRecordExamine_formed enabled more unplaced read formed done writable, rfl⟩
  case pass =>
    intro d runs due
    exact ⟨_, execPlacementPass_due runs due, rfl⟩
  case place =>
    intro d c place fits runs fails
    have ages : s.tryPlace d c = s.ageCandidate c → fails := fun e => e.trans rfl
    have misfit : ∀ {n}, ¬ fits n → s.fitsAt d c n = false := fun h => Bool.eq_false_iff.2 fun t => h (fitsAt_eq_true.1 t)
    refine ⟨fun nowhere => ages (tryPlace_nowhere fun n hn => misfit (nowhere n hn)), fun n hn fit before => ?_⟩
    have first := tryPlace_first hn (fitsAt_eq_true.2 fit) fun m hm => misfit (before m hm)
    refine ⟨fun halted => ages ?_, fun running new none => ages ?_, fun running new k free => ?_, fun running k evicted => ?_⟩
    · have stands : s.runsAt d c n = false := Bool.eq_false_iff.2 fun t => halted (runsAt_eq_true.1 t)
      simp [first, stands]
    · simp [first, runsAt_eq_true.2 running, new, none]
    · have nonempty : (s.freeNumbers d).isEmpty = false := List.isEmpty_eq_false_iff.2 (List.ne_nil_of_mem free)
      have chosen := getElem?_pick_mem s free
      obtain ⟨r, placed⟩ := placeLaunch_places (s.pick (s.freeNumbers d).length).2 c.queue c.launch d (lt_of_mem_freeNumbers chosen) (place n)
      refine ⟨_, chosen, r, ?_⟩
      simp only [first, runsAt_eq_true.2 running, new, nonempty, Bool.not_true, Bool.false_eq_true, if_false]
      exact placed
    · simp only [first, runsAt_eq_true.2 running, evicted, Bool.not_true, Bool.false_eq_true, if_false]
      rfl
  case region =>
    intro r inService
    refine ⟨fun placed u loaded => ⟨_, execInstall_loaded inService placed loaded, rfl⟩, fun u loaded => ?_,
      fun ready k t c port next unbound => ⟨_, execSourceStart_delivers inService ready next unbound, rfl⟩,
      fun installed empty k => ⟨_, execSourceStart_none inService installed empty k, rfl⟩, started_running, fun running idle => ?_⟩
    · obtain ⟨h, credited⟩ := loadImage_loads loaded
      refine ⟨h.hbm, h.lpddr, h.regions, h.outside, fun t ht => ?_⟩
      have settled := h.inside t ht
      exact ⟨settled.awake, settled.region, settled.cycle, settled.taken.1, settled.taken.2, credited t ht⟩
    · obtain ⟨u, e, same⟩ := execRegionComplete_idle inService running idle
      exact ⟨_, e, u, rfl, same⟩
  case governor =>
    intro t r region n ended
    exact ⟨_, execGovernorWindow_ends region ended, rfl, tileOnly_modTile s t fun _ => rfl⟩
  case frames =>
    intro t r k region port x n grouped whole f u
    refine ⟨fun y kind names shadow applied => ?_, fun started active => ?_, fun y installed active kind names applied => ?_⟩
    · have does := execCfgApply_shadow region port grouped whole kind names shadow applied
      exact ⟨fun ok => ⟨_, does, if_pos ok⟩, fun bad => ⟨_, does, if_neg (Bool.eq_false_iff.1 bad)⟩⟩
    · exact ⟨_, execCfgApply_refused region port grouped whole (.inr (.inr ⟨active, started⟩)), rfl⟩
    · have does := execCfgApply_active region port grouped whole kind names active installed applied
      exact ⟨fun notRoute notTile => ⟨_, does, congrArg (Option.getD · _) (applyActive_other notRoute notTile)⟩, fun _ => ⟨_, does, rfl⟩⟩

end Sys2Proof

/-! Spindle sets (R79, R228-R233). -/

namespace Sys2Proof

open Sys2Proof.Machine

/-! A fault of a region holds no happening back (R389): nothing of a kill sets the mark of a stall. -/

theorem stalled_foldl {α : Type} {f : State → α → State} (keeps : ∀ s a, (f s a).stalled = s.stalled) (l : List α) (s : State) :
    (l.foldl f s).stalled = s.stalled :=
  List.foldlRecOn (motive := fun u => u.stalled = s.stalled) l f rfl fun u hu a _ => (keeps u a).trans hu

section Stalled

variable (s : State)

@[simp] theorem stalled_doneWritten (d : DoneOut) (failed : Bool) : (s.doneWritten d failed).stalled = s.stalled := by
  unfold State.doneWritten
  dsimp only
  split <;> rfl

@[simp] theorem stalled_writeDone (d : DoneOut) : (s.writeDone d).stalled = s.stalled := by
  unfold State.writeDone
  split
  · rfl
  · exact stalled_doneWritten _ _ _

@[simp] theorem stalled_doneAction (l : Launch) (queue seq outcome cause info : Nat) (region : Option (Nat × BitVec 8)) :
    (s.doneAction l queue seq outcome cause info region).stalled = s.stalled := by
  unfold State.doneAction
  dsimp only
  split
  · rfl
  · split
    · rfl
    · split
      · rfl
      · split
        · rfl
        · exact stalled_writeDone _ _

@[simp] theorem stalled_passOn (ds : List Nat) : (s.passOn ds).stalled = s.stalled := stalled_foldl (fun _ _ => by rfl) ds s

@[simp] theorem stalled_freeRegion (r : Region) : (s.freeRegion r).stalled = s.stalled := by
  unfold State.freeRegion
  dsimp only
  rw [stalled_passOn]
  split <;> rfl

@[simp] theorem stalled_closeOne (r : Region) : (s.closeOne r).stalled = s.stalled := by
  unfold State.closeOne
  split
  · dsimp only
    split <;> split <;> simp [State.modRecord]
  · rfl

@[simp] theorem stalled_settleClosing : s.settleClosing.stalled = s.stalled := stalled_foldl stalled_closeOne s.regions s

@[simp] theorem stalled_sendDecision (k : Nat) (commit : Bool) : (s.sendDecision k commit).stalled = s.stalled := by
  refine stalled_foldl (fun u p => ?_) _ s
  split
  · rfl
  · split <;> rfl

@[simp] theorem stalled_abortBale (k cause : Nat) (node : BitVec 12) : (s.abortBale k cause node).stalled = s.stalled :=
  stalled_sendDecision _ k false

@[simp] theorem stalled_endBales (r : Region) : (s.endBales r).stalled = s.stalled := by
  refine stalled_foldl (fun u p => ?_) _ s
  dsimp only
  split
  · rfl
  · split
    · rfl
    · exact stalled_abortBale _ _ _ _
    · exact stalled_abortBale _ _ _ _
    · rfl
    · rfl
    · rfl

@[simp] theorem stalled_purgePeers (r : Region) : (s.purgePeers r).stalled = s.stalled := stalled_foldl (fun _ _ => by rfl) _ _

@[simp] theorem stalled_beginClose (r : Region) (tiles : List TileId) (outcome : BitVec 8) :
    (s.beginClose r tiles outcome).stalled = s.stalled := by
  unfold State.beginClose
  extract_lets answered due halts halted theirs sinks counted away _ _ gated _ cleared
  have hAnswered : answered.stalled = s.stalled := by
    unfold answered
    split <;> rfl
  have hDue : due.stalled = answered.stalled := by
    unfold due
    split <;> rfl
  have hHalted : halted.stalled = due.stalled := stalled_foldl (fun _ _ => by rfl) halts due
  have hCounted : counted.stalled = halted.stalled := by
    refine stalled_foldl (fun u e => ?_) sinks halted
    split
    · split <;> rfl
    · rfl
  have hCleared : cleared.stalled = counted.stalled := stalled_foldl (fun _ _ => by rfl) tiles gated
  exact hCleared.trans (hCounted.trans (hHalted.trans (hDue.trans hAnswered)))

@[simp] theorem stalled_killRegion (n : Nat) (outcome : BitVec 8) : (s.killRegion n outcome).stalled = s.stalled := by
  unfold State.killRegion
  split
  · rfl
  · extract_lets tiles mine ids dropped stale
    have hStale : stale.stalled = dropped.stalled := stalled_foldl (fun _ _ => by rfl) _ dropped
    rw [stalled_settleClosing, stalled_beginClose, stalled_purgePeers]
    exact (stalled_endBales _ _).trans hStale

@[simp] theorem stalled_regionFault (n : Nat) (f : FaultEntry) : (s.regionFault n f).stalled = s.stalled := by
  unfold State.regionFault
  split
  · rfl
  · dsimp only
    split
    · rfl
    · exact stalled_killRegion _ _ _

@[simp] theorem stalled_tileFault (t : TileId) (cause kind : BitVec 8) (c o : Nat) (info loc : Word) :
    (s.tileFault t cause kind c o info loc).stalled = s.stalled := by
  unfold State.tileFault
  split
  · rfl
  · exact stalled_regionFault _ _ _

end Stalled

/-! Traps whose sys.einfo is open. -/

/-- A trap for which the raising rule gives no info uses up one free value (log entry 3). -/
theorem trapped_trapOpen {s : State} (untrapped : s.cur.trapped = false) (cause : BitVec 8) :
    ∃ info, Trapped { s with frees := s.frees + 1 } (s.trapOpen cause) cause 0 info :=
  ⟨s.freeWord.1, trapped_trap (s := s.freeWord.2) untrapped cause 0 _⟩

/-! Sets and their banks (R228). -/

theorem modSpin_same (x : Tile) (k : Fin 4) (f : SpinSet → SpinSet) : (x.modSpin k f).spins[k] = f x.spins[k] := by
  simp [Tile.modSpin]

@[simp] theorem bank_setBank_same (y : SpinSet) (odd : Bool) (b : SpinBank) : (y.setBank odd b).bank odd = b := by
  cases odd <;> rfl

@[simp] theorem bank_setBank_other (y : SpinSet) (odd : Bool) (b : SpinBank) : (y.setBank odd b).bank (!odd) = y.bank (!odd) := by
  cases odd <;> rfl

@[simp] theorem setBank_credits (y : SpinSet) (odd : Bool) (b : SpinBank) : (y.setBank odd b).credits = y.credits := by cases odd <;> rfl

@[simp] theorem bank_partials (y : SpinSet) (l : List Partial) (odd : Bool) : { y with partials := l }.bank odd = y.bank odd := rfl

/-- What stands in a bank beside its sums plays no part in an addition and stays as it is (R232). -/
theorem addLanes_counts (b : SpinBank) (nchild : Nat) (kids : List (TileId × Fin 4)) (v : Vector Exa 16) :
    { b with nchild := nchild, kids := kids }.addLanes v = { b.addLanes v with nchild := nchild, kids := kids } := by
  unfold SpinBank.addLanes
  generalize List.finRange 16 = js
  induction js generalizing b with
  | nil => rfl
  | cons j js ih => rw [List.foldl_cons, List.foldl_cons, ← ih]

@[simp] theorem addLanes_pois (b : SpinBank) (v : Vector Exa 16) : (b.addLanes v).pois = b.pois :=
  List.foldlRecOn (motive := fun c : SpinBank => c.pois = b.pois) (List.finRange 16) _ rfl fun _ h _ _ => h

/-! A partial that enters a bank (R231, R232). -/

/-- A bank once a partial has come in: its child is counted, and its values are added unless its parity failed. -/
def Machine.SpinBank.received (b : SpinBank) (p : Partial) (parityFail : Bool) : SpinBank :=
  let b := { b with nchild := b.nchild + 1, kids := b.kids ++ [p.child] }
  if parityFail then { b with pois := true }
  else
    let b := b.addLanes (p.lanes.map fun w => (Exa.ofBits w).1)
    { b with ovf := b.ovf ||| p.ovf, pois := b.pois || p.pois }

section Received

variable (b : SpinBank) (p : Partial)

theorem received_counts (fail : Bool) :
    (b.received p fail).nchild = b.nchild + 1 ∧ (b.received p fail).kids = b.kids ++ [p.child] := by
  cases fail
  · simp [SpinBank.received, addLanes_counts]
  · exact ⟨rfl, rfl⟩

/-- A partial that fails parity leaves the sums as they are and sets POIS (R232). -/
theorem received_failed : (b.received p true).pois = true ∧ (b.received p true).lanes = b.lanes ∧ (b.received p true).ovf = b.ovf :=
  ⟨rfl, rfl, rfl⟩

/-- Any other adds its values, and its marks stay with the sum (R232). -/
theorem received_intact :
    (b.received p false).pois = (b.pois || p.pois) ∧ (b.received p false).lanes = (b.addLanes (p.lanes.map fun w => (Exa.ofBits w).1)).lanes ∧
      (b.received p false).ovf = (b.addLanes (p.lanes.map fun w => (Exa.ofBits w).1)).ovf ||| p.ovf := by
  simp [SpinBank.received, addLanes_counts]

end Received

/-! A result normalised (R233). -/

/-- The elements that make a vector stay below the power of two of their bits. -/
theorem foldr_elements_lt (w : Nat) (f : Nat → Nat) (l : List Nat) :
    l.foldr (fun k acc => f k % 2 ^ w + 2 ^ w * acc) 0 < 2 ^ (l.length * w) := by
  induction l with
  | nil => simp
  | cons k rest ih =>
    have element : f k % 2 ^ w < 2 ^ w := Nat.mod_lt _ (Nat.two_pow_pos w)
    rw [List.foldr_cons, List.length_cons, Nat.succ_mul, Nat.pow_add, Nat.mul_comm (2 ^ w)]
    exact Nat.lt_of_lt_of_le (Nat.add_lt_add_right element _) (by rw [Nat.add_comm, ← Nat.succ_mul]; exact Nat.mul_le_mul_right _ ih)

/-- A vector made of elements is zero above them. -/
theorem laneOf_vecOf_above (w n : Nat) (f : Nat → Nat) {k : Nat} (above : n ≤ k) : laneOf (vecOf w n f) w k = 0 := by
  have bound := foldr_elements_lt w f (List.range n)
  rw [List.length_range] at bound
  have small : (vecOf w n f).toNat < 2 ^ (k * w) := by
    rw [vecOf, BitVec.toNat_ofNat]
    exact Nat.lt_of_le_of_lt (Nat.mod_le _ _) (bound.trans_le (Nat.pow_le_pow_right (by decide) (Nat.mul_le_mul_right w above)))
  rw [laneOf, field, BitVec.extractLsb'_toNat, Nat.shiftRight_eq_div_pow, Nat.div_eq_of_lt small, Nat.zero_mod]

/-- The vector that `nres` writes for a RESULT. -/
def Machine.SpinBank.normalised (r : SpinBank) (ty : Ty) (rm : RM) (sat : Bool) : Vec :=
  vecOf ty.width 16 fun j => if h : j < 16 then spinLane ty rm sat r.lanes[j] else 0

section Normalised

variable (r : SpinBank) (ty : Ty) (rm : RM) (sat : Bool)

theorem laneOf_normalised (fits : ty.width ≤ 32) (j : Fin 16) :
    laneOf (r.normalised ty rm sat) ty.width j.val = spinLane ty rm sat r.lanes[j] % 2 ^ ty.width := by
  rw [SpinBank.normalised, laneOf_vecOf ty.width 16 (by omega) _ j.val j.isLt, dif_pos j.isLt]
  rfl

theorem laneOf_normalised_above {j : Nat} (above : 16 ≤ j) : laneOf (r.normalised ty rm sat) ty.width j = 0 :=
  laneOf_vecOf_above _ _ _ above

end Normalised

/-! Instructions of major 0x52 (R233). -/

section Instructions

variable {s : State} {g : Guard} {o : FmtQ}

/-- On a set that is not in use each of them traps CHAN. -/
theorem spinOp_unused {i : Instr} {effect : SpinCfg → SpinSet → State → State} (does : exec i s = .next (s.issue g (·.spinOp o effect)))
    (runs : Runs s g) (unused : (s.curTile.cfg.spin[setOf o]).valid = false) : exec i s = .next (s.trapOpen Cause.chan) := by
  rw [does, issue_runs runs, State.spinOp, unused]
  rfl

variable (runs : Runs s g) (used : (s.curTile.cfg.spin[setOf o]).valid = true)
include runs used

/-- A contribution enters a round that still has room for it. -/
theorem exec_nred_enters {y : SpinSet}
    (room : (s.curTile.spins[setOf o]).contribute (s.curTile.cfg.spin[setOf o]).nlocal (exaLanes (qType o) (s.getV o.s1)) = some y) :
    exec (.nred g o) s = .next (s.modCurTile (·.modSpin (setOf o) fun _ => y)).retire := spinOp_runs rfl runs used (by rw [room])

/-- `nred` waits while neither round has room. -/
theorem exec_nred_waits
    (full : (s.curTile.spins[setOf o]).contribute (s.curTile.cfg.spin[setOf o]).nlocal (exaLanes (qType o) (s.getV o.s1)) = none) :
    exec (.nred g o) s = .next s.stall := spinOp_runs rfl runs used (by rw [full])

/-- `nclr` empties the set. -/
theorem exec_nclr : exec (.nclr g o) s = .next (s.modCurTile (·.modSpin (setOf o) fun y =>
    { y with result := none, even := .empty, odd := .empty, n := 0, credits := 2 })).retire := spinOp_runs rfl runs used rfl

/-- At a set that is no root, `nres` traps CHAN. -/
theorem exec_nres_rootless (rootless : (s.curTile.cfg.spin[setOf o]).root = false) : exec (.nres g o) s = .next (s.trapOpen Cause.chan) :=
  spinOp_runs rfl runs used (if_pos (by rw [rootless]; rfl))

variable (root : (s.curTile.cfg.spin[setOf o]).root = true)
include root

/-- At the root `nres` waits for a result. -/
theorem exec_nres_waits (empty : (s.curTile.spins[setOf o]).result = none) : exec (.nres g o) s = .next s.stall :=
  spinOp_runs rfl runs used (by rw [root, empty]; rfl)

/-- A result with POIS traps POISON, one of which a lane has left the range SPOVF; any other is taken, normalised. -/
theorem exec_nres_result {r : SpinBank} (full : (s.curTile.spins[setOf o]).result = some r) :
    exec (.nres g o) s = .next (if r.pois then s.trap Cause.poison (BitVec.ofNat 64 (setOf o).val)
      else if r.ovf ≠ 0 then s.trap Cause.spovf (BitVec.ofNat 64 ((setOf o).val * 2 ^ 16 + r.ovf.toNat))
      else (s.modCurTile (·.modSpin (setOf o) fun y => { y with result := none })).writeV o.d
        (r.normalised (qType o) (RM.ofCode (bits o.m7 1 2)) (o.m7.getLsbD 0))) :=
  spinOp_runs rfl runs used (by rw [root, full]; rfl)

end Instructions

@[simp] theorem spins_writeV (s : State) (d : Reg) (v : Vec) : (s.writeV d v).curTile.spins = s.curTile.spins := by
  simp [State.writeV, State.modCur, State.modCtx, State.curTile]

/-! Happenings of a set (R231). -/

/-- Each child counted in a round gets a credit. -/
def Machine.State.creditKids (s : State) (kids : List (TileId × Fin 4)) : State :=
  kids.foldl (fun s child => s.modTile child.1 (·.modSpin child.2 fun y => { y with creditsIn := y.creditsIn + 1 })) s

@[simp] theorem stalled_creditKids (s : State) (kids : List (TileId × Fin 4)) : (s.creditKids kids).stalled = s.stalled :=
  stalled_foldl (fun _ _ => by rfl) kids s

section Happenings

variable {s : State} {k : TileId} {j : Fin 4}

section Partials

variable {p : Partial} {rest : List Partial} (next : ((s.tile k).spins[j]).partials = p :: rest) (running : (s.tile k).snapped = false)
include next running

/-- The next partial on its way enters the bank of its parity. -/
theorem execSpindlePartialArrive_enters {fail : Bool} (formed : p.flagsOk = true) :
    execSpindlePartialArrive k j fail s = .next (s.modTile k (·.modSpin j fun y =>
      { y.setBank p.parity ((y.bank p.parity).received p fail) with partials := rest })) := by
  unfold execSpindlePartialArrive
  rw [next]
  dsimp only
  rw [running, formed, Bool.not_true, Bool.and_false]
  rfl

/-- One with a bad flag word is a channel fault and adds nothing (R79). -/
theorem execSpindlePartialArrive_malformed (malformed : p.flagsOk = false) :
    execSpindlePartialArrive k j false s = .next ((s.modTile k (·.modSpin j fun y => { y with partials := rest })).flagFault k) := by
  unfold execSpindlePartialArrive
  rw [next]
  dsimp only
  rw [running, malformed]
  rfl

end Partials

section Rounds

variable (running : (s.tile k).snapped = false) (used : ((s.tile k).cfg.spin[j]).valid = true)
  (locals : (((s.tile k).spins[j]).bank (((s.tile k).spins[j]).parity 0)).nlocal = ((s.tile k).cfg.spin[j]).nlocal)
  (children : (((s.tile k).spins[j]).bank (((s.tile k).spins[j]).parity 0)).nchild = ((s.tile k).cfg.spin[j]).nchild)
include running used locals children

/-- The sums of a complete round become RESULT at the root. -/
theorem execSpindleRoundComplete_root (root : ((s.tile k).cfg.spin[j]).root = true) (empty : ((s.tile k).spins[j]).result = none) :
    let y := (s.tile k).spins[j]
    execSpindleRoundComplete k j s = .next ((s.modTile k (·.modSpin j fun z =>
      { z.setBank (y.parity 0) .empty with n := z.n + 1, result := some (y.bank (y.parity 0)) })).creditKids (y.bank (y.parity 0)).kids) := by
  unfold execSpindleRoundComplete
  dsimp only
  rw [if_neg (by simp [-Fin.getElem_fin, running, root, used, locals, children]), if_neg (by simp [-Fin.getElem_fin, root, empty])]
  simp only [root, if_true]
  rfl

/-- Elsewhere they go to the parent, for a credit. -/
theorem execSpindleRoundComplete_child (rootless : ((s.tile k).cfg.spin[j]).root = false) (credit : 0 < ((s.tile k).spins[j]).credits)
    (parentRuns : (s.tile (neighbour k ((s.tile k).cfg.spin[j]).parent)).snapped = false) :
    let c := (s.tile k).cfg.spin[j]
    let y := (s.tile k).spins[j]
    let b := y.bank (y.parity 0)
    execSpindleRoundComplete k j s = .next (((s.modTile k (·.modSpin j fun z =>
      { z.setBank (y.parity 0) .empty with n := z.n + 1, credits := z.credits - 1 })).modTile (neighbour k c.parent)
        (·.modSpin ⟨c.pset % 4, Nat.mod_lt _ (by decide)⟩ fun z =>
          { z with partials := z.partials ++ [⟨b.lanes.map Exa.toBits, b.ovf, b.pois, y.parity 0, (k, j)⟩] })).creditKids b.kids) := by
  unfold execSpindleRoundComplete
  dsimp only
  rw [if_neg (by simp [-Fin.getElem_fin, running, rootless, used, locals, children, parentRuns]),
    if_neg (by simp [-Fin.getElem_fin, rootless, credit.ne'])]
  simp only [rootless, Bool.false_eq_true, if_false, setBank_credits]
  rfl

end Rounds

theorem execSpindleCreditArrive_arrives (due : 0 < ((s.tile k).spins[j]).creditsIn) :
    execSpindleCreditArrive k j s = .next (s.modTile k (·.modSpin j fun y => { y with credits := y.credits + 1, creditsIn := y.creditsIn - 1 })) :=
  if_neg (by omega)

end Happenings

/-- Settles O12, clause by clause: each instruction and happening is run where its guards hold. -/
theorem spindles : Obligations.Spindles := by
  refine ⟨fun g o s runs => ⟨fun unused untrapped => ?unused, fun used => ⟨fun y' room => ?nred, ?nclr,
    fun r root full clean inRange _ fits => ?nres, exec_nred_waits runs used, exec_nres_waits runs used,
    fun untrapped => ⟨fun rootless => ?rootless, fun r root full => ⟨fun pois => ?poisoned, fun clean ovf => ?overflowed⟩⟩⟩⟩,
    fun k j s => ⟨fun p rest fail next running formed => ?enters, fun p rest next running malformed => ?malformed,
      fun running used locals children root empty => ?root, fun running used locals children rootless credit parentRuns => ?child,
      fun due => ?credit⟩⟩
  case unused =>
    have traps : ∀ {i : Instr} {effect : SpinCfg → SpinSet → State → State}, exec i s = .next (s.issue g (·.spinOp o effect)) →
        Completes i s fun t => ∃ info, Trapped { s with frees := s.frees + 1 } t Cause.chan 0 info :=
      fun does => ⟨_, spinOp_unused does runs unused, trapped_trapOpen untrapped _⟩
    simp only [List.forall_mem_cons, List.not_mem_nil, false_imp_iff, implies_true, and_true]
    exact ⟨traps rfl, traps rfl, traps rfl⟩
  case nred =>
    exact ⟨_, exec_nred_enters runs used room, tileStep_retire s fun _ => rfl⟩
  case nclr =>
    exact ⟨_, exec_nclr runs used, tileStep_retire s fun _ => rfl⟩
  case nres =>
    have wrote := wroteV_writeV (s.modCurTile (·.modSpin (setOf o) fun y => { y with result := none })) o.d
      (r.normalised (qType o) (RM.ofCode (bits o.m7 1 2)) (o.m7.getLsbD 0))
    refine ⟨_, (exec_nres_result runs used root full).trans (by rw [clean, if_neg Bool.false_ne_true, if_neg (not_not_intro inRange)]), ?_, ?_⟩
    · rw [spins_writeV, State.curTile_modCurTile, modSpin_same]
    · rw [wrote.1]
      exact ⟨laneOf_normalised r _ _ _ fits, fun j => laneOf_normalised_above r _ _ _, wrote⟩
  case rootless =>
    exact ⟨_, exec_nres_rootless runs used rootless, trapped_trapOpen untrapped _⟩
  case poisoned =>
    exact ⟨_, (exec_nres_result runs used root full).trans (by rw [if_pos pois]; rfl), trapped_trap untrapped _ _ _⟩
  case overflowed =>
    exact ⟨_, (exec_nres_result runs used root full).trans (by rw [clean, if_neg Bool.false_ne_true, if_pos ovf]; rfl), trapped_trap untrapped _ _ _⟩
  case enters =>
    obtain ⟨nchild, kids⟩ := received_counts (((s.tile k).spins[j]).bank p.parity) p fail
    refine ⟨_, execSpindlePartialArrive_enters next running formed, rfl, ?_⟩
    simp only [State.tile_modTile_same, modSpin_same, bank_partials, bank_setBank_same, bank_setBank_other]
    refine ⟨trivial, nchild, ?_, ?_, kids, trivial⟩
    · rintro rfl
      exact received_failed _ p
    · rintro rfl
      exact received_intact _ p
  case malformed =>
    exact ⟨_, execSpindlePartialArrive_malformed next running malformed, stalled_tileFault _ _ _ _ _ _ _ _, s.freeWord.1, rfl⟩
  case root =>
    exact ⟨_, execSpindleRoundComplete_root running used locals children root empty, stalled_creditKids _ _, rfl⟩
  case child =>
    exact ⟨_, execSpindleRoundComplete_child running used locals children rootless credit parentRuns, stalled_creditKids _ _, rfl⟩
  case credit =>
    exact ⟨_, execSpindleCreditArrive_arrives due, rfl, tileOnly_modTile s k fun _ => rfl⟩

end Sys2Proof

/-! Bindings of ports, and streams started, stopped and read (R201, R211, R212). -/

namespace Sys2Proof

open Sys2Proof.Machine

namespace Machine

/-! What an operation on a generator leaves. -/

@[simp] theorem Tile.agen_modAgen_same (x : Tile) (k : Fin 4) (f : Agen → Agen) : (x.modAgen k f).agen k = f (x.agen k) := by
  simp [Tile.agen, Tile.modAgen]

@[simp] theorem State.agen_retire (s : State) (k : Fin 4) : s.retire.curTile.agen k = s.curTile.agen k := by
  simp [State.retire, State.modCur, State.modCtx, State.curTile, Tile.agen]

/-- A generator that has stopped keeps its entries; its issued stores, but not its reads, stay in flight, as those of no run (R212). -/
theorem Agen.stop_keeps (y : Agen) (reads : Bool) :
    (y.stop reads).st = .idle ∧ (y.stop reads).taken = [] ∧ (y.stop reads).queue = y.queue ∧
      (reads = true → (y.stop reads).flight = []) ∧
      (reads = false → (y.stop reads).flight = y.flight.map fun e => { e with own := false }) :=
  ⟨rfl, rfl, rfl, fun h => if_pos h, fun h => if_neg (by simp [h])⟩

/-- A port that `bind` may give a binding: a closed one, or a start port whose queue is empty. -/
def Ctx.portFree (c : Ctx) (k : BitVec 4) : Prop := c.port k = .closed ∨ (c.port k = .start ∧ c.startQ[k.toNat]'k.isLt = [])

end Machine

/-- Where no store fault is held, the effect follows (R289). -/
theorem afterStoreFault_none {s : State} (unfaulted : s.cur.psf = none) (f : State → State) : s.afterStoreFault f = f s := by
  simp only [State.afterStoreFault, unfaulted]

/-- A CHAN trap that names a port (R381). -/
theorem trapChan_port {s : State} (untrapped : s.cur.trapped = false) (k : BitVec 4) :
    Trapped s (s.trapChan k.toNat) Cause.chan 0 (k.zeroExtend 64) := by
  have e : BitVec.ofNat 64 k.toNat = k.zeroExtend 64 := by simp
  rw [State.trapChan, e]
  exact trapped_trap untrapped _ _ _

section Bindings

variable {s : State} {g : Guard} {o : FmtQ} (runs : Runs s g)
include runs

section Ports

variable (direct : s.cur.viaHeld o.port = false)
include direct

/-- `bind` gives a free port an endpoint that is valid and that no port of the tile holds. -/
theorem exec_bind_binds (free : s.cur.portFree o.port) (valid : s.curTile.endpointValid (o.m7.toNat % 4) (o.imm.toNat % 4096) = true)
    (unheld : s.curTile.holds (bindingOf (o.m7.toNat % 4) (o.imm.toNat % 4096)) = false) :
    exec (.bind g o) s = .next (s.modCur fun c =>
      { c with ports := c.ports.set o.port.toNat (bindingOf (o.m7.toNat % 4) (o.imm.toNat % 4096)) o.port.isLt
               startPorts := c.startPorts &&& ~~~(1#16 <<< o.port.toNat) }.retire) := by
  refine congrArg Host.Outcome.next ((issue_runs runs _).trans ?_)
  obtain closed | ⟨start, empty⟩ := free
  · simp [direct, closed, valid, unheld]
  · simp [direct, start, empty, valid, unheld]

/-- Any other `bind` traps: its port is taken, or its endpoint is held, or none of the tile nor of a circuit from outside. -/
theorem exec_bind_refused (refused : ¬ s.cur.portFree o.port ∨ s.curTile.holds (bindingOf (o.m7.toNat % 4) (o.imm.toNat % 4096)) = true ∨
      (s.curTile.endpointValid (o.m7.toNat % 4) (o.imm.toNat % 4096) = false ∧
        s.outerSource (o.m7.toNat % 4) (o.imm.toNat % 4096) = false)) :
    exec (.bind g o) s = .next (s.trapChan o.port.toNat) := by
  refine congrArg Host.Outcome.next ((issue_runs runs _).trans ?_)
  rw [if_neg (by simp [direct]), if_pos]
  obtain taken | held | ⟨invalid, inner⟩ := refused
  · unfold Ctx.portFree at taken
    cases port : s.cur.port o.port <;> simp_all
  · simp [held]
  · simp [invalid, inner]

/-- `unbind` closes a port that its endpoint does not hold back. -/
theorem exec_unbind_closes (idle : (∃ e, s.cur.port o.port = .output e) ∨ (∃ e, s.cur.port o.port = .input e ∧ (s.curTile.sink e).queue = []) ∨
      (∃ a, s.cur.port o.port = .stream a ∧ (s.curTile.agen a).st ≠ .running)) :
    exec (.unbind g o) s = .next (s.modCur fun c => { c with ports := c.ports.set o.port.toNat .unbound o.port.isLt }.retire) := by
  refine congrArg Host.Outcome.next ((issue_runs runs _).trans ?_)
  obtain ⟨e, output⟩ | ⟨e, input, empty⟩ | ⟨a, stream, stopped⟩ := idle
  · simp [direct, output]
  · simp [direct, input, empty]
  · have stopped : (s.curTile.agens[a.val]).st ≠ .running := stopped
    simp [direct, stream, stopped]

/-- Any other `unbind` traps. -/
theorem exec_unbind_refused (refused : s.cur.port o.port = .closed ∨ s.cur.port o.port = .start ∨
      (∃ e, s.cur.port o.port = .input e ∧ (s.curTile.sink e).queue ≠ []) ∨
      (∃ a, s.cur.port o.port = .stream a ∧ (s.curTile.agen a).st = .running)) :
    exec (.unbind g o) s = .next (s.trapChan o.port.toNat) := by
  refine congrArg Host.Outcome.next ((issue_runs runs _).trans ?_)
  obtain closed | start | ⟨e, input, full⟩ | ⟨a, stream, running⟩ := refused
  · simp [direct, closed]
  · simp [direct, start]
  · simp [direct, input, full]
  · have running : (s.curTile.agens[a.val]).st = .running := running
    simp [direct, stream, running]

end Ports

section Unbound

variable (unbound : s.cur.hasStream (genOf o) = false)
include unbound

/-- For a stream that no port of the context is bound to, each instruction of a stream traps CHAN (R212). -/
theorem exec_agstop_unbound : exec (.agstop g o) s = .next (s.trapOpen Cause.chan) :=
  congrArg Host.Outcome.next ((issue_runs runs _).trans (if_pos (by rw [unbound]; rfl)))

theorem exec_agstat_unbound : exec (.agstat g o) s = .next (s.trapOpen Cause.chan) :=
  congrArg Host.Outcome.next ((issue_runs runs _).trans (if_pos (by rw [unbound]; rfl)))

theorem exec_agrun_unbound (unfaulted : s.cur.psf = none) : exec (.agrun g o) s = .next (s.trapOpen Cause.chan) := by
  refine congrArg Host.Outcome.next ((issue_runs runs _).trans ?_)
  rw [afterStoreFault_none unfaulted]
  exact if_pos (by rw [unbound]; rfl)

end Unbound

section Bound

variable (bound : s.cur.hasStream (genOf o) = true)
include bound

/-- `agrun` starts a generator that does not run afresh, once the earlier accesses have performed. -/
theorem exec_agrun_starts (unfaulted : s.cur.psf = none) (stopped : (s.curTile.agen (genOf o)).st ≠ .running)
    (performed : s.cur.performed (s.curTile.cfg.agen[genOf o]).scope = true) :
    let base := if o.s1 = 0 then (s.curTile.cfg.agen[genOf o]).base else (s.getS o.s1).toNat % 2 ^ 56
    exec (.agrun g o) s = .next (s.modCurTile fun x => Tile.modAgen { x with cfg := x.cfg.setAgenBase (genOf o) base } (genOf o) fun y =>
      { y with st := .running, cause := 0, completed := 0, pos := 0, base := base, acc := 0, accN := 0, walking := false
               parts := [], spans := [], taken := [], user := s.ctx }).retire := by
  refine congrArg Host.Outcome.next ((issue_runs runs _).trans ?_)
  rw [afterStoreFault_none unfaulted, if_neg (by rw [bound]; simp), if_neg (by rw [performed]; simp [stopped])]

/-- `agstop` stops one that runs. -/
theorem exec_agstop_running (running : (s.curTile.agen (genOf o)).st = .running) : exec (.agstop g o) s =
    .next (s.modCurTile fun x => x.modAgen (genOf o) fun y => y.stop (x.cfg.agen[genOf o]).reads).retire := by
  refine congrArg Host.Outcome.next ((issue_runs runs _).trans ?_)
  rw [if_neg (by rw [bound]; simp), if_pos running]

/-- At one that does not run it only retires. -/
theorem exec_agstop_stopped (stopped : (s.curTile.agen (genOf o)).st ≠ .running) : exec (.agstop g o) s = .next s.retire := by
  refine congrArg Host.Outcome.next ((issue_runs runs _).trans ?_)
  rw [if_neg (by rw [bound]; simp), if_neg stopped]

/-- `agstat` reads it. -/
theorem exec_agstat_bound : exec (.agstat g o) s = .next (s.writeS o.d (s.curTile.agen (genOf o)).status) :=
  congrArg Host.Outcome.next ((issue_runs runs _).trans (if_neg (by rw [bound]; simp)))

end Bound

end Bindings

/-- Settles O24: each clause names the branch of its instruction that its conditions choose. -/
theorem portsBindAndStreamsRun : Obligations.PortsBindAndStreamsRun := by
  intro g o s runs
  extract_lets kind n b free k a
  refine ⟨fun direct => ⟨fun isFree valid unheld => ?binds, fun idle => ?closes, fun untrapped refused => ?bindRefused,
      fun untrapped refused => ?unbindRefused⟩,
    fun bound => ⟨fun unfaulted stopped performed => ?starts, fun running => ?stops, fun stopped => ?stopped, ?status⟩,
    fun unbound untrapped => ?unbound⟩
  case binds => exact ⟨_, exec_bind_binds runs direct isFree valid unheld, State.cur_modCur _ _, onlyContext_modCur _ _⟩
  case closes => exact ⟨_, exec_unbind_closes runs direct idle, State.cur_modCur _ _, onlyContext_modCur _ _⟩
  case bindRefused => exact ⟨_, exec_bind_refused runs direct refused, trapChan_port untrapped _⟩
  case unbindRefused => exact ⟨_, exec_unbind_refused runs direct refused, trapChan_port untrapped _⟩
  case starts => exact ⟨_, exec_agrun_starts runs bound unfaulted stopped performed, tileStep_retire s fun _ => rfl⟩
  case stops =>
    refine ⟨_, exec_agstop_running runs bound running, tileStep_of_eq _ rfl rfl rfl, ?_⟩
    rw [State.agen_retire, State.curTile_modCurTile, Tile.agen_modAgen_same]
    exact Agen.stop_keeps _ _
  case stopped => exact ⟨_, exec_agstop_stopped runs bound stopped, retired_retire s⟩
  case status => exact ⟨_, exec_agstat_bound runs bound, wroteS_writeS s _ _⟩
  case unbound =>
    exact ⟨⟨_, exec_agstop_unbound runs unbound, trapOpen_enters untrapped⟩, ⟨_, exec_agstat_unbound runs unbound, trapOpen_enters untrapped⟩,
      fun unfaulted => ⟨_, exec_agrun_unbound runs unbound unfaulted, trapOpen_enters untrapped⟩⟩

end Sys2Proof

/-! A command that is performed (R419-R422). -/

namespace Sys2Proof

open Sys2Proof.Machine

section Served

variable {s : State} {c : Cmd} {op : Nat}

/-- A command whose record is taken changes nothing but the records that have come in. -/
theorem taken_eq (s : State) (c : Cmd) : ∃ l, Taken s c = { s with hub := { s.hub with cmdsIn := l } } := by
  unfold Taken
  split
  · exact ⟨_, rfl⟩
  · exact ⟨s.hub.cmdsIn, rfl⟩

@[simp] theorem taken_regions (s : State) (c : Cmd) : (Taken s c).regions = s.regions := by
  obtain ⟨l, e⟩ := taken_eq s c
  rw [e]

@[simp] theorem taken_regionNamed (s : State) (c : Cmd) (n gen : Nat) : (Taken s c).regionNamed n gen = s.regionNamed n gen := by
  obtain ⟨l, e⟩ := taken_eq s c
  rw [e]
  rfl

@[simp] theorem taken_regionWaits (s : State) (c : Cmd) (r : Region) : (Taken s c).regionWaits r = s.regionWaits r := by
  obtain ⟨l, e⟩ := taken_eq s c
  rw [e]
  rfl

@[simp] theorem taken_regionIdle (s : State) (c : Cmd) (r : Region) : (Taken s c).regionIdle r = s.regionIdle r := by
  obtain ⟨l, e⟩ := taken_eq s c
  rw [e]
  rfl

@[simp] theorem taken_ending (s : State) (c : Cmd) (r : Region) : (Taken s c).ending r = s.ending r := by
  rw [State.ending, State.ending, taken_regionIdle]

variable (served : Serves s c op)
include served

/-- With arguments that are well formed it has its effect on the state from which its record has been taken. -/
theorem command_served {inRecovery formed : Bool} (good : formed = true) (effect : State → State) :
    s.command c op inRecovery formed effect = .next (effect (Taken s c)) := by
  obtain ⟨x, found, fields, zero, done, listed, up⟩ := served
  simp [State.command, Taken, found, fields, zero, done, listed, up, good]

section RegionCommands

variable {formed : Bool} (names : c.namesRegion = true) (good : formed = true) (effect : Region → State → State)
include names good

/-- A command for a region in service for which no earlier command waits has its effect. -/
theorem regionCommand_served {r : Region} (named : s.regionNamed (c.arg 0) (c.arg 1) = some r) (free : s.regionWaits r = false) :
    s.regionCommand c op formed effect = .next (effect r (Taken s c)) := by
  refine (command_served served (by rw [names, good]; rfl) _).trans ?_
  simp [named, free]

/-- One for which an earlier command waits is BUSY. -/
theorem regionCommand_busy {r : Region} (named : s.regionNamed (c.arg 0) (c.arg 1) = some r) (waits : s.regionWaits r = true) :
    s.regionCommand c op formed effect = .next (Answers (Taken s c) c op 4 []) := by
  refine (command_served served (by rw [names, good]; rfl) _).trans ?_
  simp only [taken_regionNamed, named, taken_regionWaits, waits, if_true]
  rfl

/-- A number and generation that no region in service holds are REFUSED. -/
theorem regionCommand_unnamed (unnamed : s.regionNamed (c.arg 0) (c.arg 1) = none) :
    s.regionCommand c op formed effect = .next (Answers (Taken s c) c op 2 []) := by
  refine (command_served served (by rw [names, good]; rfl) _).trans ?_
  simp only [taken_regionNamed, unnamed]
  rfl

end RegionCommands

end Served

theorem namesRegion_of {c : Cmd} (number : c.arg 0 < 2048) (gen : c.arg 1 < 256) : c.namesRegion = true :=
  decide_eq_true ⟨number, gen⟩

/-- A save area is aligned and lies in HBM4E (R390). -/
theorem saveAreaGood_aligned {a tiles : Nat} (good : saveAreaGood a tiles = true) : a % 4096 = 0 := (of_decide_eq_true good).1

/-! Pre-emption begun (R390). -/

section Preempt

variable {s : State} {r : Region} (c : Cmd) (op : Nat) (save : Option Nat)

theorem preempt_running (running : r.phase = .running) (busy : s.regionIdle r = false) :
    s.preempt c op save r = s.modRegion r.number fun r => { r with phase := .pausing save c.node c.tag } := by
  simp [State.preempt, running, busy]

theorem preempt_installing (installing : r.phase = .placed ∨ r.phase = .installed) :
    s.preempt c op save r = s.modRegion r.number fun r => { r with preemptDue := some (save, c.node, c.tag) } := by
  obtain e | e := installing <;> simp only [State.preempt, e]

theorem preempt_refused (stands : r.phase = .paused ∨ r.phase = .evicted ∨ (r.phase = .running ∧ s.regionIdle r = true)) :
    s.preempt c op save r = Answers s c op 2 [] := by
  obtain e | e | ⟨e, idle⟩ := stands
  · simp only [State.preempt, e]; rfl
  · simp only [State.preempt, e]; rfl
  · simp only [State.preempt, e, idle, if_true]; rfl

end Preempt

/-! What a kill leaves (R102, R318). -/

/-- What the closing of regions leaves of a state: transfers, beacons, owner programs and barriers as they are, and no tile or region in
service that was not there before. -/
structure Closes (s u : State) : Prop where
  xfers : u.xfers = s.xfers := by rfl
  beacons : u.beacons = s.beacons := by rfl
  programs : u.mem.programs = s.mem.programs := by rfl
  barriers : ∀ d : Fin 8, u.dies[d].barriers = s.dies[d].barriers := by exact fun _ => rfl
  tiles : u.tiles ⊆ s.tiles := by exact fun _ h => h
  inService : ∀ r ∈ u.regions, r.inService = true → r ∈ s.regions := by exact fun _ h _ => h

namespace Closes

variable {s u v : State}

theorem refl (s : State) : Closes s s where

theorem trans (h : Closes s u) (k : Closes u v) : Closes s v where
  xfers := k.xfers.trans h.xfers
  beacons := k.beacons.trans h.beacons
  programs := k.programs.trans h.programs
  barriers d := (k.barriers d).trans (h.barriers d)
  tiles _ hp := h.tiles (k.tiles hp)
  inService r hr serves := h.inService r (k.inService r hr serves) serves

theorem foldl {α : Type} {f : State → α → State} (step : ∀ u a, Closes u (f u a)) (l : List α) (s : State) : Closes s (l.foldl f s) :=
  List.foldlRecOn (motive := Closes s) l f (refl s) fun u hu a _ => hu.trans (step u a)

/-- A die changed outside its barriers. -/
theorem modDie (s : State) (d : Fin 8) {f : Die → Die} (keeps : ∀ x, (f x).barriers = x.barriers) : Closes s (s.modDie d f) where
  barriers e := by
    by_cases h : e = d
    · subst h
      rw [State.modDie_same, keeps]
    · rw [State.modDie_other s h]

/-- The record of a region changed that is not in service then. -/
theorem modRecord (s : State) (n : Nat) (gen : BitVec 8) {f : Region → Region} (gone : ∀ r, (f r).inService = true → f r = r) :
    Closes s (s.modRecord n gen f) where
  inService q hq serves := by
    obtain ⟨r, hr, rfl⟩ := List.mem_map.1 hq
    by_cases its : (decide (r.number = n) && decide (r.gen = gen)) = true
    · rw [if_pos its] at serves ⊢
      rwa [gone r serves]
    · rwa [if_neg its]

theorem passOn (s : State) (ds : List Nat) : Closes s (s.passOn ds) := 
  foldl (fun u d => modDie u (dieOf d) (f := fun x => { x with passDue := true }) fun _ => rfl) ds s

theorem nextGeneration (s : State) (r : Region) : Closes s (s.nextGeneration r) := modDie s _ fun _ => rfl

/-! The closing of regions (R99, R100). -/

theorem doneWritten (s : State) (d : DoneOut) (failed : Bool) : Closes s (s.doneWritten d failed) := by
  unfold State.doneWritten
  dsimp only
  split <;> exact {}

theorem writeDone (s : State) (d : DoneOut) : Closes s (s.writeDone d) := by
  unfold State.writeDone
  split
  · exact refl s
  · have stored : Closes s { s with mem := s.mem.writeAt d.target 16 d.record } := by
      cases d.target <;> exact {}
    exact stored.trans (doneWritten _ d false)

theorem doneAction (s : State) (l : Launch) (queue seq outcome cause info : Nat) (region : Option (Nat × BitVec 8)) :
    Closes s (s.doneAction l queue seq outcome cause info region) := by
  unfold State.doneAction
  dsimp only
  split
  · exact refl s
  · split
    · exact {}
    · split
      · exact {}
      · split
        · exact {}
        · exact trans {} (writeDone _ _)

theorem freeRegion (s : State) (r : Region) : Closes s (s.freeRegion r) := by
  unfold State.freeRegion
  extract_lets gated counted
  have hGated : Closes s gated := { tiles := List.filter_subset_self _ }
  have hCounted : Closes gated counted := by
    unfold counted
    split
    · exact nextGeneration gated r
    · exact refl gated
  refine ((hGated.trans hCounted).trans (modRecord counted _ _ fun x => ?_)).trans (passOn _ _)
  split
  · simp [Region.inService]
  · exact fun _ => rfl

theorem closeOne (s : State) (r : Region) : Closes s (s.closeOne r) := by
  unfold State.closeOne
  split
  · extract_lets marked acted begun
    have hMarked : Closes s marked := by
      refine modRecord s _ _ fun x => ?_
      split
      · simp [Region.inService]
      · exact fun _ => rfl
    have hActed : Closes s acted := by
      unfold acted
      split
      · exact refl s
      · exact (hMarked.trans {}).trans (doneAction _ _ _ _ _ _ _ _)
    split
    · exact hActed.trans (freeRegion _ _)
    · exact hActed
  · exact refl s

theorem settleClosing (s : State) : Closes s s.settleClosing := foldl closeOne s.regions s

/-! What comes before it in a kill. -/

theorem sendDecision (s : State) (k : Nat) (commit : Bool) : Closes s (s.sendDecision k commit) := by
  refine foldl (fun u p => ?_) _ s
  split
  · exact {}
  · split <;> exact {}

theorem abortBale (s : State) (k cause : Nat) (node : BitVec 12) : Closes s (s.abortBale k cause node) := by
  unfold State.abortBale
  extract_lets marked sent
  exact (trans (u := marked) {} (sendDecision marked k false)).trans {}

theorem endBales (s : State) (r : Region) : Closes s (s.endBales r) := by
  refine foldl (fun u p => ?_) _ s
  dsimp only
  split
  · exact refl u
  · split
    · exact refl u
    · exact trans {} (abortBale _ _ _ _)
    · exact trans {} (abortBale _ _ _ _)
    · exact {}
    · exact {}
    · exact {}

theorem purgePeers (s : State) (r : Region) : Closes s (s.purgePeers r) := trans {} (foldl (fun _ _ => {}) _ _)

end Closes

/-- A tile whose region has ended or been killed, until it is gated (R102). -/
def Machine.Tile.discarded (n : Nat) : Tile := { Tile.cleared with awake := true, region := some n }

/-- The state of tiles discarded: of each of them it is listed that way only. -/
theorem foldl_discard_tiles {n : Nat} {tiles : List TileId} (l : List TileId) {s : State} (gated : ∀ p ∈ s.tiles, p.1 ∈ tiles → p.2 = Tile.discarded n) :
    ∀ p ∈ (l.foldl (fun s t => s.setTile t (Tile.discarded n)) s).tiles, p.1 ∈ tiles → p.2 = Tile.discarded n := by
  refine List.foldlRecOn (motive := fun u : State => ∀ p ∈ u.tiles, p.1 ∈ tiles → p.2 = Tile.discarded n) l _ gated fun u hu t _ p hp inside => ?_
  obtain rfl | old := mem_putKey hp
  · rfl
  · exact hu p old inside

/-- A region that begins to close is in service no more, its owner programs are gone, and its tiles' state is discarded; transfers, beacons
and barriers are as they were. -/
theorem beginClose_discards (s : State) (r : Region) (tiles : List TileId) (outcome : BitVec 8) :
    let u := s.beginClose r tiles outcome
    u.xfers = s.xfers ∧ u.beacons = s.beacons ∧ (∀ d : Fin 8, u.dies[d].barriers = s.dies[d].barriers) ∧
      (∀ p ∈ u.mem.programs, p.region ≠ r.number) ∧ (∀ p ∈ u.tiles, p.1 ∈ tiles → p.2 = Tile.discarded r.number) ∧
      ∀ q ∈ u.regions, q.number = r.number → q.gen = r.gen → q.inService = false := by
  unfold State.beginClose
  extract_lets answered due halts halted theirs sinks counted away _ _ gated _ cleared
  have hAnswered : Closes s answered := by
    unfold answered
    split <;> exact {}
  have hDue : Closes answered due := by
    unfold due
    split <;> exact {}
  have hHalted : Closes due halted := Closes.foldl (fun _ _ => {}) halts due
  have hCounted : Closes halted counted := by
    refine Closes.foldl (fun u e => ?_) sinks halted
    split
    · split
      · exact Closes.modDie u _ fun _ => rfl
      · exact Closes.refl u
    · exact Closes.refl u
  have before : Closes s counted := ((hAnswered.trans hDue).trans hHalted).trans hCounted
  have hGated : ∀ p ∈ gated.tiles, p.1 ∈ tiles → p.2 = Tile.discarded r.number := by
    intro p hp inside
    have outside := (List.mem_filter.1 hp).2
    simp [inside] at outside
  have cleared_same : cleared.xfers = gated.xfers ∧ cleared.beacons = gated.beacons ∧ cleared.dies = gated.dies ∧ cleared.mem = gated.mem ∧
      cleared.regions = gated.regions :=
    List.foldlRecOn (motive := fun u : State => u.xfers = gated.xfers ∧ u.beacons = gated.beacons ∧ u.dies = gated.dies ∧ u.mem = gated.mem ∧
      u.regions = gated.regions) tiles _ ⟨rfl, rfl, rfl, rfl, rfl⟩ fun u hu t _ => hu
  obtain ⟨xfers, beacons, dies, mem, regions⟩ := cleared_same
  refine ⟨xfers.trans before.xfers, beacons.trans before.beacons, fun d => ?_, fun p hp => ?_, foldl_discard_tiles tiles hGated, fun q hq number gen => ?_⟩
  · have gatedDie : gated.dies[d].barriers = counted.dies[d].barriers := by simp [gated]
    rw [← before.barriers d, ← gatedDie]
    exact congrArg (fun l : Vector Die 8 => l[d].barriers) dies
  · have hp : p ∈ gated.mem.programs := mem ▸ hp
    simpa using (List.mem_filter.1 hp).2
  · obtain ⟨x, _, rfl⟩ := List.mem_map.1 hq
    by_cases its : (decide (x.number = r.number) && decide (x.gen = r.gen)) = true
    · rw [if_pos its]
      rfl
    · rw [if_neg its] at number gen
      exact absurd (by simp [number, gen]) its

/-- Barriers freed: the die has none that the region holds (R323). -/
theorem freeBarriers_held (d : Die) (n k : Nat) : ((d.freeBarriers n).barrier k).held ≠ some n := by
  unfold Die.barrier
  cases e : lookupKey k (d.freeBarriers n).barriers with
  | none => simp [Barrier.free]
  | some b =>
    obtain ⟨p, _, same⟩ := List.mem_map.1 (mem_of_lookupKey e)
    split at same
    · cases same
      simp [Barrier.freed, Barrier.free]
    · next other =>
      rw [same] at other
      exact other

/-- The killed region's barriers are freed on every die. -/
theorem foldl_freeBarriers_held {n : Nat} {f : Die → Die} (frees : ∀ x, ∃ y : Die, (f x).barriers = (y.freeBarriers n).barriers) (s : State) (d : Fin 8) (k : Nat) :
    ((((List.finRange 8).foldl (fun s d => s.modDie d f) s).dies[d]).barrier k).held ≠ some n := by
  have freed : ∀ x, ((f x).barrier k).held ≠ some n := fun x => by
    obtain ⟨y, e⟩ := frees x
    rw [Die.barrier, e]
    exact freeBarriers_held y n k
  refine foldl_establishes (I := fun _ : State => True) (P := fun u : State => (u.dies[d].barrier k).held ≠ some n) (List.mem_finRange d)
    (fun _ _ _ _ => trivial) (fun u _ => ?_) (fun u e _ _ hu => ?_) trivial
  · rw [State.modDie_same]
    exact freed _
  · by_cases h : d = e
    · subst h
      rw [State.modDie_same]
      exact freed _
    · rwa [State.modDie_other u h]

/-- A transfer of a killed region has ended, and nothing of it goes on but what outlives the region (R102, R318). -/
theorem killed_ends (x : Transfer) : x.killed.ended = true ∧ x.killed.action = none ∧ ∀ p ∈ x.killed.packets, p.outlives = true := by
  refine ⟨?_, rfl, fun p hp => (List.mem_filter.1 hp).2⟩
  cases h : x.st <;> simp [Transfer.ended, Transfer.killed, h]

/-- The tiles that a region holds. -/
def Machine.Region.heldTiles (r : Region) : List TileId := if r.holdsTiles then r.tiles else []

/-- A kill before its region begins to close: its transfers end, engines hold no beacon of its tiles, and its barriers are freed. -/
theorem killRegion_forsakes {s : State} {r : Region} (region : s.region r.number = some r) (outcome : BitVec 8) :
    ∃ u : State, s.killRegion r.number outcome = (u.beginClose r r.heldTiles outcome).settleClosing ∧
      (∀ x ∈ u.xfers, x.region = r.number ∧ x.gen = r.gen → x.ended = true ∧ x.action = none ∧ ∀ p ∈ x.packets, p.outlives = true) ∧
      (∀ b ∈ u.beacons, b.tile ∉ r.heldTiles) ∧ ∀ d : Fin 8, ∀ k, (u.dies[d].barrier k).held ≠ some r.number := by
  unfold State.killRegion
  split
  · next absent => rw [region] at absent; cases absent
  · next q found =>
    obtain rfl : r = q := Option.some.inj (region.symm.trans found)
    extract_lets tiles mine ids dropped freed
    have hFreed : freed.xfers = dropped.xfers ∧ freed.beacons = dropped.beacons :=
      List.foldlRecOn (motive := fun u : State => u.xfers = dropped.xfers ∧ u.beacons = dropped.beacons) _ _ ⟨rfl, rfl⟩ fun _ hu _ _ => hu
    have after : Closes freed (((freed.endBales r).nextGeneration r).purgePeers r) :=
      ((Closes.endBales freed r).trans (Closes.nextGeneration _ r)).trans (Closes.purgePeers _ r)
    refine ⟨_, rfl, fun x hx its => ?_, fun b hb => ?_, fun d k => ?_⟩
    · rw [after.xfers, hFreed.1] at hx
      obtain ⟨old, _, rfl⟩ := List.mem_map.1 (List.mem_filter.1 hx).1
      by_cases kills : mine old = true
      · rw [if_pos kills]
        exact killed_ends old
      · rw [if_neg kills] at its
        exact absurd (by simp [mine, its]) kills
    · rw [after.beacons, hFreed.2] at hb
      have outside : b.tile ∉ tiles := by simpa using (List.mem_filter.1 hb).2
      exact outside
    · have free : (freed.dies[d].barrier k).held ≠ some r.number := by
        refine foldl_freeBarriers_held ?_ dropped d k
        exact fun x => ⟨x.dropWalkers tiles ids, rfl⟩
      rwa [Die.barrier, after.barriers d]

/-- What a kill leaves of the region, whatever its outcome: its record is in service no more, its transfers have ended but for what outlives
it, its barriers are free, its owner programs gone, and where it held tiles their state is discarded and engines hold no beacon of theirs. -/
theorem killRegion_ends {s : State} {r : Region} (region : s.region r.number = some r) (outcome : BitVec 8) :
    let t := s.killRegion r.number outcome
    (∀ q, t.region r.number = some q → q.gen ≠ r.gen) ∧
      (∀ x ∈ t.xfers, x.region = r.number ∧ x.gen = r.gen → x.ended = true ∧ x.action = none ∧ ∀ p ∈ x.packets, p.outlives = true) ∧
      (∀ d : Fin 8, ∀ k, (t.dies[d].barrier k).held ≠ some r.number) ∧ (∀ p ∈ t.mem.programs, p.region ≠ r.number) ∧
      (r.holdsTiles = true → (∀ b ∈ t.beacons, b.tile ∉ r.tiles) ∧ ∀ p ∈ t.tiles, p.1 ∈ r.tiles → p.2 = Tile.discarded r.number) := by
  obtain ⟨u, kills, ended, unheard, free⟩ := killRegion_forsakes region outcome
  obtain ⟨xfers, beacons, barriers, programs, discarded, gone⟩ := beginClose_discards u r r.heldTiles outcome
  have after := Closes.settleClosing (u.beginClose r r.heldTiles outcome)
  rw [kills]
  refine ⟨fun q serves gen => ?_, fun x hx => ?_, fun d k => ?_, fun p hp => ?_, fun holds => ⟨fun b hb => ?_, fun p hp inside => ?_⟩⟩
  · have found := List.find?_some serves
    simp only [Bool.and_eq_true, beq_iff_eq] at found
    have out := gone q (after.inService q (List.mem_of_find?_eq_some serves) found.2) found.1 gen
    rw [found.2] at out
    cases out
  · exact ended x (by rwa [after.xfers, xfers] at hx)
  · rw [Die.barrier, after.barriers d, barriers d]
    exact free d k
  · exact programs p (by rwa [after.programs] at hp)
  · rw [after.beacons, beacons] at hb
    simpa [Region.heldTiles, holds] using unheard b hb
  · exact discarded p (after.tiles hp) (by simpa [Region.heldTiles, holds] using inside)

/-- Settles O47: each command has the effect of its branch on the state from which its record has been taken, and a kill ends its region. -/
theorem regionCommands : Obligations.RegionCommands := by
  intro c s number gen
  have names := namesRegion_of number gen
  extract_lets v
  refine ⟨fun r named => ⟨fun served going => ?kill, fun served met => ?killMet, fun free running busy => ⟨fun served => ?pause, fun served area low => ?evict⟩,
      fun free installing => ⟨fun served => ?pauseLater, fun served area low => ?evictLater⟩, fun free stands served => ?pauseRefused,
      fun served free paused zero => ?resume, fun served free evicted aligned low => ?restore,
      fun waits aligned low => ⟨fun served => ?pauseBusy, fun served => ?evictBusy, fun served => ?resumeBusy⟩⟩,
    fun unnamed => ⟨fun served => ?killNone, fun served => ?pauseNone, fun aligned low => ⟨fun served => ?evictNone, fun served => ?resumeNone⟩⟩,
    fun r outcome region => killRegion_ends region outcome,
    fun r served found free => ⟨fun empty => ?faultNone, fun f rest faults => ?fault⟩⟩
  case kill => exact ⟨_, (show execKill c s = _ from command_served served names _), by simp [named, going]; rfl⟩
  case killMet => exact ⟨_, (show execKill c s = _ from command_served served names _), by simp [named, met]; rfl⟩
  case killNone => exact ⟨_, (show execKill c s = _ from command_served served names _), by simp [unnamed]; rfl⟩
  case pause =>
    exact ⟨_, (show execPause c s = _ from regionCommand_served served names rfl _ named free), preempt_running c _ _ running (by simpa [v] using busy)⟩
  case evict =>
    exact ⟨_, (show execEvict c s = _ from regionCommand_served served names (decide_eq_true ⟨saveAreaGood_aligned area, low⟩) _ named free),
      (if_pos area).trans (preempt_running c _ _ running (by simpa [v] using busy))⟩
  case pauseLater =>
    exact ⟨_, (show execPause c s = _ from regionCommand_served served names rfl _ named free), preempt_installing c _ _ installing⟩
  case evictLater =>
    exact ⟨_, (show execEvict c s = _ from regionCommand_served served names (decide_eq_true ⟨saveAreaGood_aligned area, low⟩) _ named free),
      (if_pos area).trans (preempt_installing c _ _ installing)⟩
  case pauseRefused =>
    exact ⟨_, (show execPause c s = _ from regionCommand_served served names rfl _ named free), preempt_refused c _ _ (by simpa [v] using stands)⟩
  case resume =>
    exact ⟨_, (show execResume c s = _ from regionCommand_served served names (by simp [zero]) _ named free), by simp [paused, zero, v]⟩
  case restore =>
    exact ⟨_, (show execResume c s = _ from regionCommand_served served names (decide_eq_true ⟨aligned, low⟩) _ named free), by simp [evicted, v]⟩
  case pauseBusy => exact ⟨_, (show execPause c s = _ from regionCommand_busy served names rfl _ named waits), rfl⟩
  case evictBusy => exact ⟨_, (show execEvict c s = _ from regionCommand_busy served names (decide_eq_true ⟨aligned, low⟩) _ named waits), rfl⟩
  case resumeBusy => exact ⟨_, (show execResume c s = _ from regionCommand_busy served names (decide_eq_true ⟨aligned, low⟩) _ named waits), rfl⟩
  case pauseNone => exact ⟨_, (show execPause c s = _ from regionCommand_unnamed served names rfl _ unnamed), rfl⟩
  case evictNone => exact ⟨_, (show execEvict c s = _ from regionCommand_unnamed served names (decide_eq_true ⟨aligned, low⟩) _ unnamed), rfl⟩
  case resumeNone => exact ⟨_, (show execResume c s = _ from regionCommand_unnamed served names (decide_eq_true ⟨aligned, low⟩) _ unnamed), rfl⟩
  case faultNone => exact ⟨_, (show execFaultq c s = _ from command_served served names _), by simp [found, free, empty]; rfl⟩
  case fault => exact ⟨_, (show execFaultq c s = _ from command_served served names _), by simp [found, free, faults]; rfl⟩

end Sys2Proof

/-! Transfers under way (R244, R246, R251, R254-R256). -/

namespace Sys2Proof

open Sys2Proof.Machine

section Transfers

variable {s : State} {id : Word} {x : Transfer}

theorem id_of_xferOf (named : s.xferOf id = some x) : x.id = id := by simpa using List.find?_some named

/-- Once a transfer's completion action has been taken, no transfer of the id has one. -/
theorem action_modXfer_none (s : State) (id : Word) :
    ((s.modXfer id fun x => { x with action := none }).xferOf id).bind (·.action) = none := by
  cases e : (s.modXfer id fun x => { x with action := none }).xferOf id with
  | none => rfl
  | some y =>
    have own : y.id = id := id_of_xferOf e
    obtain ⟨z, _, rfl⟩ := List.mem_map.1 (List.mem_of_find?_eq_some e)
    by_cases h : z.id = id
    · rw [if_pos h]
      rfl
    · rw [if_neg h] at own
      exact absurd own h

/-! Watches (R254). -/

/-- While its region runs, a watch is tried where it stands so. -/
theorem tryRegister_tries (named : s.xferOf id = some x) (live : x.ended = false) (carried : s.carried x = true) :
    s.tryRegister id x.watch = s.register x := by
  simp [State.tryRegister, named, live, carried]

/-- A counter with an engine among its subscribers (R240). -/
def Machine.Counter.subscribed (c : Counter) (e : Fin 8 × Fin 64) : Counter :=
  { c with subs := if c.subs.contains e then c.subs else c.subs ++ [e] }

theorem Machine.Counter.mem_subscribed (c : Counter) (e : Fin 8 × Fin 64) : e ∈ (c.subscribed e).subs := by
  unfold Counter.subscribed
  by_cases h : e ∈ c.subs <;> simp [h]

/-- Whether the counter on a tile has reached a transfer's mark (R258). -/
def Machine.State.markReached (s : State) (x : Transfer) (t : TileId) : Bool :=
  decide (x.desc.mark.toNat ≤ ((s.tile t).counters[x.desc.cg]).value.toNat)

/-- A transfer's watch entered at its counter, before the beacon goes out (R254). -/
def Machine.State.withWatch (s : State) (x : Transfer) (t : TileId) : State :=
  (s.modXfer x.id fun x => { x with watch := .registered }).modTile t fun y =>
    { y.modCounter x.desc.cg (·.subscribed (x.die, x.engine)) with
      watches := (s.tile t).watches ++ [⟨x.desc.cg, x.desc.mark, x.id, s.markReached x t, false, false⟩] }

theorem withWatch_enters (s : State) (x : Transfer) (t : TileId) :
    let u := s.withWatch x t
    (u.tile t).watches = (s.tile t).watches ++ [⟨x.desc.cg, x.desc.mark, x.id, s.markReached x t, false, false⟩] ∧
      (u.tile t).counters[x.desc.cg] = ((s.tile t).counters[x.desc.cg]).subscribed (x.die, x.engine) ∧ MemorySame s u := by
  refine ⟨congrArg Tile.watches (State.tile_modTile_same _ t _), ?_, memorySame_modTile (s.modXfer x.id _) t fun _ => rfl⟩
  rw [State.withWatch, State.tile_modTile_same]
  exact Vector.getElem_set_self _

/-- The event of a watch whose mark has been reached changes nothing of its counter. -/
theorem recordLate_ite (s : State) (t : TileId) (late : Bool) (g : Fin 16) (cycles : Nat) (mark : BitVec 48) (id : Word) :
    let u := if late then s.recordLate t g cycles mark id else s
    (u.tile t).watches = (s.tile t).watches ∧ (u.tile t).counters = (s.tile t).counters ∧ u.beaconsOut = s.beaconsOut ∧ MemorySame s u := by
  dsimp only
  split
  · exact ⟨by simp [State.recordLate, State.modCtx], by simp [State.recordLate, State.modCtx], rfl, memorySame_modCtx _ _ _ _⟩
  · exact ⟨rfl, rfl, rfl, MemorySame.refl s⟩

section Register

variable {t : TileId} (tile : s.counterTile x = some t)
include tile

theorem register_ownerless (loads : x.kind ≠ .load) (unowned : (s.tile t).cfg.counterOwner[x.desc.cg] = none) :
    s.register x = s.modXfer x.id fun x => { x with failing := some (x.failing.getD Cause.xfer), watch := .none } := by
  have owner : (decide (x.kind ≠ .load) && (s.tile t).cfg.counterOwner[x.desc.cg].isNone) = true := by rw [unowned]; simp [loads]
  simp only [State.register, tile]
  exact if_pos owner

variable (owned : x.kind = .load ∨ (s.tile t).cfg.counterOwner[x.desc.cg] ≠ none)
include owned

omit tile in
theorem owner_of_counter : ¬ (decide (x.kind ≠ .load) && (s.tile t).cfg.counterOwner[x.desc.cg].isNone) = true := by
  obtain load | own := owned
  · simp [load]
  · rw [Bool.and_eq_true, Option.isNone_iff_eq_none]
    exact fun h => own h.2

theorem register_full (full : 128 ≤ (s.tile t).watches.length) : s.register x = s.modXfer x.id fun x => { x with watch := .refused } := by
  simp only [State.register, tile]
  exact (if_neg (owner_of_counter owned)).trans (if_pos full)

/-- A counter whose table has room takes the watch, and a mark already reached is LATE at once; the engine gets a beacon. -/
theorem register_watches (room : (s.tile t).watches.length < 128) :
    let u := s.withWatch x t
    s.register x = State.sendBeacon (if s.markReached x t then u.recordLate t x.desc.cg 0 x.desc.mark x.id else u) t x.desc.cg
      (some (x.die, x.engine)) := by
  simp only [State.register, tile]
  exact (if_neg (owner_of_counter owned)).trans (if_neg (Nat.not_le.2 room))

/-- What the engine's registration leaves at the counter, and the beacon that is on its way. -/
theorem register_enters (room : (s.tile t).watches.length < 128) :
    let u := s.register x
    let c := (s.tile t).counters[x.desc.cg]
    (u.tile t).watches = (s.tile t).watches ++ [⟨x.desc.cg, x.desc.mark, x.id, s.markReached x t, false, false⟩] ∧
      ((u.tile t).counters[x.desc.cg]).value = c.value ∧ (x.die, x.engine) ∈ ((u.tile t).counters[x.desc.cg]).subs ∧
      (∃ b, u.beaconsOut = s.beaconsOut ++ [b] ∧ b.die = x.die ∧ b.engine = x.engine ∧ b.tile = t ∧ b.g = x.desc.cg ∧
        b.value = c.value ∧ b.rate = c.rate) ∧ MemorySame s u := by
  obtain ⟨watches, counters, beacons, memory⟩ := recordLate_ite (s.withWatch x t) t (s.markReached x t) x.desc.cg 0 x.desc.mark x.id
  obtain ⟨entered, counter, entersMemory⟩ := withWatch_enters s x t
  rw [register_watches tile owned room]
  generalize (if s.markReached x t then (s.withWatch x t).recordLate t x.desc.cg 0 x.desc.mark x.id else s.withWatch x t) = told at *
  have subscribed : (told.tile t).counters[x.desc.cg] = ((s.tile t).counters[x.desc.cg]).subscribed (x.die, x.engine) := by rw [counters, counter]
  have value : ((told.tile t).counters[x.desc.cg]).value = ((s.tile t).counters[x.desc.cg]).value := by
    rw [subscribed]
    rfl
  have rate : ((told.tile t).counters[x.desc.cg]).rate = ((s.tile t).counters[x.desc.cg]).rate := by
    rw [subscribed]
    rfl
  refine ⟨watches.trans entered, value, ?_, ⟨_, congrArg (· ++ _) beacons, rfl, rfl, rfl, rfl, value, rate⟩,
    (entersMemory.trans memory).trans ⟨fun _ => rfl, fun _ => rfl, fun _ _ => rfl⟩⟩
  show _ ∈ ((told.tile t).counters[x.desc.cg]).subs
  rw [subscribed]
  exact Counter.mem_subscribed _ _

end Register

/-! Packets that land (R251, R399). -/

theorem admits_le (s : State) (t : TileId) (n : Nat) : s.admits t n ≤ n := by
  unfold State.admits
  split
  · exact Nat.le_refl n
  · split
    · exact Nat.le_refl n
    · exact Nat.min_le_left _ _

/-- The region of a transfer, where the number still has its generation. -/
theorem filter_region (current : ∀ r, s.region x.region = some r → r.gen = x.gen) :
    ((s.region x.region).filter fun r => r.gen == x.gen) = s.region x.region := by
  cases region : s.region x.region with
  | none => rfl
  | some r => simp [Option.filter, current r region]

section Packets

variable {k : Nat} {p : Packet} (named : s.xferOf id = some x) (packet : x.packets[k]? = some p) (granted : p.granted = true)
include named packet granted

section Readable

variable (current : ∀ r, s.region x.region = some r → r.gen = x.gen) {fault : PacketFault} (readable : fault ≠ .header)
include current readable

/-- A packet whose header can be read is served by what it is (R244). -/
theorem execTransferPacketLand_write (write : p.kind = .write) : execTransferPacketLand id ⟨k, fault⟩ s =
    .next (s.serveWrite (s.region x.region) x k p (fault = .data)).settleClosing := by
  simp only [execTransferPacketLand, named, packet, granted, readable, write, filter_region current]
  rfl

theorem execTransferPacketLand_response (response : p.kind = .response) : execTransferPacketLand id ⟨k, fault⟩ s =
    .next (s.serveResponse (s.region x.region) x k p (fault = .data)).settleClosing := by
  simp only [execTransferPacketLand, named, packet, granted, readable, response, filter_region current]
  rfl

theorem execTransferPacketLand_read (read : p.kind = .read) {r : Region} (region : s.region x.region = some r) :
    execTransferPacketLand id ⟨k, fault⟩ s = .next (s.serveRead r x k p) := by
  simp only [execTransferPacketLand, named, packet, granted, readable, read, filter_region current]
  rw [region]
  rfl

end Readable

/-- One whose header cannot be read is lost, and its region, which stands, has a fault (R399). -/
theorem execTransferPacketLand_header {r : Region} (stands : s.standing x.region = some r) (own : r.gen = x.gen) :
    execTransferPacketLand id ⟨k, .header⟩ s =
      .next ((s.dropPacket id k fun x => x).regionFault x.region ⟨Cause.poison, 5, 0, 0, 0, 0⟩).settleClosing := by
  simp [execTransferPacketLand, named, packet, granted, stands, own]

end Packets

section Writes

variable {r : Region} {k : Nat} {p : Packet}

theorem serveWrite_memory {o : Option Region} {tgt : Target} {m : Global} (target : p.target = some tgt) (here : tgt.isRemote = false)
    (free : ∀ c ∈ p.cells, s.lineHeld (tgt.plus c.1) 1 = false) (lands : s.mem.landCells tgt p.wo p.cells = .ok m) :
    s.serveWrite o x k p false =
      State.serveDeferred (State.dropPacket { s with mem := m } x.id k fun x => { x with landed := x.landed + p.cells.length }) := by
  have unheld : (p.cells.any fun c => s.lineHeld (tgt.plus c.1) 1) = false := by simpa using free
  cases tgt with
  | remote node rva => cases here
  | _ => simp only [State.serveWrite, target, unheld, lands]; rfl

variable {row col off : Nat} {sh : Bool} (target : p.target = none) (place : p.place = .tile row col sh off)
include target place

theorem serveWrite_scratch (reaches : ∀ c ∈ p.cells, (s.tile (r.tileAt row col)).reachable sh c.1 1 = true) :
    let t := r.tileAt row col
    let units := if x.desc.src.isTile then 0 else (p.cells.length + 7) / 8 - p.inside
    units ≤ s.admits t units → s.serveWrite (some r) x k p false =
      ((s.letIn t units).modTile t fun y => y.scratchWrite (p.cells.map fun c => (y.place (y.halfOf sh) c.1, c.2))).dropPacket x.id k
        fun x => { x with landed := x.landed + p.cells.length } := by
  intro t units room
  have all : (p.cells.all fun c => (s.tile t).reachable sh c.1 1) = true := by simpa using reaches
  have same : s.admits t units = units := Nat.le_antisymm (admits_le s t units) room
  have reach : ¬ (!p.cells.all fun c => (s.tile t).reachable sh c.1 1) = true := by rw [all]; simp
  simp only [State.serveWrite, target, place]
  refine (if_neg reach).trans ((if_neg (Nat.not_lt.2 room)).trans ?_)
  rw [same]
  rfl

theorem serveWrite_unreachable (misses : ∃ c ∈ p.cells, (s.tile (r.tileAt row col)).reachable sh c.1 1 = false) (bad : Bool) :
    s.serveWrite (some r) x k p bad = s.dropPacket x.id k (·.fails Cause.xfer) := by
  have reach : (!p.cells.all fun c => (s.tile (r.tileAt row col)).reachable sh c.1 1) = true := by simpa using misses
  simp only [State.serveWrite, target, place]
  exact if_pos reach

end Writes

section Reads

variable {r : Region} {k : Nat} {p : Packet}

theorem serveRead_memory {tgt : Target} {v : Nat} (target : p.target = some tgt) (here : tgt.isRemote = false) (free : s.lineHeld tgt p.len = false)
    (reads : s.mem.unitRead [(tgt, 0, p.len, p.wo)] = .ok v) : s.serveRead r x k p = s.respondRead x.id k v := by
  cases tgt with
  | remote node rva => cases here
  | _ => simp only [State.serveRead, target, free, reads]; rfl

theorem serveRead_scratch {row col off : Nat} {sh : Bool} (target : p.target = none) (place : p.place = .tile row col sh off)
    (reaches : (s.tile (r.tileAt row col)).reachable sh p.start p.len = true)
    (sound : (s.tile (r.tileAt row col)).scratchBadAt ((s.tile (r.tileAt row col)).halfOf sh) p.start p.len = false) :
    s.serveRead r x k p =
      s.respondRead x.id k ((s.tile (r.tileAt row col)).scratchPlain ((s.tile (r.tileAt row col)).halfOf sh) p.start p.len) := by
  simp only [State.serveRead, target, place, reaches, sound]
  rfl

end Reads

/-! The end of a transfer (R255, R256). -/

section Ends

variable (named : s.xferOf id = some x)
include named

theorem execTransferDone_ends (live : x.ended = false) (slot : x.slot.isSome = true) (sent : x.packets = []) (answered : s.remoteFor id = false)
    (sound : x.failing = none) (out : x.out = []) (whole : x.landed = x.desc.dstBytes) (back : x.kind = .via → x.viaBack = true) :
    execTransferDone id s = .next ((s.endTransfer x .done 0).afterEnd x 0) := by
  simp only [execTransferDone, named]
  refine if_pos ?_
  by_cases via : x.kind = .via
  · simp [live, slot, sent, answered, sound, out, whole, back via]
  · simp [live, slot, sent, answered, sound, out, whole, via]

theorem execTransferError_ends (live : x.ended = false) (slot : x.slot.isSome = true) (sent : x.packets = []) (answered : s.remoteFor id = false)
    {cause : BitVec 8} (failed : x.failing = some cause) : execTransferError id s = .next ((s.endTransfer x .error cause).afterEnd x cause) := by
  simp [execTransferError, named, live, slot, sent, answered, failed]

section Entries

variable {e : Entry} (waits : x.action = some e)
include waits

theorem execCompletionEntryAppend_appends {t : TileId} {k : Nat} (sink : s.entrySink x = some (t, k))
    (room : ((s.tile t).sink k).queue.length < max ((s.tile t).cfg.capacity k) 1) : execCompletionEntryAppend id s =
      .next ((s.modTile t (·.modSink k fun q => { q with queue := q.queue ++ [e] })).modXfer id fun x => { x with action := none }) := by
  have appended : s.appendEntry x e =
      (s.modTile t (·.modSink k fun q => { q with queue := q.queue ++ [e] })).modXfer id fun x => { x with action := none } := by
    rw [← id_of_xferOf named]
    simp only [State.appendEntry, sink]
    exact if_pos room
  simp only [execCompletionEntryAppend, named, waits, appended, action_modXfer_none]
  rfl

theorem execCompletionEntryAppend_drops (unbound : s.entrySink x = none) : execCompletionEntryAppend id s =
      .next ((s.stale x.die).modXfer id fun x => { x with action := none }) := by
  have dropped : s.appendEntry x e = (s.stale x.die).modXfer id fun x => { x with action := none } := by
    rw [← id_of_xferOf named]
    simp only [State.appendEntry, unbound]
  simp only [execCompletionEntryAppend, named, waits, dropped, action_modXfer_none]
  rfl

end Entries

end Ends

end Transfers

/-- An engine in whose restore queue no transfer can take a slot holds its transfers back, or frees them (R246). -/
theorem execHoldReevaluate_reholds {s : State} {d : Fin 8} {e : Fin 64} (none : s.restoreWaits d e = false) : execHoldReevaluate d e s =
    .next { s with xfers := s.xfers.map fun x => if x.die = d ∧ x.engine = e then s.reheld x else x } := by
  have empty : s.restoreNext d e = Option.none := by simpa [State.restoreWaits] using none
  have same : s.resubmit d e = s := by simp only [State.resubmit, empty]
  simp [execHoldReevaluate, same]

/-- Settles O32: each happening takes the branch that its conditions choose. -/
theorem transfersProgress : Obligations.TransfersProgress := by
  intro id s x named
  obtain rfl := id_of_xferOf named
  refine ⟨fun live carried i w happening stands t tile => ?watch, fun k p packet granted current => ?packets,
    fun live slot sent answered => ⟨fun sound out whole back => ?done, fun c failed => ?error⟩,
    fun e waits => ⟨fun t k sink room => ?append, fun unbound => ?drop⟩, fun d e none => ?hold⟩
  case watch =>
    have tries : exec i s = .next (s.register x) := by
      have tried := tryRegister_tries named live carried
      simp only [List.mem_cons, List.not_mem_nil, or_false, Prod.mk.injEq] at happening
      obtain ⟨rfl, rfl⟩ | ⟨rfl, rfl⟩ := happening
      · exact congrArg Host.Outcome.next (stands ▸ tried)
      · exact congrArg Host.Outcome.next (stands ▸ tried)
    exact ⟨fun loads unowned => ⟨_, tries, register_ownerless tile loads unowned⟩, fun owned full => ⟨_, tries, register_full tile owned full⟩,
      fun owned room => ⟨_, tries, register_enters tile owned room⟩⟩
  case done => exact ⟨_, execTransferDone_ends named live slot sent answered sound out whole back, rfl⟩
  case error => exact ⟨_, execTransferError_ends named live slot sent answered failed, rfl⟩
  case append => exact ⟨_, execCompletionEntryAppend_appends named waits sink room, rfl⟩
  case drop => exact ⟨_, execCompletionEntryAppend_drops named waits unbound, rfl⟩
  case hold => exact ⟨_, execHoldReevaluate_reholds none, rfl, rfl⟩
  case packets =>
    have served (fault : PacketFault) (readable : fault ≠ .header) (write : p.kind = .write) :=
      execTransferPacketLand_write named packet granted current readable write
    refine ⟨fun write => ⟨fun tgt m target here free lands => ?_, fun row col sh off r target place region => ⟨fun reaches room => ?_, fun misses => ?_⟩⟩,
      fun read r region => ⟨fun tgt v target here free reads => ?_, fun row col sh off target place reaches sound => ?_⟩,
      fun response r region => ⟨?_, ?_⟩, fun response gone => ?_,
      fun r stands generation => ⟨_, execTransferPacketLand_header named packet granted stands generation, rfl⟩⟩
    · exact ⟨_, served .clean (by simp) write, congrArg State.settleClosing (serveWrite_memory target here free lands)⟩
    · refine ⟨_, served .clean (by simp) write, congrArg State.settleClosing ?_⟩
      rw [region]
      exact serveWrite_scratch target place reaches room
    · refine ⟨_, served .clean (by simp) write, congrArg State.settleClosing ?_⟩
      rw [region]
      exact serveWrite_unreachable target place misses _
    · exact ⟨_, execTransferPacketLand_read named packet granted current (by simp) read region, serveRead_memory target here free reads⟩
    · exact ⟨_, execTransferPacketLand_read named packet granted current (by simp) read region, serveRead_scratch target place reaches sound⟩
    · exact ⟨_, execTransferPacketLand_response named packet granted current (by simp) response, by rw [region]; rfl⟩
    · exact ⟨_, execTransferPacketLand_response named packet granted current (by simp) response, by rw [region]; rfl⟩
    · exact ⟨_, execTransferPacketLand_response named packet granted current (by simp) response, by rw [gone]; rfl⟩

end Sys2Proof

/-! What giving a flit to a node stream leaves of the hub (R408-R411). -/

namespace Sys2Proof

open Sys2Proof.Machine

namespace Machine

/-- The hubs differ in ports, streams and what is on its way through them at most. -/
def Hub.SentFrom (g h : Hub) : Prop :=
  g = { h with ports := g.ports, streamPort := g.streamPort, outHeld := g.outHeld, remote := g.remote, baleVia := g.baleVia, unrouted := g.unrouted }

theorem Hub.SentFrom.trans {f g h : Hub} (a : f.SentFrom g) (b : g.SentFrom h) : f.SentFrom h := by
  unfold Hub.SentFrom at *
  rw [b] at a
  exact a

theorem Hub.SentFrom.retries {g h : Hub} (e : g.SentFrom h) : g.retries = h.retries := by
  unfold Hub.SentFrom at e
  rw [e]

theorem Hub.SentFrom.doneOut {g h : Hub} (e : g.SentFrom h) : g.doneOut = h.doneOut := by
  unfold Hub.SentFrom at e
  rw [e]

theorem Hub.sendOn_sentFrom (h : Hub) (node : BitVec 12) (p : Fin 32) (f : OutFlit) : (h.sendOn node p f).SentFrom h := by
  unfold Hub.sendOn
  extract_lets room placed
  split
  · refine Hub.SentFrom.trans (g := placed) ?_ rfl
    unfold Hub.noteBale
    split
    · rfl
    · split <;> rfl
  · rfl

theorem Hub.streamTo_sentFrom (h : Hub) (ver : Bool) (node : BitVec 12) : (h.streamTo ver node).2.SentFrom h := by
  unfold Hub.streamTo
  dsimp only
  repeat' split
  all_goals rfl

theorem Hub.route_sentFrom (h : Hub) (node : BitVec 12) (f : OutFlit) : (h.route node f).SentFrom h := by
  have taken := h.streamTo_sentFrom f.ver node
  unfold Hub.route
  split
  · next p g e => rw [e] at taken; exact (Hub.sendOn_sentFrom g node p f).trans taken
  · next g e => rw [e] at taken; exact Hub.SentFrom.trans (g := g) rfl taken

theorem Hub.giveFlit_sentFrom (h : Hub) (f : OutFlit) : (h.giveFlit f).SentFrom h := by
  unfold Hub.giveFlit
  split
  · rfl
  · split
    · rfl
    · exact Hub.route_sentFrom _ _ _

@[simp] theorem State.respond_hub_retries (s : State) (n : BitVec 12) (tag : BitVec 32) (op st : Nat) (r : List Word) :
    (s.respond n tag op st r).hub.retries = s.hub.retries := (Hub.giveFlit_sentFrom _ _).retries

@[simp] theorem State.respond_hub_doneOut (s : State) (n : BitVec 12) (tag : BitVec 32) (op st : Nat) (r : List Word) :
    (s.respond n tag op st r).hub.doneOut = s.hub.doneOut := (Hub.giveFlit_sentFrom _ _).doneOut

end Machine

/-! Commands on queues (R84). -/

@[simp] theorem taken_retries (s : State) (c : Cmd) : (Taken s c).hub.retries = s.hub.retries := by
  obtain ⟨l, e⟩ := taken_eq s c
  rw [e]

/-- Whether a queue owns what is read under a number. -/
def ownedByQueue (queue owner : Nat) : Bool := decide (2 ^ 20 ≤ owner) && (owner - 2 ^ 20) / 2 ^ 32 % 2 ^ 14 == queue

/-- QCONFIG drops the times before which reads of its queue are not asked again, as it drops the lines that they have brought (log entry 87). -/
theorem execQconfig_retries {c : Cmd} {s : State} (served : Serves s c 0x01)
    (formed : c.arg 0 < 16384 ∧ c.arg 1 % 128 = 0 ∧ c.arg 1 < 2 ^ 56 ∧ 2 ≤ c.arg 2 ∧ c.arg 2 ≤ 16 ∧ c.arg 3 < 2 ^ 28 ∧ c.arg 4 ≤ 2) :
    ∃ t, execQconfig c s = .next t ∧ t.hub.retries = s.hub.retries.filter fun f => !ownedByQueue (c.arg 0) f.1.1 := by
  unfold execQconfig
  dsimp only
  rw [command_served served (decide_eq_true formed)]
  refine ⟨_, rfl, ?_⟩
  rw [State.ok, State.answer, State.respond_hub_retries, Hub.modQueue, taken_retries]
  rfl

/-- Refutes O45: where a read of the queue was told to come again, QCONFIG drops that as well, and the statement's state keeps it. -/
theorem not_queueMemoryAndLinkCommands : ¬ Obligations.QueueMemoryAndLinkCommands := by
  intro holds
  let c : Cmd := ⟨1, 7, #v[0, 0, 2, 0, 0, 0, 0]⟩
  let s : State := { State.reset with hub := { Hub.reset with
    retries := [((queueOwner 0 0 0, 0), 256)], cmdsIn := [⟨1, c.record 0x01, 0, true, true⟩] } }
  have served : Serves s c 0x01 := by
    unfold Serves
    decide +kernel
  have formed : c.arg 0 < 16384 ∧ c.arg 1 % 128 = 0 ∧ c.arg 1 < 2 ^ 56 ∧ 2 ≤ c.arg 2 ∧ c.arg 2 ≤ 16 ∧ c.arg 3 < 2 ^ 28 ∧ c.arg 4 ≤ 2 := by
    decide
  have ⟨queue, aligned, low, lower, upper, names, state⟩ := formed
  obtain ⟨t, does, lines, answered, _⟩ := (holds c s).1 served queue aligned low lower upper names state
  obtain ⟨u, happens, dropped⟩ := execQconfig_retries served formed
  have same : t = u := Host.Outcome.next.inj (does.symm.trans happens)
  have kept : t.hub.retries = s.hub.retries := by
    rw [answered, Answers, State.respond_hub_retries]
    exact taken_retries s c
  have gone : t.hub.retries = [] := by
    rw [same, dropped]
    decide
  cases kept.symm.trans gone

end Sys2Proof

/-! What the hub does after it has written for a command (R99, R374). -/

namespace Sys2Proof

open Sys2Proof.Machine

@[simp] theorem passOn_regions (s : State) (ds : List Nat) : (s.passOn ds).regions = s.regions :=
  List.foldlRecOn (motive := fun u : State => u.regions = s.regions) ds _ rfl fun _ hu _ _ => hu

section Closing

variable {s : State} {r : Region} {outcome : BitVec 8}

/-- The record of a freed region stays, as that of one that has ended (R99). -/
theorem freeRegion_only (only : s.regions = [r]) (closing : r.phase = .closing outcome true) :
    (s.freeRegion r).regions = [{ r with phase := .ended, outcome := outcome }] := by
  unfold State.freeRegion
  extract_lets gated counted
  have hCounted : counted.regions = [r] := by
    unfold counted
    split <;> exact only
  rw [passOn_regions, State.modRecord, hCounted]
  simp [closing]

/-- A closing region whose completion record has been written is freed when next looked at (R99). -/
theorem settleClosing_only (only : s.regions = [r]) (closing : r.phase = .closing outcome true) (written : s.hub.doneOut = []) :
    s.settleClosing.regions = [{ r with phase := .ended, outcome := outcome }] := by
  have closes : s.closeOne r = s.freeRegion r := by
    simp [State.closeOne, closing, only, written]
  rw [State.settleClosing, only, List.foldl_cons, List.foldl_nil, closes]
  exact freeRegion_only only closing

end Closing

theorem hubWrite_same (s : State) (w : HubWrite) : (s.hubWrite w).regions = s.regions ∧ (s.hubWrite w).hub.doneOut = s.hub.doneOut := by
  unfold State.hubWrite
  extract_lets gone
  split
  · split
    · exact ⟨rfl, rfl⟩
    · exact ⟨rfl, State.respond_hub_doneOut _ _ _ _ _ _⟩
  · split
    · exact ⟨rfl, rfl⟩
    · exact ⟨rfl, State.respond_hub_doneOut _ _ _ _ _ _⟩

/-- With no completion record to write, the writes of commands are followed by the closing of regions. -/
theorem serveHub_settles {s : State} (written : s.hub.doneOut = []) :
    ∃ u : State, s.serveHub = u.settleClosing ∧ u.regions = s.regions ∧ u.hub.doneOut = [] := by
  refine ⟨s.hub.writes.foldl State.hubWrite s, by simp only [State.serveHub, written, List.foldl_nil], ?_⟩
  refine List.foldlRecOn (motive := fun u : State => u.regions = s.regions ∧ u.hub.doneOut = []) _ _ ⟨rfl, written⟩ fun u hu w _ => ?_
  exact ⟨(hubWrite_same u w).1.trans hu.1, (hubWrite_same u w).2.trans hu.2⟩

/-- ATTEST looks at the closing regions: one whose completion record has been written is freed. -/
theorem execAttest_regions {c : Cmd} {s : State} {r : Region} {outcome : BitVec 8} (served : Serves s c 0x25)
    (formed : c.arg 4 % 64 = 0 ∧ c.arg 4 + 128 + signatureBytes ≤ 2 ^ 40) (left : s.hub.nvm.sigIndex < 2 ^ 40)
    (only : s.regions = [r]) (closing : r.phase = .closing outcome true) (written : s.hub.doneOut = []) :
    ∃ t, execAttest c s = .next t ∧ t.regions = [{ r with phase := .ended, outcome := outcome }] := by
  unfold execAttest
  dsimp only
  rw [command_served served (decide_eq_true formed)]
  refine ⟨_, rfl, ?_⟩
  obtain ⟨l, e⟩ := taken_eq s c
  rw [e, if_neg (Nat.not_le.2 left)]
  obtain ⟨u, settles, regions, done⟩ := serveHub_settles (s := { s with hub := { s.hub with
    cmdsIn := l, nvm := { s.hub.nvm with sigIndex := s.hub.nvm.sigIndex + 1 }, writes := s.hub.writes ++ [_] } }) written
  rw [settles]
  exact settleClosing_only (regions.trans only) closing done

/-- Refutes O46: where a region that closes has had its completion record written, ATTEST frees it as well, and the statement's state
keeps it. -/
theorem not_dieAndPlatformCommands : ¬ Obligations.DieAndPlatformCommands := by
  intro holds
  let c : Cmd := ⟨1, 7, #v[0, 0, 0, 0, 0, 0, 0]⟩
  let r : Region := { Region.bare 0 0 0 with phase := .closing 0 true }
  let s : State := { State.reset with regions := [r], hub := { Hub.reset with cmdsIn := [⟨1, c.record 0x25, 0, true, true⟩] } }
  have served : Serves s c 0x25 := by
    unfold Serves
    decide +kernel
  have formed : c.arg 4 % 64 = 0 ∧ c.arg 4 + 128 + signatureBytes ≤ 2 ^ 40 := by decide
  obtain ⟨-, -, -, -, -, -, attest⟩ := holds c s
  obtain ⟨t, does, m, answered, _⟩ := attest served formed.1 formed.2 (by decide) rfl rfl rfl
  obtain ⟨u, happens, freed⟩ := execAttest_regions (s := s) (r := r) (outcome := 0) served formed (by decide) rfl rfl rfl
  have same : t = u := Host.Outcome.next.inj (does.symm.trans happens)
  have kept : t.regions = [r] := by
    rw [answered]
    exact taken_regions s c
  rw [same, freed] at kept
  have phases : [Phase.ended] = [Phase.closing 0 true] := congrArg (List.map Region.phase) kept
  cases phases

end Sys2Proof

/-! Scalar integer instructions (R125-R127, R130). -/

namespace Sys2Proof

open Sys2Proof.Machine

/-- What R126 says of a quotient and a remainder: truncation, the remainder's sign, and what a divisor of zero gives. -/
theorem divTrunc_remTrunc (a b : Int) :
    (b = 0 → divTrunc a b = -1 ∧ remTrunc a b = a) ∧
    (b ≠ 0 → a = divTrunc a b * b + remTrunc a b ∧ (remTrunc a b).natAbs < b.natAbs ∧
      (remTrunc a b = 0 ∨ (remTrunc a b).sign = a.sign)) := by
  refine ⟨fun zero => ⟨if_pos zero, if_pos zero⟩, fun nonzero => ?_⟩
  have quotient : divTrunc a b = a.tdiv b := if_neg nonzero
  have remainder : remTrunc a b = a.tmod b := if_neg nonzero
  rw [quotient, remainder]
  refine ⟨(Int.tdiv_mul_add_tmod a b).symm, ?_, ?_⟩
  · rw [Int.natAbs_tmod]
    exact Nat.mod_lt _ (Int.natAbs_pos.2 nonzero)
  · by_cases divides : b ∣ a
    · exact .inl (Int.tmod_eq_zero_of_dvd divides)
    · exact .inr (by rw [Int.sign_tmod, if_neg divides])

/-- Settles O3: the quotient and the remainder are `divTrunc` and `remTrunc` of the operands, read signed and unsigned. -/
theorem divisionResults : Obligations.DivisionResults := by
  intro g o s runs w a b divides
  exact ⟨⟨divTrunc (a false) (b false), remTrunc (a false) (b false), writesS_of_issue rfl runs rfl, writesS_of_issue rfl runs rfl,
      divTrunc_remTrunc (a false) (b false)⟩,
    ⟨divTrunc (a true) (b true), remTrunc (a true) (b true), writesS_of_issue rfl runs rfl, writesS_of_issue rfl runs rfl,
      divTrunc_remTrunc (a true) (b true)⟩⟩

/-- The number that a code stands for, signed or unsigned, is the code modulo 2^w (R63). -/
theorem intOf_emod (w : Nat) (u : Bool) (x : Nat) : intOf w u x % 2 ^ w = x % 2 ^ w := by
  unfold intOf
  dsimp only
  split <;> simp

section Wide

theorem ofInt_congr {a b : Int} (h : a % 2 ^ 64 = b % 2 ^ 64) : BitVec.ofInt 64 a = BitVec.ofInt 64 b := by
  apply BitVec.eq_of_toNat_eq
  rw [BitVec.toNat_ofInt, BitVec.toNat_ofInt]
  exact congrArg Int.toNat h

/-- A 64-bit result without SAT is the exact one as a word, whatever U is (R125). -/
theorem fitWord_wide (u : Bool) (r : Int) : fitWord 64 u false r = BitVec.ofInt 64 r := by
  refine ofInt_congr ?_
  rw [intOf_emod]
  have wrapped : (wrapTo 64 r : Int) = r % 2 ^ 64 := Int.toNat_of_nonneg (Int.emod_nonneg r (by decide))
  show (wrapTo 64 r : Int) % 2 ^ 64 = r % 2 ^ 64
  rw [wrapped, Int.emod_emod]

/-- A 64-bit operand is its register's word, whatever U is (R125). -/
theorem ofInt_intOperand_wide (u : Bool) (x : Word) : BitVec.ofInt 64 (intOperand 64 u x) = x := by
  rw [intOperand, ofInt_congr (intOf_emod 64 u x.toNat), BitVec.ofInt_natCast, BitVec.ofNat_toNat, BitVec.setWidth_eq]

variable (u : Bool) (x y : Word)

theorem fitWord_add_wide : fitWord 64 u false (intOperand 64 u x + intOperand 64 u y) = x + y := by
  simp only [fitWord_wide, BitVec.ofInt_add, ofInt_intOperand_wide]

theorem fitWord_sub_wide : fitWord 64 u false (intOperand 64 u x - intOperand 64 u y) = x - y := by
  simp only [fitWord_wide, Int.sub_eq_add_neg, BitVec.sub_eq_add_neg, BitVec.ofInt_add, BitVec.ofInt_neg, ofInt_intOperand_wide]

theorem fitWord_mul_wide : fitWord 64 u false (intOperand 64 u x * intOperand 64 u y) = x * y := by
  simp only [fitWord_wide, BitVec.ofInt_mul, ofInt_intOperand_wide]

end Wide

/-- Settles O4: at 64 bits the exact result fitted to the width is the result of words. -/
theorem wideArithmeticWraps : Obligations.WideArithmeticWraps := by
  intro g o p s runs wide wraps wideImm
  have width : o.ty.width = 64 := by rw [wide]; rfl
  refine ⟨writesS_of_issue rfl runs (congrArg (s.writeS o.d) ?add), writesS_of_issue rfl runs (congrArg (s.writeS o.d) ?sub),
    writesS_of_issue rfl runs (congrArg (s.writeS o.d) ?mul), writesS_of_issue rfl runs (congrArg (s.writeS p.d) ?addi)⟩
  case add => rw [width, wraps, fitWord_add_wide]
  case sub => rw [width, wraps, fitWord_sub_wide]
  case mul => rw [width, wraps, fitWord_mul_wide]
  case addi => rw [wideImm, fitWord_add_wide, immWord]

/-- Settles O2: the meaning of each instruction is a write of S(D), and what it writes is the statement's result. -/
theorem integerResults : Obligations.IntegerResults := by
  refine ⟨?_, ?_, ?_⟩
  · intro g o s runs w a b gives -- the exact result of two operands (R125, R130)
    and_intros
    all_goals exact writesS_of_issue rfl runs rfl
  · intro g o s runs w a b n bitsOf gives -- bits, counts and shifts (R125)
    and_intros
    all_goals exact writesS_of_issue rfl runs rfl
  · intro g o s runs w a b x y gives -- an immediate (R127)
    and_intros
    all_goals exact writesS_of_issue rfl runs rfl

end Sys2Proof

/-! Branches, jumps and context controls (R55, R114, R115, R123, R124). -/

namespace Sys2Proof

open Sys2Proof.Machine

theorem isIndex_natCast {index : Nat} (h : index ≤ 2047) : isIndex index = true :=
  decide_eq_true ⟨Int.natCast_nonneg index, Int.ofNat_le.2 h⟩

theorem isIndex_outside {target : Int} (h : target < 0 ∨ 2047 < target) : isIndex target = false :=
  decide_eq_false (by omega)

section Jumps

variable {i : Instr} {s : State} {g : Guard}

theorem goTo_index {index : Nat} (h : index ≤ 2047) : WentTo s (s.goTo index) index := by
  rw [State.goTo, if_pos (isIndex_natCast h), BitVec.ofInt_natCast]
  exact ⟨State.cur_modCur _ _, onlyContext_modCur _ _⟩

/-- A target that is no index raises ILL in place of a branch's effect (R55). -/
theorem goTo_outside {target : Int} (h : target < 0 ∨ 2047 < target) : s.goTo target = s.trapIll :=
  if_neg (by simp [isIndex_outside h])

theorem jumpLink_outside {d : Reg} {target : Int} (h : target < 0 ∨ 2047 < target) : s.jumpLink d target = s.trapIll :=
  if_neg (by simp [isIndex_outside h])

/-- A branch goes to the target that its condition chooses, or raises ILL where that is no index (R55, R123). -/
theorem branch_goes {f : State → State} {taken : Bool} {off : BitVec 32} (e : exec i s = .next (s.issueJump g f)) (on : s.cur.guardOn g = true)
    (branches : f s = s.branch taken off) {target : Int}
    (reached : (taken = true ∧ target = s.cur.pc.toNat + off.toInt) ∨ (¬ taken = true ∧ target = s.cur.pc.toNat + 1)) :
    (∀ index : Nat, index ≤ 2047 → target = index → Completes i s fun t => WentTo s t index) ∧
      (target < 0 ∨ 2047 < target → s.cur.trapped = false → Completes i s fun t => Trapped s t Cause.ill 0 s.curWord) := by
  have goes : exec i s = .next (s.goTo target) := by
    rw [e, issueJump_runs on, branches, State.branch]
    rcases reached with ⟨yes, there⟩ | ⟨no, next⟩
    · rw [if_pos yes, there, targetFrom]
    · rw [if_neg no, next]
  refine ⟨fun index inside here => ⟨_, goes, here ▸ goTo_index inside⟩, fun outside untrapped => ⟨_, goes, ?_⟩⟩
  rw [goTo_outside outside]
  exact trapIll_enters untrapped

/-- A jump goes to its target and leaves the index after its own, or raises ILL before any write (R55, R124). -/
theorem jumpLink_jumps {f : State → State} {d : Reg} {target : Int} (e : exec i s = .next (s.issueJump g f)) (on : s.cur.guardOn g = true)
    (jumps : f s = s.jumpLink d target) :
    (∀ index : Nat, index ≤ 2047 → (index : Int) = target → Completes i s fun t =>
      t.getS d = (if d = 0 then 0 else BitVec.ofNat 64 (s.cur.pc.toNat + 1)) ∧ (∀ r, r ≠ d → t.getS r = s.getS r) ∧
      t.cur = { s.cur with s := t.cur.s, pc := BitVec.ofNat 11 index, retired := s.cur.retired + 1 } ∧ OnlyContext s t) ∧
      (target < 0 ∨ 2047 < target → s.cur.trapped = false → Completes i s fun t => Trapped s t Cause.ill 0 s.curWord) := by
  have goes : exec i s = .next (s.jumpLink d target) := by rw [e, issueJump_runs on, jumps]
  refine ⟨fun index inside here => ⟨_, goes, ?_⟩, fun outside untrapped => ⟨_, goes, ?_⟩⟩
  · rw [← here, State.jumpLink, if_pos (isIndex_natCast inside), BitVec.ofInt_natCast]
    refine ⟨?link, fun r other => ?kept, ?context, onlyContext_modCur _ _⟩
    case link =>
      rw [State.getS_modCur]
      exact Ctx.getS_setS_same _ _ _
    case kept =>
      rw [State.getS_modCur]
      exact Ctx.getS_setS_other _ other _
    case context =>
      rw [State.cur_modCur]
      unfold Ctx.setS
      split <;> rfl
  · rw [jumpLink_outside outside]
    exact trapIll_enters untrapped

end Jumps

/-- Settles O1: a branch is `State.branch` on its condition, a jump is `State.jumpLink`, and the context controls take the branch of
their meaning that their conditions choose. -/
theorem controlFlow : Obligations.ControlFlow := by
  refine ⟨fun g o s on => ?branches, fun g o s on => ⟨jumpLink_jumps rfl on rfl, jumpLink_jumps rfl on rfl⟩,
    fun g o s runs => ⟨_, congrArg Host.Outcome.next (issue_runs runs _), retired_retire s⟩, fun g o s on noFault => ?park,
    fun g o s runs alone => ?alone, fun g o s runs other => ?other⟩
  case branches =>
    intro goes
    have branches : ∀ {i : Instr} {f : State → State} {b : Bool} {taken : Prop}, exec i s = .next (s.issueJump g f) →
        f s = s.branch b o.off → (b = true ↔ taken) → goes i taken := by
      rintro i f b taken e branch condition target reached
      exact branch_goes e on branch (by rwa [condition])
    exact ⟨branches rfl rfl (iff_of_true rfl trivial), branches rfl rfl beq_iff_eq, branches rfl rfl bne_iff_ne,
      branches rfl rfl BitVec.slt_iff_toInt_lt, branches rfl rfl (by simp [BitVec.slt_eq_decide]), branches rfl rfl BitVec.ult_iff_toNat_lt,
      branches rfl rfl (by simp [BitVec.ult_eq_decide]), branches rfl rfl bne_iff_ne, branches rfl rfl beq_iff_eq⟩
  case park =>
    have parks : exec (.park g o) s = .next (s.modCur fun c => { c with run := .parked, retired := c.retired + 1 }) := by
      refine congrArg Host.Outcome.next ((issueJump_runs on _).trans ?_)
      rw [State.afterStoreFault, noFault]
    exact ⟨_, parks, State.cur_modCur _ _, onlyContext_modCur _ _⟩
  case alone =>
    have retires : exec (.yield g o) s = .next s.retire := congrArg Host.Outcome.next ((issue_runs runs _).trans (if_neg (by simp [alone])))
    exact ⟨_, retires, retired_retire s⟩
  case other => exact ⟨_, congrArg Host.Outcome.next ((issue_runs runs _).trans (if_pos other)), rfl⟩

end Sys2Proof

/-! Predicate and address instructions (R128-R131). -/

namespace Sys2Proof

open Sys2Proof.Machine

section Granules

variable {own : Nat → Bool}

/-- A granule is found downward by its number among those below the start (R131). -/
theorem nthBelow_eq_some {j k n : Nat} (owned : own j = true) (below : j < k) (count : Nat.count (own ·) k = Nat.count (own ·) j + n) :
    nthBelow own k n = some j := by
  induction k generalizing n with
  | zero => omega
  | succ k ih =>
    rw [Nat.count_succ] at count
    unfold nthBelow
    rcases Nat.lt_succ_iff_lt_or_eq.1 below with before | rfl
    · have more : Nat.count (own ·) (j + 1) ≤ Nat.count (own ·) k := Nat.count_monotone _ before
      rw [Nat.count_succ, if_pos owned] at more
      by_cases here : own k = true
      · rw [if_pos here] at count
        rw [if_pos here, if_neg (by omega)]
        exact ih before (by omega)
      · rw [if_neg here] at count
        rw [if_neg here]
        exact ih before (by omega)
    · rw [if_pos owned] at count
      rw [if_pos owned, if_pos (by omega)]

theorem nthBelow_eq_none {k n : Nat} (few : Nat.count (own ·) k < n) : nthBelow own k n = none := by
  induction k generalizing n with
  | zero => rfl
  | succ k ih =>
    rw [Nat.count_succ] at few
    unfold nthBelow
    by_cases here : own k = true
    · rw [if_pos here] at few
      rw [if_pos here, if_neg (by omega)]
      exact ih (by omega)
    · rw [if_neg here] at few
      rw [if_neg here]
      exact ih few

theorem nthFrom_eq_some {fuel j k n : Nat} (owned : own j = true) (above : k ≤ j) (within : j < k + fuel)
    (count : Nat.count (own ·) (j + 1) = Nat.count (own ·) k + n) : nthFrom own fuel k n = some j := by
  induction fuel generalizing k n with
  | zero => omega
  | succ fuel ih =>
    unfold nthFrom
    rcases Nat.eq_or_lt_of_le above with rfl | beyond
    · rw [Nat.count_succ, if_pos owned] at count
      rw [if_pos owned, if_pos (by omega)]
    · have more : Nat.count (own ·) (k + 1) ≤ Nat.count (own ·) j := Nat.count_monotone _ beyond
      have next := Nat.count_succ (own ·) k
      rw [Nat.count_succ, if_pos owned] at count
      by_cases here : own k = true
      · rw [if_pos here] at next
        rw [if_pos here, if_neg (by omega)]
        exact ih beyond (by omega) (by rw [Nat.count_succ, if_pos owned]; omega)
      · rw [if_neg here] at next
        rw [if_neg here]
        exact ih beyond (by omega) (by rw [Nat.count_succ, if_pos owned]; omega)

theorem nthFrom_eq_none {fuel k n : Nat} (few : Nat.count (own ·) (k + fuel) < Nat.count (own ·) k + n) : nthFrom own fuel k n = none := by
  induction fuel generalizing k n with
  | zero => rfl
  | succ fuel ih =>
    unfold nthFrom
    have next := Nat.count_succ (own ·) k
    have shifted : k + (fuel + 1) = k + 1 + fuel := by omega
    rw [shifted] at few
    by_cases here : own k = true
    · have more := Nat.count_monotone (own ·) (Nat.le_add_right (k + 1) fuel)
      rw [if_pos here] at next
      rw [if_pos here, if_neg (by omega)]
      exact ih (by omega)
    · rw [if_neg here] at next
      rw [if_neg here]
      exact ih (by omega)

/-- No granule at or beyond the limit counts. -/
theorem count_min {limit : Nat} (bounded : ∀ k, own k = true → k < limit) (k : Nat) : Nat.count (own ·) (min k limit) = Nat.count (own ·) k := by
  induction k with
  | zero => rw [Nat.zero_min]
  | succ k ih =>
    by_cases inside : k < limit
    · rw [Nat.min_eq_left inside]
    · have unowned : ¬ own k = true := fun owned => inside (bounded k owned)
      rw [Nat.count_succ, if_neg unowned, ← ih, Nat.min_eq_right (by omega), Nat.min_eq_right (by omega), Nat.add_zero]

theorem countP_range_stretch (lo hi n : Nat) : ((List.range n).countP fun j => decide (lo ≤ j ∧ j < hi) && own j) =
    Nat.count (own ·) (min hi n) - Nat.count (own ·) (min lo n) := by
  induction n with
  | zero => simp
  | succ n ih =>
    rw [List.range_succ, List.countP_append, ih, List.countP_singleton]
    rcases Nat.lt_or_ge n lo with before | reached
    · have empty : ∀ m ≤ lo, Nat.count (own ·) (min hi m) - Nat.count (own ·) (min lo m) = 0 := fun m short =>
        Nat.sub_eq_zero_of_le (Nat.count_monotone _ (by omega))
      rw [empty n (by omega), empty (n + 1) (by omega)]
      simp [Nat.not_le.2 before]
    · rcases Nat.lt_or_ge n hi with inside | after
      · have grows := Nat.count_monotone (own ·) reached
        rw [Nat.min_eq_left reached, Nat.min_eq_left (by omega : lo ≤ n + 1), Nat.min_eq_right (by omega : n ≤ hi),
          Nat.min_eq_right (by omega : n + 1 ≤ hi), Nat.count_succ]
        simp [reached, inside]
        omega
      · rw [Nat.min_eq_left reached, Nat.min_eq_left (by omega : lo ≤ n + 1), Nat.min_eq_left after, Nat.min_eq_left (by omega : hi ≤ n + 1)]
        simp [Nat.not_lt.2 after]

/-- The granules of a stretch, counted below the limit, are those below its end less those below its start. -/
theorem countP_stretch {limit : Nat} (bounded : ∀ k, own k = true → k < limit) (lo hi : Nat) :
    ((List.range limit).countP fun j => decide (lo ≤ j ∧ j < hi) && own j) = Nat.count (own ·) hi - Nat.count (own ·) lo := by
  rw [countP_range_stretch, count_min bounded, count_min bounded]

end Granules

/-- How many granules of a stretch a context owns (R131). -/
def Machine.Tile.ownedIn (x : Tile) (c : Fin 4) (lo hi : Nat) : Nat :=
  (List.range x.granules).countP fun j => decide (lo ≤ j ∧ j < hi) && x.ownsGranule c j

section Sbank

variable {x : Tile} {c : Fin 4} {a n : Word}

theorem ownsGranule_bounded (k : Nat) (owned : x.ownsGranule c k = true) : k < x.granules := by
  unfold Tile.ownsGranule at owned
  exact of_decide_eq_true (Bool.and_eq_true_iff.1 owned).1

theorem toNat_of_toInt_pos (pos : 0 < n.toInt) : (n.toNat : Int) = n.toInt := by
  rw [BitVec.toInt_eq_toNat_cond] at pos ⊢
  split at pos <;> rename_i h <;> simp only [h, if_true, if_false]
  have := n.isLt
  omega

theorem sbank_zero (zero : n.toInt = 0) : x.sbank c a n = BitVec.ofNat 64 (16 * (a.toNat / 16)) :=
  if_pos (BitVec.toInt_inj.1 zero)

/-- A positive count goes down from the granule of the address (R131). -/
theorem sbank_pos (pos : 0 < n.toInt) : x.sbank c a n = BitVec.ofNat 64 (16 *
    (nthBelow (x.ownsGranule c) (min (a.toNat / 16) x.granules) n.toNat).getD x.granules) := by
  have nonzero : n ≠ 0 := by
    rintro rfl
    exact absurd pos (by decide)
  unfold Tile.sbank
  dsimp only
  rw [if_neg nonzero, if_pos pos]
  split <;> simp [*]

/-- A negative count goes up from the granule above the address, and else to what follows the highest owned granule (R131). -/
theorem sbank_neg (neg : n.toInt < 0) : x.sbank c a n = BitVec.ofNat 64 (16 *
    ((nthFrom (x.ownsGranule c) (x.granules - (a.toNat / 16 + 1)) (a.toNat / 16 + 1) n.toInt.natAbs).getD
      (((nthBelow (x.ownsGranule c) x.granules 1).map (· + 1)).getD x.granules))) := by
  have nonzero : n ≠ 0 := by
    rintro rfl
    exact absurd neg (by decide)
  unfold Tile.sbank
  dsimp only
  rw [if_neg nonzero, if_neg (Int.not_lt.2 (Int.le_of_lt neg))]
  split
  · simp [*]
  · split <;> simp [*]

theorem ownedIn_eq (lo hi : Nat) :
    x.ownedIn c lo hi = Nat.count (x.ownsGranule c ·) hi - Nat.count (x.ownsGranule c ·) lo :=
  countP_stretch ownsGranule_bounded lo hi

theorem sbank_below (pos : 0 < n.toInt) {k : Nat} (below : k < a.toNat / 16) (owned : x.ownsGranule c k = true)
    (number : (x.ownedIn c k (a.toNat / 16) : Int) = n.toInt) : x.sbank c a n = BitVec.ofNat 64 (16 * k) := by
  have counted := toNat_of_toInt_pos pos
  rw [ownedIn_eq] at number
  rw [sbank_pos pos, nthBelow_eq_some owned (Nat.lt_min.2 ⟨below, ownsGranule_bounded k owned⟩), Option.getD_some]
  rw [count_min ownsGranule_bounded]
  omega

theorem sbank_below_few (pos : 0 < n.toInt) (few : (x.ownedIn c 0 (a.toNat / 16) : Int) < n.toInt) :
    x.sbank c a n = BitVec.ofNat 64 (16 * x.granules) := by
  have counted := toNat_of_toInt_pos pos
  rw [ownedIn_eq, Nat.count_zero] at few
  rw [sbank_pos pos, nthBelow_eq_none, Option.getD_none]
  rw [count_min ownsGranule_bounded]
  omega

theorem sbank_above (neg : n.toInt < 0) {k : Nat} (above : a.toNat / 16 < k) (owned : x.ownsGranule c k = true)
    (number : (x.ownedIn c (a.toNat / 16 + 1) (k + 1) : Int) = -n.toInt) : x.sbank c a n = BitVec.ofNat 64 (16 * k) := by
  have inside := ownsGranule_bounded k owned
  rw [ownedIn_eq] at number
  rw [sbank_neg neg, nthFrom_eq_some (k := a.toNat / 16 + 1) owned above (by omega) (by omega), Option.getD_some]

theorem sbank_above_few (neg : n.toInt < 0) (few : (x.ownedIn c (a.toNat / 16 + 1) x.granules : Int) < -n.toInt) :
    x.sbank c a n = BitVec.ofNat 64 (16 * ((nthBelow (x.ownsGranule c) x.granules 1).map (· + 1)).getD x.granules) := by
  rw [ownedIn_eq] at few
  rw [sbank_neg neg, nthFrom_eq_none, Option.getD_none]
  rcases Nat.le_total (a.toNat / 16 + 1) x.granules with inside | beyond
  · rw [Nat.add_sub_cancel' inside]
    omega
  · rw [Nat.sub_eq_zero_of_le beyond, Nat.add_zero]
    omega

theorem nthBelow_highest {k : Nat} (owned : x.ownsGranule c k = true) (highest : (x.ownedIn c (k + 1) x.granules : Int) = 0) :
    nthBelow (x.ownsGranule c) x.granules 1 = some k := by
  have inside := ownsGranule_bounded k owned
  have grows : Nat.count (x.ownsGranule c ·) (k + 1) ≤ Nat.count (x.ownsGranule c ·) x.granules := Nat.count_monotone _ inside
  have next := Nat.count_succ (x.ownsGranule c ·) k
  rw [if_pos owned] at next
  rw [ownedIn_eq] at highest
  exact nthBelow_eq_some owned inside (by omega)

theorem nthBelow_none_owned (nothing : (x.ownedIn c 0 x.granules : Int) = 0) : nthBelow (x.ownsGranule c) x.granules 1 = none := by
  rw [ownedIn_eq, Nat.count_zero] at nothing
  exact nthBelow_eq_none (by omega)

end Sbank

/-- A compare writes all ones where its condition holds, and else zeros (R129). -/
theorem icmp_writes {s : State} {g : Guard} {o : FmtA} (runs : Runs s g) {c : Prop}
    (condition : intCond o.sub (intOperand o.ty.width o.u (s.getS o.s1)) (intOperand o.ty.width o.u (s.getS o.s2)) = true ↔ c) :
    (c → Completes (.icmp g o) s fun t => WroteP s t o.d Word.ones) ∧ (¬ c → Completes (.icmp g o) s fun t => WroteP s t o.d 0) := by
  refine ⟨fun holds => writesP_of_issue rfl runs ?_, fun fails => writesP_of_issue rfl runs ?_⟩
  · exact congrArg (fun b => s.writeP o.d (Word.mask b)) (condition.2 holds)
  · exact congrArg (fun b => s.writeP o.d (Word.mask b)) (Bool.eq_false_iff.2 fun h => fails (condition.1 h))

/-- The condition that MOD.SUB names (R129). -/
theorem intCond_iff {sub : BitVec 2} {x y : Int} {c : Prop}
    (h : (sub = 0 ∧ (c ↔ x = y)) ∨ (sub = 1 ∧ (c ↔ x ≠ y)) ∨ (sub = 2 ∧ (c ↔ x < y)) ∨ (sub = 3 ∧ (c ↔ y ≤ x))) :
    intCond sub x y = true ↔ c := by
  rcases h with ⟨rfl, h⟩ | ⟨rfl, h⟩ | ⟨rfl, h⟩ | ⟨rfl, h⟩ <;> simp [intCond, h]

theorem mul_two_pow_eq_shiftLeft (x : Word) (k : Nat) : x * BitVec.ofNat 64 (2 ^ k) = x <<< k := by
  rw [BitVec.shiftLeft_eq_mul_twoPow]
  congr 1
  apply BitVec.eq_of_toNat_eq
  simp

/-- Settles O5: each instruction is a write of P(D) or S(D), and what `sbank` finds upward and downward is counted by
`Machine.Tile.ownedIn`. -/
theorem predicateAndAddressResults : Obligations.PredicateAndAddressResults := by
  intro g o s runs p x y
  refine ⟨writesP_of_issue rfl runs rfl, writesP_of_issue rfl runs rfl, writesP_of_issue rfl runs rfl, writesP_of_issue rfl runs rfl,
    writesP_of_issue rfl runs rfl, writesP_of_issue rfl runs rfl, writesS_of_issue rfl runs rfl,
    fun c condition => icmp_writes runs (intCond_iff condition), writesS_of_issue rfl runs (congrArg (s.writeS o.d) ?lea), ?sbank⟩
  case lea => rw [mul_two_pow_eq_shiftLeft]
  case sbank =>
    intro limit banks owned count at' n place
    obtain ⟨t, does, wrote⟩ := writesS_of_issue (i := .sbank g o) rfl runs rfl
    refine ⟨t, does, _, wrote, ?zero, ?below, ?above⟩
    case zero => exact sbank_zero
    case below => exact fun pos => ⟨fun k below owned number => sbank_below pos below owned number, fun few => sbank_below_few pos few⟩
    case above =>
      refine fun neg => ⟨fun k above owned number => sbank_above neg above owned number, fun few => ?_⟩
      have beyond := sbank_above_few neg few
      refine ⟨fun k owned highest => ?_, fun nothing => ?_⟩
      · rw [nthBelow_highest owned highest] at beyond
        exact beyond
      · rw [nthBelow_none_owned nothing] at beyond
        exact beyond

end Sys2Proof

/-! Scalar float instructions (R132-R136). -/

namespace Sys2Proof

open Sys2Proof.Machine

/-- Settles O6: each instruction writes S(D) with the result that its operands have in the statement. -/
theorem scalarFloatResults : Obligations.ScalarFloatResults := by
  intro g o s runs a b c rounds codes
  have rounding : ∀ {i : Instr} {f : XReal → XReal → XReal}, exec i s = .next (s.issue g (·.floatOp o f)) → rounds i (f a b) :=
    fun e => writesS_of_issue e runs rfl
  have coding : ∀ {i : Instr} {f : Nat → Nat → Nat}, exec i s = .next (s.issue g (·.floatCode o f)) → codes i f :=
    fun e => writesS_of_issue e runs rfl
  refine ⟨rounding (f := fun a b => a.add b o.rm) rfl, rounding (f := fun a b => a.add b.negate o.rm) rfl, rounding (f := .mul) rfl,
    writesS_of_issue rfl runs rfl, rounding (f := .div) rfl, rounding (f := fun a _ => a.sqrt) rfl, coding rfl, coding rfl, coding rfl,
    writesS_of_issue rfl runs rfl, writesS_of_issue rfl runs rfl, fun src named => writesS_of_issue rfl runs ?fcvt⟩
  case fcvt => rw [named, Option.getD_some]

end Sys2Proof

/-! Happenings of issue (R111, R113, R114). -/

namespace Sys2Proof

open Sys2Proof.Machine

/-- What a change makes of the tile at hand is all that counts. -/
theorem modTile_congr {s : State} {k : TileId} {f f' : Tile → Tile} (h : f (s.tile k) = f' (s.tile k)) : s.modTile k f = s.modTile k f' :=
  congrArg (s.setTile k) h

section Dispatched

variable (c : Ctx) (j : Fin 16)

theorem Machine.Ctx.dispatch_run : (c.dispatch j).run = .running := rfl

theorem Machine.Ctx.dispatch_last : (c.dispatch j).last = BitVec.ofNat 4 j.val := rfl

/-- A pending task goes on at its resume index, another at its entry (R113). -/
theorem Machine.Ctx.dispatch_pc : (c.dispatch j).pc = if c.tasks[j].pend then c.tasks[j].resume else c.tasks[j].entry := by
  unfold Ctx.dispatch
  dsimp only
  split <;> rfl

end Dispatched

/-- A parked context that finds a task starts it (R113). -/
theorem dispatch_parked {x : Tile} {c : Fin 4} {j : Fin 16} (parked : x.ctxs[c].run = .parked)
    (found : x.ctxs[c].scanOrder.find? (x.taskReady c) = some j) : x.dispatch c = x.setCtx c (x.ctxs[c].dispatch j) := by
  rw [Tile.dispatch, if_pos parked, found]

/-- Settles O16: where what it waits for is due, each happening takes place, and DISPATCH is the dispatch of the task that the scan finds. -/
theorem issueHappenings : Obligations.IssueHappenings := by
  intro k c s x
  refine ⟨fun r n outstanding due => ?lands, fun busy due => ?integer, fun busy due => ?float, fun j runs going parked found => ?starts⟩
  case lands =>
    have lands : (x.ctxs[c].landing.any fun p => p.1 == r && decide (p.2 ≤ x.cycle.toNat)) = true :=
      List.any_eq_true.2 ⟨_, outstanding, by simp [due]⟩
    exact ⟨_, congrArg Host.Outcome.next (if_pos lands), rfl, ctxOnly_modCtx s k c _⟩
  case integer =>
    exact ⟨_, congrArg Host.Outcome.next (if_pos (by simpa using ⟨busy, due⟩)), rfl, tileOnly_modTile s k fun _ => rfl⟩
  case float =>
    exact ⟨_, congrArg Host.Outcome.next (if_pos (by simpa using ⟨busy, due⟩)), rfl, tileOnly_modTile s k fun _ => rfl⟩
  case starts =>
    have ready : (s.tileRuns k && !(s.tile k).stopping && (s.ctxAt k c).run == .parked &&
        ((s.ctxAt k c).scanOrder.find? ((s.tile k).taskReady c)).isSome) = true := by
      simp only [State.ctxAt]
      rw [runs, going, parked, found]
      rfl
    have starts : s.modTile k (·.dispatch c) = s.modCtx k c (·.dispatch j) := modTile_congr (dispatch_parked parked found)
    refine ⟨_, (congrArg Host.Outcome.next (if_pos ready)).trans (congrArg Host.Outcome.next starts), rfl,
      tileOnly_modTile s k fun _ => rfl, ?_⟩
    rw [State.ctxAt_modCtx_same]
    exact ⟨Ctx.dispatch_run _ _, Ctx.dispatch_last _ _, Ctx.dispatch_pc _ _⟩

end Sys2Proof

/-! A step of the machine (R108, R109, R384, R395). -/

namespace Sys2Proof

open Sys2Proof.Machine

/-- What the issue slot leaves of a state in which an instruction has completed: no request for a slot outlives the instruction, and the
next context has its turn (R108, R247). -/
def Machine.State.leavesSlot (x z : State) : State :=
  let w := if z.cur.slotReq = x.cur.slotReq then z.modCur fun d => { d with slotReq := none } else z
  w.modCurTile fun a => { a with k := w.ctx + 1 }

/-- What ends a cycle of a tile: halts, dispatch, the counter, and the die's clock (R108, R395). -/
def Machine.State.endsCycle (t : TileId) (u : State) : State :=
  let e := u.modTile t fun a => if a.awake then a.endCycle else a
  let now := (e.tile t).cycle.toNat
  ((List.finRange 4).foldl (fun u c => u.serveHalt t c now) e).modDie t.dieIx (·.tick ((e.tile t).born + now))

/-- The halt of STEP noted, unless the context has halted (R395). -/
def Machine.Ctx.notesStep (idx : BitVec 11) (c : Ctx) : Ctx :=
  match c.run with
  | .halted _ => c
  | _ => { c with stepDue := some idx }

/-- What an instruction leaves outstanding: its register and unit, and the halt of STEP (R111, R395). -/
def Machine.State.outstanding (x u : State) (i : Instr) : State :=
  let y := if ¬ (u.cur.trapped = true ∧ x.cur.trapped = false) ∧ x.cur.executes x.curWord = true then
    u.modCurTile (·.occupy u.ctx x.curWord (x.curTile.conflicts x.ctx i)) else u
  if x.cur.dbgStep = true ∧ y.cur.wait.unissued = false then y.modCur (·.notesStep x.cur.pc) else y

section Slot

variable {x u : State}

/-- What is left outstanding, on the conditions as the issue slot tests them. -/
theorem outstanding_eq (i : Instr) : x.outstanding u i =
    let y := if !(u.cur.trapped && !x.cur.trapped) && x.cur.executes x.curWord then
      u.modCurTile (·.occupy u.ctx x.curWord (x.curTile.conflicts x.ctx i)) else u
    if x.cur.dbgStep && !y.cur.wait.unissued then y.modCur (·.notesStep x.cur.pc) else y := by
  have occupies : ∀ entered was executes : Bool,
      ((!(entered && !was) && executes) = true) ↔ ¬ (entered = true ∧ was = false) ∧ executes = true := by decide
  have halts : ∀ step unissued : Bool, ((step && !unissued) = true) ↔ step = true ∧ unissued = false := by decide
  unfold State.outstanding
  simp only [occupies, halts]

theorem canIssue_running (running : x.cur.run = .running) (step : x.cur.stepDue = none) (halt : x.cur.haltDue = none)
    (waits : x.cur.wait = .none ∨ x.cur.wait.unissued = true ∧ x.cur.latePending = true) : x.cur.canIssue = true := by
  unfold Ctx.canIssue
  rcases waits with free | ⟨unissued, late⟩ <;> simp [*]

/-- The instruction that is fetched completes: the slot is left with what it leaves outstanding. -/
theorem tryIssue_instruction {i : Instr} (can : x.cur.canIssue = true) (idle : x.cur.busyUntil ≤ x.curTile.cycle.toNat) (fetched : x.fetch = i)
    (plain : i ≠ .lateTrap) (ready : x.ready i x.curWord = true) (executed : exec i x = .next u) (went : u.stalled = false)
    (awake : u.curTile.awake = true) : x.tryIssue exec = .inr (.next (x.leavesSlot (x.outstanding u i))) := by
  unfold State.tryIssue
  dsimp only
  have isPlain : (i != .lateTrap) = true := bne_iff_ne.2 plain
  rw [can, fetched, isPlain, ready, executed]
  simp only [went, awake, decide_eq_false (Nat.not_lt.2 idle)]
  rw [outstanding_eq]
  rfl

/-- A LATE that is taken leaves the slot with nothing outstanding. -/
theorem tryIssue_late (can : x.cur.canIssue = true) (idle : x.cur.busyUntil ≤ x.curTile.cycle.toNat) (late : x.cur.latePending = true)
    (executed : exec .lateTrap x = .next u) (went : u.stalled = false) (awake : u.curTile.awake = true) :
    x.tryIssue exec = .inr (.next (x.leavesSlot u)) := by
  have fetched : x.fetch = .lateTrap := if_pos late
  unfold State.tryIssue
  dsimp only
  rw [can, fetched, executed]
  simp only [went, awake, decide_eq_false (Nat.not_lt.2 idle)]
  rfl

end Slot

/-- A cycle of a tile in which the context that the counter names issues. -/
theorem step_issues {s : State} {t : TileId} (move : s.nextMove = .cycle t) (on : s.power ≠ .off) {w : State} :
    let v := { s with agenda := s.agenda.tail, stalled := false, here := t }
    v.tileRuns t = true → (v.tile t).stopping = false → { v with ctx := (v.tile t).k }.tryIssue exec = .inr (.next w) →
    step s = .next (w.endsCycle t).afterMove := by
  intro v runs going issued
  have cycles : v.tileCycle exec t = .next (w.endsCycle t) := by
    have slot : v.issueSlot exec [(v.tile t).k, (v.tile t).k + 1, (v.tile t).k + 2, (v.tile t).k + 3] = .next w := by
      rw [State.issueSlot, issued]
    unfold State.tileCycle
    dsimp only
    rw [if_neg (by rw [show State.tileRuns _ t = true from runs]; decide), if_neg (by rw [show Tile.stopping _ = false from going]; decide),
      show State.issueSlot exec _ _ = .next w from slot]
    rfl
  unfold step State.take
  rw [move]
  dsimp only
  rw [if_neg on]
  exact congrArg Result.settled cycles

theorem step_happening {s u : State} {i : Instr} {rest : List Move} (head : s.agenda = .happen i :: rest) (happening : issuedOnly i = false)
    (on : s.power ≠ .off ∨ i = .powerUp) (executed : exec i { s with agenda := rest, stalled := false } = .next u) : step s = .next u.afterMove := by
  have move : s.nextMove = .happen i := by rw [State.nextMove, head]
  have power : (decide (s.power = .off) && i != .powerUp) = false := by
    rcases on with on | rfl
    · simp [on]
    · simp
  rw [step, State.take, move]
  dsimp only
  rw [happening, power, head]
  show Result.settled (exec i { s with agenda := rest, stalled := false }) = _
  rw [executed, Result.settled]

/-- What follows a move changes nothing where no command waits and no bale has lost a node. -/
theorem afterMove_idle {u : State} (waiting : u.hub.waiting = []) (unrouted : u.hub.unrouted = []) : u.afterMove = u := by
  have same : { u with hub := { u.hub with unrouted := [] } } = u := by rw [← unrouted]
  rw [State.afterMove, waiting]
  dsimp only [List.foldl_nil]
  rw [unrouted, List.foldl_nil, same, State.settleVersion, waiting]
  rfl

/-- Settles O55: the slot of the context that the counter names issues, by `tryIssue_instruction` or `tryIssue_late`, and the cycle ends. -/
theorem stepRunsTheDecodedInstruction : Obligations.StepRunsTheDecodedInstruction := by
  refine ⟨fun s t i u move on => ?cycle, fun s u i rest head happening on executed => step_happening head happening on executed,
    fun u waiting unrouted => afterMove_idle waiting unrouted⟩
  case cycle =>
    intro v x closes runs going running step halt idle went awake
    have issues : ∀ {z : State}, x.tryIssue exec = .inr (.next (x.leavesSlot z)) → closes z := fun issued => step_issues move on runs going issued
    refine ⟨fun free ready noLate good decoded executed => issues ?_, fun waits late mask untrapped executed => issues ?_⟩
    · have fetched : x.fetch = i := by
        have undue : x.cur.latePending = false := noLate
        unfold State.fetch
        dsimp only
        rw [undue, good, decoded]
        rfl
      exact tryIssue_instruction (canIssue_running running step halt (.inl free)) idle fetched (decode_ne_lateTrap _ _ decoded) ready executed went awake
    · have pending : x.cur.latePending = true := by simp [Ctx.latePending, late, mask, untrapped]
      refine tryIssue_late (canIssue_running running step halt ?_) idle pending executed went awake
      rcases waits with free | ⟨d, h, bale | commit⟩
      · exact .inl free
      · exact .inr ⟨by rw [bale]; rfl, pending⟩
      · exact .inr ⟨by rw [commit]; rfl, pending⟩

end Sys2Proof

/-! Vector instructions (R139-R151). -/

namespace Sys2Proof

open Sys2Proof.Machine

/-- Bit j of a number that is put together from bits, the lowest first. -/
theorem testBit_foldr_bits (bit : Nat → Bool) (l : List Nat) (j : Nat) (h : j < l.length) :
    (l.foldr (fun i acc => (if bit i then 1 else 0) + 2 * acc) 0).testBit j = bit l[j] := by
  induction l generalizing j with
  | nil => exact absurd h (Nat.not_lt_zero j)
  | cons i rest ih =>
    have shift : ∀ n, ((if bit i then 1 else 0) + 2 * n) / 2 = n := fun n => by split <;> omega
    cases j with
    | zero => cases b : bit i <;> simp [b, Nat.testBit_zero]
    | succ j => rw [List.foldr_cons, Nat.testBit_succ, shift, ih j (Nat.lt_of_succ_lt_succ h), List.getElem_cons_succ]

/-- A vector instruction that writes P(D) completes with that. -/
theorem writesP_of_lanes {i : Instr} {s : State} {g : Guard} {f : Word → State → State} (he : exec i s = .next (s.issueLanes g f))
    (h : s.cur.pc ≠ 2047) {d : Reg} {v : Word} (hf : f (s.cur.laneMask g) s = s.writeP d v) : Completes i s fun t => WroteP s t d v := by
  refine ⟨_, he, ?_⟩
  rw [issueLanes_runs g h, hf]
  exact wroteP_writeP s d v

/-- A compare writes P(D), and there the bits of every byte of an active lane are the lane's condition (R146). -/
theorem vecCond_writes {i : Instr} {s : State} {g : Guard} {f : Word → State → State} (he : exec i s = .next (s.issueLanes g f))
    (h : s.cur.pc ≠ 2047) {o : FmtA} {cond : Nat → Bool} (hf : f (s.cur.laneMask g) s = s.vecCond o (s.cur.laneMask g) cond) :
    Completes i s fun t => (∃ v, WroteP s t o.d v) ∧ ∀ j, j < 64 → o.d.toNat % 8 ≠ 0 → (t.getP o.d).getLsbD j =
      if activeLane o.ty.width (s.cur.laneMask g) (8 * j / o.ty.width) then cond (8 * j / o.ty.width) else (s.getP o.d).getLsbD j := by
  obtain ⟨t, does, wrote⟩ := writesP_of_lanes he h hf
  refine ⟨t, does, ⟨_, wrote⟩, fun j inWord kept => ?_⟩
  rw [wrote.1, if_neg kept, BitVec.getLsbD_ofNat, testBit_foldr_bits _ _ _ (by simpa using inWord), List.getElem_range,
    decide_eq_true inWord, Bool.true_and]

/-- Settles O8: each compare is `State.vecCond` on the condition of its lanes. -/
theorem vectorComparesWriteLaneBits : Obligations.VectorComparesWriteLaneBits := by
  intro g o s going _ w x y sets
  exact ⟨vecCond_writes (cond := fun k => intCond o.sub (intOf w o.u (x k)) (intOf w o.u (y k))) rfl going rfl,
    vecCond_writes (cond := fun k => floatCond o.sub (floatOf o.ty (x k)) (floatOf o.ty (y k))) rfl going rfl⟩

/-- Settles O7: each instruction writes lanes, an integer one by `State.vecInt` or `State.vecBits` and a float one by `State.vecFloat`. -/
theorem vectorLanes : Obligations.VectorLanes := by
  refine ⟨?integers, ?floats⟩
  case integers =>
    intro g o s going w x y lanes fits
    have magnitude : fits (.vabs g o) false fun a _ => |a| :=
      writesLanes_of_lanes rfl going (congrArg (s.vecLanes o.d o.ty _)
        (funext fun k => congrArg (fit w false o.sat) (Int.abs_eq_natAbs (intOf w false (x k))).symm))
    exact ⟨writesLanes_of_lanes rfl going rfl, writesLanes_of_lanes rfl going rfl, writesLanes_of_lanes rfl going rfl,
      writesLanes_of_lanes rfl going rfl, writesLanes_of_lanes rfl going rfl, writesLanes_of_lanes rfl going rfl, magnitude,
      writesLanes_of_lanes rfl going rfl, writesLanes_of_lanes rfl going rfl, writesLanes_of_lanes rfl going rfl,
      writesLanes_of_lanes rfl going rfl, writesLanes_of_lanes rfl going rfl, writesLanes_of_lanes rfl going rfl⟩
  case floats =>
    intro g o s going w x y z lanes rounds
    have rounding : ∀ {i : Instr} {f : XReal → XReal → XReal}, exec i s = .next (s.issueLanes g fun m s => s.vecFloat o m f) →
        rounds i fun a b _ => f a b := fun e => writesLanes_of_lanes e going rfl
    exact ⟨rounding (f := fun a b => a.add b o.rm) rfl, rounding (f := fun a b => a.add b.negate o.rm) rfl, rounding (f := .mul) rfl,
      writesLanes_of_lanes rfl going rfl, writesLanes_of_lanes rfl going rfl, writesLanes_of_lanes rfl going rfl,
      writesLanes_of_lanes rfl going rfl, writesLanes_of_lanes rfl going rfl, rounding (f := fun a _ => (XReal.ofInt 1).div a) rfl,
      rounding (f := fun a _ => a.rsqrt) rfl, rounding (f := fun a _ => a.exp2) rfl, rounding (f := fun a _ => a.log2) rfl,
      writesLanes_of_lanes rfl going rfl⟩

section Extract

variable {g : Guard} {o : FmtA} {s : State} (going : s.cur.pc ≠ 2047)
include going

/-- `vext` of an active lane writes it, extended, to S(D) (R149). -/
theorem vext_active (inside : (s.getS o.s2).toNat < o.ty.lanes)
    (active : activeLane o.ty.width (s.cur.laneMask g) (s.getS o.s2).toNat = true) : Completes (.vext g o) s fun t =>
      WroteS s t o.d (resultWord o.ty o.u (laneOf (s.getV o.s1) o.ty.width (s.getS o.s2).toNat)) :=
  writesS_of_lanes rfl going (if_pos (by rw [active, decide_eq_true inside]; rfl))

/-- `vext` of a lane that does not exist or is not active writes nothing (R149). -/
theorem vext_inactive (unavailable : o.ty.lanes ≤ (s.getS o.s2).toNat ∨ activeLane o.ty.width (s.cur.laneMask g) (s.getS o.s2).toNat = false) :
    Completes (.vext g o) s fun t => Retired s t := by
  have unselected : ¬ (decide ((s.getS o.s2).toNat < o.ty.lanes) && activeLane o.ty.width (s.cur.laneMask g) (s.getS o.s2).toNat) = true := by
    rcases unavailable with outside | inactive
    · simp [Nat.not_lt.2 outside]
    · simp [inactive]
  refine ⟨_, rfl, ?_⟩
  rw [issueLanes_runs g going, if_neg unselected]
  exact retired_retire s

end Extract

/-- Settles O9: moves and conversions are each a `State.vecLanes`, and a reduction is a write of S(D) whose value the kind of the element
type chooses. -/
theorem vectorMovesConversionsAndReductions : Obligations.VectorMovesConversionsAndReductions := by
  refine ⟨?moves, ?conversions, ?reductions⟩
  case moves =>
    intro g o s going w l m x y old n j lanes
    refine ⟨writesLanes_of_lanes rfl going rfl, writesLanes_of_lanes rfl going rfl, writesLanes_of_lanes rfl going rfl,
      writesLanes_of_lanes rfl going rfl, writesLanes_of_lanes rfl going (congrArg (s.vecLanes o.d o.ty m) ?zip),
      writesLanes_of_lanes rfl going rfl, writesLanes_of_lanes rfl going rfl,
      writesLanes_of_lanes rfl going (congrArg (s.vecLanes o.d o.ty Word.ones) ?compress), writesLanes_of_lanes rfl going rfl,
      writesLanes_of_lanes rfl going rfl, vext_active going, vext_inactive going⟩
    case zip => exact funext fun k => (ite_apply _ _ _ _).symm
    case compress =>
      funext k
      cases (activeLanes o.ty m)[k]? <;> rfl
  case conversions =>
    intro g o s src going named
    obtain rfl : o.srcTy.getD .fp32 = src := by rw [named]; rfl
    exact writesLanes_of_lanes rfl going rfl
  case reductions =>
    intro g o s going w m x y act gives int
    have values : (s.activeValues o m).map (intOf w o.u) = act.map fun k => intOf w o.u (x k) := List.map_map
    refine ⟨?sum, fun integer => ⟨?max, ?min, ?dot⟩, fun float => ⟨?floatMax, ?floatMin, ?floatDot⟩, writesS_of_lanes rfl going rfl⟩
    case sum => exact writesS_of_lanes rfl going (congrArg (s.reduceInt o) (by rw [values, List.sum_eq_foldl]))
    case max =>
      exact writesS_of_lanes rfl going ((if_pos integer).trans (congrArg (fun v => s.reduceInt o (v.foldl max (intMin w o.u))) values))
    case min =>
      exact writesS_of_lanes rfl going ((if_pos integer).trans (congrArg (fun v => s.reduceInt o (v.foldl min (intMax w o.u))) values))
    case dot => exact writesS_of_lanes rfl going ((if_pos integer).trans (congrArg (s.reduceInt o) List.sum_eq_foldl.symm))
    case floatMax => exact writesS_of_lanes rfl going (if_neg (by simp [float]))
    case floatMin => exact writesS_of_lanes rfl going (if_neg (by simp [float]))
    case floatDot => exact writesS_of_lanes rfl going (if_neg (by simp [float]))

end Sys2Proof

/-! Scratch (R155-R164). -/

namespace Sys2Proof

open Sys2Proof.Machine

section Loads

/-- Numbers put together at a width that holds each of them are the elements of a vector. -/
theorem ofNat_foldr_eq_vecOf {w : Nat} (l : List Nat) (small : ∀ v ∈ l, v < 2 ^ w) :
    BitVec.ofNat 512 (l.foldr (fun v acc => v + 2 ^ w * acc) 0) = vecOf w l.length fun k => l.getD k 0 := by
  have elements : (List.range l.length).map (fun k => l.getD k 0 % 2 ^ w) = l :=
    List.ext_getElem (by simp) fun k _ inside => by simp [inside, Nat.mod_eq_of_lt (small _ (List.getElem_mem inside))]
  conv_lhs => rw [← elements, List.foldr_map]
  rfl

/-- Element k of a vector put together from the values of a list's members, the lowest first. -/
theorem laneOf_foldr_values {α : Type} {w : Nat} {value : α → Nat} (small : ∀ a, value a < 2 ^ w) {l : List α}
    (fits : w * l.length ≤ 512) {k : Nat} {a : α} (member : l[k]? = some a) :
    laneOf (BitVec.ofNat 512 (l.foldr (fun a acc => value a + 2 ^ w * acc) 0)) w k = value a := by
  obtain ⟨inside, rfl⟩ := List.getElem?_eq_some_iff.1 member
  rw [← List.foldr_map (f := value) (g := fun v acc => v + 2 ^ w * acc), ofNat_foldr_eq_vecOf _ (by simpa using fun a _ => small a),
    laneOf_vecOf w _ (by simpa using fits) _ k (by simpa using inside)]
  simp [inside, Nat.mod_eq_of_lt (small _)]

/-- The elements of a scratch access fill one register at most (R162). -/
theorem elements_fit (c : Ctx) (f : ScratchForm) (o : FmtM) : 8 * f.size o * (c.elements f o).length ≤ 512 := by
  have vector : 8 * tyBytes o.ty * (64 / tyBytes o.ty) ≤ 512 := by
    have := Nat.mul_div_le 64 (tyBytes o.ty)
    rw [Nat.mul_assoc]
    omega
  cases f with
  | scalar => show 8 * tyBytes o.ty * 1 ≤ 512; cases o.ty <;> decide
  | whole => exact Nat.le_refl _
  | gather | stride => simpa [ScratchForm.size, Ctx.elements] using vector

variable {s : State} {g : Guard} {o : FmtM}

/-- A vector load that passes its checks writes V(D), and there lane k holds element k (R162, R163). -/
theorem vectorLoad_reads {i : Instr} {f : ScratchForm}
    (e : exec i s = .next (s.issue g (·.scratchLoad f o fun v s => s.writeV o.d (BitVec.ofNat 512 v)))) (runs : Runs s g)
    (acquired : s.cur.acqPending = false)
    (pass : ∀ a ∈ s.cur.elements f o, a % f.align o = 0 ∧ s.curTile.owned s.ctx a (f.size o) = true ∧
      s.curTile.scratchPoison s.ctx a (f.size o) = false) :
    Completes i s fun t => WroteV s t o.d (t.getV o.d) ∧ ∀ k a, (s.cur.elements f o)[k]? = some a →
      laneOf (t.getV o.d) (8 * f.size o) k = s.curTile.scratchRead s.ctx a (f.size o) := by
  refine ⟨_, e, ?_⟩
  rw [issue_runs runs, scratchLoad_reads _ acquired pass]
  have wrote := wroteV_writeV s o.d (BitVec.ofNat 512 ((s.cur.elements f o).foldr
    (fun a acc => s.curTile.scratchRead s.ctx a (f.size o) + 2 ^ (8 * f.size o) * acc) 0))
  refine ⟨by rw [wrote.1]; exact wrote, fun k a element => ?_⟩
  rw [wrote.1]
  exact laneOf_foldr_values (fun a => scratchRead_lt s.curTile s.ctx a _) (elements_fit s.cur f o) element

/-- `ld` that passes its checks writes S(D) with its one element, extended (R162, R163). -/
theorem ld_reads (runs : Runs s g) (acquired : s.cur.acqPending = false)
    (pass : ∀ a ∈ s.cur.elements .scalar o, a % tyBytes o.ty = 0 ∧ s.curTile.owned s.ctx a (tyBytes o.ty) = true ∧
      s.curTile.scratchPoison s.ctx a (tyBytes o.ty) = false) :
    Completes (.ld g o) s fun t => WroteS s t o.d
      (extendTo o.ty.width (o.sub == 1) (s.curTile.scratchRead s.ctx (s.cur.indexedAddr o).toNat (tyBytes o.ty))) :=
  writesS_of_issue rfl runs (scratchLoad_reads _ acquired pass)

end Loads

/-- Settles O13: no check fails, so each load hands its elements, lowest first, to its register write. -/
theorem scratchLoadsRead : Obligations.ScratchLoadsRead := by
  intro g o s runs _ _ acquired x loads
  exact ⟨ld_reads runs acquired, vectorLoad_reads rfl runs acquired, vectorLoad_reads rfl runs acquired, vectorLoad_reads rfl runs acquired⟩

section Stores

/-- What is done for each index of a list in turn is done for each member with its index. -/
theorem flatMap_range_eq_zipIdx {α β : Type} {l : List α} {body : Nat → List β} {f : α × Nat → List β}
    (same : ∀ p ∈ l.zipIdx, body p.2 = f p) : (List.range l.length).flatMap body = l.zipIdx.flatMap f := by
  have indices : l.zipIdx.map Prod.snd = List.range l.length := by rw [List.zipIdx_map_snd, List.range_eq_range']
  rw [← indices, List.flatMap_map]
  exact List.flatMap_congr same

variable {s : State} {g : Guard} {o : FmtM} {i : Instr} {f : ScratchForm}

/-- A scratch store that passes its checks enters the context's queue (R159, R163). -/
theorem scratchStore_queues (data : State → Vec) {v : Nat} (e : exec i s = .next (s.issue g fun s => s.scratchStore f o (data s)))
    (holds : (data s).toNat = v) (runs : Runs s g) (acquired : s.cur.acqPending = false)
    (pass : ∀ a ∈ s.cur.elements f o, a % f.align o = 0 ∧ s.curTile.owned s.ctx a (f.size o) = true)
    (released : o.ord.getLsbD 1 = true → s.cur.psf = none ∧ s.cur.performed .tile = true) (room : s.cur.stq.length < 8) :
    Completes i s fun t =>
      t.cur = { s.cur with pc := s.cur.pc + 1, retired := s.cur.retired + 1, stq := s.cur.stq ++
        [(s.cur.elements f o).zipIdx.flatMap fun p =>
          s.curTile.scratchCells p.1 (f.size o) (v / 2 ^ (8 * f.size o * p.2) % 2 ^ (8 * f.size o))] } ∧ OnlyContext s t := by
  subst holds
  refine ⟨_, e, ?_⟩
  rw [issue_runs runs, State.scratchStore, takesFault_run fun release => (released release).1]
  dsimp only
  rw [scratchCheck_none pass]
  dsimp only
  rw [awaits_run fun release => (released release).2, afterAcquire_run _ acquired, if_neg (Nat.not_le.2 room),
    flatMap_range_eq_zipIdx fun p member => by rw [List.mem_zipIdx_iff_getElem?.1 member]]
  exact ⟨State.cur_modCur _ _, onlyContext_modCur _ _⟩

end Stores

section Checks

variable {s : State} {f : ScratchForm} {o : FmtM} {k a : Nat} {cause : BitVec 8}

/-- Element k, at address a, is the lowest that fails a check of a scratch access, and the check raises the cause (R163). -/
def Machine.State.failsAt (s : State) (f : ScratchForm) (o : FmtM) (k a : Nat) (cause : BitVec 8) : Prop :=
  s.curTile.scratchCheck s.ctx (f.size o) (f.align o) 0 (s.cur.elements f o) = some (k, a, cause)

/-- A scratch load traps on the lowest failing element, and loads nothing. -/
theorem scratchLoad_traps {put : Nat → State → State} (untrapped : s.cur.trapped = false) (fails : s.failsAt f o k a cause) :
    Trapped s (s.scratchLoad f o put) cause (BitVec.ofNat 64 a) (BitVec.ofNat 64 k) := by
  rw [State.scratchLoad, fails]
  exact trapped_trap untrapped _ _ _

/-- A scratch store that takes no store fault traps on the lowest failing element, and stores nothing. -/
theorem scratchStore_traps {data : Vec} (untrapped : s.cur.trapped = false) (released : o.ord.getLsbD 1 = true → s.cur.psf = none)
    (fails : s.failsAt f o k a cause) : Trapped s (s.scratchStore f o data) cause (BitVec.ofNat 64 a) (BitVec.ofNat 64 k) := by
  rw [State.scratchStore, takesFault_run released]
  dsimp only
  rw [fails]
  exact trapped_trap untrapped _ _ _

/-- A scratch access whose lowest failing element is element k traps on it: on its alignment first, else on its banks (R163). -/
theorem scratchAccess_traps {i : Instr} {g : Guard} {effect : State → State} (e : exec i s = .next (s.issue g effect)) (runs : Runs s g)
    (traps : ∀ {cause}, s.failsAt f o k a cause → Trapped s (effect s) cause (BitVec.ofNat 64 a) (BitVec.ofNat 64 k))
    (element : (s.cur.elements f o)[k]? = some a)
    (before : ∀ j < k, ∀ b, (s.cur.elements f o)[j]? = some b → b % f.align o = 0 ∧ s.curTile.owned s.ctx b (f.size o) = true) :
    (a % f.align o ≠ 0 → Completes i s fun t => Trapped s t Cause.align (BitVec.ofNat 64 a) (BitVec.ofNat 64 k)) ∧
    (a % f.align o = 0 → s.curTile.owned s.ctx a (f.size o) = false → Completes i s fun t =>
      Trapped s t Cause.scratch (BitVec.ofNat 64 a) (BitVec.ofNat 64 k)) := by
  have lowest : ∀ {cause}, (a % f.align o ≠ 0 ∧ cause = Cause.align) ∨
      (a % f.align o = 0 ∧ s.curTile.owned s.ctx a (f.size o) = false ∧ cause = Cause.scratch) → s.failsAt f o k a cause := by
    intro cause failing
    rw [State.failsAt, scratchCheck_some element before failing, Nat.zero_add]
  have completes : exec i s = .next (effect s) := e.trans (congrArg _ (issue_runs runs _))
  exact ⟨fun misaligned => ⟨_, completes, traps (lowest (.inl ⟨misaligned, rfl⟩))⟩,
    fun aligned unowned => ⟨_, completes, traps (lowest (.inr ⟨aligned, unowned, rfl⟩))⟩⟩

end Checks

/-- Settles O14: a store whose checks pass only queues its cells, and a load or store that fails one only traps. -/
theorem scratchStoresQueueAndChecksTrap : Obligations.ScratchStoresQueueAndChecksTrap := by
  refine ⟨?stores, ?traps⟩
  case stores =>
    intro g o s runs acquired x stores
    have scalar : ((s.getS o.d).zeroExtend 512).toNat = (s.getS o.d).toNat := BitVec.toNat_setWidth_of_le (by decide)
    exact ⟨scratchStore_queues (fun s => (s.getS o.d).zeroExtend 512) rfl scalar runs acquired,
      scratchStore_queues (·.getV o.d) rfl rfl runs acquired, scratchStore_queues (·.getV o.d) rfl rfl runs acquired,
      scratchStore_queues (·.getV o.d) rfl rfl runs acquired⟩
  case traps =>
    intro g o s k a runs untrapped x traps
    have load : ∀ {i : Instr} {f : ScratchForm} {put : Nat → State → State},
        exec i s = .next (s.issue g (·.scratchLoad f o put)) → traps i f :=
      fun e element before _ => scratchAccess_traps e runs (scratchLoad_traps untrapped) element before
    have store : ∀ {i : Instr} {f : ScratchForm} (data : State → Vec),
        exec i s = .next (s.issue g fun s => s.scratchStore f o (data s)) → traps i f :=
      fun _ e element before released => scratchAccess_traps e runs (scratchStore_traps untrapped released) element before
    exact ⟨load rfl, store (fun s => (s.getS o.d).zeroExtend 512) rfl, load rfl, store (·.getV o.d) rfl,
      load rfl, store (·.getV o.d) rfl, load rfl, store (·.getV o.d) rfl⟩

section Performs

variable (x : Tile) (c : Fin 4) (st : ScratchStore) (rest : List ScratchStore)

theorem performStore_scratch : (x.performStore c st rest).scratch = x.scratch.writeCells st := rfl

theorem performStore_ctx : ∃ l, (x.performStore c st rest).ctxs[c] = { x.ctxs[c] with stq := rest, covered := l } :=
  ⟨_, Tile.setCtx_same _ _ _⟩

theorem performStore_otherCtx {j : Fin 4} (other : j ≠ c) : (x.performStore c st rest).ctxs[j] = x.ctxs[j] :=
  Tile.setCtx_other _ other _

/-- A word with an uncorrectable error after a store had it before, and the store leaves one of its bytes out (R161). -/
theorem mem_performStore_scratchBad {w : Nat} (bad : w ∈ (x.performStore c st rest).scratchBad) :
    w ∈ x.scratchBad ∧ ∃ j < 8, lookupKey (8 * w + j) st = none := by
  obtain ⟨before, uncovered⟩ := List.mem_filter.1 bad
  have missed : coversWord w _ = false := Bool.not_eq_true' _ ▸ uncovered
  obtain ⟨j, inside, missing⟩ := List.all_eq_false.1 missed
  simp only [Bool.or_eq_true, not_or, Option.not_isSome_iff_eq_none] at missing
  exact ⟨before, j, List.mem_range.1 inside, missing.1⟩

end Performs

/-- Settles O15: the happening is `Tile.performStore` on one tile, which writes the store's cells and takes it from the queue. -/
theorem queuedStorePerforms : Obligations.QueuedStorePerforms := by
  intro k c s st rest queue wf
  have performs : exec (.storeQueuePerform k c) s = .next (s.modTile k fun x => x.performStore c st rest) := by
    show execStoreQueuePerform k c s = _
    rw [execStoreQueuePerform, queue]
  refine ⟨_, performs, rfl, fun a => ?bytes, ?queue, fun w => ?errors, fun j other => ?contexts,
    fun j other => State.tile_modTile_other s other _, rfl⟩
  case bytes => rw [State.tile_modTile_same, performStore_scratch, Memory.read_writeCells _ wf]
  case queue =>
    rw [State.ctxAt, State.tile_modTile_same]
    exact performStore_ctx (s.tile k) c st rest
  case errors =>
    rw [State.tile_modTile_same]
    exact mem_performStore_scratchBad (s.tile k) c st rest
  case contexts =>
    rw [State.ctxAt, State.tile_modTile_same]
    exact performStore_otherCtx (s.tile k) c st rest other

end Sys2Proof

/-! Channel instructions (R195-R200). -/

namespace Sys2Proof

open Sys2Proof.Machine

section ChannelInstructions

variable {s : State} {g : Guard} {o : FmtQ}

/-- An instruction that runs completes with its effect. -/
theorem completes_of_issue {i : Instr} {f : State → State} {r : State → Prop} (e : exec i s = .next (s.issue g f)) (runs : Runs s g)
    (effect : r (f s)) : Completes i s r :=
  ⟨_, e, by rwa [issue_runs runs]⟩

/-- A trap of a channel instruction: nothing is taken or sent (R381). -/
theorem trapped_trapChan (untrapped : s.cur.trapped = false) (info : Nat) :
    Trapped s (s.trapChan info) Cause.chan 0 (BitVec.ofNat 64 info) :=
  trapped_trap untrapped _ _ _

section Sends

/-- A send for which the channel has room writes its entries and retires (R197, R200). -/
theorem send_completes {i : Instr} {vector : Bool} {es : State → Nat → List (BitVec 256 × BitVec 4)} {room b cap : Nat}
    (e : exec i s = .next (s.issue g fun s => s.sendOp o vector (es s))) (runs : Runs s g) (direct : s.cur.viaHeld o.port = false)
    (port : s.writePort s.here s.ctx o.port = some (room, b, cap)) (forward : s.curTile.forwardPort s.ctx o.port = false)
    (seam : s.seamed o.port = false) (drain : s.curTile.drainPort s.ctx o.port = false)
    (released : o.ord.getLsbD 1 = true → s.cur.psf = none ∧ s.cur.performed o.sco = true)
    (fits : vector = true → 64 / b ≤ cap) (space : (es s b).length ≤ room) :
    Completes i s fun t => t = (s.putPort s.here s.ctx o.port (es s b)).retire ∧ MemorySame s t := by
  refine completes_of_issue e runs ?_
  rw [sendOp_sends direct port forward seam drain released fits space]
  exact ⟨rfl, (memorySame_putPort s _ _ _ _).trans (retired_retire _).2.2⟩

variable {vector : Bool} {es : Nat → List (BitVec 256 × BitVec 4)} (released : o.ord.getLsbD 1 = true → s.cur.psf = none)
include released

/-- A port that no send accepts (R196). -/
theorem sendOp_refused (port : s.writePort s.here s.ctx o.port = none) : s.sendOp o vector es = s.trapChan o.port.toNat := by
  rw [State.sendOp, takesFault_run released, port]

/-- A vector that the port's channel can never hold (R196). -/
theorem sendOp_narrow {room b cap : Nat} (port : s.writePort s.here s.ctx o.port = some (room, b, cap)) (narrow : cap < 64 / b) :
    s.sendOp o true es = s.trapChan o.port.toNat := by
  rw [State.sendOp, takesFault_run released, port]
  exact if_pos (by simpa using narrow)

end Sends

section Receives

variable {vector any : Bool} {put : List Entry → Nat → State → State}

/-- A port that no receive accepts (R196). -/
theorem recvOp_refused (port : s.curTile.readPort s.ctx o.port = none) : s.recvOp o vector any put = s.trapChan o.port.toNat := by
  rw [State.recvOp, port]

variable {q : List Entry} {b cap : Nat} (port : s.curTile.readPort s.ctx o.port = some (q, b, cap))
include port

/-- A vector that the port's channel can never hold (R196). -/
theorem recvOp_narrow (narrow : cap < 64 / b) : s.recvOp o true any put = s.trapChan o.port.toNat := by
  rw [State.recvOp, port]
  exact if_pos (by simpa using narrow)

variable (direct : s.cur.viaHeld o.port = false) (operand : s.curTile.operandPort s.ctx o.port = false)
include direct operand

/-- A head that `recv` may not take is answered by its trap (R199). -/
theorem recvOp_bad {e : Entry} {rest : List Entry} {t : State} (head : q = e :: rest) (bad : s.badEntry o.port [e] = some t) :
    s.recvOp o false false put = t := by
  subst head
  simp [State.recvOp, port, direct, operand, bad]

/-- A head of a kind that the receive takes is taken, and its word is written (R199). -/
theorem receive_completes {i : Instr} (does : exec i s = .next (s.issue g (·.recvOp o false any fun es _ s => s.writeS o.d (headWord es))))
    (runs : Runs s g) {e : Entry} {rest : List Entry} (head : q = e :: rest) (kind : any = false → e.kind = 0) :
    Completes i s fun t => t = (s.takePort s.here s.ctx o.port 1).writeS o.d (e.word.truncate 64) ∧ MemorySame s t := by
  subst head
  refine completes_of_issue does runs ?_
  rw [recvOp_takes direct port operand (by simp) (by simp) (by simpa using kind)]
  exact ⟨rfl, (memorySame_takePort s _ _ _ _).trans (wroteS_writeS _ _ _).2.2.2.2⟩

/-- `vrecv` takes a vector's worth of DATA entries, and their words are written (R199). -/
theorem vrecv_completes (runs : Runs s g) (fits : 64 / b ≤ cap) (enough : 64 / b ≤ q.length) (data : ∀ e ∈ q.take (64 / b), e.kind = 0) :
    Completes (.vrecv g o) s fun t =>
      t = (s.takePort s.here s.ctx o.port (64 / b)).writeV o.d (joinWords b (q.take (64 / b))) ∧ MemorySame s t := by
  refine completes_of_issue rfl runs ?_
  rw [recvOp_takes (vec := true) direct port operand (fun _ => fits) enough fun _ => data]
  exact ⟨rfl, (memorySame_takePort s _ _ _ _).trans (wroteV_writeV _ _ _).2.2.2.2⟩

/-- `tpeek` answers the kind of the head, which stays (R199). -/
theorem tpeek_completes (runs : Runs s g) {e : Entry} {rest : List Entry} (head : q = e :: rest) :
    Completes (.tpeek g o) s fun t => WroteS s t o.d (e.kind.zeroExtend 64) := by
  subst head
  exact writesS_of_issue rfl runs (by simp [port, direct, operand])

end Receives

theorem badEntry_err {k : BitVec 4} {e : Entry} {rest : List Entry} (err : e.kind = Kind.err) :
    s.badEntry k (e :: rest) = some (s.trap Cause.poison (e.word.truncate 64)) := if_pos err

theorem badEntry_token {k : BitVec 4} {e : Entry} {rest : List Entry} (noData : e.kind ≠ Kind.data) (noErr : e.kind ≠ Kind.err) :
    s.badEntry k (e :: rest) = some (s.trapChan e.kind.toNat) := (if_neg noErr).trans (if_pos noData)

section Checks

/-- A port that `chk` answers from no queue: it is closed, or an output. -/
theorem readPort_closed (closed : s.cur.port o.port = .closed) : s.curTile.readPort s.ctx o.port = none := by
  have port : (s.curTile.ctxs[s.ctx]).port o.port = .closed := closed
  rw [Tile.readPort, port]

theorem readPort_output {e : Nat} (output : s.cur.port o.port = .output e) : s.curTile.readPort s.ctx o.port = none := by
  have port : (s.curTile.ctxs[s.ctx]).port o.port = .output e := output
  rw [Tile.readPort, port]

variable (runs : Runs s g) (direct : s.cur.viaHeld o.port = false)
include runs direct

/-- `chk` of a port with a queue asks whether an entry of its kind stands there (R200). -/
theorem chk_queue {q : List Entry} {b cap : Nat} (port : s.curTile.readPort s.ctx o.port = some (q, b, cap)) :
    Completes (.chk g o) s fun t => WroteP s t o.d (Word.mask (q.any fun e => e.kind == o.tok)) :=
  writesP_of_issue rfl runs (by simp [port, direct])

/-- `chk` of a closed port answers zero (R200). -/
theorem chk_closed (closed : s.cur.port o.port = .closed) : Completes (.chk g o) s fun t => WroteP s t o.d 0 :=
  writesP_of_issue rfl runs (by simp [readPort_closed closed, closed, direct])

variable (unread : s.curTile.readPort s.ctx o.port = none) (opened : s.cur.port o.port ≠ .closed)
include unread opened

/-- `chk` for DATA of a port that is written asks whether it has room (R200). -/
theorem chk_room {room b cap : Nat} (data : o.tok = 0) (port : s.writePort s.here s.ctx o.port = some (room, b, cap)) :
    Completes (.chk g o) s fun t => WroteP s t o.d (Word.mask (decide (0 < room))) :=
  writesP_of_issue rfl runs (by simp [unread, direct, data, port])

/-- `chk` for a token of a port that is written traps (R200). -/
theorem chk_token (untrapped : s.cur.trapped = false) (token : o.tok ≠ 0) :
    Completes (.chk g o) s fun t => Trapped s t Cause.chan 0 (BitVec.ofNat 64 o.port.toNat) := by
  refine completes_of_issue rfl runs ?_
  simp only [unread, direct, token, not_false_eq_true, ne_eq, Bool.false_eq_true, if_false, if_true]
  exact trapped_trapChan untrapped _

end Checks

end ChannelInstructions

/-- Settles O23: each instruction is `State.sendOp`, `State.recvOp` or its own short text, and each clause names one way through it. -/
theorem channelInstructions : Obligations.ChannelInstructions := by
  refine ⟨fun g o s runs direct => ⟨?sends, ?receives, ?queue, ?closed, ?room⟩, fun g o s runs untrapped direct => ?traps⟩
  case sends =>
    intro room b cap port forward seam drain released sends
    have sent : ∀ {i : Instr} {vector : Bool} (es : State → Nat → List (BitVec 256 × BitVec 4)),
        exec i s = .next (s.issue g fun s => s.sendOp o vector (es s)) → (vector = true → 64 / b ≤ cap) → sends i (es s b) :=
      fun _ e fits space => send_completes e runs direct port forward seam drain released fits space
    exact ⟨sent (fun s _ => [((s.getS o.s1).zeroExtend 256, 0)]) rfl (by simp),
      sent (fun s _ => [((s.getS o.s1).zeroExtend 256, o.tok)]) rfl (by simp),
      fun fits => sent (fun s b => (List.range (64 / b)).map fun j => (BitVec.ofNat 256 (field (s.getV o.s1) (8 * b * j) (8 * b)), 0))
        rfl fun _ => fits⟩
  case receives =>
    intro q b cap port operand
    refine ⟨fun e rest head => ?_, fun fits enough data => vrecv_completes port direct operand runs fits enough data⟩
    exact ⟨receive_completes port direct operand rfl runs head (by simp),
      fun data => receive_completes port direct operand rfl runs head fun _ => data, tpeek_completes port direct operand runs head⟩
  case queue => exact fun q b cap port => chk_queue runs direct port
  case closed => exact fun closed => chk_closed runs direct closed
  case room => exact fun room b cap unread opened data port => chk_room runs direct unread opened data port
  case traps =>
    intro chan port
    have traps : ∀ {i : Instr} {f : State → State} {info : Nat}, exec i s = .next (s.issue g f) → f s = s.trapChan info → chan i info :=
      fun e f => completes_of_issue e runs (f ▸ trapped_trapChan untrapped _)
    refine ⟨fun released => ⟨fun refused => ?_, fun room b cap port narrow => traps rfl (sendOp_narrow released port narrow)⟩,
      fun refused => ?_, fun q b cap port => ⟨fun narrow => traps rfl (recvOp_narrow port narrow), fun operand e rest head => ⟨fun err => ?_,
        fun noData noErr => traps rfl (recvOp_bad port direct operand head (badEntry_token noData noErr))⟩⟩, fun e output token => ?_⟩
    · exact ⟨traps rfl (sendOp_refused released refused), traps rfl (sendOp_refused released refused),
        traps rfl (sendOp_refused released refused)⟩
    · exact ⟨traps rfl (recvOp_refused refused), traps rfl (recvOp_refused refused), traps rfl (recvOp_refused refused),
        traps rfl (by simp only [refused]; rfl)⟩
    · refine completes_of_issue rfl runs ?_
      rw [recvOp_bad port direct operand head (badEntry_err err)]
      exact trapped_trap untrapped _ _ _
    · exact chk_token runs direct (readPort_output output) (by simp [output]) untrapped token

end Sys2Proof

/-! Channels: entries and credits arrive, and typed joins convert (R170-R179, R347). -/

namespace Sys2Proof

open Sys2Proof.Machine

namespace Machine

@[simp] theorem Tile.sink_modSink_same (x : Tile) (k : Nat) (f : Sink → Sink) : (x.modSink k f).sink k = f (x.sink k) := by
  simp [Tile.sink, Tile.modSink]

@[simp] theorem Tile.cfg_modSink (x : Tile) (k : Nat) (f : Sink → Sink) : (x.modSink k f).cfg = x.cfg := rfl

/-- An entry that the sink collects in no CFG group and holds as no SEAM joins the queue (R174, R176). -/
theorem Sink.accept_joins {k : Nat} {e : Entry} (y : Sink) (plain : (e.kind ≠ Kind.cfg ∧ e.kind ≠ Kind.seam) ∨ 32 ≤ k) :
    y.accept (decide (k < 32)) e = { y with queue := y.queue ++ [e] } := by
  obtain ⟨noCfg, noSeam⟩ | inner := plain
  · simp [Sink.accept, noCfg, noSeam]
  · simp [Sink.accept, Nat.not_lt.2 inner]

/-- Only a CFG entry at a port finds a CFG group in its way (R176). -/
theorem Tile.cfgFull_plain {k : Nat} {e : Entry} (x : Tile) (plain : (e.kind ≠ Kind.cfg ∧ e.kind ≠ Kind.seam) ∨ 32 ≤ k) :
    x.cfgFull k e = false := by
  obtain ⟨noCfg, _⟩ | inner := plain
  · simp [Tile.cfgFull, noCfg]
  · simp [Tile.cfgFull, Nat.not_lt.2 inner]

section Groups

variable {s : State} {t : TileId} {k : Nat} {e : Entry} {effect : State → State}

/-- Where no CFG group is begun, an entry has its effect (R176). -/
theorem State.afterGroup_empty (empty : ((s.tile t).sink k).cfg = []) : s.afterGroup t k e effect = effect s := by
  simp [State.afterGroup, empty]

/-- An entry of another kind that interrupts a CFG group at a port is a load fault with the frame's header (R176). -/
theorem State.afterGroup_interrupts (port : k < 32) {f : Entry} {rest : List Entry} (begun : ((s.tile t).sink k).cfg = f :: rest)
    (short : ((s.tile t).sink k).cfg.length < (s.tile t).cfg.cfgGroup k) (other : e.kind ≠ Kind.cfg) :
    s.afterGroup t k e effect = s.loadFault t ((f.word.truncate 32).zeroExtend 64) := by
  simp [State.afterGroup, port, begun, other, by simpa [begun] using short]

/-- An entry delivered where no CFG group is begun joins the queue (R172). -/
theorem State.deliver_joins (empty : ((s.tile t).sink k).cfg = []) (plain : (e.kind ≠ Kind.cfg ∧ e.kind ≠ Kind.seam) ∨ 32 ≤ k) :
    s.deliver t k e = s.modTile t (·.modSink k fun y => { y with queue := y.queue ++ [e] }) := by
  have taken : ¬ (k < 32 && (e.kind = Kind.cfg || e.kind = Kind.seam) && e.origin = .channel) = true := by
    obtain ⟨noCfg, noSeam⟩ | inner := plain
    · simp [noCfg, noSeam]
    · simp [Nat.not_lt.2 inner]
  rw [State.deliver, State.afterGroup_empty empty]
  dsimp only
  rw [if_neg taken]
  exact congrArg (fun f : Sink → Sink => s.modTile t (·.modSink k f)) (funext fun y => y.accept_joins plain)

end Groups

end Machine

section Arrivals

variable {t : TileId} {k : Fin 64} {bad : Bool} {s : State} {e : Entry} {rest : List Entry}

/-- A sink's first entry in flight taken from its channel, with no input unit counted (R98, R172). -/
def Machine.State.takeInflight (s : State) (t : TileId) (k : Nat) (rest : List Entry) : State :=
  (s.letIn t 0).modTile t (·.modSink k fun y => { y with inflight := rest })

theorem takeInflight_tile : ∃ n w, (s.takeInflight t k rest).tile t =
    Tile.modSink { s.tile t with admitted := n, windows := w } k fun y => { y with inflight := rest } :=
  ⟨_, _, by rw [State.takeInflight, State.tile_modTile_same, State.letIn, State.tile_modTile_same]⟩

theorem takeInflight_sink : ((s.takeInflight t k rest).tile t).sink k = { (s.tile t).sink k with inflight := rest } := by
  obtain ⟨n, w, e⟩ := takeInflight_tile (s := s) (t := t) (k := k) (rest := rest)
  rw [e, Tile.sink_modSink_same]
  rfl

theorem takeInflight_cfg : ((s.takeInflight t k rest).tile t).cfg = (s.tile t).cfg := by
  obtain ⟨n, w, e⟩ := takeInflight_tile (s := s) (t := t) (k := k) (rest := rest)
  rw [e, Tile.cfg_modSink]

theorem memorySame_takeInflight : MemorySame s (s.takeInflight t k rest) :=
  (memorySame_modTile s t (f := fun x => { x with admitted := s.admittedNow t + 0, windows := s.windowOf t }) fun _ => rfl).trans
    (memorySame_modTile (s.letIn t 0) t fun _ => rfl)

/-- A MARK noted at its sink: the tile of a region on its way into a pause stops (R391, R392). -/
def Machine.State.noteMark (s : State) (t : TileId) (k : Nat) : State :=
  s.modTile t fun x => { x.modSink k fun y => { y with marked := true } with stopping := x.stopping || (s.pausing t && !x.snapped) }

theorem noteMark_sink {k : Nat} : ((s.noteMark t k).tile t).sink k = { (s.tile t).sink k with marked := true } := by
  rw [State.noteMark, State.tile_modTile_same]
  exact Tile.sink_modSink_same (s.tile t) k fun y => { y with marked := true }

variable (inflight : ((s.tile t).sink k).inflight = e :: rest) (granted : ((s.tile t).sink k).sent.length < ((s.tile t).sink k).inflight.length)
  (valid : ((s.tile t).cfg.sinkCfg k).valid = true) (untyped : ((s.tile t).cfg.sinkCfg k).typed = false)
  (inner : s.hub.circuitOfSink t k = none) (unreeled : (s.tile t).reel = none)
  (plain : ((e.routed bad).kind ≠ Kind.cfg ∧ (e.routed bad).kind ≠ Kind.seam) ∨ 32 ≤ k.val)
include inflight granted valid untyped inner unreeled plain

/-- What a plain valid sink does with the first entry in flight to it: a MARK is noted, anything else is delivered (R172, R391). -/
theorem execChannelEntryArrive_arrives : execChannelEntryArrive t k bad s =
    if (e.routed bad).kind = Kind.mark then .next ((s.takeInflight t k rest).noteMark t k)
    else .next ((s.takeInflight t k rest).deliver t k (e.routed bad)) := by
  rw [inflight] at granted
  simp only [execChannelEntryArrive, inflight, if_neg (Nat.not_le.2 granted), valid, untyped, unreeled, inner, Tile.cfgFull_plain _ plain]
  simp only [Bool.not_true, Bool.false_and, Option.isSome_none, Bool.not_false, Bool.and_false, Nat.not_lt_zero, bne_self_eq_false,
    Bool.false_eq_true, if_false, decide_false, Bool.or_false, State.takeInflight, State.noteMark]

/-- A MARK at a plain sink is noted, and its queue stays (R391). -/
theorem channelEntryArrive_marks (mark : (e.routed bad).kind = Kind.mark) : Happens (.channelEntryArrive t k bad) s fun u =>
    ((u.tile t).sink k.val).marked = true ∧ ((u.tile t).sink k.val).queue = ((s.tile t).sink k).queue ∧ MemorySame s u := by
  refine ⟨_, (execChannelEntryArrive_arrives inflight granted valid untyped inner unreeled plain).trans (if_pos mark), rfl, ?_, ?_,
    memorySame_takeInflight.trans (memorySame_modTile _ t fun _ => rfl)⟩
  · rw [noteMark_sink]
  · rw [noteMark_sink, takeInflight_sink]

variable (noMark : (e.routed bad).kind ≠ Kind.mark)
include noMark

/-- Where no CFG group is begun, an entry joins the queue of a plain sink (R172). -/
theorem channelEntryArrive_joins (empty : ((s.tile t).sink k).cfg = []) : Happens (.channelEntryArrive t k bad) s fun u =>
    ((u.tile t).sink k.val).inflight = rest ∧ MemorySame s u ∧
      ((u.tile t).sink k.val).queue = ((s.tile t).sink k).queue ++ [e.routed bad] := by
  have begun : (((s.takeInflight t k rest).tile t).sink k).cfg = [] := by rw [takeInflight_sink]; exact empty
  refine ⟨_, (execChannelEntryArrive_arrives inflight granted valid untyped inner unreeled plain).trans (if_neg noMark), ?_⟩
  rw [State.deliver_joins begun plain]
  refine ⟨rfl, ?_, memorySame_takeInflight.trans (memorySame_modTile _ t fun _ => rfl), ?_⟩
  · rw [State.tile_modTile_same, Tile.sink_modSink_same, takeInflight_sink]
  · rw [State.tile_modTile_same, Tile.sink_modSink_same, takeInflight_sink]

/-- Where a CFG group is begun at a port, an entry of another kind is a load fault (R176). -/
theorem channelEntryArrive_interrupts (port : k.val < 32) {f : Entry} {group : List Entry} (begun : ((s.tile t).sink k).cfg = f :: group)
    (short : ((s.tile t).sink k).cfg.length < (s.tile t).cfg.cfgGroup k) :
    Happens (.channelEntryArrive t k bad) s fun u =>
      u = (s.takeInflight t k rest).loadFault t ((f.word.truncate 32).zeroExtend 64) := by
  have other : (e.routed bad).kind ≠ Kind.cfg := by
    obtain ⟨noCfg, _⟩ | operator := plain
    · exact noCfg
    · omega
  have faults : (s.takeInflight t k rest).deliver t k (e.routed bad) =
      (s.takeInflight t k rest).loadFault t ((f.word.truncate 32).zeroExtend 64) :=
    State.afterGroup_interrupts port (by rw [takeInflight_sink]; exact begun) (by rw [takeInflight_sink, takeInflight_cfg]; exact short) other
  refine ⟨_, (execChannelEntryArrive_arrives inflight granted valid untyped inner unreeled plain).trans (if_neg noMark), ?_, faults⟩
  rw [faults]
  exact stalled_tileFault _ _ _ _ _ _ _ _

end Arrivals

/-- What the router makes of an entry: an ERR where parity fails or the kind is reserved (R175). -/
theorem Machine.Entry.routed_reserved {e : Entry} (reserved : 13 ≤ e.kind.toNat) :
    e.routed false = { e with word := errWord Cause.chan e.kind.toNat, kind := Kind.err } := if_pos reserved

theorem Machine.Entry.routed_plain {e : Entry} (plain : e.kind.toNat < 13) : e.routed false = e := if_neg (Nat.not_le.2 plain)

section Credits

variable {t u : TileId} {e k : Nat} {s : State}

/-- A credit under way reaches its source (R170). -/
theorem execCreditReturn_returns (under : 0 < ((s.tile t).source e).returning) : execCreditReturn t e s =
    .next (s.modTile t (·.modSource e fun y => { y with credits := y.credits + 1, returning := y.returning - 1 })) := if_pos under

/-- The source of a rendezvous gets a credit when its sink asks for an entry (R171). -/
theorem execCreditReturn_asked (settled : ((s.tile t).source e).returning = 0) (sink : s.sinkOf t e = some (u, k))
    (rendezvous : (s.tile u).cfg.capacity k = 0) (asks : (s.tile u).sinkAsks k = true) (unasked : ((s.tile u).sink k).asked = false) :
    execCreditReturn t e s = .next ((s.modTile u (·.modSink k fun y => { y with asked := true })).modTile t
      (·.modSource e fun y => { y with credits := y.credits + 1 })) := by
  simp [execCreditReturn, settled, sink, rendezvous, asks, unasked]

end Credits

section TypedJoins

/-- The head of a converter used up, with its credit on the way back where a channel has brought it (R170, R178). -/
def Machine.State.consumeHead (s : State) (t : TileId) (k : Nat) (e : Entry) (rest : List Entry) : State :=
  (s.modTile t (·.modSink k fun y => { y with convIn := rest, convPos := 0 })).returnCredits t k (if e.origin = .channel then 1 else 0)

/-- What a converter has packed: a full word is delivered, a part of one kept (R178). -/
def Machine.State.putPacked (s : State) (t : TileId) (k per n : Nat) (acc : BitVec 256) : State :=
  if n = per then (s.modTile t (·.modSink k fun y => { y with acc := 0, accN := 0 })).deliver t k ⟨acc, Kind.data, .joined⟩
  else s.modTile t (·.modSink k fun y => { y with acc := acc, accN := n })

variable {t : TileId} {k : Fin 64} {s : State} {e : Entry} {rest : List Entry} {a b : Ty} (unheld : ((s.tile t).sink k).held = [])
  (going : (s.tile t).frozen = false) (head : ((s.tile t).sink k).convIn = e :: rest) (src : ((s.tile t).cfg.sinkCfg k).srcTy = some a)
  (dst : ((s.tile t).cfg.sinkCfg k).dstTy = some b)
include unheld going head src dst

/-- The elements of a DATA entry are packed, and its word is used up with the last of them (R178). -/
theorem execTypedJoinConvert_data (data : e.kind = Kind.data) (room : ((s.tile t).sink k).used < (s.tile t).cfg.capacity k) :
    let c := (s.tile t).cfg.sinkCfg k
    let y := (s.tile t).sink k
    let total := 64 * c.lanes / a.width
    let per := 64 * c.lanes / b.width
    let r := packElements a b y.scale c.rm e.word.toNat total per total y.convPos y.acc y.accN
    execTypedJoinConvert t k s = .next (if total ≤ r.1 then (s.putPacked t k per r.2.2 r.2.1).consumeHead t k e rest
      else (s.putPacked t k per r.2.2 r.2.1).modTile t (·.modSink k fun y => { y with convPos := r.1 })) := by
  intro c y total per r
  simp only [execTypedJoinConvert, head, src, dst]
  rw [if_neg (by simp [unheld]), if_pos data, if_neg (by simp [room, going])]
  exact (apply_ite Host.Outcome.next _ _ _).symm

/-- A valid SCALE is adopted (R178). -/
theorem execTypedJoinConvert_scale (scale : e.kind = Kind.scale) (valid : scaleValid e.word = true) : execTypedJoinConvert t k s =
    .next ((s.modTile t (·.modSink k fun y => { y with scale := e.word.truncate 32 })).consumeHead t k e rest) := by
  have noData : e.kind ≠ Kind.data := by rw [scale]; decide
  simp only [execTypedJoinConvert, head, src, dst]
  rw [if_neg (by simp [unheld]), if_neg noData, if_neg (by simp [going]), if_pos scale, if_pos valid]
  rfl

section Tokens

variable (noData : e.kind ≠ Kind.data) (noScale : e.kind ≠ Kind.scale)
include noData noScale

/-- In a band tile a SEAM behind whole words is held, and what follows it waits (R347). -/
theorem execTypedJoinConvert_seam (seam : e.kind = Kind.seam) (whole : ((s.tile t).sink k).accN = 0) (band : (s.tile t).reel.isSome = true) :
    execTypedJoinConvert t k s =
      .next (s.afterGroup t k e fun s => s.modTile t (·.modSink k fun y => { y with convIn := rest, held := [e] })) := by
  simp only [execTypedJoinConvert, head, src, dst]
  rw [if_neg (by simp [unheld]), if_neg noData, if_neg (by simp [going]), if_neg noScale, if_pos (by simp [band, seam, whole])]

variable (room : ((s.tile t).sink k).used < (s.tile t).cfg.capacity k) (space : (s.tile t).cfgFull k e = false)
include room space

/-- A part of a word goes before a token (R178). -/
theorem execTypedJoinConvert_part (part : ((s.tile t).sink k).accN ≠ 0) : execTypedJoinConvert t k s =
    .next ((s.modTile t (·.modSink k fun y => { y with acc := 0, accN := 0 })).deliver t k ⟨((s.tile t).sink k).acc, Kind.data, .joined⟩) := by
  simp only [execTypedJoinConvert, head, src, dst]
  rw [if_neg (by simp [unheld]), if_neg noData, if_neg (by simp [going]), if_neg noScale, if_neg (by simp [part]),
    if_neg (by simp [room, going, space]), if_pos (Nat.pos_of_ne_zero part)]

/-- A token behind whole words passes (R178). -/
theorem execTypedJoinConvert_passes (whole : ((s.tile t).sink k).accN = 0) (goesOn : e.kind ≠ Kind.seam ∨ (s.tile t).reel = none) :
    execTypedJoinConvert t k s = .next ((s.consumeHead t k e rest).deliver t k { e with origin := .joined }) := by
  have unstopped : ¬ ((s.tile t).reel.isSome && e.kind = Kind.seam && ((s.tile t).sink k).accN = 0) = true := by
    obtain noSeam | unreeled := goesOn
    · simp [noSeam]
    · simp [unreeled]
  simp only [execTypedJoinConvert, head, src, dst]
  rw [if_neg (by simp [unheld]), if_neg noData, if_neg (by simp [going]), if_neg noScale, if_neg unstopped,
    if_neg (by simp [room, going, space]), if_neg (by simp [whole])]
  rfl

end Tokens

end TypedJoins

/-- One element of a channel word is converted and packed beside those already there (R178, R179). -/
theorem packElements_one {src dst : Ty} {scale : BitVec 32} {rm : RM} {word n pos : Nat} {acc : BitVec 256} {total room : Nat}
    (left : pos < total) (fits : n < room) : packElements src dst scale rm word total room 1 pos acc n = (pos + 1,
      acc ||| (BitVec.ofNat 256 (joinElement src dst scale rm (word / 2 ^ (src.width * pos) % 2 ^ src.width)) <<< (dst.width * n)), n + 1) := by
  rw [packElements, if_neg (by simp [left, fits])]
  rfl

/-- Settles O25: arrivals, credits and conversions are each run where their guards hold; what reaches a sink is an `afterGroup`. -/
theorem channelsDeliver : Obligations.ChannelsDeliver := by
  refine ⟨⟨?arrivals, fun e => ⟨rfl, Entry.routed_plain, Entry.routed_reserved⟩,
    fun t e s => ⟨fun under => ?returned, fun u k settled sink rendezvous asks unasked => ?asked⟩, ?joins⟩,
    fun src dst scale rm word n pos acc total room left fits => packElements_one left fits⟩
  case arrivals =>
    intro t k bad s e rest x inflight granted valid untyped inner unreeled plain
    refine ⟨fun mark => channelEntryArrive_marks inflight granted valid untyped inner unreeled plain mark,
      fun noMark empty => channelEntryArrive_joins inflight granted valid untyped inner unreeled plain noMark empty,
      fun port begun short noMark => ?_⟩
    obtain ⟨f, group, begun⟩ := List.exists_cons_of_ne_nil begun
    obtain ⟨u, does, unstalled, faults⟩ :=
      channelEntryArrive_interrupts inflight granted valid untyped inner unreeled plain noMark port begun short
    exact ⟨u, does, unstalled, f, by rw [begun]; rfl, faults⟩
  case returned => exact ⟨_, execCreditReturn_returns under, rfl, tileOnly_modTile s t fun _ => rfl⟩
  case asked => exact ⟨_, execCreditReturn_asked settled sink rendezvous asks unasked, rfl, rfl⟩
  case joins =>
    intro t k s e rest a b y going unheld head src dst consumed
    refine ⟨fun data room => ?data, fun scale valid => ⟨_, execTypedJoinConvert_scale unheld going head src dst scale valid, rfl⟩,
      fun noData noScale room space => ⟨fun part => ?part, fun whole goesOn => ?passes⟩, fun seam whole band empty => ?held,
      fun seam whole band port begun short => ?interrupts⟩
    case data => exact ⟨_, execTypedJoinConvert_data unheld going head src dst data room, rfl⟩
    case part => exact ⟨_, execTypedJoinConvert_part unheld going head src dst noData noScale room space part, rfl⟩
    case passes => exact ⟨_, execTypedJoinConvert_passes unheld going head src dst noData noScale room space whole goesOn, rfl⟩
    all_goals
      have noData : e.kind ≠ Kind.data := by rw [seam]; decide
      have noScale : e.kind ≠ Kind.scale := by rw [seam]; decide
      have holds := execTypedJoinConvert_seam unheld going head src dst noData noScale seam whole band
    case held => exact ⟨_, holds, State.afterGroup_empty empty ▸ tileOnly_modTile s t fun _ => rfl⟩
    case interrupts =>
      obtain ⟨f, group, begun⟩ := List.exists_cons_of_ne_nil begun
      exact ⟨_, holds, f, by rw [begun]; rfl, State.afterGroup_interrupts port begun short (by rw [seam]; decide)⟩

end Sys2Proof

/-! Router operators (R181-R186). -/

namespace Sys2Proof

open Sys2Proof.Machine

/-- An entry that is no data is a token, and so no ERR (R174). -/
theorem kind_of_not_isData {e : Entry} (token : e.isData = false) : e.kind ≠ Kind.data ∧ e.kind ≠ Kind.err := by
  simpa [Entry.isData] using token

theorem isData_of_token {e : Entry} (noData : e.kind ≠ Kind.data) (noErr : e.kind ≠ Kind.err) : e.isData = false := by
  simp [Entry.isData, noData, noErr]

/-- The heads of some inputs of an operator taken one after another. -/
def Machine.State.opTakes (s : State) (t : TileId) (o : Fin 8) (inputs : List Nat) : State := inputs.foldl (fun s i => s.opTake t o i) s

/-- An entry written to some outputs of an operator, one after another. -/
def Machine.State.opPuts (s : State) (t : TileId) (o : Fin 8) (outputs : List Nat) (e : Entry) : State :=
  outputs.foldl (fun s j => s.opPut t o j e) s

section Operators

variable {t : TileId} {o : Fin 8} {s : State}

@[simp] theorem opTakes_cons (i : Nat) (is : List Nat) : s.opTakes t o (i :: is) = (s.opTake t o i).opTakes t o is := rfl

@[simp] theorem opTakes_nil : s.opTakes t o [] = s := rfl

@[simp] theorem opPuts_cons (j : Nat) (js : List Nat) (e : Entry) : s.opPuts t o (j :: js) e = (s.opPut t o j e).opPuts t o js e := rfl

@[simp] theorem opPuts_nil (e : Entry) : s.opPuts t o [] e = s := rfl

/-- A control head that is an ERR gives the operator's fault its word (R186). -/
theorem kindFault_err {c : Entry} (err : c.kind = Kind.err) :
    s.kindFault t o c = s.tileFault t Cause.poison 1 0 o.val (c.word.truncate 64) 0 := if_pos err

variable (going : (s.tile t).frozen = false)
include going

section Steer

variable (steer : ((s.tile t).cfg.ops[o]).kind = .steer)
include steer

theorem not_steer_waits : ¬ ((s.tile t).frozen || (s.tile t).cfg.ops[o].kind ≠ .steer) = true := by
  rw [going, steer]
  decide

/-- An ERR at the control input is a fault, whatever stands at the data input (R186). -/
theorem execSteerFire_err {c : Entry} (control : (s.tile t).opHead o 1 = some c) (err : c.kind = Kind.err) :
    execSteerFire t o s = .next (s.kindFault t o c) := by
  rw [execSteerFire, if_neg (not_steer_waits going steer), control]
  cases (s.tile t).opHead o 0 <;> exact if_pos err

variable {d c : Entry} (head : (s.tile t).opHead o 0 = some d) (control : (s.tile t).opHead o 1 = some c)
include head control

/-- A data head goes to the output that the control word names (R181). -/
theorem execSteerFire_data (data : d.isData = true) (chooses : c.kind = Kind.data) {j : Nat} (names : j = if c.word.getLsbD 0 then 1 else 0)
    (credit : (s.tile t).opCredit o j = true) :
    execSteerFire t o s = .next ((s.opTakes t o [0, 1]).opPuts t o [j] d) := by
  subst names
  rw [execSteerFire, if_neg (not_steer_waits going steer), head, control]
  simp only [data, chooses, credit, opTakes_cons, opTakes_nil, opPuts_cons, opPuts_nil]
  rfl

/-- Equal tokens go to both outputs (R181). -/
theorem execSteerFire_token (token : d.isData = false) (same : c.kind = d.kind) (credit0 : (s.tile t).opCredit o 0 = true)
    (credit1 : (s.tile t).opCredit o 1 = true) :
    execSteerFire t o s = .next ((s.opTakes t o [0, 1]).opPuts t o [0, 1] d) := by
  rw [execSteerFire, if_neg (not_steer_waits going steer), head, control]
  simp [same, token, (kind_of_not_isData token).2, credit0, credit1]

end Steer

section Merge

variable (merge : ((s.tile t).cfg.ops[o]).kind = .merge)
include merge

theorem not_merge_waits : ¬ ((s.tile t).frozen || (s.tile t).cfg.ops[o].kind ≠ .merge) = true := by
  rw [going, merge]
  decide

variable {c : Entry} (control : (s.tile t).opHead o 2 = some c) (credit : (s.tile t).opCredit o 0 = true)
include control credit

/-- A data head of the input that the control word names goes on (R182). -/
theorem execMergeFire_data (chooses : c.kind = Kind.data) {i : Nat} (names : i = if c.word.getLsbD 0 then 1 else 0) {d : Entry}
    (head : (s.tile t).opHead o i = some d) (data : d.isData = true) :
    execMergeFire t o s = .next ((s.opTakes t o [2, i]).opPuts t o [0] d) := by
  subst names
  rw [execMergeFire, if_neg (not_merge_waits going merge), control]
  simp only [chooses, head, data, credit, opTakes_cons, opTakes_nil, opPuts_cons, opPuts_nil]
  rfl

/-- Tokens of one kind at all inputs go on as one (R182). -/
theorem execMergeFire_token (noData : c.kind ≠ Kind.data) (noErr : c.kind ≠ Kind.err) {d e : Entry} (head0 : (s.tile t).opHead o 0 = some d)
    (head1 : (s.tile t).opHead o 1 = some e) (same0 : d.kind = c.kind) (same1 : e.kind = c.kind) :
    execMergeFire t o s = .next ((s.opTakes t o [0, 1, 2]).opPuts t o [0] d) := by
  rw [execMergeFire, if_neg (not_merge_waits going merge), control]
  have token0 : d.isData = false := isData_of_token (same0 ▸ noData) (same0 ▸ noErr)
  have token1 : e.isData = false := isData_of_token (same1 ▸ noData) (same1 ▸ noErr)
  simp [noData, noErr, head0, head1, token0, token1, same0, same1, credit]

end Merge

section Carry

variable (carry : ((s.tile t).cfg.ops[o]).kind = .carry)
include carry

theorem not_carry_waits : ¬ ((s.tile t).frozen || (s.tile t).cfg.ops[o].kind ≠ .carry) = true := by
  rw [going, carry]
  decide

/-- Before the loop the entry of input 0 goes on, and data begin the loop (R183). -/
theorem execCarryFire_enters (outside : (s.tile t).loops[o] = false) {d : Entry} (head : (s.tile t).opHead o 0 = some d)
    (credit : (s.tile t).opCredit o 0 = true) :
    execCarryFire t o s =
      .next (((s.opTakes t o [0]).opPuts t o [0] d).modTile t fun x => { x with loops := x.loops.set o d.isData }) := by
  rw [execCarryFire, if_neg (not_carry_waits going carry), if_pos (by rw [outside]; rfl), head]
  exact if_neg (by simp [credit])

section Loop

variable (inside : (s.tile t).loops[o] = true) {c : Entry} (control : (s.tile t).opHead o 2 = some c) (chooses : c.kind = Kind.data)
include inside control chooses

/-- In the loop a false control word ends it (R183). -/
theorem execCarryFire_leaves (off : c.word.getLsbD 0 = false) :
    execCarryFire t o s = .next ((s.opTakes t o [2]).modTile t fun x => { x with loops := x.loops.set o false }) := by
  rw [execCarryFire, if_neg (not_carry_waits going carry), if_neg (by rw [inside]; decide), control]
  simp only [chooses, off, opTakes_cons, opTakes_nil]
  rfl

/-- In the loop a true control word lets the data of input 1 go on (R183). -/
theorem execCarryFire_goesOn (on : c.word.getLsbD 0 = true) {d : Entry} (head : (s.tile t).opHead o 1 = some d) (data : d.isData = true)
    (credit : (s.tile t).opCredit o 0 = true) :
    execCarryFire t o s = .next ((s.opTakes t o [2, 1]).opPuts t o [0] d) := by
  rw [execCarryFire, if_neg (not_carry_waits going carry), if_neg (by rw [inside]; decide), control]
  simp only [chooses, on, head, data, credit, opTakes_cons, opTakes_nil, opPuts_cons, opPuts_nil]
  rfl

end Loop

end Carry

/-- A fork whose outputs all have a credit writes its entry to each (R184). -/
theorem execForkFire_writes (fork : ((s.tile t).cfg.ops[o]).kind = .fork) {d : Entry} (head : (s.tile t).opHead o 0 = some d)
    (credits : ∀ j, j < ((s.tile t).cfg.ops[o]).nout → (s.tile t).opCredit o j = true) :
    execForkFire t o s =
      .next ((s.opTakes t o [0]).opPuts t o (List.range ((s.tile t).cfg.ops[o]).nout) d) := by
  have all : (List.range ((s.tile t).cfg.ops[o]).nout).all ((s.tile t).opCredit o) = true := by simpa [-Fin.getElem_fin] using credits
  rw [execForkFire, if_neg (by rw [going, fork]; decide), head]
  exact if_neg (by rw [all]; decide)

end Operators

/-- Settles O26: each firing is one branch of its operator, whose heads and credits the hypotheses give. -/
theorem operatorsFire : Obligations.OperatorsFire := by
  intro t o s x takes puts going
  refine ⟨fun steer d c head control => ⟨?steerData, ?steerToken⟩, fun merge c control credit => ⟨?mergeData, ?mergeToken⟩,
    fun carry => ⟨?enters, fun inside c control chooses => ⟨?leaves, ?goesOn⟩⟩, ?fork, ?err⟩
  case steerData =>
    intro data chooses j credit
    exact ⟨_, execSteerFire_data going steer head control data chooses rfl credit, rfl⟩
  case steerToken =>
    exact fun token same credit0 credit1 => ⟨_, execSteerFire_token going steer head control token same credit0 credit1, rfl⟩
  case mergeData =>
    intro chooses i d head data
    exact ⟨_, execMergeFire_data going merge control credit chooses rfl head data, rfl⟩
  case mergeToken =>
    exact fun noData noErr d e head0 head1 same0 same1 =>
      ⟨_, execMergeFire_token going merge control credit noData noErr head0 head1 same0 same1, rfl⟩
  case enters => exact fun outside d head credit => ⟨_, execCarryFire_enters going carry outside head credit, rfl⟩
  case leaves => exact fun off => ⟨_, execCarryFire_leaves going carry inside control chooses off, rfl⟩
  case goesOn =>
    exact fun on d head data credit => ⟨_, execCarryFire_goesOn going carry inside control chooses on head data credit, rfl⟩
  case fork => exact fun fork d head credits => ⟨_, execForkFire_writes going fork head credits, rfl⟩
  case err =>
    exact fun steer c control err => ⟨_, execSteerFire_err going steer control err, kindFault_err err⟩

end Sys2Proof

/-! Streams move their elements (R207-R210, R316). -/

namespace Sys2Proof

open Sys2Proof.Machine

namespace Machine

/-! How elements complete. -/

theorem Agen.gather_flight (y : Agen) (a : AgenCfg) (value : Nat) : (y.gather a value).flight = y.flight := rfl

theorem Agen.stored_flight (y : Agen) (a : AgenCfg) : (y.stored a).flight = y.flight := by
  unfold Agen.stored
  dsimp only
  split <;> rfl

/-- An element that completes: the value of a read goes into the port's word, a store counts (R208, R209). -/
def Agen.complete (y : Agen) (a : AgenCfg) (value : Nat) : Agen := if a.reads then y.gather a value else y.stored a

theorem Agen.complete_flight (y : Agen) (a : AgenCfg) (value : Nat) : (y.complete a value).flight = y.flight := by
  unfold Agen.complete
  split
  · exact y.gather_flight a value
  · exact y.stored_flight a

theorem Agen.settle_empty {y : Agen} (empty : y.flight = []) (a : AgenCfg) : ∀ fuel, y.settle a fuel = y
  | 0 => rfl
  | _ + 1 => by simp [Agen.settle, empty]

section Settle

variable {y : Agen} {a : AgenCfg} {e : Elem} {rest : List Elem} (flight : y.flight = e :: rest) (own : e.own = true) (good : e.fails = none)
include flight own good

/-- The oldest element of the run, once it has performed, completes, and those behind it follow (R210). -/
theorem Agen.settle_done (done : e.stage = .done) (others : ∀ x ∈ rest, x.n ≠ e.n) (fuel : Nat) :
    y.settle a (fuel + 1) = (Agen.complete { y with flight := rest } a e.data).settle a fuel := by
  have left : (y.flight.filter fun x => x.n != e.n) = rest := by
    rw [flight, List.filter_cons_of_neg (by simp), List.filter_eq_self]
    simpa using others
  rw [Agen.settle, flight, List.find?_cons_of_pos own]
  simp only [good, done, ← flight, left]
  rfl

/-- While it has not performed, none completes (R210). -/
theorem Agen.settle_waits (waits : e.stage ≠ .done) (fuel : Nat) : y.settle a (fuel + 1) = y := by
  rw [Agen.settle, flight, List.find?_cons_of_pos own]
  simp only [good]
  exact if_pos waits

end Settle

/-- An element that has performed completes where no other is under way. -/
theorem Agen.settle_alone {y : Agen} {a : AgenCfg} {e : Elem} (flight : y.flight = [e]) (own : e.own = true) (good : e.fails = none)
    (done : e.stage = .done) : y.settle a (y.flight.length + 1) = Agen.complete { y with flight := [] } a e.data := by
  rw [Agen.settle_done flight own good done (by simp), Agen.settle_empty (Agen.complete_flight _ _ _)]

theorem Agen.flight_empty {y : Agen} (empty : y.flight = []) : { y with flight := [] } = y := by
  rw [← empty]

theorem Agen.took_flight (y : Agen) (a : AgenCfg) : (y.took a).flight = y.flight := rfl

theorem elementBytes_pos (ty : Ty) : 0 < elementBytes ty := Nat.le_max_left _ _

end Machine

section Issue

variable {s : State} {t : TileId} {g : Fin 4} {value : Nat} {f : Agen → Agen}

/-- The next element of a generator with none under way completes at once (R208, R209). -/
theorem elemDone_completes (alone : ((s.tile t).agen g).flight = []) (keeps : ∀ y, (f y).flight = y.flight) :
    s.elemDone t g value f = { s.modTile t (·.modAgen g fun y =>
      Agen.complete { f y with parts := [], spans := [], pos := y.pos + 1 } ((s.tile t).cfg.agen[g]) value) with nextSeq := s.nextSeq + 1 } := by
  refine congrArg (fun u : State => { u with nextSeq := s.nextSeq + 1 }) (modTile_congr ?_)
  refine congrArg (fun y : Agen => { s.tile t with agens := (s.tile t).agens.set g y }) ?_
  refine (Agen.settle_alone (congrArg (· ++ _) alone) rfl rfl rfl).trans ?_
  let y := (s.tile t).agen g
  exact congrArg (Agen.complete · _ value) (Agen.flight_empty (y := { f y with parts := [], spans := [], pos := y.pos + 1 })
    ((keeps y).trans alone))

theorem memorySame_modAgen (s : State) (t : TileId) (g : Fin 4) (f : Agen → Agen) : MemorySame s (s.modTile t (·.modAgen g f)) :=
  memorySame_modTile s t fun _ => rfl

/-- A read that completes at once puts its value into the port's word (R208). -/
theorem completes_of_elemDone {i : Instr} (does : exec i s = .next (s.elemDone t g value id)) (alone : ((s.tile t).agen g).flight = [])
    (reads : ((s.tile t).cfg.agen[g]).reads = true) : Completes i s fun u => MemorySame s u ∧ u = { s.modTile t (·.modAgen g fun y =>
      Agen.gather { y with parts := [], spans := [], pos := y.pos + 1 } ((s.tile t).cfg.agen[g]) value) with nextSeq := s.nextSeq + 1 } := by
  rw [elemDone_completes (f := id) alone fun _ => rfl] at does
  simp only [Agen.complete, if_pos reads, id] at does
  exact ⟨_, does, (memorySame_modAgen s t g _).trans ⟨fun _ => rfl, fun _ => rfl, fun _ _ => rfl⟩, rfl⟩

/-- A store that completes at once counts, and its word goes on (R209). -/
theorem elemDone_stores (alone : ((s.tile t).agen g).flight = []) (writes : ((s.tile t).cfg.agen[g]).reads = false) :
    s.elemDone t g value (·.took ((s.tile t).cfg.agen[g])) = { s.modTile t (·.modAgen g fun y =>
      Agen.stored { y.took ((s.tile t).cfg.agen[g]) with parts := [], spans := [], pos := y.pos + 1 } ((s.tile t).cfg.agen[g])) with
        nextSeq := s.nextSeq + 1 } := by
  rw [elemDone_completes (f := (·.took _)) alone fun y => y.took_flight _]
  simp only [Agen.complete, if_neg (Bool.eq_false_iff.1 writes)]

/-- A store to scratch writes its cells and completes at once (R209). -/
theorem elemDone_scratchWrite {cells : List Host.Cell} (alone : ((s.tile t).agen g).flight = []) (writes : ((s.tile t).cfg.agen[g]).reads = false) :
    let u := s.modTile t fun x => x.scratchWrite cells
    let a := (s.tile t).cfg.agen[g]
    u.elemDone t g value (·.took a) = { u.modTile t (·.modAgen g fun y =>
      Agen.stored { y.took a with parts := [], spans := [], pos := y.pos + 1 } a) with nextSeq := s.nextSeq + 1 } := by
  intro u a
  have tile : u.tile t = (s.tile t).scratchWrite cells := State.tile_modTile_same _ _ _
  have cfg : (u.tile t).cfg = (s.tile t).cfg := by rw [tile]; rfl
  have stores := elemDone_stores (s := u) (t := t) (g := g) (value := value) (by rw [tile]; exact alone) (by rw [cfg]; exact writes)
  rw [cfg] at stores
  exact stores

/-- The next element of a global stream in one page that permits it is under way (R209, R282, R316). -/
theorem issueElem_pushes {k : Access} {leaf : Leaf} :
    let a := (s.tile t).cfg.agen[g]
    let y := (s.tile t).agen g
    let va := a.address y.base y.pos
    let n := elementBytes a.ty
    let serial := (leaf.target va).isRemote || (!a.reads && leaf.wo)
    (k = if a.reads then .unitRead else .unitWrite) → va + n ≤ 2 ^ 56 → y.leaf = some leaf → leaf.covers va = true →
    va + n ≤ leaf.vbase + 2 ^ leaf.size → y.parts = [] → y.spans = [] →
    leaf.refuses (if a.reads then .unitRead else .unitWrite) true = none → (serial = false ∨ ∀ e ∈ y.flight, e.own = false) →
    s.issueElem t g k value f =
      s.pushElem t g { y.elem a value with parts := [(leaf.target va, 0, n, leaf.wo)], spans := [leaf.span], serial := serial } f := by
  intro a y va n serial kind low translated covers whole noParts noSpans permits mayGo
  rw [← kind] at permits
  have stores : (k == .unitWrite) = !a.reads := by
    rw [kind]
    cases a.reads <;> rfl
  have positive : 0 < n := elementBytes_pos a.ty
  have uncovered : y.covered = 0 := by rw [Agen.covered, noParts]; rfl
  have length : min (n - 0) (leaf.vbase + 2 ^ leaf.size - va) = n := by omega
  have unblocked : (serial && y.flight.any (·.own)) = false := by
    obtain plain | idle := mayGo
    · rw [plain]; rfl
    · rw [List.any_eq_false.2 (by simpa using idle), Bool.and_false]
  simp only [State.issueElem]
  rw [show y.nextAddr a + y.covered = va by rw [uncovered]; rfl, if_neg (by omega), translated]
  dsimp only
  rw [if_neg (by rw [covers]; decide), if_neg (by rw [permits]; decide)]
  rw [uncovered, length, noParts, noSpans, List.nil_append, List.nil_append, List.any_cons, List.any_nil, Bool.or_false, stores,
    if_neg (Nat.not_lt.2 (Nat.zero_add n).ge)]
  exact if_neg (by rw [unblocked]; decide)

variable (going : (s.tile t).frozen = false) (clock : s.dies[t.dieIx].clockStopped = none)
  (may : ((s.tile t).agen g).mayIssue ((s.tile t).cfg.agen[g]) = true)
include going clock may

section Reads

variable (reads : ((s.tile t).cfg.agen[g]).reads = true) (owed : ((s.tile t).agen g).out = []) (room : ((s.tile t).agen g).queue.length < 4)
include reads owed room

theorem not_readStream_waits :
    ¬ ((s.tile t).frozen || s.dies[t.dieIx].clockStopped.isSome || !((s.tile t).cfg.agen[g]).reads ||
      !((s.tile t).agen g).mayIssue ((s.tile t).cfg.agen[g]) || !((s.tile t).agen g).out.isEmpty ||
      decide (4 ≤ ((s.tile t).agen g).queue.length)) = true := by
  simp [-Fin.getElem_fin, going, clock, reads, may, owed, room]

/-- A generated value is its address (R208). -/
theorem execReadStreamElement_generates (mode : ((s.tile t).cfg.agen[g]).mode = 0) :
    execReadStreamElement t g s = .next (s.elemDone t g (((s.tile t).agen g).nextAddr ((s.tile t).cfg.agen[g])) id) := by
  unfold execReadStreamElement
  dsimp only
  rw [if_neg (not_readStream_waits going clock may reads owed room)]
  simp only [mode]

/-- A scratch element that the stream's context owns is read at once (R208). -/
theorem execReadStreamElement_scratch (mode : ((s.tile t).cfg.agen[g]).mode = 1) :
    let x := s.tile t
    let va := (x.agen g).nextAddr (x.cfg.agen[g])
    let n := elementBytes (x.cfg.agen[g]).ty
    x.streamOwns (x.agen g).user va n = true → x.scratchBadAt x.half va n = false →
    execReadStreamElement t g s = .next (s.elemDone t g (x.scratchPlain x.half va n) id) := by
  intro x va n owned good
  unfold execReadStreamElement
  dsimp only
  rw [if_neg (not_readStream_waits going clock may reads owed room)]
  simp only [mode]
  rw [if_neg (by rw [owned]; decide), if_neg (by rw [good]; decide)]

/-- A global element is issued (R208). -/
theorem execReadStreamElement_global (mode : 3 ≤ ((s.tile t).cfg.agen[g]).mode) :
    execReadStreamElement t g s = .next (s.issueElem t g .unitRead 0 id) := by
  have mode : ((s.tile t).cfg.agen[g]).mode = 3 := by
    simp only [AgenCfg.reads, Bool.or_eq_true, beq_iff_eq] at reads
    omega
  unfold execReadStreamElement
  dsimp only
  rw [if_neg (not_readStream_waits going clock may reads owed room)]
  simp only [mode]

end Reads

section Writes

variable (writes : ((s.tile t).cfg.agen[g]).reads = false) {e : Entry} {rest : List Entry} (taken : ((s.tile t).agen g).taken = e :: rest)
include writes taken

omit taken in
theorem not_writeStream_waits :
    ¬ ((s.tile t).frozen || s.dies[t.dieIx].clockStopped.isSome || ((s.tile t).cfg.agen[g]).reads ||
      !((s.tile t).agen g).mayIssue ((s.tile t).cfg.agen[g])) = true := by
  simp [-Fin.getElem_fin, going, clock, writes, may]

/-- A token is discarded (R209). -/
theorem execWriteStreamElement_token (noData : e.kind ≠ Kind.data) (noErr : e.kind ≠ Kind.err) :
    execWriteStreamElement t g s = .next (s.modTile t (·.modAgen g fun y => { y with taken := rest })) := by
  unfold execWriteStreamElement
  dsimp only
  rw [if_neg (not_writeStream_waits going clock may writes), taken]
  dsimp only
  rw [if_neg noErr, if_pos noData]

variable (data : e.kind = Kind.data)
include data

/-- A scratch element that the stream's context owns is written at once (R209). -/
theorem execWriteStreamElement_scratch (mode : ((s.tile t).cfg.agen[g]).mode = 2) :
    let x := s.tile t
    let a := x.cfg.agen[g]
    let y := x.agen g
    let va := y.nextAddr a
    let n := elementBytes a.ty
    let value := e.word.toNat / 2 ^ (a.ty.width * y.accN) % 2 ^ a.ty.width
    let v := if a.ty = .i4 then lowHalf (x.scratchPlain x.half va 1) value else value
    x.streamOwns y.user va n = true →
    execWriteStreamElement t g s = .next ((s.modTile t fun x => x.scratchWrite (x.scratchCells va n v)).elemDone t g 0 (·.took a)) := by
  intro x a y va n value v owned
  unfold execWriteStreamElement
  dsimp only
  rw [if_neg (not_writeStream_waits going clock may writes), taken]
  dsimp only
  rw [if_neg (by rw [data]; decide), if_neg (not_not.2 data), if_pos mode, if_neg (by rw [owned]; decide)]

/-- A global element is issued (R209). -/
theorem execWriteStreamElement_global (mode : 3 ≤ ((s.tile t).cfg.agen[g]).mode) :
    let a := (s.tile t).cfg.agen[g]
    let y := (s.tile t).agen g
    execWriteStreamElement t g s =
      .next (s.issueElem t g .unitWrite (e.word.toNat / 2 ^ (a.ty.width * y.accN) % 2 ^ a.ty.width) (·.took a)) := by
  intro a y
  unfold execWriteStreamElement
  dsimp only
  rw [if_neg (not_writeStream_waits going clock may writes), taken]
  dsimp only
  rw [if_neg (by rw [data]; decide), if_neg (not_not.2 data), if_neg (by omega)]

end Writes

end Issue

section Performs

variable {s s' : State} {t : TileId} {g : Fin 4} {e : Elem}

/-- What a slice serves next leaves only the arbiter's counts changed (R245). -/
theorem servedAt_passed {k : Nat} {r : AccRef} (served : s.servedAt k r = some s') : ∃ p, s' = { s with passed := p } := by
  unfold State.servedAt at served
  split at served
  · split at served
    · cases served
      exact ⟨_, rfl⟩
    · cases served
  · cases served

/-- An element whose turn has come performs once its slice serves it, or where the slice has deferred it (R245, R316). -/
theorem performRef_stream (found : s.elemAt t g e.n = some e)
    (serves : (e.stage = .ready ∧ s.servedAt (e.slice.getD 0) (.stream t g e.n) = some s') ∨ (e.stage = .deferred ∧ s' = s))
    (good : e.fails = none) (going : (s.tile t).snapped = false) (turn : ((s.tile t).agen g).elemTurn e = true) :
    s.performRef ⟨.stream t g e.n, .clean⟩ false = s'.performElem t g e false := by
  have turn : ((s.tile t).agens[g]).elemTurn e = true := turn
  unfold State.performRef
  dsimp only
  rw [found]
  obtain ⟨ready, served⟩ | ⟨deferred, rfl⟩ := serves
  · dsimp only
    rw [if_neg (by simp [-Fin.getElem_fin, going, ready, good, turn])]
    simp only [State.atSlice, ready, served]
    rfl
  · dsimp only
    rw [if_neg (by simp [-Fin.getElem_fin, going, deferred, good, turn])]
    simp only [State.atSlice, deferred]
    rfl

section Local

variable (inside : ∀ p ∈ e.parts, p.1.isRemote = false ∧ s.lineHeld p.1 p.2.2.1 = false)
include inside

theorem find_remote_none : (e.parts.find? fun p => p.1.isRemote) = none := by
  rw [List.find?_eq_none]
  exact fun p part => by simp [(inside p part).1]

theorem any_held_false : (e.parts.any fun p => s.lineHeld p.1 p.2.2.1) = false := by
  rw [List.any_eq_false]
  exact fun p part => by simp [(inside p part).2]

/-- A read of pieces of this package takes their value (R208). -/
theorem performElem_reads (reads : ((s.tile t).cfg.agen[g]).reads = true) {v : Nat} (value : s.mem.unitRead e.parts = .ok v) :
    s.performElem t g e false = s.modElem t g e.n fun e => { e with data := e.data + v, stage := .done } := by
  unfold State.performElem
  dsimp only
  rw [find_remote_none inside]
  dsimp only
  rw [if_pos reads, any_held_false inside, value]
  rfl

/-- A write of pieces of this package stores its value, and what waits at the slices is tried again (R209, R294). -/
theorem performElem_writes (writes : ((s.tile t).cfg.agen[g]).reads = false) (whole : ((s.tile t).cfg.agen[g]).ty ≠ .i4) {m : Global}
    (stores : s.mem.unitWrite e.data e.parts = .ok m) : s.performElem t g e false =
      (State.modElem { s with mem := m } t g e.n fun e => { e with stage := .done }).serveDeferred := by
  unfold State.performElem
  dsimp only
  rw [find_remote_none inside]
  dsimp only
  rw [if_neg (by rw [writes]; decide), any_held_false inside, if_neg whole, stores]
  rfl

end Local

end Performs

/-- Settles O27: what needs no slice completes at once, a global element is pushed and then performs where its slice serves it, and elements settle
in their order. -/
theorem streamsMoveElements : Obligations.StreamsMoveElements := by
  refine ⟨?issue, ?perform, fun y a e rest fuel flight own good others =>
    ⟨fun done => Agen.settle_done flight own good done others fuel, fun waits => Agen.settle_waits flight own good waits fuel⟩⟩
  case issue =>
    intro t g s x a y va n ends global going clock may
    refine ⟨fun reads owed room => ⟨fun mode alone => ?generated, fun mode alone owned clean => ?scratchRead, ?globalRead⟩,
      fun writes e rest taken => ?writes⟩
    case generated =>
      exact completes_of_elemDone (execReadStreamElement_generates going clock may reads owed room mode) alone reads
    case scratchRead =>
      exact completes_of_elemDone (execReadStreamElement_scratch going clock may reads owed room mode owned clean) alone reads
    case globalRead =>
      intro leaf mode low translated covers whole noParts noSpans permits serial mayGo
      exact ⟨_, execReadStreamElement_global going clock may reads owed room mode,
        issueElem_pushes (if_pos reads).symm low translated covers whole noParts noSpans permits mayGo⟩
    case writes =>
      intro value
      refine ⟨fun noData noErr => ⟨_, execWriteStreamElement_token going clock may writes taken noData noErr, tileOnly_modTile s t fun _ => rfl⟩,
        fun data mode alone owned => ⟨_, execWriteStreamElement_scratch going clock may writes taken data mode owned,
          elemDone_scratchWrite alone writes⟩, fun data => ?_⟩
      intro leaf mode low translated covers whole noParts noSpans permits serial mayGo
      exact ⟨_, execWriteStreamElement_global going clock may writes taken data mode,
        issueElem_pushes (if_neg (Bool.eq_false_iff.1 writes)).symm low translated covers whole noParts noSpans permits mayGo⟩
  case perform =>
    intro t g s e a y s' found serves good going turn inside
    have performs : exec (.slicePerform ⟨.stream t g e.n, .clean⟩) s = .next (s'.performElem t g e false) :=
      congrArg Host.Outcome.next (performRef_stream found serves good going turn)
    obtain ⟨p, rfl⟩ : ∃ p, s' = { s with passed := p } := by
      obtain ⟨_, served⟩ | ⟨_, rfl⟩ := serves
      · exact servedAt_passed served
      · exact ⟨_, rfl⟩
    exact ⟨fun v reads value => ⟨_, performs, performElem_reads (s := { s with passed := p }) inside reads value⟩,
      fun m writes whole stores => ⟨_, performs, performElem_writes (s := { s with passed := p }) inside writes whole stores⟩⟩

end Sys2Proof

/-! The matrix array (R213-R227). -/

namespace Sys2Proof

open Sys2Proof.Machine

/-! What leaves an array as it is. -/

theorem matrix_modTile (s : State) (u t : TileId) {f : Tile → Tile} (keeps : ∀ x, (f x).matrix = x.matrix) :
    ((s.modTile u f).tile t).matrix = (s.tile t).matrix := by
  by_cases same : t = u
  · subst same
    rw [State.tile_modTile_same, keeps]
  · rw [State.tile_modTile_other s same]

theorem matrix_sendWord (s : State) (u : TileId) (j : Nat) (x : Entry) (k : TileId) : ((s.sendWord u j x).tile k).matrix = (s.tile k).matrix :=
  matrix_modTile s u k (f := (·.modSink j fun y => { y with inflight := y.inflight ++ [x], sent := y.sent ++ [s.nextSeq] })) fun _ => rfl

theorem matrix_launch (s : State) (t : TileId) (e : Nat) (x : Entry) (k : TileId) : ((s.launch t e x).tile k).matrix = (s.tile k).matrix := by
  unfold State.launch
  split
  · split
    · exact matrix_sendWord s _ _ x k
    · exact matrix_modTile s _ k fun _ => rfl
  · split <;> rfl

/-- An entry sent from a source leaves every array as it is. -/
theorem matrix_emit (s : State) (t : TileId) (e : Nat) (w : BitVec 256) (kind : BitVec 4) (k : TileId) :
    ((s.emit t e w kind).tile k).matrix = (s.tile k).matrix :=
  (matrix_launch _ t e _ k).trans (matrix_modTile s t k fun _ => rfl)

/-- Two changes of an array that agree on what it holds are one. -/
theorem modMatrix_congr {s : State} {k : TileId} {f f' : Matrix → Matrix} (h : f (s.tile k).matrix = f' (s.tile k).matrix) :
    s.modMatrix k f = s.modMatrix k f' :=
  modTile_congr (congrArg (fun m => { s.tile k with matrix := m }) h)

theorem drainTok_setAcc (m : Matrix) (one : Bool) (v : Vector Vec 16) : (m.setAcc one v).drainTok = m.drainTok := by cases one <;> rfl

/-- An array keeps the token of its drain whether or not an accumulator is written. -/
theorem drainTok_ite_setAcc (m : Matrix) (one : Bool) (v : Vector Vec 16) (written : Prop) [Decidable written] :
    (if written then m.setAcc one v else m).drainTok = m.drainTok := by
  split
  · exact drainTok_setAcc m one v
  · rfl

/-! Instructions of major 0x50 (R213, R220, R221, R223-R227). -/

/-- The instruction changes its tile's array to a given one and retires; nothing else differs. -/
def ArrayBecomes (i : Instr) (s : State) (m : Matrix) : Prop := Completes i s fun t => TileStep s t fun x => { x with matrix := m }

/-- The named accumulator may be written: where it is the active one, no run or `mmav` is under way, and else no drain (R221). -/
theorem writeWaits_free {m : Matrix} {one : Bool} (active : one = m.act → m.run = false ∧ m.busy = false)
    (loading : one ≠ m.act → m.drain = false) : m.writeWaits one = false := by
  unfold Matrix.writeWaits
  split
  case isTrue named =>
    obtain ⟨still, free⟩ := active named
    rw [still, free, Bool.or_self]
  case isFalse other => exact loading other

/-- Every instruction of the major first asks who owns the array and whether a run ended with a fault. -/
theorem exec_matrixForms {s : State} {g : Guard} {o : FmtQ} (runs : Runs s g) {i : Instr}
    (form : i ∈ [Instr.mma g o, .mmav g o, .mzero g o, .mswap g o, .mrd g o, .mwr g o, .mdrain g o, .mcfg g o, .mcfgGive g o]) :
    ∃ effect, exec i s = .next (s.matrixOp effect) := by
  have issues : ∃ effect, exec i s = .next (s.issue g (·.matrixOp effect)) := by
    simp only [List.mem_cons, List.not_mem_nil, or_false] at form
    obtain rfl | rfl | rfl | rfl | rfl | rfl | rfl | rfl | rfl := form <;> exact ⟨_, rfl⟩
  obtain ⟨effect, does⟩ := issues
  exact ⟨effect, by rw [does, issue_runs runs]⟩

section Traps

variable {s : State} (untrapped : s.cur.trapped = false) (effect : Matrix → State → State)
include untrapped

/-- In a context that does not own the array it raises ILL (R213). -/
theorem matrixOp_unowned (unowned : s.curTile.matrix.owner ≠ some s.ctx) : Trapped s (s.matrixOp effect) Cause.ill 0 s.curWord := by
  rw [State.matrixOp, if_pos unowned]
  exact trapIll_enters untrapped

/-- In the owner it takes the fault that ended the last run, and clears it (R220). -/
theorem matrixOp_faulted (owned : s.curTile.matrix.owner = some s.ctx) (held : s.curTile.matrix.cause ≠ 0) :
    Trapped (s.modCurTile fun x => { x with matrix := { s.curTile.matrix with cause := 0 } }) (s.matrixOp effect)
      s.curTile.matrix.cause 0 s.curTile.matrix.faultWord := by
  rw [State.matrixOp, if_neg (not_not_intro owned), if_pos held]
  refine trapped_trap (s := s.modCurTile fun x => { x with matrix := { s.curTile.matrix with cause := 0 } }) ?_ _ 0 _
  simpa [State.cur, State.ctxAt, State.modCurTile] using untrapped

end Traps

section Effects

variable {s : State} {g : Guard} {o : FmtQ} (runs : Runs s g) (owned : s.curTile.matrix.owner = some s.ctx) (clean : s.curTile.matrix.cause = 0)
include runs owned clean

section Idle

variable (still : s.curTile.matrix.run = false) (free : s.curTile.matrix.busy = false)
include still free

/-- `mma` starts a run of S(S1) firings, or one without end (R224). -/
theorem mma_starts (configured : s.curTile.matrix.cvalid = true) :
    ArrayBecomes (.mma g o) s { s.curTile.matrix with
      run := true, fired := 0, remaining := if s.getS o.s1 = 0 then none else some (s.getS o.s1).toNat } := by
  have endless : (s.getS o.s1).toNat = 0 ↔ s.getS o.s1 = 0 := by simp [← BitVec.toNat_inj]
  exact matrixOp_tileStep rfl runs owned clean _ _ (by simp only [endless])
    ((if_neg (by simp [configured])).trans (if_neg (by simp [still, free])))

/-- `mmav` fires from two registers, and the array is busy (R225). -/
theorem mmav_fires (configured : s.curTile.matrix.cvalid = true) :
    ArrayBecomes (.mmav g o) s { s.curTile.matrix.fireVectors (s.getV o.s1) (s.getV o.s2) with busy := true } :=
  matrixOp_tileStep rfl runs owned clean _ _ (by rfl)
    ((if_neg (by simp [configured])).trans (if_neg (by simp [still, free])))

variable (undrained : s.curTile.matrix.drain = false)
include undrained

/-- `mswap` inverts ACT (R223). -/
theorem mswap_inverts : ArrayBecomes (.mswap g o) s { s.curTile.matrix with act := !s.curTile.matrix.act } :=
  matrixOp_tileStep rfl runs owned clean _ _ (by rfl) (if_neg (by simp [still, free, undrained]))

/-- `mcfg` writes a configuration that its checks accept (R227). -/
theorem mcfg_configures (accepted : s.curTile.mcfgOk s.ctx (s.getS o.s1) = true) :
    ArrayBecomes (.mcfg g o) s { s.curTile.matrix with config := (s.getS o.s1).truncate 32, cvalid := true } :=
  matrixOp_tileStep rfl runs owned clean _ _ (by rfl)
    ((if_neg (by simp [accepted])).trans (if_neg (by simp [still, free, undrained])))

/-- `mcfg.give` hands the array to the context that S(S1) numbers (R227). -/
theorem mcfgGive_gives {c : Fin 4} (named : s.getS o.s1 = BitVec.ofNat 64 c.val) :
    ArrayBecomes (.mcfgGive g o) s { s.curTile.matrix with owner := some c } := by
  have number : (s.getS o.s1).toNat = c.val := by
    rw [named, BitVec.toNat_ofNat]
    omega
  have context : (⟨(s.getS o.s1).toNat % 4, Nat.mod_lt _ (by decide)⟩ : Fin 4) = c := Fin.ext (by simp only [number]; omega)
  refine matrixOp_tileStep rfl runs owned clean (fun m => { m with owner := some c }) _ rfl ?_
  rw [if_neg (by omega), if_neg (by simp [still, free, undrained]), context]

end Idle

section Accumulators

variable (active : accOf o = s.curTile.matrix.act → s.curTile.matrix.run = false ∧ s.curTile.matrix.busy = false)
include active

/-- `mrd` reads a row of the named accumulator (R223). -/
theorem mrd_reads : Completes (.mrd g o) s fun t => WroteV s t o.d (s.curTile.matrix.acc (accOf o))[s.rowOf o] := by
  refine ⟨_, matrixOp_runs rfl runs owned clean (if_neg ?free), wroteV_writeV s _ _⟩
  case free =>
    intro waits
    simp only [Bool.and_eq_true, decide_eq_true_eq] at waits
    obtain ⟨named, busy⟩ := waits
    obtain ⟨still, free⟩ := active named
    simp [still, free] at busy

variable (loading : accOf o ≠ s.curTile.matrix.act → s.curTile.matrix.drain = false)
include loading

/-- `mzero` clears the named accumulator (R223). -/
theorem mzero_clears : ArrayBecomes (.mzero g o) s (s.curTile.matrix.setAcc (accOf o) (Vector.replicate 16 0)) :=
  matrixOp_tileStep rfl runs owned clean _ _ (by rfl) (if_neg (by simp [writeWaits_free active loading]))

/-- `mwr` writes one of its rows (R223). -/
theorem mwr_writes : ArrayBecomes (.mwr g o) s
    (s.curTile.matrix.setAcc (accOf o) ((s.curTile.matrix.acc (accOf o)).set (s.rowOf o) (s.getV o.s2))) :=
  matrixOp_tileStep rfl runs owned clean _ _ (by rfl) (if_neg (by simp [writeWaits_free active loading]))

end Accumulators

/-- `mdrain` starts a drain to an output port that no run forwards on and whose channel takes the accumulator's type (R226). -/
theorem mdrain_starts {e : Nat} (port : s.cur.port o.port = .output e) (unforwarded : s.curTile.forwardPort s.ctx o.port = false)
    (typed : s.curTile.matrix.drainType (s.sourceType s.here e) = true) (undrained : s.curTile.matrix.drain = false)
    (unheld : s.curTile.matrix.swapWait = none) :
    ArrayBecomes (.mdrain g o) s { s.curTile.matrix with
      drain := true, drainPort := o.port, drainTok := o.tok, drainZero := o.m7.getLsbD 0, drainPos := 0 } := by
  refine matrixOp_tileStep rfl runs owned clean (fun m => { m with
    drain := true, drainPort := o.port, drainTok := o.tok, drainZero := o.m7.getLsbD 0, drainPos := 0 }) _ rfl ?_
  simp only [port]
  rw [if_neg (by simp [unforwarded, typed]), if_neg (by simp [undrained, unheld])]

end Effects

/-- Settles O10: each instruction is a `State.matrixOp`, whose effect is the change that its rule says where nothing holds it back. -/
theorem matrixInstructions : Obligations.MatrixInstructions := by
  refine ⟨fun g o s runs => ?effects, fun g o s i runs untrapped form => ?traps⟩
  case effects =>
    intro x m w one row becomes owned clean
    exact ⟨fun configured still free => ⟨mma_starts runs owned clean still free configured, mmav_fires runs owned clean still free configured⟩,
      fun active loading => ⟨mzero_clears runs owned clean active loading, mwr_writes runs owned clean active loading⟩,
      fun still free undrained => ⟨mswap_inverts runs owned clean still free undrained, mcfg_configures runs owned clean still free undrained,
        fun c named => mcfgGive_gives runs owned clean still free undrained named⟩,
      mrd_reads runs owned clean,
      fun e port unforwarded typed undrained unheld => mdrain_starts runs owned clean port unforwarded typed undrained unheld⟩
  case traps =>
    obtain ⟨effect, does⟩ := exec_matrixForms runs form
    exact ⟨fun unowned => ⟨_, does, matrixOp_unowned untrapped effect unowned⟩,
      fun owned held => ⟨_, does, matrixOp_faulted untrapped effect owned held⟩⟩

/-! Happenings of an array (R217-R219, R225, R226). -/

/-- One firing of a run: FIRED counts it, and the last one of a run with an end ends it (R218, R224). -/
def Machine.Matrix.fires (m : Matrix) (a b : Nat) : Matrix :=
  let m := { m.fire a b with fired := m.fired + 1 }
  match m.remaining with
  | none => m
  | some n => if n ≤ 1 then { m with remaining := none, run := false } else { m with remaining := some (n - 1) }

/-- The entry of a drain that is due, sent from a source: a part of a row, or behind the last of them the token (R226). -/
def Machine.State.drainSent (s : State) (k : TileId) (e : Nat) : State :=
  let x := s.tile k
  let per := 64 / x.cfg.sourceBytes e
  let p := x.matrix.drainPos
  let row := (x.matrix.acc (!x.matrix.act))[(⟨p / per % 16, Nat.mod_lt _ (by decide)⟩ : Fin 16)]
  let n := 8 * x.cfg.sourceBytes e
  if p < 16 * per then s.emit k e (BitVec.ofNat 256 (field row (n * (p % per)) n)) Kind.data else s.emit k e 0 x.matrix.drainTok

/-- An array of which entry `p` has been sent, `per` to a row: with the last of the rows the accumulator is zeroed where it is to be, and with
the last entry the drain ends (R226). -/
def Machine.Matrix.drained (m : Matrix) (p per : Nat) : Matrix :=
  let m := if p + 1 = 16 * per && m.drainZero then m.setAcc (!m.act) (Vector.replicate 16 0) else m
  { m with drainPos := p + 1, drain := !decide (p + (if m.drainTok = 0 then 1 else 0) = 16 * per) }

theorem matrix_drainSent (s : State) (k : TileId) (e : Nat) : ((s.drainSent k e).tile k).matrix = (s.tile k).matrix := by
  unfold State.drainSent
  dsimp only
  split <;> exact matrix_emit s k e _ _ k

@[simp] theorem stalled_drainSent (s : State) (k : TileId) (e : Nat) : (s.drainSent k e).stalled = s.stalled := by
  unfold State.drainSent
  dsimp only
  split <;> exact stalled_emit s k e _ _

/-- The last entry of a drain is the token, or where there is none the last part of the last row. -/
theorem drain_last (tok : BitVec 4) (p rows : Nat) :
    (if tok ≠ 0 then decide (p = rows) else decide (p + 1 = rows)) = decide (p + (if tok = 0 then 1 else 0) = rows) := by
  by_cases none : tok = 0
  · rw [if_neg (not_not_intro none), if_pos none]
  · rw [if_pos none, if_neg none, Nat.add_zero]

section Happenings

variable {s : State} {k : TileId} {c : Fin 4}

theorem execMmavDone_ends (busy : (s.tile k).matrix.busy = true) : execMmavDone k s = .next (s.modMatrix k fun m => { m with busy := false }) :=
  if_pos busy

variable (running : (s.tile k).snapped = false)
include running

section Pairs

variable {a b : Entry} (heads : (s.tile k).operands = some (c, some a, some b)) (unheld : (s.tile k).matrix.swapWait = none)
include heads unheld

/-- Heads that are different tokens, or a token and DATA, end the run with CHAN (R219). -/
theorem execMatrixTokenPair_mismatch (differ : a.kind ≠ b.kind) (noErrA : a.kind ≠ Kind.err) (noErrB : b.kind ≠ Kind.err) :
    execMatrixTokenPair k s = .next (s.modMatrix k (·.endWith Cause.chan (BitVec.ofNat 64 (a.kind.toNat * 16 + b.kind.toNat)))) := by
  simp only [execMatrixTokenPair, heads, running, unheld, Option.isSome_none, beq_false_of_ne noErrA, beq_false_of_ne noErrB,
    Bool.false_eq_true, if_false, if_pos differ]

variable (room : (s.tile k).canForward c = true)
include room

/-- Two DATA heads are taken, forwarded and fired (R218). -/
theorem execMatrixFire_fires (dataA : a.kind = Kind.data) (dataB : b.kind = Kind.data) :
    execMatrixFire k s = .next ((s.takePair k c a b true).modMatrix k (·.fires a.word.toNat b.word.toNat)) := by
  simp only [execMatrixFire, heads, running, unheld, room, dataA, dataB, Option.isNone_none, decide_true, Bool.and_self, Bool.false_eq_true,
    if_false, if_true]
  rfl

/-- Two SWAP heads are taken; the exchange follows at once, or waits for a drain that is under way (R219). -/
theorem execMatrixSwapToken_takes (swapA : a.kind = Kind.swap) (swapB : b.kind = Kind.swap) :
    execMatrixSwapToken k s = .next (if (s.tile k).matrix.drain
      then (s.takePair k c a b false).modMatrix k fun m => { m with swapWait := some (a.word, b.word) }
      else (s.takePair k c a b false).exchange k c (a.word, b.word)) := by
  simp only [execMatrixSwapToken, heads, running, unheld, room, swapA, swapB, decide_true, Bool.and_self, Bool.false_eq_true, if_false, if_true]

/-- Two heads that are one other token are taken and forwarded, and EOI ends the run (R219). -/
theorem execMatrixTokenPair_forwards (same : a.kind = b.kind) (noData : a.kind ≠ Kind.data) (noSwap : a.kind ≠ Kind.swap)
    (noErr : a.kind ≠ Kind.err) :
    execMatrixTokenPair k s = .next (if a.kind = Kind.eoi
      then (s.takePair k c a b true).modMatrix k fun m => { m with run := false, remaining := none } else s.takePair k c a b true) := by
  simp only [execMatrixTokenPair, heads, running, unheld, room, Option.isSome_none, ← same, beq_false_of_ne noErr, noData, noSwap, ne_eq,
    not_true_eq_false, decide_false, Bool.not_true, Bool.or_self, Bool.false_eq_true, if_false]

end Pairs

section Errors

variable {a b : Option Entry} {e : Entry} (heads : (s.tile k).operands = some (c, a, b)) (unheld : (s.tile k).matrix.swapWait = none)
include heads unheld

/-- An ERR at WPORT is taken alone and forwarded on EPORT, and the run ends with POISON (R219). -/
theorem execMatrixTokenPair_errWest (west : a = some e) (err : e.kind = Kind.err)
    (room : (s.tile k).matrix.evalid = true → (s.tile k).portCredit c (s.tile k).matrix.eport = true) :
    execMatrixTokenPair k s = .next (((s.takePort k c (s.tile k).matrix.wport 1).forward k c (s.tile k).matrix.evalid (s.tile k).matrix.eport
      e.word e.kind).modMatrix k (·.endWith Cause.poison (e.word.truncate 64))) := by
  subst west
  have credit : ((s.tile k).matrix.evalid && !(s.tile k).portCredit c (s.tile k).matrix.eport) = false := by simpa using room
  simp only [execMatrixTokenPair, heads, running, unheld, err, credit, Option.isSome_none, beq_self_eq_true, Option.getD_some,
    Bool.false_eq_true, if_false, if_true]

/-- One at NPORT is, where WPORT has none, and goes to SPORT (R219). -/
theorem execMatrixTokenPair_errNorth (north : b = some e) (err : e.kind = Kind.err) (west : ∀ f, a = some f → f.kind ≠ Kind.err)
    (room : (s.tile k).matrix.svalid = true → (s.tile k).portCredit c (s.tile k).matrix.sport = true) :
    execMatrixTokenPair k s = .next (((s.takePort k c (s.tile k).matrix.nport 1).forward k c (s.tile k).matrix.svalid (s.tile k).matrix.sport
      e.word e.kind).modMatrix k (·.endWith Cause.poison (e.word.truncate 64))) := by
  subst north
  have credit : ((s.tile k).matrix.svalid && !(s.tile k).portCredit c (s.tile k).matrix.sport) = false := by simpa using room
  cases a with
  | none =>
    simp only [execMatrixTokenPair, heads, running, unheld, err, credit, Option.isSome_none, beq_self_eq_true, Option.getD_some,
      Bool.false_eq_true, if_false, if_true]
  | some f =>
    simp only [execMatrixTokenPair, heads, running, unheld, err, credit, beq_false_of_ne (west f rfl), Option.isSome_none, beq_self_eq_true,
      Option.getD_some, Bool.false_eq_true, if_false, if_true]

end Errors

/-- A SWAP that has waited exchanges the accumulators once no drain is under way (R219). -/
theorem execMatrixSwapToken_exchanges {a b : Option Entry} {words : BitVec 256 × BitVec 256} (heads : (s.tile k).operands = some (c, a, b))
    (held : (s.tile k).matrix.swapWait = some words) (undrained : (s.tile k).matrix.drain = false) (room : (s.tile k).canForward c = true) :
    execMatrixSwapToken k s = .next (s.exchange k c words) := by
  simp only [execMatrixSwapToken, heads, running, held, undrained, room, Bool.not_true, Bool.or_self, Bool.false_eq_true, if_false]

/-- A drain sends the entry that is due, for a credit (R226). -/
theorem execDrainEntry_sends {e : Nat} (draining : (s.tile k).matrix.drain = true) (owned : (s.tile k).matrix.owner = some c)
    (port : (s.tile k).ctxs[c].port (s.tile k).matrix.drainPort = .output e) (credit : ((s.tile k).source e).credits ≠ 0) :
    execDrainEntry k s = .next ((s.drainSent k e).modMatrix k (·.drained (s.tile k).matrix.drainPos (64 / (s.tile k).cfg.sourceBytes e))) := by
  simp only [execDrainEntry, draining, running, owned, port, Bool.not_false, Bool.and_self, if_neg credit]
  refine congrArg Host.Outcome.next (modMatrix_congr (s := s.drainSent k e) ?_)
  simp only [matrix_drainSent, Matrix.drained, drainTok_ite_setAcc, drain_last]

end Happenings

@[simp] theorem stalled_exchange (s : State) (k : TileId) (c : Fin 4) (words : BitVec 256 × BitVec 256) : (s.exchange k c words).stalled = s.stalled := by
  simp [State.exchange]

/-- Settles O11: each happening takes the branch of its meaning that the heads, the credits and the drain choose. -/
theorem matrixHappenings : Obligations.MatrixHappenings := by
  refine fun k s => ⟨fun busy => ?busyEnds, fun c a b heads running room unheld => ⟨fun dataA dataB => ?fires,
      fun swapA swapB => ⟨fun undrained => ?exchanges, fun drains => ?waits⟩, fun same noData noSwap noErr => ?forwards⟩,
    fun c a b heads running unheld err room => ?west, fun c a b heads running unheld err west room => ?north,
    fun c a b heads running unheld differ noErrA noErrB => ?mismatch,
    fun c a b words heads running held undrained room => ?exchangesLate, fun c e draining running owned port credit => ?drains⟩
  case busyEnds => exact ⟨_, execMmavDone_ends busy, rfl, tileOnly_modTile s k fun _ => rfl⟩
  case fires => exact ⟨_, execMatrixFire_fires running heads unheld room dataA dataB, by simp, rfl⟩
  case exchanges =>
    exact ⟨_, (execMatrixSwapToken_takes running heads unheld room swapA swapB).trans (by rw [undrained]; rfl), by simp, rfl⟩
  case waits =>
    exact ⟨_, (execMatrixSwapToken_takes running heads unheld room swapA swapB).trans (by rw [drains]; rfl), by simp, rfl⟩
  case forwards =>
    refine ⟨_, execMatrixTokenPair_forwards running heads unheld room same noData noSwap noErr, ?_, rfl⟩
    split <;> simp
  case west => exact ⟨_, execMatrixTokenPair_errWest running heads unheld rfl err room, by simp, rfl⟩
  case north => exact ⟨_, execMatrixTokenPair_errNorth running heads unheld rfl err west room, by simp, rfl⟩
  case mismatch =>
    exact ⟨_, execMatrixTokenPair_mismatch running heads unheld differ noErrA noErrB, rfl, tileOnly_modTile s k fun _ => rfl⟩
  case exchangesLate => exact ⟨_, execMatrixSwapToken_exchanges running heads held undrained room, stalled_exchange s k c words, rfl⟩
  case drains => exact ⟨_, execDrainEntry_sends running draining owned port credit, stalled_drainSent s k e, rfl⟩

end Sys2Proof

/-! Transfers that issue packets (R244). -/

namespace Sys2Proof

open Sys2Proof.Machine

section Engines

/-- The order of transfers with their slack: the least first, of equal ones the earliest accepted (R244). -/
abbrev SlackOrder (a b : Int × Transfer) : Prop := a.1 < b.1 ∨ a.1 = b.1 ∧ a.2.seq ≤ b.2.seq

theorem insertSlack_eq (a : Int × Transfer) (l : List (Int × Transfer)) : insertSlack a l = l.orderedInsert SlackOrder a := by
  induction l with
  | nil => rfl
  | cons b rest ih => simp [insertSlack, List.orderedInsert, ih]

/-- The transfers of an engine that may issue, with their slack (R244). -/
def Machine.State.offersOf (s : State) (d : Fin 8) (e : Fin 64) : List (Int × Transfer) :=
  (s.xfers.filter fun x => x.die == d && x.engine == e && s.mayIssue x).filterMap fun x => (s.slackOf x).map fun k => (k, x)

theorem candidatesOf_eq (s : State) (d : Fin 8) (e : Fin 64) :
    s.candidatesOf d e = (s.offersOf d e).reverse.insertionSort SlackOrder := by
  rw [List.insertionSort, ← funext₂ insertSlack_eq, List.foldr_reverse]
  rfl

variable {s : State} {d : Fin 8} {e : Fin 64}

theorem mem_candidatesOf {x : Transfer} {k : Int} :
    (k, x) ∈ s.candidatesOf d e ↔ x ∈ s.xfers ∧ x.die = d ∧ x.engine = e ∧ s.mayIssue x = true ∧ s.slackOf x = some k := by
  rw [candidatesOf_eq, List.mem_insertionSort, List.mem_reverse]
  simp [State.offersOf, and_assoc]

theorem pairwise_candidatesOf (s : State) (d : Fin 8) (e : Fin 64) : (s.candidatesOf d e).Pairwise SlackOrder := by
  have : Std.Total SlackOrder := ⟨fun a b => by simp only [SlackOrder]; omega⟩
  have : IsTrans _ SlackOrder := ⟨fun a b c => by simp only [SlackOrder]; omega⟩
  rw [candidatesOf_eq]
  exact List.pairwise_insertionSort _ _

/-- The packet that a transfer has ready, a write or else a read, is stamped as it is issued. -/
theorem ready_stamped {x y : Transfer} {k : Int} {n : Nat} {ver : Bool} {p : Packet} (ready : x.ready k n ver = some (p, y)) :
    p.order = n ∧ p.granted = false ∧ p.ver = ver := by
  unfold Transfer.ready at ready
  dsimp only at ready
  split at ready
  · next write =>
    cases ready
    split at write
    · obtain ⟨-, stamped⟩ := Option.ite_none_left_eq_some.1 write
      cases stamped
      exact ⟨rfl, rfl, rfl⟩
    · cases write
  · split at ready <;> cases ready
    exact ⟨rfl, rfl, rfl⟩

/-- What an engine issues: nothing where no transfer that offers has a packet ready, else the packet of the first in order (R244). -/
theorem issuePacket_cases (s : State) (d : Fin 8) (e : Fin 64) :
    (s.issuePacket d e = s ∧ ∀ a ∈ s.candidatesOf d e, a.2.ready a.1 s.nextSeq s.hub.version = none) ∨
      ∃ a ∈ s.candidatesOf d e, ∃ p y, a.2.ready a.1 s.nextSeq s.hub.version = some (p, y) ∧
        s.issuePacket d e = { s.modXfer y.id fun _ => y with nextSeq := s.nextSeq + 1 } ∧
        ∀ b ∈ s.candidatesOf d e, ¬ SlackOrder a b → b.2.ready b.1 s.nextSeq s.hub.version = none := by
  have issues := fun o (h : (s.candidatesOf d e).findSome? (fun a => a.2.ready a.1 s.nextSeq s.hub.version) = o) =>
    show s.issuePacket d e = _ by unfold State.issuePacket; rw [h]
  cases found : (s.candidatesOf d e).findSome? fun a => a.2.ready a.1 s.nextSeq s.hub.version with
  | none => exact .inl ⟨issues _ found, List.findSome?_eq_none_iff.1 found⟩
  | some issued =>
    obtain ⟨before, a, after, split, ready, unready⟩ := List.findSome?_eq_some_iff.1 found
    have sorted := split ▸ pairwise_candidatesOf s d e
    obtain ⟨_, tail, _⟩ := List.pairwise_append.1 sorted
    refine .inr ⟨a, by simp [split], issued.1, issued.2, ready, issues _ found, fun b mem later => ?_⟩
    rw [split, List.mem_append, List.mem_cons] at mem
    obtain first | rfl | last := mem
    · exact unready b first
    · exact absurd (.inr ⟨rfl, Nat.le_refl _⟩) later
    · exact absurd (List.rel_of_pairwise_cons tail last) later

/-- The clocks of a cycle of an engine: engine 0 counts its die's cycles, and the engine's beacons grow older (R240). -/
def Machine.State.aged (s : State) (d : Fin 8) (e : Fin 64) : State :=
  { (if e = 0 then s.modDie d fun x => { x with clock := x.clock + 1 } else s) with
    beacons := s.beacons.map fun b => if b.die = d ∧ b.engine = e then { b with age := b.age + 1 } else b }

/-- While the clock of its die runs, an engine's transfers go on, a packet is issued, and the clocks go on (R244). -/
theorem execEnginePacketIssue_running (running : s.dies[d].clockStopped = none) : execEnginePacketIssue d e s =
    .next ((((s.candidatesOf d e).foldl (fun s a => s.prepare a.2.id) s).issuePacket d e).aged d e) := by
  refine (if_neg (by rw [running]; simp)).trans ?_
  simp only [State.aged, Bool.and_eq_true, decide_eq_true_eq]
  by_cases first : e = 0
  · simp only [first, if_true]
    rfl
  · simp only [first, if_false]

end Engines

/-- Settles O30: the transfers that offer are sorted by their slack, and the first of them with a packet ready issues it. -/
theorem enginesServeTheLeastSlack : Obligations.EnginesServeTheLeastSlack := by
  intro d e s u offers aged
  refine ⟨fun stopped => if_pos stopped, fun running => ⟨_, execEnginePacketIssue_running running, ?_⟩⟩
  obtain ⟨same, unready⟩ | ⟨⟨k, x⟩, mem, p, y, ready, issued, others⟩ := issuePacket_cases u d e
  · exact .inl ⟨congrArg aged same, fun x k offered => unready (k, x) (mem_candidatesOf.2 offered)⟩
  · obtain ⟨order, granted, version⟩ := ready_stamped ready
    refine .inr ⟨x, k, p, y, mem_candidatesOf.1 mem, ready, order, granted, version, congrArg aged issued, fun z j offered before => ?_⟩
    refine others (j, z) (mem_candidatesOf.2 offered) ?_
    simp only [SlackOrder]
    omega

end Sys2Proof

/-! What waits at an arbiter (R245). -/

namespace Sys2Proof

open Sys2Proof.Machine

/-- Refutes O31: the state gives the class of a peer's request as any number, and a claim has it as it stands. A flit brings a class below 3
(`flitClass`), but in a state whose hub holds a request of class 3 for slice 0, a claim of class 3 waits at arbiter 8, and the last clause
but one denies that. -/
theorem not_arbitersGrantInOrder : ¬ Obligations.ArbitersGrantInOrder := by
  intro holds
  let request : InReq := ⟨0, 1, 0, 0, 0, 0, .read 0 0 8, .hbm 0, false, false, 0, (0, 0), 3, false⟩
  let s : State := { State.reset with hub := { Hub.reset with inbound := [request] } }
  obtain ⟨_, _, classes, _⟩ := holds 8 s
  have waits : accessClaim (.inbound 0) 1 3 0 ∈ if s.serving 8 then [] else s.claims 8 := by decide
  exact absurd (classes _ waits) (by decide)

end Sys2Proof

/-! Transfers issued, read and cancelled (R247-R250, R252, R253, R270-R272). -/

namespace Sys2Proof

open Sys2Proof.Machine

/-- Elements that the issuing context owns and that have no uncorrectable error are read without a fault (R159, R163). -/
theorem scratchFault_none {s : State} {a size n : Nat} (readable : ∀ i, i < n → (a + size * i) % size = 0 ∧
    s.curTile.owned s.ctx (a + size * i) size = true ∧ s.curTile.scratchPoison s.ctx (a + size * i) size = false) :
    s.scratchFault a size size n = none := by
  have element (b : Nat) (mem : b ∈ (List.range n).map fun i => a + size * i) :
      b % size = 0 ∧ s.curTile.owned s.ctx b size = true ∧ s.curTile.scratchPoison s.ctx b size = false := by
    obtain ⟨i, below, rfl⟩ := List.mem_map.1 mem
    exact readable i (List.mem_range.1 below)
  have unfailing := scratchCheck_none (k := 0) fun b mem => ⟨(element b mem).1, (element b mem).2.1⟩
  have sound := poisonCheck_none fun b mem => (element b mem).2.2
  simp only [State.scratchFault, unfailing, sound, Option.map_none]

namespace Machine

/-- The bytes of the descriptor that a transfer instruction names (R249). -/
def State.descBytes (s : State) (o : FmtQ) : Nat := s.curTile.scratchRead s.ctx (s.getS o.s1).toNat 64

/-- The offsets of its rows that a gather or scatter takes from scratch; another form takes none (R253). -/
def State.rowOffsets (s : State) (f : XForm) (o : FmtQ) : List Word :=
  if f = .gather ∨ f = .scatter then
    (List.range (descOf (s.descBytes o)).count1).map fun i => BitVec.ofNat 64 (s.curTile.scratchRead s.ctx ((s.getS o.s2).toNat + 8 * i) 8)
  else []

/-- The lowest byte offset of a rule that a transfer instruction's descriptor or offsets break (R250). -/
def State.brokenAt (s : State) (r : Region) (f : XForm) (o : FmtQ) : Option Nat :=
  lowestBroken (s.brokenFields r f (s.descBytes o) ++
    if f = .gather ∨ f = .scatter then s.brokenOffsets r f (s.descBytes o) (s.rowOffsets f o) else [])

/-- The kind of a transfer that an instruction of a form starts. -/
def XForm.kind : XForm → XKind
  | .plain => .plain
  | .via => .via
  | .gather => .gather
  | .scatter => .scatter

/-- The ports that a via transfer holds from its acceptance on (R252). -/
def State.holdVia (s : State) (d : Desc) : State :=
  if d.vvalid then s.modCur fun c => { c with viaPorts := c.viaPorts ||| (1#16 <<< d.vin) ||| (1#16 <<< d.vret) } else s

/-- The issuing context's transfer accepted: its ports are held, and its id goes to the register (R247, R270). -/
def State.accepted (s : State) (r : Region) (kind : XKind) (o : FmtQ) (d : Desc) (os : List Word) : State :=
  let p := s.accept s.here.dieIx (engineOf o) s.here s.ctx r kind d os
  (p.2.holdVia d).writeS o.d p.1

end Machine

theorem memorySame_accepted (s : State) (r : Region) (kind : XKind) (o : FmtQ) (d : Desc) (os : List Word) :
    MemorySame s (s.accepted r kind o d os) := by
  let p := s.accept s.here.dieIx (engineOf o) s.here s.ctx r kind d os
  have taken : MemorySame s p.2 := ⟨fun _ => rfl, fun _ => rfl, fun _ _ => rfl⟩
  have held : MemorySame p.2 (p.2.holdVia d) := by
    unfold State.holdVia
    split
    · exact (onlyContext_modCur _ _).2
    · exact MemorySame.refl _
  exact (taken.trans held).trans (onlyContext_modCur _ _).2

section Issue

variable {s : State} {o : FmtQ} {f : XForm} {r : Region}

theorem takeTransfer_accepts {d : Desc} {os : List Word} (order : o.ord.getLsbD 1 = true → s.cur.performed o.sco = true)
    (acquired : s.cur.acqPending = false) (free : s.slotFree s.here.dieIx (engineOf o) r.number (s.cur.slotOrder (engineOf o)) = true) :
    s.takeTransfer f o r d os = s.accepted r f.kind o d os := by
  simp only [State.takeTransfer, free, awaits_run order, afterAcquire_run _ acquired]
  rfl

theorem takeTransfer_full {d : Desc} {os : List Word} (full : s.slotFree s.here.dieIx (engineOf o) r.number (s.cur.slotOrder (engineOf o)) = false) :
    s.takeTransfer f o r d os = if o.m7.getLsbD 0 then s.writeS o.d 0 else (s.askSlot (engineOf o)).stall := by
  simp only [State.takeTransfer, full]
  rfl

section Readable

variable (unheld : o.ord.getLsbD 1 = true → s.cur.psf = none) (region : s.regionOf s.here = some r)
  (descriptor : s.scratchFault (s.getS o.s1).toNat 64 64 1 = none)
  (offsets : f = .gather ∨ f = .scatter → s.scratchFault (s.getS o.s2).toNat 8 8 (descOf (s.descBytes o)).count1 = none)
include unheld region descriptor offsets

/-- Where scratch can be read, the lowest broken rule traps, and a descriptor that breaks none goes to its engine (R250, R270). -/
theorem issueTransfer_reads : s.issueTransfer f o = match s.brokenAt r f o with
    | some off => s.trap Cause.xfer (BitVec.ofNat 64 off)
    | none => s.takeTransfer f o r (descOf (s.descBytes o)) (s.rowOffsets f o) := by
  have unfailing : (if (f == .gather || f == .scatter) && (descOf (s.descBytes o)).count1 != 0 then
      s.scratchFault (s.getS o.s2).toNat 8 8 (descOf (s.descBytes o)).count1 else none) = none := by
    split
    · next h => exact offsets (by simpa using (Bool.and_eq_true_iff.1 h).1)
    · rfl
  unfold State.brokenAt State.rowOffsets
  unfold State.descBytes at *
  simp only [State.issueTransfer, takesFault_run unheld, region, descriptor, unfailing, Option.isNone_none, Bool.and_true, Bool.or_eq_true, beq_iff_eq]
  generalize lowestBroken _ = broken
  cases broken <;> rfl

theorem issueTransfer_sound (sound : s.brokenAt r f o = none) :
    s.issueTransfer f o = s.takeTransfer f o r (descOf (s.descBytes o)) (s.rowOffsets f o) := by
  rw [issueTransfer_reads unheld region descriptor offsets, sound]

theorem issueTransfer_broken {off : Nat} (broken : s.brokenAt r f o = some off) : s.issueTransfer f o = s.trap Cause.xfer (BitVec.ofNat 64 off) := by
  rw [issueTransfer_reads unheld region descriptor offsets, broken]

end Readable

end Issue

/-- What an instruction that runs does is its next state. -/
theorem exec_issue {i : Instr} {s u : State} {g : Guard} {effect : State → State} (runs : Runs s g) (he : exec i s = .next (s.issue g effect))
    (does : effect s = u) : exec i s = .next u := by
  rw [he, issue_runs runs, does]

section Named

variable {g : Guard} {o : FmtQ} {s : State} (runs : Runs s g)
include runs

theorem exec_xcancel_unnamed (unnamed : s.named (s.getS o.s1) = none) : exec (.xcancel g o) s = .next s.retire :=
  exec_issue runs rfl (by rw [unnamed])

theorem exec_xcancel_named {x : Transfer} (named : s.named (s.getS o.s1) = some x) :
    exec (.xcancel g o) s = .next (if x.ended then s.retire else (s.endTransfer x .cancelled 0).retire) :=
  exec_issue runs rfl (by rw [named])

end Named

/-- Settles O29: an instruction whose reads of scratch succeed traps, waits or is accepted by its broken rules and its engine's slots. -/
theorem transfersAreAccepted : Obligations.TransfersAreAccepted := by
  intro g o s runs
  refine ⟨fun r region acquired order => ?issue, fun x named => ⟨?status, fun ended => ?ended, fun live => ?cancels⟩,
    fun unnamed => ⟨?none, ?kept⟩⟩
  case issue =>
    intro readable a descriptor v d b os forms
    have form (i : Instr) (f : XForm) (he : exec i s = .next (s.issue g (·.issueTransfer f o)))
        (offsets : f = .gather ∨ f = .scatter → readable b 8 d.count1) : forms i f f.kind (s.rowOffsets f o) := by
      have sound := issueTransfer_sound (fun h => (order h).1) region (scratchFault_none descriptor) fun h => scratchFault_none (offsets h)
      have broken {off : Nat} := issueTransfer_broken (off := off) (fun h => (order h).1) region (scratchFault_none descriptor)
        fun h => scratchFault_none (offsets h)
      refine ⟨fun keeps free => ?accepts, fun keeps full => ?waits, fun untrapped off breaks => ?traps⟩
      case accepts =>
        exact ⟨_, exec_issue runs he ((sound keeps).trans (takeTransfer_accepts (fun h => (order h).2) acquired free)), rfl, memorySame_accepted ..⟩
      case waits =>
        have issued := exec_issue runs he ((sound keeps).trans (takeTransfer_full full))
        exact ⟨fun tries => ⟨_, issued, by rw [if_pos tries]; exact wroteS_writeS _ _ _⟩, fun waits => ⟨_, issued, by rw [waits]; rfl⟩⟩
      case traps => exact ⟨_, exec_issue runs he (broken breaks), trapped_trap untrapped _ _ _⟩
    exact ⟨form _ .plain rfl (by simp), form _ .via rfl (by simp),
      fun offsets => ⟨form _ .gather rfl fun _ => offsets, form _ .scatter rfl fun _ => offsets⟩⟩
  case status => exact writesS_of_issue rfl runs (by rw [named]; rfl)
  case ended => exact ⟨_, exec_xcancel_named runs named, by rw [if_pos ended]; exact retired_retire s⟩
  case cancels => exact ⟨_, exec_xcancel_named runs named, if_neg (by simp [live])⟩
  case none => exact writesS_of_issue rfl runs (by rw [unnamed]; rfl)
  case kept => exact ⟨_, exec_xcancel_unnamed runs unnamed, retired_retire s⟩

end Sys2Proof

/-! Progress counters (R236-R240, R258-R267). -/

namespace Sys2Proof

open Sys2Proof.Machine

/-! What an operation on a counter leaves. -/

/-- A context apart from its record of events (R259). -/
def Machine.Ctx.unrecorded (c : Ctx) : Ctx := { c with events := [], lost := 0, evLate := false }

/-- What an operation on a counter leaves: memory, the place of issue, whether a tile has been snapped, and of a context all but its record
of events. -/
structure KeepsContexts (s u : State) : Prop where
  memory : MemorySame s u
  here : u.here = s.here
  ctx : u.ctx = s.ctx
  snapped : ∀ t, (u.tile t).snapped = (s.tile t).snapped
  ctxs : ∀ t k, (u.ctxAt t k).unrecorded = (s.ctxAt t k).unrecorded

namespace KeepsContexts

variable {s u v : State}

theorem refl (s : State) : KeepsContexts s s := ⟨MemorySame.refl s, rfl, rfl, fun _ => rfl, fun _ _ => rfl⟩

theorem trans (h : KeepsContexts s u) (k : KeepsContexts u v) : KeepsContexts s v :=
  ⟨h.memory.trans k.memory, k.here.trans h.here, k.ctx.trans h.ctx, fun t => (k.snapped t).trans (h.snapped t),
    fun t c => (k.ctxs t c).trans (h.ctxs t c)⟩

theorem foldl {α : Type} {f : State → α → State} (each : ∀ s a, KeepsContexts s (f s a)) (l : List α) (s : State) : KeepsContexts s (l.foldl f s) :=
  List.foldlRecOn (motive := KeepsContexts s) l f (refl s) fun _ h a _ => h.trans (each _ a)

theorem modTile (s : State) (t : TileId) (f : Tile → Tile) (scratch : ∀ x, (f x).scratch = x.scratch) (snapped : ∀ x, (f x).snapped = x.snapped)
    (ctxs : ∀ x (k : Fin 4), ((f x).ctxs[k]).unrecorded = (x.ctxs[k]).unrecorded) : KeepsContexts s (s.modTile t f) := by
  have tile (j : TileId) : (s.modTile t f).tile j = f (s.tile j) ∨ (s.modTile t f).tile j = s.tile j := by
    by_cases h : j = t
    · subst h
      exact .inl (State.tile_modTile_same s j f)
    · exact .inr (State.tile_modTile_other s h f)
  refine ⟨memorySame_modTile s t scratch, rfl, rfl, fun j => ?_, fun j k => ?_⟩
  · obtain h | h := tile j
    · rw [h, snapped]
    · rw [h]
  · unfold State.ctxAt
    obtain h | h := tile j
    · rw [h, ctxs]
    · rw [h]

theorem modCounter (s : State) (t : TileId) (g : Fin 16) (f : Tile → Counter → Counter) : KeepsContexts s (s.modTile t fun x => x.modCounter g (f x)) :=
  modTile s t _ (fun _ => rfl) (fun _ => rfl) fun _ _ => rfl

theorem watches (s : State) (t : TileId) (f : Tile → List Watch) : KeepsContexts s (s.modTile t fun x => { x with watches := f x }) :=
  modTile s t _ (fun _ => rfl) (fun _ => rfl) fun _ _ => rfl

theorem modCtx (s : State) (t : TileId) (k : Fin 4) {f : Ctx → Ctx} (same : ∀ c, (f c).unrecorded = c.unrecorded) : KeepsContexts s (s.modCtx t k f) := by
  refine modTile s t (fun x => x.setCtx k (f x.ctxs[k])) (fun _ => rfl) (fun _ => rfl) fun x j => ?_
  by_cases h : j = k
  · subst h
    rw [Tile.setCtx_same, same]
  · rw [Tile.setCtx_other x h]

theorem recordLate (s : State) (t : TileId) (g : Fin 16) (cycles : Nat) (mark : BitVec 48) (id : Word) :
    KeepsContexts s (s.recordLate t g cycles mark id) := by
  unfold State.recordLate
  refine modCtx s t _ fun c => ?_
  unfold Ctx.event
  dsimp only
  split <;> rfl

/-- The context that issues goes on as it did, but for its record of events. -/
theorem cur (h : KeepsContexts s u) : u.cur.unrecorded = s.cur.unrecorded := by
  unfold State.cur
  rw [h.here, h.ctx]
  exact h.ctxs _ _

/-- What does not rest on the record of events is as it was in the issuing context. -/
theorem reads {α : Type} (h : KeepsContexts s u) (f : Ctx → α) (blind : ∀ c, f c.unrecorded = f c := by exact fun _ => rfl) : f u.cur = f s.cur := by
  rw [← blind, h.cur, blind]

end KeepsContexts

/-- One beacon given to the arbiter of its engine's die (R240). -/
def Machine.State.emitBeacon (t : TileId) (g : Fin 16) (c : Counter) (step : BitVec 4) (s : State) (e : Fin 8 × Fin 64) : State :=
  { s with beaconsOut := s.beaconsOut ++ [⟨e.1, e.2, t, g, c.value, c.rate, step, 0, s.nextSeq, false⟩], nextSeq := s.nextSeq + 1 }

theorem foldl_emitBeacon (t : TileId) (g : Fin 16) (c : Counter) (step : BitVec 4) (l : List (Fin 8 × Fin 64)) (s : State) :
    ∃ out n, out.length = l.length ∧ l.foldl (State.emitBeacon t g c step) s = { s with beaconsOut := s.beaconsOut ++ out, nextSeq := n } := by
  induction l generalizing s with
  | nil => exact ⟨[], s.nextSeq, rfl, by simp⟩
  | cons e rest ih =>
    obtain ⟨out, n, length, sent⟩ := ih (s.emitBeacon t g c step e)
    exact ⟨_ :: out, n, congrArg (· + 1) length, by simpa [State.emitBeacon] using sent⟩

/-- A counter of a tile. -/
def Machine.State.counterAt (s : State) (t : TileId) (g : Fin 16) : Counter := (s.tile t).counters[g]

theorem counterAt_modTile (s : State) (t : TileId) (g : Fin 16) (f : Tile → Counter → Counter) :
    (s.modTile t fun x => x.modCounter g (f x)).counterAt t g = f (s.tile t) (s.counterAt t g) := by
  unfold State.counterAt
  rw [State.tile_modTile_same]
  exact Vector.getElem_set_self _

/-- A counter of which every change of VALUE has been told (R240). -/
def Machine.Counter.told (c : Counter) : Counter := { c with dirty := none }

/-- Beacons to all subscribers (R240): so many more are on their way, and no change of VALUE is left to tell. -/
theorem sendBeacon_all (s : State) (t : TileId) (g : Fin 16) : ∃ out n, out.length = (s.counterAt t g).subs.length ∧
    s.sendBeacon t g none = { s.modTile t (·.modCounter g Counter.told) with beaconsOut := s.beaconsOut ++ out, nextSeq := n } := by
  obtain ⟨out, n, length, sent⟩ := foldl_emitBeacon t g (s.counterAt t g) s.dies[t.dieIx].step (s.counterAt t g).subs s
  exact ⟨out, n, length, congrArg (fun u => u.modTile t (·.modCounter g Counter.told)) sent⟩

theorem tile_sendBeacon (s : State) (t : TileId) (g : Fin 16) :
    (s.sendBeacon t g none).tile t = (s.modTile t (·.modCounter g Counter.told)).tile t := by
  obtain ⟨out, n, -, sent⟩ := sendBeacon_all s t g
  rw [sent]
  rfl

theorem counterAt_sendBeacon (s : State) (t : TileId) (g : Fin 16) : (s.sendBeacon t g none).counterAt t g = (s.counterAt t g).told := by
  rw [← counterAt_modTile s t g fun _ => Counter.told]
  unfold State.counterAt
  simp only [tile_sendBeacon]

theorem KeepsContexts.sendBeacon (s : State) (t : TileId) (g : Fin 16) : KeepsContexts s (s.sendBeacon t g none) := by
  obtain ⟨out, n, -, sent⟩ := sendBeacon_all s t g
  have counters := KeepsContexts.modCounter s t g fun _ => Counter.told
  rw [sent]
  exact ⟨counters.memory, counters.here, counters.ctx, counters.snapped, counters.ctxs⟩

/-- A beacon follows or none: the count stands, and the watches (R240). -/
theorem stepBeacon_keeps (s : State) (t : TileId) (g : Fin 16) (was : BitVec 48) :
    let u := s.stepBeacon t g was
    KeepsContexts s u ∧ (u.tile t).watches = (s.tile t).watches ∧ (u.counterAt t g).value = (s.counterAt t g).value := by
  unfold State.stepBeacon
  dsimp only
  split
  · exact ⟨KeepsContexts.refl s, rfl, rfl⟩
  · refine ⟨KeepsContexts.sendBeacon s t g, ?_, by rw [counterAt_sendBeacon]; rfl⟩
    rw [tile_sendBeacon, State.tile_modTile_same]
    rfl

/-- A change of VALUE, and ACC with it where the change counts as work; an ACC beyond 48 bits uses a free value up (R239). -/
theorem setCounter_changes {s : State} {t : TileId} {g : Fin 16} {v : BitVec 48} (counts : Bool) (changes : v ≠ (s.counterAt t g).value) :
    ∃ acc n, (counts = false → acc = (s.counterAt t g).acc) ∧ s.setCounter t g v counts = State.modTile { s with frees := n } t fun x =>
      x.modCounter g fun c => { c with value := v, acc := acc, dirty := some (c.dirty.getD x.cycle.toNat) } := by
  unfold State.counterAt at *
  unfold State.setCounter
  dsimp only
  rw [if_neg changes]
  by_cases small : (if counts then (s.tile t).counters[g].acc.toNat + (v.toNat - (s.tile t).counters[g].value.toNat)
      else (s.tile t).counters[g].acc.toNat) < 2 ^ 48
  · rw [if_pos small]
    exact ⟨_, s.frees, fun h => by simp [h], rfl⟩
  · rw [if_neg small]
    exact ⟨_, s.frees + 1, fun h => absurd (s.tile t).counters[g].acc.isLt (by rwa [h] at small), rfl⟩

/-- A count set: VALUE is what is given, and ACC changes only where the change counts as work (R239). -/
theorem setCounter_keeps (s : State) (t : TileId) (g : Fin 16) (v : BitVec 48) (counts : Bool) :
    let u := s.setCounter t g v counts
    KeepsContexts s u ∧ (u.tile t).watches = (s.tile t).watches ∧ (u.counterAt t g).value = v ∧
      (counts = false → (u.counterAt t g).acc = (s.counterAt t g).acc) := by
  by_cases same : v = (s.counterAt t g).value
  · rw [show s.setCounter t g v counts = s from if_pos same]
    exact ⟨KeepsContexts.refl s, rfl, same.symm, fun _ => rfl⟩
  · obtain ⟨acc, n, kept, sets⟩ := setCounter_changes counts same
    have frame := KeepsContexts.modCounter { s with frees := n } t g fun x c => { c with value := v, acc := acc, dirty := some (c.dirty.getD x.cycle.toNat) }
    dsimp only
    rw [sets, counterAt_modTile, State.tile_modTile_same]
    exact ⟨⟨frame.memory, frame.here, frame.ctx, frame.snapped, frame.ctxs⟩, rfl, rfl, kept⟩

theorem counterAt_modCtx (s : State) (t : TileId) (k : Fin 4) (f : Ctx → Ctx) (g : Fin 16) : (s.modCtx t k f).counterAt t g = s.counterAt t g := by
  unfold State.counterAt State.modCtx
  simp only [State.tile_modTile_same, Tile.setCtx_counters]

/-- Marks reached are recorded, and change no counter (R258). -/
theorem reachMarks_keeps (s : State) (t : TileId) (g : Fin 16) (was : BitVec 48) :
    let u := s.reachMarks t g was
    KeepsContexts s u ∧ u.counterAt t g = s.counterAt t g := by
  unfold State.reachMarks
  dsimp only
  generalize sortWatches _ = reached
  have recorded : KeepsContexts s (reached.foldl (fun s w => s.recordLate t g 0 w.mark w.id) s) :=
    KeepsContexts.foldl (fun s w => KeepsContexts.recordLate s t g 0 w.mark w.id) reached s
  have kept : (reached.foldl (fun s w => s.recordLate t g 0 w.mark w.id) s).counterAt t g = s.counterAt t g :=
    List.foldlRecOn (motive := fun u : State => u.counterAt t g = s.counterAt t g) reached _ rfl fun u h w _ => (counterAt_modCtx u t _ _ g).trans h
  refine ⟨recorded.trans (KeepsContexts.watches _ t _), Eq.trans ?_ kept⟩
  unfold State.counterAt
  simp only [State.tile_modTile_same]

/-- An operation on the issuing context's tile, after which its instruction retires. -/
theorem KeepsContexts.retires {s u : State} (h : KeepsContexts s u) : u.retire.cur.pc = s.cur.pc + 1 ∧ u.retire.cur.s = s.cur.s ∧ MemorySame s u.retire ∧
    ∀ k, u.retire.curTile.counters[k] = u.counterAt s.here k := by
  refine ⟨?_, ?_, h.memory.trans (onlyContext_modCur u _).2, fun k => ?_⟩
  · rw [State.retire, State.cur_modCur, ← h.reads Ctx.pc]
    rfl
  · rw [State.retire, State.cur_modCur, ← h.reads Ctx.s]
    rfl
  · rw [← h.here]
    exact counterAt_modCtx u _ _ _ k

/-! The wait for a counter's watches (R265). -/

theorem mem_sortCovered {w : Covered} {l : List Covered} : w ∈ sortCovered l ↔ w ∈ l := by
  have inserted (a : Covered) (l : List Covered) : w ∈ insertCovered a l ↔ w = a ∨ w ∈ l := by
    induction l with
    | nil => simp [insertCovered]
    | cons b rest ih =>
      unfold insertCovered
      split
      · exact List.mem_cons
      · rw [List.mem_cons, ih, List.mem_cons]
        exact or_left_comm
  induction l with
  | nil => rfl
  | cons a rest ih => exact (inserted a _).trans ((or_congr_right ih).trans List.mem_cons.symm)

section Settle

variable {s : State} {t : TileId} {k : Fin 4} {g : Fin 16} {seen : List Covered} {since : Nat} (waits : (s.ctxAt t k).wait = .gwait g seen since)
include waits

/-- While a watch that it covers is left, or its tile has been snapped, a `gwait` waits. -/
theorem settleGwait_waits (held : (s.tile t).snapped = true ∨ ∃ w ∈ (s.tile t).watches, w.coveredBy g (s.counterAt t g).value = true) :
    s.settleGwait t k = s := by
  unfold State.ctxAt at waits
  unfold State.settleGwait
  simp only [waits]
  exact if_pos (by simpa [State.counterAt] using held)

/-- With none left, and no event to record, it ends: it retires, or traps by the first FAILED watch that it covered. -/
theorem settleGwait_ends (unsnapped : (s.tile t).snapped = false) (free : ∀ w ∈ (s.tile t).watches, w.coveredBy g (s.counterAt t g).value = false)
    (timely : ∀ w ∈ seen, w.late = false) :
    let u := s.modCtx t k fun c => { c with wait := .none }
    s.settleGwait t k = match (sortCovered seen).find? (·.failed) with
      | none => u.modCtx t k fun c => { c with retired := c.retired + 1 }
      | some w => u.trapIn t k Cause.xfer (u.ctxAt t k).pc 0 w.id := by
  have quiet : (sortCovered seen).foldl (fun s w => if w.late then s.recordLate t g w.cycles w.mark w.id else s) s = s := by
    refine List.foldlRecOn (motive := (· = s)) _ _ rfl fun u same w mem => ?_
    rw [timely w (mem_sortCovered.1 mem), same]
    rfl
  unfold State.ctxAt at waits
  unfold State.settleGwait
  simp only [waits]
  refine (if_neg ?_).trans ?_
  · simpa [State.counterAt, unsnapped] using free
  · rw [quiet] <;> rfl

end Settle

namespace Machine

/-- A watch that a `gwait` covers is late from then on (R265). -/
def Watch.awaited (g : Fin 16) (v : BitVec 48) (w : Watch) : Watch := if w.coveredBy g v && !w.late then { w with late := true, byWait := true } else w

/-- What is left of the watches when a `gwait` covers some: its FAILED ones are removed, its others late. -/
def awaitedOf (g : Fin 16) (v : BitVec 48) (ws : List Watch) : List Watch := (ws.filter fun w => !(w.coveredBy g v && w.failed)).map (·.awaited g v)

/-- The FAILED watches that a `gwait` removes at once. -/
def failedOf (g : Fin 16) (v : BitVec 48) (ws : List Watch) : List Covered :=
  (ws.filter fun w => w.coveredBy g v && w.failed).map fun w => ⟨w.mark, w.id, false, 0, true⟩

/-- VALUE raised to a mark, as work (R265). -/
def State.raised (s : State) (g : Fin 16) (v : BitVec 48) : State :=
  (s.setCounter s.here g v true).stepBeacon s.here g (s.curTile.counters[g]).value

/-- The issuing context of a tile waits for a counter's watches from the next index on. -/
def State.startWait (s : State) (t : TileId) (g : Fin 16) (v : BitVec 48) : State :=
  (s.modTile t fun x => { x with watches := awaitedOf g v x.watches }).modCur fun c =>
    { c with pc := c.pc + 1, wait := .gwait g (failedOf g v s.curTile.watches) s.curTile.cycle.toNat }

end Machine

theorem mem_awaitedOf_covered {g : Fin 16} {v : BitVec 48} {ws : List Watch} {w : Watch} (mem : w ∈ awaitedOf g v ws) (covered : w.coveredBy g v = true) :
    w.late = true ∧ ∃ w ∈ ws, w.coveredBy g v = true ∧ w.failed = false := by
  obtain ⟨x, kept, rfl⟩ := List.mem_map.1 mem
  obtain ⟨own, sound⟩ := List.mem_filter.1 kept
  have same : (x.awaited g v).coveredBy g v = x.coveredBy g v := by
    unfold Watch.awaited
    split <;> rfl
  rw [same] at covered
  refine ⟨?_, x, own, covered, by simpa [covered] using sound⟩
  unfold Watch.awaited
  cases late : x.late <;> simp [covered, late]

theorem exists_awaitedOf {g : Fin 16} {v : BitVec 48} {ws : List Watch} {w : Watch} (mem : w ∈ ws)
    (covered : w.coveredBy g v = true) (sound : w.failed = false) : ∃ w ∈ awaitedOf g v ws, w.coveredBy g v = true := by
  refine ⟨_, List.mem_map_of_mem (List.mem_filter.2 ⟨mem, by simp [sound]⟩), ?_⟩
  unfold Watch.awaited
  split <;> exact covered

/-- A `gwait`'s VALUE is raised, and the watches stand as they did (R265). -/
theorem raised_keeps (s : State) (g : Fin 16) (v : BitVec 48) :
    let u := s.raised g v
    KeepsContexts s u ∧ u.curTile.watches = s.curTile.watches ∧ (u.counterAt u.here g).value = v := by
  obtain ⟨sets, watches, value, -⟩ := setCounter_keeps s s.here g v true
  obtain ⟨tells, same, told⟩ := stepBeacon_keeps (s.setCounter s.here g v true) s.here g (s.curTile.counters[g]).value
  have frame : KeepsContexts s (s.raised g v) := sets.trans tells
  refine ⟨frame, ?_, ?_⟩
  · rw [State.curTile, frame.here]
    exact same.trans watches
  · rw [frame.here]
    exact told.trans value

section Wait

variable (s : State) (g : Fin 16) (v : BitVec 48)

theorem cur_startWait : (s.startWait s.here g v).cur =
    { s.cur with pc := s.cur.pc + 1, wait := .gwait g (failedOf g v s.curTile.watches) s.curTile.cycle.toNat } := by
  unfold State.startWait
  rw [State.cur_modCur]
  unfold State.cur State.ctxAt
  simp only [State.modTile_here, State.modTile_ctx, State.tile_modTile_same]

theorem tile_startWait : ∃ c, (s.startWait s.here g v).tile s.here = { s.curTile with watches := awaitedOf g v s.curTile.watches, ctxs := c } := by
  unfold State.startWait State.modCur State.modCtx
  simp only [State.modTile_here, State.tile_modTile_same]
  exact ⟨_, rfl⟩

theorem memorySame_startWait (t : TileId) : MemorySame s (s.startWait t g v) :=
  (KeepsContexts.watches s t _).memory.trans (onlyContext_modCur _ _).2

end Wait

/-! What a `gwait` does at once (R265). -/

/-- The issuing context at the start of its wait: VALUE raised, the watches that it covers late or removed. -/
def Machine.State.waiting (s : State) (g : Fin 16) (v : BitVec 48) : State := (s.raised g v).startWait (s.raised g v).here g v

section Waiting

variable (s : State) (g : Fin 16) (v : BitVec 48)

/-- Apart from its record of events, the context differs in PC and in what it waits for. -/
theorem cur_waiting : ∃ since, (s.waiting g v).cur.unrecorded =
    { s.cur.unrecorded with pc := s.cur.pc + 1, wait := .gwait g (failedOf g v s.curTile.watches) since } := by
  obtain ⟨frame, watches, -⟩ := raised_keeps s g v
  rw [← frame.cur, ← frame.reads Ctx.pc, ← watches]
  exact ⟨_, congrArg Ctx.unrecorded (cur_startWait (s.raised g v) g v)⟩

theorem tile_waiting : (s.waiting g v).curTile.watches = awaitedOf g v s.curTile.watches ∧ (s.waiting g v).curTile.snapped = s.curTile.snapped ∧
    ((s.waiting g v).counterAt (s.waiting g v).here g).value = v := by
  obtain ⟨frame, watches, value⟩ := raised_keeps s g v
  obtain ⟨c, tile⟩ := tile_startWait (s.raised g v) g v
  refine ⟨(congrArg Tile.watches tile).trans (congrArg (awaitedOf g v) watches), (congrArg Tile.snapped tile).trans ?_,
    (congrArg (fun x : Tile => (x.counters[g]).value) tile).trans value⟩
  exact (frame.snapped _).trans (congrArg (fun t => (s.tile t).snapped) frame.here)

theorem memorySame_waiting : MemorySame s (s.waiting g v) := (raised_keeps s g v).1.memory.trans (memorySame_startWait _ g v _)

/-- A context that ends its wait, or does not, at the count raised. -/
theorem modCur_waiting (f : Ctx → Ctx) : ((s.waiting g v).modCur f).cur = f (s.waiting g v).cur ∧
    (((s.waiting g v).modCur f).curTile.counters[g]).value = v ∧ MemorySame s ((s.waiting g v).modCur f) :=
  ⟨State.cur_modCur _ f, (congrArg Counter.value (counterAt_modCtx _ _ _ f g)).trans (tile_waiting s g v).2.2,
    (memorySame_waiting s g v).trans (onlyContext_modCur _ f).2⟩

variable {s g v}

/-- A watch that it covers and that has not failed keeps a `gwait` waiting. -/
theorem settle_waiting_late (late : ∃ w ∈ s.curTile.watches, w.coveredBy g v = true ∧ w.failed = false) :
    (s.waiting g v).settleGwait (s.waiting g v).here (s.waiting g v).ctx = s.waiting g v := by
  obtain ⟨since, cur⟩ := cur_waiting s g v
  obtain ⟨watches, -, value⟩ := tile_waiting s g v
  obtain ⟨w, mem, covered, sound⟩ := late
  obtain ⟨x, left, covers⟩ := exists_awaitedOf mem covered sound
  refine settleGwait_waits (congrArg Ctx.wait cur) (.inr ⟨x, ?_, by rw [value]; exact covers⟩)
  rw [← watches] at left
  exact left

section Ends

variable (unsnapped : s.curTile.snapped = false) (failed : ∀ w ∈ s.curTile.watches, w.coveredBy g v = true → w.failed = true)
include unsnapped failed

/-- With every watch that it covers FAILED, a `gwait` ends at once. -/
theorem settle_waiting_ends :
    let w := (s.waiting g v).modCur fun c => { c with wait := .none }
    (s.waiting g v).settleGwait (s.waiting g v).here (s.waiting g v).ctx = match (sortCovered (failedOf g v s.curTile.watches)).find? (·.failed) with
      | none => w.modCur fun c => { c with retired := c.retired + 1 }
      | some x => w.trapIn w.here w.ctx Cause.xfer w.cur.pc 0 x.id := by
  obtain ⟨since, cur⟩ := cur_waiting s g v
  obtain ⟨watches, snapped, value⟩ := tile_waiting s g v
  refine settleGwait_ends (congrArg Ctx.wait cur) (snapped.trans unsnapped) (fun w mem => ?_) fun x mem => ?_
  · rw [value]
    refine Bool.eq_false_iff.2 fun covered => ?_
    obtain ⟨-, x, own, covers, sound⟩ := mem_awaitedOf_covered (watches ▸ mem) covered
    simp [failed x own covers] at sound
  · obtain ⟨w, -, rfl⟩ := List.mem_map.1 mem
    rfl

/-- Where it covers some it traps by the id of one. -/
theorem settle_waiting_traps (untrapped : s.cur.trapped = false) (some : ∃ w ∈ s.curTile.watches, w.coveredBy g v = true) :
    ∃ w ∈ s.curTile.watches, w.coveredBy g v = true ∧ (s.waiting g v).settleGwait (s.waiting g v).here (s.waiting g v).ctx =
      (s.waiting g v).modCur fun c => { c with wait := .none }.trapEntry Cause.xfer (s.cur.pc + 1) 0 w.id := by
  obtain ⟨y, own, covers⟩ := some
  obtain ⟨since, cur⟩ := cur_waiting s g v
  have mem : (⟨y.mark, y.id, false, 0, true⟩ : Covered) ∈ failedOf g v s.curTile.watches :=
    List.mem_map_of_mem (f := fun w : Watch => (⟨w.mark, w.id, false, 0, true⟩ : Covered))
      (List.mem_filter.2 ⟨own, by simp [covers, failed y own covers]⟩)
  obtain ⟨x, found⟩ := Option.isSome_iff_exists.1 ((List.find?_isSome (p := Covered.failed)).2 ⟨_, mem_sortCovered.2 mem, rfl⟩)
  obtain ⟨w, kept, rfl⟩ := List.mem_map.1 (mem_sortCovered.1 (List.mem_of_find?_eq_some found))
  obtain ⟨listed, ends⟩ := List.mem_filter.1 kept
  refine ⟨w, listed, (Bool.and_eq_true_iff.1 ends).1, ?_⟩
  have still : ((s.waiting g v).modCur fun c => { c with wait := .none }).cur.trapped = false := by
    rw [State.cur_modCur]
    exact (congrArg Ctx.trapped cur :).trans untrapped
  rw [settle_waiting_ends unsnapped failed, found]
  dsimp only
  rw [trapIn_untrapped still, State.modCur_modCur, State.cur_modCur]
  exact congrArg (fun pc => (s.waiting g v).modCur fun c => { c with wait := .none }.trapEntry Cause.xfer pc 0 w.id) (congrArg Ctx.pc cur :)

end Ends

/-- Where it covers none it retires (R122). -/
theorem settle_waiting_retires (unsnapped : s.curTile.snapped = false) (free : ∀ w ∈ s.curTile.watches, w.coveredBy g v = false) :
    (s.waiting g v).settleGwait (s.waiting g v).here (s.waiting g v).ctx =
      (s.waiting g v).modCur fun c => { c with wait := .none, retired := c.retired + 1 } := by
  have nothing : failedOf g v s.curTile.watches = [] :=
    List.map_eq_nil_iff.2 (List.filter_eq_nil_iff.2 fun w mem => by simp [free w mem])
  rw [settle_waiting_ends unsnapped fun w mem covered => by simp [free w mem] at covered, nothing]
  exact State.modCur_modCur _ _ _

end Waiting

/-! Instructions on counters (R261-R267). -/

namespace Machine.State

/-- VALUE advanced as work, with the marks that it reaches; a beacon follows where it crosses a multiple of STEP (R262). -/
def advanced (s : State) (g : Fin 16) (v : BitVec 48) : State :=
  let was := (s.curTile.counters[g]).value
  ((s.setCounter s.here g v true).reachMarks s.here g was).stepBeacon s.here g was

/-- VALUE set, no work, with the marks that it reaches, and told to every subscriber (R263). -/
def counterSet (s : State) (g : Fin 16) (v : BitVec 48) : State :=
  ((s.setCounter s.here g v false).reachMarks s.here g (s.curTile.counters[g]).value).sendBeacon s.here g none

/-- A rate declared, and told to every subscriber (R266). -/
def declared (s : State) (g : Fin 16) (r : BitVec 32) : State :=
  (s.modCurTile (·.modCounter g fun c => { c with decl := r })).sendBeacon s.here g none

end Machine.State

theorem advanced_keeps (s : State) (g : Fin 16) (v : BitVec 48) : KeepsContexts s (s.advanced g v) ∧ ((s.advanced g v).counterAt s.here g).value = v := by
  obtain ⟨sets, -, value, -⟩ := setCounter_keeps s s.here g v true
  obtain ⟨reaches, kept⟩ := reachMarks_keeps (s.setCounter s.here g v true) s.here g (s.curTile.counters[g]).value
  obtain ⟨tells, -, told⟩ := stepBeacon_keeps ((s.setCounter s.here g v true).reachMarks s.here g (s.curTile.counters[g]).value) s.here g
    (s.curTile.counters[g]).value
  exact ⟨(sets.trans reaches).trans tells, told.trans ((congrArg Counter.value kept).trans value)⟩

theorem counterSet_keeps (s : State) (g : Fin 16) (v : BitVec 48) : KeepsContexts s (s.counterSet g v) ∧
    ((s.counterSet g v).counterAt s.here g).value = v ∧ ((s.counterSet g v).counterAt s.here g).acc = (s.counterAt s.here g).acc := by
  obtain ⟨sets, -, value, acc⟩ := setCounter_keeps s s.here g v false
  obtain ⟨reaches, kept⟩ := reachMarks_keeps (s.setCounter s.here g v false) s.here g (s.curTile.counters[g]).value
  have told := (counterAt_sendBeacon _ s.here g).trans (congrArg Counter.told kept)
  exact ⟨(sets.trans reaches).trans (KeepsContexts.sendBeacon _ _ _), (congrArg Counter.value told).trans value,
    (congrArg Counter.acc told).trans (acc rfl)⟩

theorem declared_keeps (s : State) (g : Fin 16) (r : BitVec 32) : KeepsContexts s (s.declared g r) ∧ ((s.declared g r).counterAt s.here g).decl = r ∧
    ((s.declared g r).counterAt s.here g).value = (s.counterAt s.here g).value ∧
    (s.declared g r).beaconsOut.length = s.beaconsOut.length + (s.counterAt s.here g).subs.length := by
  have rated := counterAt_modTile s s.here g fun _ c => { c with decl := r }
  have told := (counterAt_sendBeacon _ s.here g).trans (congrArg Counter.told rated)
  obtain ⟨out, n, length, sent⟩ := sendBeacon_all (s.modCurTile (·.modCounter g fun c => { c with decl := r })) s.here g
  refine ⟨(KeepsContexts.modCounter s s.here g _).trans (KeepsContexts.sendBeacon _ _ _), congrArg Counter.decl told, (congrArg Counter.value told :), ?_⟩
  rw [State.declared, sent, ← length.trans (congrArg (·.subs.length) rated)]
  exact List.length_append

section Owned

variable {g : Guard} {o : FmtQ} {s : State} (runs : Runs s g)
include runs

/-- An instruction of a counter's owner has its effect (R236). -/
theorem exec_owned {i : Instr} {effect : State → State} (he : exec i s = .next (s.issue g (·.ownCounter (counterOf o) effect)))
    (own : s.curTile.cfg.counterOwner[counterOf o] = some s.ctx) : exec i s = .next (effect s) :=
  exec_issue runs he (if_pos own)

/-- Another context's instruction raises ILL (R236). -/
theorem exec_unowned {i : Instr} (mem : i ∈ [Instr.gadv g o, .gset g o, .gget g o, .gwait g o, .grate g o])
    (other : s.curTile.cfg.counterOwner[counterOf o] ≠ some s.ctx) : exec i s = .next s.trapIll := by
  have owned : ∃ effect, exec i s = .next (s.issue g (·.ownCounter (counterOf o) effect)) := by
    simp only [List.mem_cons, List.not_mem_nil, or_false] at mem
    obtain rfl | rfl | rfl | rfl | rfl := mem <;> exact ⟨_, rfl⟩
  obtain ⟨effect, he⟩ := owned
  exact exec_issue runs he (if_neg other)

/-- The value that `gadv` gives its counter (R262). -/
def Machine.State.advanceTo (s : State) (o : FmtQ) : BitVec 48 :=
  BitVec.ofNat 48 (min ((s.curTile.counters[counterOf o]).value.toNat + s.amount o) (2 ^ 48 - 1))

/-- The value that `gwait` raises its counter to (R265). -/
def Machine.State.raiseTo (s : State) (o : FmtQ) : BitVec 48 :=
  BitVec.ofNat 48 (max (s.curTile.counters[counterOf o]).value.toNat (min (s.amount o) (2 ^ 48 - 1)))

section Effects

variable (own : s.curTile.cfg.counterOwner[counterOf o] = some s.ctx)
include own

theorem exec_gadv : exec (.gadv g o) s = .next (s.advanced (counterOf o) (s.advanceTo o)).retire :=
  (exec_owned runs rfl own).trans rfl

theorem exec_gset : exec (.gset g o) s = .next (
    if (s.getS o.s1).setWidth 48 = (s.curTile.counters[counterOf o]).value then s.retire
    else (s.counterSet (counterOf o) ((s.getS o.s1).setWidth 48)).retire) := by
  refine exec_issue runs rfl ?_
  unfold State.ownCounter State.counterSet
  rw [if_pos own]

theorem exec_gget : exec (.gget g o) s = .next (s.writeS o.d
    (let c := s.curTile.counters[counterOf o]
     if o.m7.toNat % 4 = 0 then c.value.zeroExtend 64 else if o.m7.toNat % 4 = 1 then c.rate.zeroExtend 64 else c.decl.zeroExtend 64)) := by
  refine (exec_owned runs rfl own).trans ?_
  generalize o.m7.toNat % 4 = part
  match part with
  | 0 => rfl
  | 1 => rfl
  | _ + 2 => rfl

theorem exec_grate : exec (.grate g o) s = .next (s.declared (counterOf o) ((s.getS o.s1).setWidth 32)).retire :=
  (exec_owned runs rfl own).trans rfl

theorem exec_gwait :
    let u := s.waiting (counterOf o) (s.raiseTo o)
    exec (.gwait g o) s = .next (u.settleGwait u.here u.ctx) := by
  have here : (s.raised (counterOf o) (s.raiseTo o)).here = s.here := (raised_keeps s (counterOf o) (s.raiseTo o)).1.here
  show _ = Host.Outcome.next (State.settleGwait (State.startWait _ (s.raised (counterOf o) (s.raiseTo o)).here _ _)
    (s.raised (counterOf o) (s.raiseTo o)).here _)
  rw [here]
  exact (exec_owned runs rfl own).trans rfl

end Effects

theorem exec_glate (e : EventEntry) {rest : List EventEntry} (events : s.cur.events = e :: rest) : exec (.glate g o) s = .next (s.writeS o.d
    (if o.imm.toNat % 4 = 0 then e.w0 else if o.imm.toNat % 4 = 1 then e.w1 else if o.imm.toNat % 4 = 2 then e.w2 else e.w3)) := by
  refine exec_issue runs rfl (congrArg (s.writeS o.d) ?_)
  rw [events]
  generalize o.imm.toNat % 4 = part
  match part with
  | 0 => rfl
  | 1 => rfl
  | 2 => rfl
  | _ + 3 => rfl

end Owned

/-! Windows and beacons (R239, R240). -/

theorem stalled_sendBeacon (s : State) (t : TileId) (g : Fin 16) : (s.sendBeacon t g none).stalled = s.stalled := by
  obtain ⟨out, n, -, sent⟩ := sendBeacon_all s t g
  rw [sent]
  rfl

/-- At the end of a window the counter takes its new estimate, and a beacon follows where the rate in use changes (R239). -/
theorem execEndWindow_ends {s : State} {t : TileId} {g : Fin 16} (awake : (s.tile t).awake = true) (unsnapped : (s.tile t).snapped = false)
    (due : (s.counterAt t g).windows < (s.tile t).cycle.toNat / 1024) :
    let c := s.counterAt t g
    let told := s.modTile t (·.modCounter g fun _ => c.endWindow)
    execEndWindow t g s = .next (if c.endWindow.rate = c.rate then told else told.sendBeacon t g none) := by
  refine (if_neg ?_).trans (apply_ite Host.Outcome.next _ _ _).symm
  have waits : ¬ (s.tile t).cycle.toNat / 1024 ≤ (s.counterAt t g).windows := Nat.not_le.2 due
  simpa [awake, unsnapped, State.counterAt] using waits

/-- A change of VALUE that no beacon has told for 2,048 cycles is told (R240). -/
theorem execBeaconTimeout_tells {s : State} {t : TileId} {g : Fin 16} {since : Nat} (dirty : (s.counterAt t g).dirty = some since)
    (unsnapped : (s.tile t).snapped = false) (due : since + 2048 ≤ (s.tile t).cycle.toNat) :
    execBeaconTimeout t g s = .next (s.sendBeacon t g none) := by
  unfold State.counterAt at dirty
  simp only [execBeaconTimeout, dirty]
  exact congrArg Host.Outcome.next (if_pos (by simp [unsnapped, due]))

section Arrives

variable {d : Fin 8} {e : Fin 64} {t : TileId} {g : Fin 16} {s : State} {b : Beacon}
  (found : s.beaconsOut.find? (fun b : Beacon => b.die == d && b.engine == e && b.tile == t && b.g == g) = some b) (granted : b.granted = true)
include found granted

theorem execBeaconArrive_clean : ∃ xs, execBeaconArrive d e t ⟨g, .clean⟩ s = .next { s with
    beaconsOut := s.beaconsOut.erase b
    beacons := (s.beacons.filter fun b => !(b.die == d && b.engine == e && b.tile == t && b.g == g)) ++ [{ b with age := 0 }]
    xfers := xs } := by
  simp only [execBeaconArrive, found, granted]
  exact ⟨_, rfl⟩

theorem execBeaconArrive_data : execBeaconArrive d e t ⟨g, .data⟩ s = .next { s with beaconsOut := s.beaconsOut.erase b } := by
  simp only [execBeaconArrive, found, granted]
  rfl

theorem execBeaconArrive_header {n : Nat} (region : (s.tile t).region = some n) : execBeaconArrive d e t ⟨g, .header⟩ s =
    .next (State.regionFault { s with beaconsOut := s.beaconsOut.erase b } n ⟨Cause.poison, 5, 0, 0, 0, 0⟩) := by
  have number : State.regionNumber { s with beaconsOut := s.beaconsOut.erase b } t = some n := region
  simp only [execBeaconArrive, found, granted, number]
  rfl

end Arrives

/-- Settles O28: each instruction does to its counter what its rule says, and each happening takes the branch that its conditions choose. -/
theorem counters : Obligations.Counters := by
  refine ⟨fun g o s runs => ?instructions, fun t g s => ⟨fun awake unsnapped due => ?ends, fun since dirty unsnapped due => ?timeout⟩,
    fun d e t g s b => ?arrivals⟩
  case instructions =>
    intro k c n v
    refine ⟨fun own => ⟨?gadv, fun changes => ?gset, fun same => ?gsetSame, ?gget, ?grate, fun unsnapped free => ?retires, fun late => ?waits,
        fun unsnapped untrapped failed some => ?traps⟩, fun other untrapped i mem => ?unowned, fun e rest events => ?glate,
      fun none => ?glateNone, ?glatePop⟩
    case gadv =>
      obtain ⟨frame, value⟩ := advanced_keeps s k (s.advanceTo o)
      obtain ⟨pc, regs, memory, counter⟩ := frame.retires
      exact ⟨_, exec_gadv runs own, (congrArg Counter.value (counter k)).trans value, pc, regs, memory⟩
    case gset =>
      obtain ⟨frame, value, acc⟩ := counterSet_keeps s k ((s.getS o.s1).setWidth 48)
      obtain ⟨pc, regs, memory, counter⟩ := frame.retires
      exact ⟨_, (exec_gset runs own).trans (by rw [if_neg changes]), (congrArg Counter.value (counter k)).trans value,
        (congrArg Counter.acc (counter k)).trans acc, pc, regs, memory⟩
    case gsetSame => exact ⟨_, (exec_gset runs own).trans (by rw [if_pos same]), retired_retire s⟩
    case gget => exact ⟨_, exec_gget runs own, wroteS_writeS _ _ _⟩
    case grate =>
      obtain ⟨frame, decl, value, sent⟩ := declared_keeps s k ((s.getS o.s1).setWidth 32)
      obtain ⟨pc, -, memory, counter⟩ := frame.retires
      exact ⟨_, exec_grate runs own, (congrArg Counter.decl (counter k)).trans decl, (congrArg Counter.value (counter k)).trans value, pc, sent, memory⟩
    case retires =>
      have settles := settle_waiting_retires unsnapped free
      obtain ⟨ends, value, memory⟩ := modCur_waiting s k v fun c => { c with wait := .none, retired := c.retired + 1 }
      obtain ⟨since, cur⟩ := cur_waiting s k v
      exact ⟨_, (exec_gwait runs own).trans (congrArg Host.Outcome.next settles), value, congrArg Ctx.wait ends,
        (congrArg Ctx.pc ends).trans (congrArg Ctx.pc cur :), (congrArg Ctx.retired ends).trans (congrArg (fun c : Ctx => c.retired + 1) cur :), memory⟩
    case waits =>
      have settles := settle_waiting_late late
      obtain ⟨since, cur⟩ := cur_waiting s k v
      obtain ⟨watches, -, value⟩ := tile_waiting s k v
      exact ⟨_, (exec_gwait runs own).trans (congrArg Host.Outcome.next settles), value, (congrArg Ctx.pc cur :), (congrArg Ctx.retired cur :),
        ⟨_, since, (congrArg Ctx.wait cur :)⟩, fun w mem covered => (mem_awaitedOf_covered (by rwa [watches] at mem) covered).1,
        memorySame_waiting s k v⟩
    case traps =>
      obtain ⟨w, mem, covered, settles⟩ := settle_waiting_traps unsnapped failed untrapped some
      obtain ⟨enters, value, memory⟩ := modCur_waiting s k v fun c => { c with wait := .none }.trapEntry Cause.xfer (s.cur.pc + 1) 0 w.id
      obtain ⟨since, cur⟩ := cur_waiting s k v
      exact ⟨_, (exec_gwait runs own).trans (congrArg Host.Outcome.next settles), value, ⟨w, mem, covered, congrArg Ctx.einfo enters⟩,
        congrArg Ctx.cause enters, congrArg Ctx.epc enters, (congrArg Ctx.pc enters).trans (congrArg Ctx.hvec cur :), congrArg Ctx.trapped enters,
        (congrArg Ctx.retired enters).trans (congrArg Ctx.retired cur :), memory⟩
    case unowned => exact ⟨_, exec_unowned runs mem other, trapped_trap untrapped _ _ _⟩
    case glate => exact ⟨_, exec_glate runs e events, wroteS_writeS _ _ _⟩
    case glateNone => exact writesS_of_issue rfl runs (by rw [none])
    case glatePop => exact ⟨_, exec_issue runs rfl rfl, State.cur_modCur _ _, onlyContext_modCur _ _⟩
  case ends =>
    exact ⟨_, execEndWindow_ends awake unsnapped due, by split <;> simp [stalled_sendBeacon], fun same => if_pos same, fun changes => if_neg changes⟩
  case timeout => exact ⟨_, execBeaconTimeout_tells dirty unsnapped due, stalled_sendBeacon s t g, rfl⟩
  case arrivals =>
    intro mine found granted
    obtain ⟨xs, arrives⟩ := execBeaconArrive_clean found granted
    exact ⟨⟨_, arrives, rfl, rfl, rfl, rfl, rfl⟩, ⟨_, execBeaconArrive_data found granted, rfl, rfl⟩,
      fun n region => ⟨_, execBeaconArrive_header found granted region, rfl⟩⟩

end Sys2Proof

/-! Global accesses are issued (R275, R281, R286, R290, R291, R295, R298, R299). -/

namespace Sys2Proof

open Sys2Proof.Machine

/-- A `pclr` of whole words in supervisor mode is a global access, whose length is nothing that a check fails on (R291, R295). -/
theorem exec_pclr_whole {g : Guard} {o : FmtM} {s : State} (runs : Runs s g) (allowed : s.cur.mode = .supervisor)
    (whole : (s.getS o.x).toNat % 8 = 0) :
    exec (.pclr g o) s = .next (s.globalOp (.clear (s.getS o.x).toNat) 8 false o (s.cur.baseAddr o) 0) := by
  refine exec_issue runs (congrArg Host.Outcome.next (supervised_runs allowed _)) ?_
  dsimp only
  rw [whole]
  rfl

/-- Settles O17: each form is `State.globalOp` with its kind, alignment, address and data, which either queues the access or fails a check. -/
theorem globalAccessesIssue : Obligations.GlobalAccessesIssue := by
  refine ⟨?enters, ?checks⟩
  case enters =>
    intro g o s runs room released enters n va base x amo
    have queued : ∀ {i : Instr} {kind : GKind} {align : Nat} {va : Word} {data : BitVec 512},
        exec i s = .next (s.globalOp kind align false o va data) → enters i kind align va data :=
      fun e aligned low => ⟨_, e, globalOp_enters room released rfl aligned low⟩
    have issued : ∀ {i : Instr} {kind : GKind} {align : Nat} {va : Word} {data : BitVec 512} {effect : State → State},
        exec i s = .next (s.issue g effect) → effect s = s.globalOp kind align false o va data → enters i kind align va data :=
      fun e does => queued (exec_issue runs e does)
    exact ⟨issued rfl rfl, issued rfl rfl, issued rfl rfl, issued rfl rfl, issued rfl rfl, issued rfl rfl,
      fun allowed whole => queued (exec_pclr_whole runs allowed whole), issued rfl rfl, issued rfl rfl, issued rfl rfl, issued rfl rfl,
      issued rfl rfl, issued rfl rfl, issued rfl rfl, issued rfl rfl, issued rfl rfl, issued rfl rfl, issued rfl rfl, issued rfl rfl⟩
  case checks =>
    intro g o s runs untrapped unheld checks n va base amo
    have checked : ∀ {i : Instr} {kind : GKind} {align : Nat} {va : Word} {data : BitVec 512},
        exec i s = .next (s.globalOp kind align false o va data) → checks i kind align va := by
      intro i kind align va data e
      obtain ⟨misaligned, beyond⟩ := globalOp_checks (kind := kind) (n := align) (va := va) (data := data) untrapped unheld rfl
      exact ⟨fun odd => ⟨_, e, misaligned odd⟩, fun aligned high => ⟨_, e, beyond aligned high⟩⟩
    have issued : ∀ {i : Instr} {kind : GKind} {align : Nat} {va : Word} {data : BitVec 512} {effect : State → State},
        exec i s = .next (s.issue g effect) → effect s = s.globalOp kind align false o va data → checks i kind align va :=
      fun e does => checked (exec_issue runs e does)
    exact ⟨issued rfl rfl, issued rfl rfl, issued rfl rfl, issued rfl rfl, issued rfl rfl, issued rfl rfl,
      fun allowed whole => checked (exec_pclr_whole runs allowed whole), issued rfl rfl, issued rfl rfl, issued rfl rfl, issued rfl rfl,
      issued rfl rfl, issued rfl rfl, issued rfl rfl, issued rfl rfl, issued rfl rfl, issued rfl rfl, issued rfl rfl, issued rfl rfl⟩

end Sys2Proof

/-! Accesses of contexts perform at their slices and atomic units (R245, R277, R287, R291-R303). -/

namespace Sys2Proof

open Sys2Proof.Machine

section Reads

variable {s : State} {t : TileId} {k : Fin 4} {a : GAccess} {tgt : Target} {bad : Bool}

/-- A read of lines that no bale holds, and of a present word where it is `gldw`, is not deferred (R294, R374). -/
theorem performAt_reads (reads : a.kind.reads = true) (free : s.lineHeld tgt a.kind.size = false)
    (present : a.kind = .loadOnce → s.mem.presentAt tgt = true) : s.performAt t k a tgt bad = s.loadAt t k a tgt bad := by
  unfold State.performAt
  cases kind : a.kind with
  | load | loadV =>
    rw [kind] at free
    exact if_neg (Bool.eq_false_iff.1 free)
  | loadOnce =>
    rw [kind] at free
    have free : s.lineHeld tgt 8 = false := free
    exact if_neg (by simp [free, present kind])
  | store | storeV | storeOnce | clear | atomic | call | tagged =>
    rw [kind] at reads
    cases reads

/-- A read of words without an uncorrectable error gives its value (R277, R291). -/
theorem loadAt_clean (clean : s.mem.poisonAt tgt a.kind.size = []) :
    s.loadAt t k a tgt false = s.loadDone t k a (s.mem.readAt tgt a.kind.size) := by
  rw [State.loadAt, clean]
  rfl

section Clean

variable (free : s.lineHeld tgt a.kind.size = false) (clean : s.mem.poisonAt tgt a.kind.size = [])
include free clean

/-- A load gives S(D) its bytes, extended (R291). -/
theorem performAt_load {n : Nat} {zx : Bool} (kind : a.kind = .load n zx) :
    s.performAt t k a tgt false = s.accDone t k a (·.setS a.dst (extendTo (8 * n) zx (s.mem.readAt tgt n))) := by
  rw [performAt_reads (by rw [kind]; rfl) free (by rw [kind]; intro once; cases once), loadAt_clean clean]
  simp only [State.loadDone, kind, GKind.size]

theorem performAt_loadV (kind : a.kind = .loadV) :
    s.performAt t k a tgt false = s.accDone t k a (·.setV a.dst (BitVec.ofNat 512 (s.mem.readAt tgt 64))) := by
  rw [performAt_reads (by rw [kind]; rfl) free (by rw [kind]; intro once; cases once), loadAt_clean clean]
  simp only [State.loadDone, kind, GKind.size]

/-- `gldw` of a present word reads it (R294). -/
theorem performAt_loadOnce (kind : a.kind = .loadOnce) (present : s.mem.presentAt tgt = true) :
    s.performAt t k a tgt false = s.accDone t k a (·.setS a.dst (BitVec.ofNat 64 (s.mem.readAt tgt 8))) := by
  rw [performAt_reads (by rw [kind]; rfl) free fun _ => present, loadAt_clean clean]
  simp only [State.loadDone, kind, GKind.size]

end Clean

end Reads

section Writes

variable {s : State} {t : TileId} {k : Fin 4} {a : GAccess} {tgt : Target} (free : s.rangeHeld tgt a.kind.size = false)
include free

/-- A store changes its own bytes (R291). -/
theorem performAt_store {n : Nat} (kind : a.kind = .store n) :
    s.performAt t k a tgt false = State.accDone { s with mem := s.mem.writeAt tgt n a.data.toNat } t k a id := by
  rw [kind] at free
  simp only [State.performAt, kind, free]
  rfl

theorem performAt_storeV (kind : a.kind = .storeV) :
    s.performAt t k a tgt false = State.accDone { s with mem := s.mem.writeAt tgt 64 a.data.toNat } t k a id := by
  rw [kind] at free
  simp only [State.performAt, kind, free]
  rfl

/-- A write-once store makes a word present that was not (R294). -/
theorem performAt_storeOnce (kind : a.kind = .storeOnce) (absent : s.mem.presentAt tgt = false) :
    s.performAt t k a tgt false = State.accDone { s with mem := (s.mem.writeAt tgt 8 a.data.toNat).setPresent tgt } t k a id := by
  rw [kind] at free
  simp only [State.performAt, kind, free, absent]
  rfl

/-- `pclr` clears presence alone (R295). -/
theorem performAt_clear {len : Nat} (kind : a.kind = .clear len) :
    s.performAt t k a tgt false = State.accDone { s with mem := s.mem.clearPresent tgt len } t k a id := by
  rw [kind] at free
  simp only [State.performAt, kind, free]
  rfl

variable (clean : s.mem.poisonAt tgt a.kind.size = [])
include clean

/-- An atomic performs whole: the new value to memory, the old one to the register unless NR (R298). -/
theorem performAt_atomic {fn : BitVec 4} {ty : Ty} {nr : Bool} (kind : a.kind = .atomic fn ty nr) :
    let m := s.mem.readAt tgt (ty.width / 8)
    let v := amoValue fn ty m (a.data.toNat % 2 ^ ty.width) (a.compare.toNat % 2 ^ ty.width)
    s.performAt t k a tgt false = State.accDone { s with mem := s.mem.writeAt tgt (ty.width / 8) v } t k a
      fun c => if nr then c else c.setS a.dst (amoResult fn ty m) := by
  rw [kind] at free clean
  have clean : s.mem.poisonAt tgt (ty.width / 8) = [] := clean
  simp only [State.performAt, kind, free, clean]
  rfl

/-- AMOCALL runs its tenant's program on the granule (R301, R303). -/
theorem performAt_call {prog : BitVec 2} {nr : Bool} {p : Program} (kind : a.kind = .call prog nr)
    (loaded : s.mem.program tgt (s.tenantOf t) prog = some p) :
    let r := p.run (s.mem.readAt tgt 16) (a.data.setWidth 64)
    s.performAt t k a tgt false = State.accDone { s with mem := s.mem.writeAt tgt 16 r.1 } t k a
      fun c => if nr then c else c.setS a.dst r.2 := by
  rw [kind] at free clean
  have clean : s.mem.poisonAt tgt 16 = [] := clean
  simp only [State.performAt, kind, free, loaded, clean]
  rfl

end Writes

section Serves

variable {s s' : State} {k : TileId} {c : Fin 4} {a : GAccess} {tgt : Target} {w : Waiting} {atomic : Bool}

theorem exec_slicePerform (r : Served) (s : State) : exec (.slicePerform r) s = .next (s.performRef r false) := rfl

theorem exec_atomicPerform (r : Served) (s : State) : exec (.atomicPerform r) s = .next (s.performRef r true) := rfl

/-- The grants that went to other classes are all that an arbiter's count changes (R245). -/
theorem countPassed_passed (s : State) (n : Nat) (w : Waiting) : ∃ p, s.countPassed n w = { s with passed := p } := ⟨_, rfl⟩

theorem servedAt_nextClaim {n : Nat} {r : AccRef} (next : s.nextClaim (8 + n) = some w) (first : w.claim = .access r) :
    s.servedAt n r = some (s.countPassed (8 + n) w) := by
  rw [State.servedAt, next]
  exact if_pos first

/-- An access that its slice serves next and that ends well leaves the queue there; reads that waited for it perform behind it (R245,
R287, R294). -/
theorem performRef_done (found : (s.ctxAt k c).access a.id = some a) (ready : a.stage = .ready tgt) (inside : tgt.isRemote = false)
    (served : s.servedAt tgt.slice (.ctx k c a.id) = some s') (turn : (s'.ctxAt k c).mayPerform a tgt = true) (unit : a.kind.isAtomic = atomic)
    {u : State} {put : Ctx → Ctx} (ends : s'.performAt k c a tgt false = u.accDone k c a put) :
    s.performRef ⟨.ctx k c a.id, .clean⟩ atomic = (u.accDone k c a put).serveDeferred := by
  rw [performRef_ready found ready inside turn unit served, ends]

end Serves

/-- Settles O18: the claim served is this access, and `State.performAt` has one equation for each of its kinds. -/
theorem globalAccessesPerformAtTheirSlice : Obligations.GlobalAccessesPerformAtTheirSlice := by
  intro k c s a tgt found ready inside turn unheld free w next first
  have served := servedAt_nextClaim next first
  obtain ⟨p, counted⟩ := countPassed_passed s (8 + tgt.slice) w
  rw [counted] at served ⊢
  intro performs
  have done : ∀ {kind : GKind} {mem : Global} {put : Ctx → Ctx}, a.kind = kind → kind.isAtomic = false →
      State.performAt { s with passed := p } k c a tgt false = State.accDone { s with passed := p, mem := mem } k c a put → performs mem put :=
    fun kind unit ends => ⟨_, exec_slicePerform _ s, performRef_done found ready inside served turn (kind ▸ unit) ends⟩
  clear_value performs
  refine ⟨fun clean => ⟨fun n zx kind => ?load, fun kind => ?loadV, fun kind present => ?loadOnce⟩, fun n kind => ?store, fun kind => ?storeV,
    fun kind absent => ?storeOnce, fun len kind => ?clear⟩
  case load => exact done kind rfl (performAt_load (s := { s with passed := p }) unheld clean kind)
  case loadV => exact done kind rfl (performAt_loadV (s := { s with passed := p }) unheld clean kind)
  case loadOnce => exact done kind rfl (performAt_loadOnce (s := { s with passed := p }) unheld clean kind present)
  case store => exact done kind rfl (performAt_store (s := { s with passed := p }) free kind)
  case storeV => exact done kind rfl (performAt_storeV (s := { s with passed := p }) free kind)
  case storeOnce => exact done kind rfl (performAt_storeOnce (s := { s with passed := p }) free kind absent)
  case clear => exact done kind rfl (performAt_clear (s := { s with passed := p }) free kind)

/-- Settles O19: as for O18, at the slice's atomic unit. -/
theorem atomicsPerformWhole : Obligations.AtomicsPerformWhole := by
  intro k c s a tgt found ready inside turn free clean w next first
  have served := servedAt_nextClaim next first
  obtain ⟨p, counted⟩ := countPassed_passed s (8 + tgt.slice) w
  rw [counted] at served ⊢
  intro performs
  have done : ∀ {kind : GKind} {mem : Global} {put : Ctx → Ctx}, a.kind = kind → kind.isAtomic = true →
      State.performAt { s with passed := p } k c a tgt false = State.accDone { s with passed := p, mem := mem } k c a put → performs mem put :=
    fun kind unit ends => ⟨_, exec_atomicPerform _ s, performRef_done found ready inside served turn (kind ▸ unit) ends⟩
  clear_value performs
  exact ⟨fun fn ty nr kind => done kind rfl (performAt_atomic (s := { s with passed := p }) free clean kind),
    fun prog nr q kind loaded => done kind rfl (performAt_call (s := { s with passed := p }) free clean kind loaded)⟩

end Sys2Proof

/-! Prefetches, fences and retried reads (R292, R296, R304), and scopes (R307, R308). -/

namespace Sys2Proof

open Sys2Proof.Machine

section Instructions

variable {s : State} {g : Guard} {o : FmtM} (runs : Runs s g)
include runs

section Prefetch

variable (aligned : (s.cur.indexedAddr o).toNat % 8 = 0)
include aligned

/-- A `gprf` beyond the 56 bits, or of a page that the micro-TLB holds, does nothing (R292). -/
theorem exec_gprf_idle (idle : 2 ^ 56 ≤ (s.cur.indexedAddr o).toNat ∨ (tlbFind s.cur.utlb (s.cur.indexedAddr o).toNat).isSome = true) :
    exec (.gprf g o) s = .next s.retire :=
  exec_issue runs rfl ((if_neg (by simp [aligned])).trans (if_pos (by simpa using idle)))

/-- A `gprf` that misses queues a walk where the die's queue has room (R283, R292). -/
theorem exec_gprf_misses (low : (s.cur.indexedAddr o).toNat < 2 ^ 56) (missed : tlbFind s.cur.utlb (s.cur.indexedAddr o).toNat = none) :
    exec (.gprf g o) s = .next ((s.requestWalk s.here.dieIx (s.asidOf s.here) (s.cur.indexedAddr o).toNat (.prefetch s.here s.ctx)).getD s).retire :=
  exec_issue runs rfl ((if_neg (by simp [aligned])).trans (if_neg (by simpa [missed] using low)))

end Prefetch

section Fences

variable (unheld : s.cur.psf = none) (performed : s.cur.performed o.sco = true)
include unheld performed

/-- A fence behind which nothing is left to perform retires (R304). -/
theorem exec_fence_performed : exec (.fence g o) s = .next s.retire := by
  refine exec_issue runs rfl ?_
  simp only [State.afterStoreFault, unheld]
  exact if_pos performed

theorem exec_fencex_performed (ended : s.unitsDone s.here s.ctx = true) : exec (.fencex g o) s = .next s.retire := by
  refine exec_issue runs rfl ?_
  simp only [State.afterStoreFault, unheld]
  exact (if_neg (by simp [ended])).trans (if_pos performed)

end Fences

end Instructions

/-- A read whose 256 cycles are over goes back to its slice, in its place in the queue, under the version of now (R296, R409). -/
theorem exec_retryResend_due {s : State} {k : TileId} {c : Fin 4} {a : GAccess} {tgt : Target} {since : Nat}
    (found : (s.ctxAt k c).access a.id = some a) (retries : a.stage = .retry tgt since) (due : since + 256 ≤ (s.tile k).cycle.toNat) :
    exec (.retryResend (.ctx k c a.id)) s = .next (s.modCtx k c fun y => { y with
      gq := y.gq.map fun b => if b.id = a.id then { b with stage := .ready tgt, ver := s.hub.version } else b }) := by
  show execRetryResend (.ctx k c a.id) s = _
  simp only [execRetryResend, found, retries]
  exact congrArg Host.Outcome.next (if_pos due)

/-! Scopes (R307, R308). -/

section Scopes

variable {x y : Party}

/-- A party of a tile belongs to the tile's die (R307). -/
theorem die_of_tile {t : TileId} (belongs : x.tile = some t) : x.die = some t.dieIx := by
  cases x with
  | context | stream =>
    cases belongs
    rfl
  | engine | scheduler | hub | outside => cases belongs

/-- A party of a die lies in the package (R307). -/
theorem ne_outside_of_die {d : Fin 8} (belongs : x.die = some d) : x ≠ .outside := by
  rintro rfl
  cases belongs

theorem scopeHolds_tile : scopeHolds .tile x y = true ↔ ∃ t, x.tile = some t ∧ y.tile = some t := by
  simp only [scopeHolds, Bool.and_eq_true, Option.isSome_iff_exists, beq_iff_eq]
  exact ⟨fun ⟨⟨t, mine⟩, same⟩ => ⟨t, mine, same ▸ mine⟩, fun ⟨t, mine, yours⟩ => ⟨⟨t, mine⟩, mine.trans yours.symm⟩⟩

theorem scopeHolds_die : scopeHolds .die x y = true ↔ ∃ d, x.die = some d ∧ y.die = some d := by
  simp only [scopeHolds, Bool.and_eq_true, Option.isSome_iff_exists, beq_iff_eq]
  exact ⟨fun ⟨⟨d, mine⟩, same⟩ => ⟨d, mine, same ▸ mine⟩, fun ⟨d, mine, yours⟩ => ⟨⟨d, mine⟩, mine.trans yours.symm⟩⟩

theorem scopeHolds_pkg : scopeHolds .pkg x y = true ↔ x ≠ .outside ∧ y ≠ .outside := by
  simp [scopeHolds]

end Scopes

/-- Settles O21: each instruction is one branch of its meaning, and a scope holds of two parties that belong to one tile, die or package. -/
theorem prefetchFencesAndRetries : Obligations.PrefetchFencesAndRetries := by
  refine ⟨fun g o s runs => ⟨fun aligned idle => ?prefetch, fun aligned low missed => ?walk, fun unheld performed => ?fence,
    fun unheld performed ended => ?fencex, fun k c a tgt since found retries due => ?retry⟩,
    fun x y => ⟨fun within => ?tileInDie, fun within => ?dieInPackage, rfl, scopeHolds_pkg, ?contexts⟩⟩
  case prefetch => exact ⟨_, exec_gprf_idle runs aligned idle, retired_retire s⟩
  case walk => exact ⟨_, exec_gprf_misses runs aligned low missed, rfl⟩
  case fence => exact ⟨_, exec_fence_performed runs unheld performed, retired_retire s⟩
  case fencex => exact ⟨_, exec_fencex_performed runs unheld performed ended, retired_retire s⟩
  case retry => exact ⟨_, exec_retryResend_due found retries due, rfl, ctxOnly_modCtx s k c _⟩
  case tileInDie =>
    obtain ⟨t, mine, yours⟩ := scopeHolds_tile.1 within
    exact scopeHolds_die.2 ⟨t.dieIx, die_of_tile mine, die_of_tile yours⟩
  case dieInPackage =>
    obtain ⟨d, mine, yours⟩ := scopeHolds_die.1 within
    exact scopeHolds_pkg.2 ⟨ne_outside_of_die mine, ne_outside_of_die yours⟩
  case contexts =>
    rintro t k u j rfl rfl
    simp [scopeHolds, Party.tile, Party.die]

end Sys2Proof

/-! Walks end, and invalidations complete (R278, R283-R285). -/

namespace Sys2Proof

open Sys2Proof.Machine

/-- The walks of a die that end with one of them: those of its ASID that its leaf covers where that is larger than 64 KiB, else it alone
(R283). -/
def Machine.Die.ending (x : Die) (w : Walk) (found : Except WalkFail Leaf) : List Walk :=
  match found with
  | .ok leaf => if 16 < leaf.size then x.walks.filter fun v => v.asid == w.asid && leaf.covers (v.page * 2 ^ 16) else [w]
  | .error _ => [w]

theorem ending_cases (x : Die) (w : Walk) (found : Except WalkFail Leaf) :
    match found with
    | .ok leaf =>
      if 16 < leaf.size then x.ending w found = x.walks.filter fun v => v.asid == w.asid && leaf.covers (v.page * 2 ^ 16)
      else x.ending w found = [w]
    | .error _ => x.ending w found = [w] := by
  cases found with
  | ok leaf =>
    dsimp only [Die.ending]
    split <;> rfl
  | error => rfl

/-- A walk under way whose entries no bale holds ends: its entries are kept, the requesters of the walks that end are answered, and what
found the queue full tries again (R283, R374). -/
theorem exec_walkComplete_ends {s : State} {d : Fin 8} {w : Walk}
    (first : (s.dies[d].walks.take 64).find? (fun v => v.asid == w.asid && v.page == w.page) = some w)
    (free : ∀ t ∈ (s.dies[d].walk s.mem w.asid (w.page * 2 ^ 16)).reads, s.lineHeld t 8 = false) :
    let r := s.dies[d].walk s.mem w.asid (w.page * 2 ^ 16)
    let ends := s.dies[d].ending w r.found
    exec (.walkComplete d w.asid w.page) s = .next
      ((ends.foldl (fun u v => v.who.foldl (fun u who => u.walkAnswer v.page r.found who) u)
        ((s.cacheNodes d r.nodes).modDie d fun x => { x with walks := x.walks.filter fun v => !ends.contains v })).retryMisses d) := by
  have unheld : ((s.dies[d].walk s.mem w.asid (w.page * 2 ^ 16)).reads.any fun t => s.lineHeld t 8) = false :=
    List.any_eq_false.2 fun t read => by simp [free t read]
  show execWalkComplete d w.asid w.page s = _
  unfold execWalkComplete
  dsimp only
  rw [first]
  dsimp only
  rw [unheld]
  rfl

section Invalidations

variable {s : State} {v : Inval}

/-- The state with an invalidation done. -/
def Machine.State.dropInval (s : State) (n : Nat) : State :=
  { s with mem := { s.mem with invals := s.mem.invals.filter fun w => w.k != n } }

/-- A context of a tile goes on if it has waited for an invalidation (R284). -/
def Machine.State.wakeInval (n : Nat) (p : TileId × Tile) (s : State) (c : Fin 4) : State :=
  if (p.2.ctxs[c]).wait = .inval n then s.modCtx p.1 c fun y => { y with wait := .none }.retire else s

/-- The contexts of all tiles that have waited for it go on. -/
def Machine.State.wakeInvals (n : Nat) (s : State) : State :=
  s.tiles.foldl (fun s p => (List.finRange 4).foldl (State.wakeInval n p) s) s

section Complete

variable (found : s.mem.invals.find? (·.k == v.k) = some v) (past : ∀ w ∈ v.waits, s.underWay w = false)
include found past

/-- An invalidation of a host that nothing under way relies on is answered OK (R284). -/
theorem exec_invalidationComplete_answers {node : BitVec 12} {tag : BitVec 32} (cmd : v.cmd = some (node, tag)) :
    exec (.invalidationComplete v.k) s = .next ((WithHub (s.dropInval v.k) fun h =>
      { h with waiting := h.waiting.filter fun w => !(w.node == node && w.tag == tag && w.op == 0x11) }).respond node tag 0x11 0 []) := by
  have past : v.waits.any s.underWay = false := List.any_eq_false.2 fun w wait => by simp [past w wait]
  show execInvalidationComplete v.k s = _
  simp only [execInvalidationComplete, found, past, cmd]
  rfl

/-- One of an instruction lets the context that waits for it go on (R284). -/
theorem exec_invalidationComplete_wakes (cmd : v.cmd = none) :
    exec (.invalidationComplete v.k) s = .next ((s.dropInval v.k).wakeInvals v.k) := by
  have past : v.waits.any s.underWay = false := List.any_eq_false.2 fun w wait => by simp [past w wait]
  show execInvalidationComplete v.k s = _
  simp only [execInvalidationComplete, found, past, cmd]
  rfl

end Complete

/-- In a fold over distinct members, a part of the state that one member changes and no other is changed once. -/
theorem foldl_changes_once {σ α β : Type} (read : σ → β) {f : σ → α → σ} {l : List α} {a : α} {g : β → β} (once : l.Nodup) (mem : a ∈ l)
    (changes : ∀ s, read (f s a) = g (read s)) (keeps : ∀ s, ∀ b ∈ l, b ≠ a → read (f s b) = read s) (s : σ) :
    read (l.foldl f s) = g (read s) := by
  have others : ∀ (m : List α) (s : σ), (∀ b ∈ m, b ∈ l ∧ b ≠ a) → read (m.foldl f s) = read s := fun m s apart =>
    List.foldlRecOn (motive := fun u => read u = read s) m f rfl fun u same b inside =>
      (keeps u b (apart b inside).1 (apart b inside).2).trans same
  obtain ⟨before, after, rfl⟩ := List.append_of_mem mem
  have apart : a ∉ before ∧ a ∉ after := by
    have once := List.nodup_middle.1 once
    simpa using (List.nodup_cons.1 once).1
  rw [List.foldl_append, List.foldl_cons, others after _ fun b inside => ⟨by simp [inside], fun e => apart.2 (e ▸ inside)⟩, changes,
    others before _ fun b inside => ⟨by simp [inside], fun e => apart.1 (e ▸ inside)⟩]

theorem stalled_wakeInvals (n : Nat) (s : State) : (s.wakeInvals n).stalled = s.stalled := by
  refine stalled_foldl (fun u p => stalled_foldl (fun u c => ?_) _ u) _ s
  unfold State.wakeInval
  split <;> rfl

theorem ctxAt_wakeInval_other {n : Nat} {p : TileId × Tile} {c j : Fin 4} {k : TileId} (other : k ≠ p.1 ∨ j ≠ c) :
    (s.wakeInval n p c).ctxAt k j = s.ctxAt k j := by
  unfold State.wakeInval
  split
  · exact State.ctxAt_modCtx_other s other _
  · rfl

/-- A tile that is listed is what its key reads. -/
theorem mem_tiles_of_key {k : TileId} (listed : k ∈ s.tiles.map (·.1)) : (k, s.tile k) ∈ s.tiles := by
  have found : ∀ l : List (TileId × Tile), k ∈ l.map (·.1) → ∃ x, lookupKey k l = some x := by
    intro l
    induction l with
    | nil => simp
    | cons p rest ih =>
      obtain ⟨j, x⟩ := p
      by_cases same : j = k
      · exact fun _ => ⟨x, if_pos same⟩
      · simpa [lookupKey, same, Ne.symm same] using ih
  obtain ⟨x, e⟩ := found s.tiles listed
  have tile : s.tile k = x := by rw [State.tile, e]; rfl
  rw [tile]
  exact mem_of_lookupKey e

/-- The context of a listed tile that waits for an invalidation goes on once (R284). -/
theorem ctxAt_wakeInvals {n : Nat} {k : TileId} {c : Fin 4} (distinct : (s.tiles.map (·.1)).Nodup) (listed : k ∈ s.tiles.map (·.1))
    (waits : (s.ctxAt k c).wait = .inval n) : (s.wakeInvals n).ctxAt k c = { s.ctxAt k c with wait := .none }.retire := by
  have mem := mem_tiles_of_key listed
  refine foldl_changes_once (fun u : State => u.ctxAt k c) (g := fun y => { y with wait := .none }.retire) distinct.of_map mem
    (fun u => ?same) (fun u p inside other => ?other) s
  case same =>
    refine foldl_changes_once (fun u : State => u.ctxAt k c) (g := fun y => { y with wait := .none }.retire) (List.nodup_finRange 4)
      (List.mem_finRange c) (fun u => ?_) (fun u j _ other => ctxAt_wakeInval_other (.inr other.symm)) u
    have wakes : u.wakeInval n (k, s.tile k) c = u.modCtx k c fun y => { y with wait := .none }.retire := if_pos waits
    rw [wakes, State.ctxAt_modCtx_same]
  case other =>
    have elsewhere : k ≠ p.1 := fun same => other (List.inj_on_of_nodup_map distinct inside mem same.symm)
    exact List.foldlRecOn (motive := fun v : State => v.ctxAt k c = u.ctxAt k c) _ _ rfl fun v kept j _ =>
      (ctxAt_wakeInval_other (.inl elsewhere)).trans kept

end Invalidations

/-- Settles O22: the walks that end are `Die.ending`, and an invalidation that completes answers its host or wakes its context. -/
theorem walksAndInvalidationsComplete : Obligations.WalksAndInvalidationsComplete := by
  intro d s
  refine ⟨?walks, fun v _ found past =>
    ⟨fun node tag cmd => ⟨_, exec_invalidationComplete_answers found past cmd, State.respond_stalled .., rfl⟩,
     fun k c cmd distinct listed waits => ⟨_, exec_invalidationComplete_wakes found past cmd, stalled_wakeInvals v.k _,
       ctxAt_wakeInvals (s := s.dropInval v.k) distinct listed waits⟩⟩⟩
  intro w first r free
  exact ⟨_, exec_walkComplete_ends first free, _, ending_cases s.dies[d] w r.found, rfl⟩

end Sys2Proof

/-! System registers, `eret`, `wfe`, halts and `tlbinv`. -/

namespace Sys2Proof

open Sys2Proof.Machine

/-- A word of format S with D and SREG zero: MAJ and FN together, then the guard and S1 (R40). -/
theorem encS_of_s1 (maj fn : Nat) (g : Guard) (s1 : Reg) : encS maj fn g ⟨0, s1, 0⟩ =
    (place (BitVec.ofNat 8 maj) 56 ||| encFn fn) ||| place g.g 53 ||| placeBit g.n 52 ||| place s1 36 := by
  have empty : ∀ n lo, place (0 : BitVec n) lo = 0#64 := by simp [place]
  have swap : ∀ a b c d : BitVec 64, a ||| b ||| c ||| d = a ||| d ||| b ||| c := by
    intro a b c d
    rw [BitVec.or_assoc a b c, BitVec.or_assoc, BitVec.or_comm _ d, ← BitVec.or_assoc, BitVec.or_assoc (a ||| d)]
  rw [encS, encHead, empty, empty, BitVec.or_zero, BitVec.or_zero, swap (place (BitVec.ofNat 8 maj) 56)]

/-- Settles O39: `eret` is the return of R383 under the check of its mode. -/
theorem eretReturns : Obligations.EretReturns := by
  intro g o s on
  refine ⟨fun supervisor => ?returns, fun user untrapped => ?refused, congrArg some ((encS_of_s1 _ _ g 0).trans ?word)⟩
  case returns =>
    refine ⟨_, congrArg Host.Outcome.next ((issueJump_runs on _).trans (if_neg (by simp [supervisor]))), ?_⟩
    exact ⟨State.cur_modCur _ _, onlyContext_modCur _ _⟩
  case refused =>
    obtain ⟨info, enters⟩ := trapped_trapOpen untrapped Cause.ill
    exact ⟨_, congrArg Host.Outcome.next ((issueJump_runs on _).trans (if_pos user)), info, enters⟩
  case word => exact BitVec.or_zero

/-- Settles O40: `wfe` stalls exactly while it selects events and none of them is pending. -/
theorem wfeWaitsForItsEvents : Obligations.WfeWaitsForItsEvents := by
  intro g o s runs
  refine ⟨fun free => ⟨_, exec_issue runs rfl (if_neg fun waits => ?_), retired_retire s⟩,
    fun selects none => exec_issue runs rfl (if_pos (by simpa using ⟨selects, none⟩)), congrArg some (encS_of_s1 _ _ g o.s1)⟩
  rw [Bool.and_eq_true, decide_eq_true_eq, decide_eq_true_eq] at waits
  exact free.elim waits.1 fun pending => pending waits.2

/-- A supervisor instruction has its effect in supervisor mode (R51, R53). -/
theorem exec_supervised {i : Instr} {s : State} {g : Guard} {f : State → State} (runs : Runs s g) (allowed : s.cur.mode = .supervisor)
    (does : exec i s = .next (s.supervised (·.issue g f))) : exec i s = .next (f s) := by
  rw [does, supervised_runs allowed, issue_runs runs]

/-- Settles O41: each of the three passes the check of privilege and has its own effect. -/
theorem haltsAndInvalidations : Obligations.HaltsAndInvalidations := by
  intro g o s runs allowed
  refine ⟨fun landed => ⟨_, exec_supervised runs allowed rfl, ?halts⟩, ⟨_, exec_supervised runs allowed rfl, rfl, ?resumes⟩,
    ⟨_, exec_supervised runs allowed rfl, rfl⟩⟩
  case halts =>
    rw [haltHere_landed landed]
    exact ⟨State.cur_modCur _ _, onlyContext_modCur _ _⟩
  case resumes => exact (memorySame_modCtx _ _ _ _).trans (onlyContext_modCur _ _).2

/-! System registers (R379, R380). -/

/-- A word masked with the ones of a field keeps that field where it stands. -/
theorem and_place_ones (v : Word) (lo w : Nat) : v &&& place (BitVec.allOnes w) lo = place (v.extractLsb' lo w) lo := by
  apply BitVec.eq_of_getLsbD_eq
  intro i inside
  by_cases below : i < lo
  · simp [place, below]
  · have at_i : lo + (i - lo) = i := by omega
    by_cases within : i - lo < w <;> simp [place, below, within, at_i, inside]

/-- The bits of a field are zero exactly when the number that the field holds is. -/
theorem and_place_ones_eq_zero {v : Word} {lo w : Nat} (fits : lo + w ≤ 64) :
    v &&& place (BitVec.allOnes w) lo = 0 ↔ v.toNat / 2 ^ lo % 2 ^ w = 0 := by
  have number : v.toNat / 2 ^ lo % 2 ^ w = (v.extractLsb' lo w).toNat := by
    rw [BitVec.extractLsb'_toNat, Nat.shiftRight_eq_div_pow]
  rw [and_place_ones, number, ← BitVec.toNat_zero (w := w), BitVec.toNat_inj]
  refine ⟨fun none => ?_, fun none => by simp [none, place]⟩
  rw [← extract_place_same (v.extractLsb' lo w) lo (by omega), none]
  simp

/-- The bits from one up are zero exactly when the number is below its power of two. -/
theorem and_high_eq_zero {v mask : Word} (k : Nat) (high : mask = place (BitVec.allOnes (64 - k)) k) (inside : k ≤ 64) :
    v &&& mask = 0 ↔ v.toNat < 2 ^ k := by
  have small : v.toNat / 2 ^ k < 2 ^ (64 - k) := Nat.div_lt_of_lt_mul (by rw [← Nat.pow_add, Nat.add_sub_cancel' inside]; exact v.isLt)
  rw [high, and_place_ones_eq_zero (by omega), Nat.mod_eq_of_lt small, Nat.div_eq_zero_iff]
  simp

/-- What `syswr` refuses is a value with a bit set that the register's layout keeps zero (R379). -/
theorem and_zeroFields_eq_zero (v : Word) (n : Nat) : v &&& zeroFields n = 0 ↔ (n = 0x10 → v.toNat < 16) ∧ (n = 0x11 → v.toNat < 256) ∧
    (n = 0x12 ∨ n = 0x15 → v.toNat < 2048) ∧ (n = 0x22 → v.toNat < 2) ∧ (n = 0x23 → v.toNat < 4) ∧ (n = 0x24 → v.toNat < 2 ^ 32) ∧
    (n = 0x40 → v.toNat < 2 ^ 27 ∧ v.toNat / 4 % 64 = 0) := by
  have debug : v &&& ~~~(0x7FFFF03 : Word) = 0 ↔ v.toNat < 2 ^ 27 ∧ v.toNat / 4 % 64 = 0 := by
    have mask : ~~~(0x7FFFF03 : Word) = place (BitVec.allOnes (64 - 27)) 27 ||| place (BitVec.allOnes 6) 2 := by decide
    have split : ∀ a b : Word, v &&& (a ||| b) = 0 ↔ v &&& a = 0 ∧ v &&& b = 0 := by
      intro a b; rw [BitVec.and_or_distrib_left]; exact BitVec.or_eq_zero_iff
    rw [mask, split, and_high_eq_zero 27 rfl (by decide), and_place_ones_eq_zero (by decide)]
    rfl
  unfold zeroFields
  split
  case h_1 => simpa using and_high_eq_zero (v := v) (mask := ~~~0xF) 4 (by decide) (by decide)
  case h_2 => simpa using and_high_eq_zero (v := v) (mask := ~~~0xFF) 8 (by decide) (by decide)
  case h_3 => simpa using and_high_eq_zero (v := v) (mask := ~~~0x7FF) 11 (by decide) (by decide)
  case h_4 => simpa using and_high_eq_zero (v := v) (mask := ~~~0x7FF) 11 (by decide) (by decide)
  case h_5 => simpa using and_high_eq_zero (v := v) (mask := ~~~0x1) 1 (by decide) (by decide)
  case h_6 => simpa using and_high_eq_zero (v := v) (mask := ~~~0x3) 2 (by decide) (by decide)
  case h_7 => simpa using and_high_eq_zero (v := v) (mask := ~~~0xFFFFFFFF) 32 (by decide) (by decide)
  case h_8 => simpa using debug
  case h_9 => grind

/-- The registers that R379 lists are those that a `sysrd` can read. -/
theorem readSys_listed (s : State) (t : TileId) (k : Fin 4) (n : Nat) : n ∈ [0, 1, 2, 3, 4, 5, 0x10, 0x11, 0x12, 0x13, 0x14, 0x15,
    0x16, 0x17, 0x20, 0x21, 0x22, 0x23, 0x24, 0x25, 0x30, 0x40] ↔ s.readSys t k n ≠ none := by
  unfold State.readSys
  dsimp only
  split <;> simp
  and_intros <;> assumption

theorem neverWritten_iff (n : Nat) : neverWritten n = true ↔ n ∈ [0, 1, 2, 3, 4, 5, 0x16, 0x17, 0x20, 0x21, 0x30] := by
  simp only [neverWritten, Bool.or_eq_true, decide_eq_true_eq, beq_iff_eq, List.mem_cons, List.not_mem_nil, or_false]
  omega

theorem userWritable_iff (n : Nat) : userWritable n = true ↔ n = 0x22 ∨ n = 0x23 := by simp [userWritable]

/-- The three forms of `syswr` have the same checks and effect (R380). -/
theorem exec_sysWrite {g : Guard} {o : FmtS} {s : State} (runs : Runs s g) :
    ∀ i ∈ [Instr.syswr g o, .horizonWrite g o, .evpendWrite g o], exec i s = .next (s.sysWrite o) := by
  simp only [List.forall_mem_cons, List.not_mem_nil, false_imp_iff, implies_true, and_true]
  and_intros
  all_goals exact exec_issue runs rfl rfl

section SysWrite

variable {s : State} {o : FmtS}

theorem sysWrite_user (user : s.cur.mode = .user) (supervisors : userWritable o.sreg.toNat = false) : s.sysWrite o = s.trap Cause.priv s.curWord := by
  unfold State.sysWrite
  rw [if_pos (by simp [user, supervisors])]

section Allowed

variable (allowed : userWritable o.sreg.toNat = true ∨ s.cur.mode = .supervisor)
include allowed

theorem sysWrite_ill (bad : neverWritten o.sreg.toNat = true ∨ s.readSys s.here s.ctx o.sreg.toNat = none ∨
    s.getS o.s1 &&& zeroFields o.sreg.toNat ≠ 0) : s.sysWrite o = s.trapIll := by
  unfold State.sysWrite
  dsimp only
  rw [if_neg (by rcases allowed with e | e <;> simp [e])]
  rcases bad with never | unlisted | unformed
  · rw [if_pos (by simp [never])]
  · rw [if_pos (by simp [unlisted])]
  · rw [if_pos unformed, ite_self]

theorem sysWrite_writes (writable : neverWritten o.sreg.toNat = false) (listed : s.readSys s.here s.ctx o.sreg.toNat ≠ none)
    (formed : s.getS o.s1 &&& zeroFields o.sreg.toNat = 0) :
    s.sysWrite o = (s.writeSys s.here s.ctx o.sreg.toNat (s.getS o.s1)).retire := by
  unfold State.sysWrite
  rw [if_neg (by rcases allowed with e | e <;> simp [e]), if_neg (by simp [writable, listed]), if_neg (by simp [formed])]

end Allowed

end SysWrite

theorem writeSys_context {s : State} {n : Nat} (notHorizon : n ≠ 0x24) (notDiscard : n ≠ 0x25) (v : Word) :
    s.writeSys s.here s.ctx n v = s.modCur (·.writeSys n v) := by
  unfold State.writeSys
  split
  · exact absurd rfl notHorizon
  · exact absurd rfl notDiscard
  · rfl

section Sysrd

variable {s : State} {g : Guard} {o : FmtS} (runs : Runs s g)
include runs

theorem exec_sysrd_hidden (hidden : 0x11 ≤ o.sreg.toNat ∧ o.sreg.toNat ≤ 0x14 ∧ s.cur.mode = .user) :
    exec (.sysrd g o) s = .next (s.trap Cause.priv s.curWord) :=
  exec_issue runs rfl (if_pos (by simp [readNeedsSupervisor, hidden]))

theorem exec_sysrd_visible (visible : ¬ (0x11 ≤ o.sreg.toNat ∧ o.sreg.toNat ≤ 0x14 ∧ s.cur.mode = .user)) :
    exec (.sysrd g o) s = .next (match s.readSys s.here s.ctx o.sreg.toNat with
      | some v => s.writeS o.d v
      | none => s.trapIll) :=
  exec_issue runs rfl (if_neg (by simpa [readNeedsSupervisor] using visible))

end Sysrd

/-- Settles O37: the lists and masks of `sysWrite` are those of R379, and its checks come in the order PRIV, ILL. -/
theorem systemRegistersReadAndWrite : Obligations.SystemRegistersReadAndWrite := by
  intro g o s runs n v c listed fixed formed hidden mine after
  have reads : listed ↔ s.readSys s.here s.ctx n ≠ none := readSys_listed s s.here s.ctx n
  have never : neverWritten n = true ↔ fixed := neverWritten_iff n
  have zeros : v &&& zeroFields n = 0 ↔ formed := and_zeroFields_eq_zero v n
  have allowed : mine → userWritable n = true ∨ c.mode = .supervisor := by
    rintro (e | e | e)
    · exact .inl ((userWritable_iff n).2 (.inl e))
    · exact .inl ((userWritable_iff n).2 (.inr e))
    · exact .inr e
  refine ⟨reads, fun w read visible => ?sysrd, fun i form => ⟨fun may inList writable good => ?writes, fun untrapped others => ?priv,
    fun untrapped may bad => ?ill⟩, fun untrapped priv => ⟨_, exec_sysrd_hidden runs priv, trapped_trap untrapped _ _ _⟩,
    fun untrapped visible unlisted => ?unlisted, rfl, rfl, rfl, rfl, rfl, rfl, rfl, rfl⟩
  case sysrd =>
    refine ⟨_, exec_sysrd_visible runs visible, ?_⟩
    rw [read]
    exact wroteS_writeS _ _ _
  case unlisted =>
    refine ⟨_, exec_sysrd_visible runs visible, ?_⟩
    rw [not_not.1 (mt reads.2 unlisted)]
    exact trapped_trap untrapped _ _ _
  case priv =>
    obtain ⟨notMask, notPend, notSupervisor⟩ : n ≠ 0x22 ∧ n ≠ 0x23 ∧ c.mode ≠ .supervisor := by simpa [mine] using others
    have user : c.mode = .user := by cases e : c.mode <;> simp_all
    have supervisors : userWritable n = false := by simp [userWritable, notMask, notPend]
    exact ⟨_, (exec_sysWrite runs i form).trans (congrArg _ (sysWrite_user user supervisors)), trapped_trap untrapped _ _ _⟩
  case ill =>
    refine ⟨_, (exec_sysWrite runs i form).trans (congrArg _ (sysWrite_ill (allowed may) ?_)), trapped_trap untrapped _ _ _⟩
    rcases bad with isFixed | unlisted | unformed
    · exact .inl (never.2 isFixed)
    · exact .inr (.inl (not_not.1 (mt reads.2 unlisted)))
    · exact .inr (.inr (mt zeros.1 unformed))
  case writes =>
    have e := (exec_sysWrite runs i form).trans (congrArg _ (sysWrite_writes (allowed may) (by simpa using mt never.1 writable) (reads.1 inList) (zeros.2 good)))
    refine ⟨fun notHorizon notDiscard => ⟨_, e, ?context⟩, fun horizon => ⟨_, e, ?horizon⟩, fun discard => ⟨_, e, ?discard⟩⟩
    case context =>
      have register : n = 0x10 ∨ n = 0x11 ∨ n = 0x12 ∨ n = 0x13 ∨ n = 0x14 ∨ n = 0x15 ∨ n = 0x22 ∨ n = 0x23 ∨ n = 0x40 := by
        simp only [listed, fixed, List.mem_cons, List.not_mem_nil, or_false] at inList writable
        omega
      have written : c.writeSys n v = after := by
        rcases register with r | r | r | r | r | r | r | r | r <;> simp only [after, r] <;> rfl
      rw [writeSys_context notHorizon notDiscard, State.retire, State.modCur_modCur]
      exact ⟨(State.cur_modCur _ _).trans (congrArg Ctx.retire written), onlyContext_modCur _ _⟩
    case horizon =>
      rw [show o.sreg.toNat = 0x24 from horizon]
      refine ⟨rfl, MemorySame.trans ?_ (onlyContext_modCur _ _).2⟩
      simp only [State.writeSys]
      split
      · exact ⟨fun _ => rfl, fun _ => rfl, fun _ _ => rfl⟩
      · exact MemorySame.refl s
    case discard =>
      rw [show o.sreg.toNat = 0x25 from discard]
      exact tileStep_retire s fun _ => rfl

end Sys2Proof

/-! Barriers and their pools. -/

namespace Sys2Proof

open Sys2Proof.Machine

/-! A fault of a region lets no context wait at a pool that did not wait there. -/

/-- At a pool where no context waited none waits afterwards. -/
def LeavesWaits (s u : State) : Prop := ∀ d : Fin 8, s.dies[d].poolWaits = [] → u.dies[d].poolWaits = []

namespace LeavesWaits

variable {s u v : State}

theorem of_dies (same : u.dies = s.dies := by rfl) : LeavesWaits s u := fun d none => by rw [same]; exact none

theorem trans (h : LeavesWaits s u) (k : LeavesWaits u v) : LeavesWaits s v := fun d none => k d (h d none)

theorem foldl {α : Type} {f : State → α → State} (step : ∀ u a, LeavesWaits u (f u a)) (l : List α) (s : State) : LeavesWaits s (l.foldl f s) :=
  List.foldlRecOn (motive := LeavesWaits s) l f of_dies fun u hu a _ => hu.trans (step u a)

theorem modDie (s : State) (d : Fin 8) {f : Die → Die} (keeps : ∀ x, (f x).poolWaits = x.poolWaits := by exact fun _ => rfl) :
    LeavesWaits s (s.modDie d f) := by
  intro e none
  by_cases h : e = d
  · subst h
    rw [State.modDie_same, keeps, none]
  · rw [State.modDie_other s h, none]

theorem passOn (s : State) (ds : List Nat) : LeavesWaits s (s.passOn ds) := foldl (fun u d => modDie u (dieOf d)) ds s

theorem doneWritten (s : State) (d : DoneOut) (failed : Bool) : LeavesWaits s (s.doneWritten d failed) := by
  unfold State.doneWritten
  dsimp only
  split <;> exact of_dies

theorem writeDone (s : State) (d : DoneOut) : LeavesWaits s (s.writeDone d) := by
  unfold State.writeDone
  split
  · exact of_dies
  · exact (of_dies (u := { s with mem := s.mem.writeAt d.target 16 d.record })).trans (doneWritten _ d false)

theorem doneAction (s : State) (l : Launch) (queue seq outcome cause info : Nat) (region : Option (Nat × BitVec 8)) :
    LeavesWaits s (s.doneAction l queue seq outcome cause info region) := by
  unfold State.doneAction
  dsimp only
  split
  · exact of_dies
  · split
    · exact of_dies
    · split
      · exact of_dies
      · split
        · exact of_dies
        · exact (of_dies).trans (writeDone _ _)

theorem freeRegion (s : State) (r : Region) : LeavesWaits s (s.freeRegion r) := by
  unfold State.freeRegion
  extract_lets gated counted
  have hCounted : LeavesWaits gated counted := by
    unfold counted
    split
    · exact modDie gated _
    · exact of_dies
  exact ((of_dies (u := gated)).trans hCounted).trans ((of_dies).trans (passOn _ _))

theorem closeOne (s : State) (r : Region) : LeavesWaits s (s.closeOne r) := by
  unfold State.closeOne
  split
  · extract_lets marked acted begun
    have hActed : LeavesWaits s acted := by
      unfold acted
      split
      · exact of_dies
      · exact (of_dies).trans (doneAction _ _ _ _ _ _ _ _)
    split
    · exact hActed.trans (freeRegion _ _)
    · exact hActed
  · exact of_dies

theorem settleClosing (s : State) : LeavesWaits s s.settleClosing := foldl closeOne s.regions s

theorem sendDecision (s : State) (k : Nat) (commit : Bool) : LeavesWaits s (s.sendDecision k commit) := by
  refine foldl (fun u p => ?_) _ s
  split
  · exact of_dies
  · split <;> exact of_dies

theorem abortBale (s : State) (k cause : Nat) (node : BitVec 12) : LeavesWaits s (s.abortBale k cause node) := by
  unfold State.abortBale
  extract_lets marked sent
  exact ((of_dies (u := marked)).trans (sendDecision marked k false)).trans of_dies

theorem endBales (s : State) (r : Region) : LeavesWaits s (s.endBales r) := by
  refine foldl (fun u p => ?_) _ s
  dsimp only
  split
  · exact of_dies
  · split
    · exact of_dies
    · exact (of_dies).trans (abortBale _ _ _ _)
    · exact (of_dies).trans (abortBale _ _ _ _)
    · exact of_dies
    · exact of_dies
    · exact of_dies

theorem purgePeers (s : State) (r : Region) : LeavesWaits s (s.purgePeers r) := (of_dies).trans (foldl (fun _ _ => of_dies) _ _)

theorem beginClose (s : State) (r : Region) (tiles : List TileId) (outcome : BitVec 8) : LeavesWaits s (s.beginClose r tiles outcome) := by
  unfold State.beginClose
  extract_lets answered due halts halted theirs sinks counted away _ _ gated _ cleared
  have hAnswered : LeavesWaits s answered := by
    unfold answered
    split <;> exact of_dies
  have hDue : LeavesWaits answered due := by
    unfold due
    split <;> exact of_dies
  have hHalted : LeavesWaits due halted := foldl (fun _ _ => of_dies) halts due
  have hCounted : LeavesWaits halted counted := by
    refine foldl (fun u e => ?_) sinks halted
    split
    · split
      · exact modDie _ _
      · exact of_dies
    · exact of_dies
  have hGated : LeavesWaits counted gated := fun d none => by
    simp only [gated, Fin.getElem_fin, Vector.getElem_map]
    exact List.filter_eq_nil_iff.2 fun o mem => by rw [Fin.getElem_fin] at none; simp [none] at mem
  have hCleared : LeavesWaits gated cleared := foldl (fun _ _ => of_dies) tiles gated
  exact ((((hAnswered.trans hDue).trans hHalted).trans hCounted).trans hGated).trans (hCleared.trans of_dies)

theorem killRegion (s : State) (n : Nat) (outcome : BitVec 8) : LeavesWaits s (s.killRegion n outcome) := by
  unfold State.killRegion
  split
  · exact of_dies
  · next r _ =>
    extract_lets tiles mine ids dropped stale
    have hStale : LeavesWaits dropped stale := foldl (fun u d => modDie u d) _ dropped
    have hNumbered : LeavesWaits stale ((stale.endBales r).nextGeneration r) := (endBales stale r).trans (modDie _ _)
    exact (((of_dies (u := dropped)).trans hStale).trans hNumbered).trans
      (((purgePeers _ r).trans (beginClose _ r tiles outcome)).trans (settleClosing _))

theorem regionFault (s : State) (n : Nat) (f : FaultEntry) : LeavesWaits s (s.regionFault n f) := by
  unfold State.regionFault
  split
  · exact of_dies
  · dsimp only
    split
    · exact of_dies
    · exact (of_dies).trans (killRegion _ _ _)

theorem trapIn (s : State) (t : TileId) (k : Fin 4) (cause : BitVec 8) (epc : BitVec 11) (eva info : Word) :
    LeavesWaits s (s.trapIn t k cause epc eva info) := by
  unfold State.trapIn
  split
  · unfold State.tileFault
    split
    · exact of_dies
    · exact regionFault _ _ _
  · exact of_dies

end LeavesWaits

/-! The instructions (R328). -/

/-- The operation that the issuing context sends to a pool (R324). -/
def Machine.State.poolOp (s : State) (kind : BarKind) (h : Word) (near : Bool) : BarOp :=
  ⟨s.here, s.ctx, (s.regionKey s.here).1, (s.regionKey s.here).2, kind, h, s.nextSeq, near, s.nextSeq⟩

/-- An operation of the pool's own die stands behind those that have reached it, one of another die behind all (R245, R324). -/
theorem sendPool_joins (s : State) (d : Fin 8) (kind : BarKind) (h : Word) : s.sendPool d kind h = { s.modDie d fun x => { x with
    poolQ := if d = s.here.dieIx then x.poolQ.filter (·.granted) ++ s.poolOp kind h true :: (x.poolQ.filter fun p => !p.granted)
      else x.poolQ ++ [s.poolOp kind h false] } with nextSeq := s.nextSeq + 1 } := by
  by_cases near : d = s.here.dieIx
  · have e : (d == s.here.dieIx) = true := by simpa using near
    simp only [State.sendPool, e, if_pos near]
    rfl
  · have e : (d == s.here.dieIx) = false := by simpa using near
    simp only [State.sendPool, e, if_neg near]
    rfl

theorem memorySame_sendPool (s : State) (d : Fin 8) (kind : BarKind) (h : Word) (f : Ctx → Ctx) : MemorySame s ((s.sendPool d kind h).modCur f) :=
  (show MemorySame s (s.sendPool d kind h) from ⟨fun _ => rfl, fun _ => rfl, fun _ _ => rfl⟩).trans (onlyContext_modCur _ _).2

/-- Settles O33: every barrier instruction is `sendPool` followed by the change of its context. -/
theorem barrierInstructionsGoToTheirPool : Obligations.BarrierInstructionsGoToTheirPool := by
  intro g o s runs h sends goes d
  have sent : ∀ {i : Instr} {d : Fin 8} {kind : BarKind} {h : Word} {f : Ctx → Ctx},
      exec i s = .next ((s.sendPool d kind h).modCur f) → sends i d kind h f := fun e =>
    ⟨_, e, memorySame_sendPool _ _ _ _ _, congrArg (State.modCur · _) (sendPool_joins _ _ _ _)⟩
  refine ⟨sent (exec_issue runs rfl rfl), sent (exec_issue runs rfl rfl), sent (exec_issue runs rfl rfl), sent (exec_issue runs rfl rfl),
    sent (exec_issue runs rfl rfl), fun release => sent (exec_issue runs rfl ?_), sent (exec_issue runs rfl rfl), sent (exec_issue runs rfl rfl)⟩
  rw [takesFault_run fun r => (release r).1, awaits_run fun r => (release r).2]
  rfl

/-! Barriers (R325). -/

theorem settle_complete {b : Barrier} (complete : 1 ≤ b.expect.toNat ∧ b.arrived = b.expect ∧ b.bytes ≤ 0) :
    b.settle.phase = b.phase + 1 ∧ b.settle.arrived = 0 ∧ b.settle.bytes = 0 ∧ (b.bytes < 0 → b.err = 0 → b.settle.err = Cause.barovf) := by
  obtain ⟨some, all, noneDue⟩ := complete
  unfold Barrier.settle
  rw [if_pos (by simp [some, all, noneDue])]
  by_cases short : (b.bytes < 0 && b.err = 0) = true
  · rw [if_pos short]
    exact ⟨rfl, rfl, rfl, fun _ _ => rfl⟩
  · rw [if_neg short]
    exact ⟨rfl, rfl, rfl, fun below free => absurd (by simp [below, free]) short⟩

theorem settle_incomplete {b : Barrier} (incomplete : ¬ (1 ≤ b.expect.toNat ∧ b.arrived = b.expect ∧ b.bytes ≤ 0)) : b.settle = b :=
  if_neg (by simpa [and_assoc] using incomplete)

/-! A pool's turn (R324). -/

theorem modDie_congr {s : State} {d : Fin 8} {f g : Die → Die} (same : f s.dies[d] = g s.dies[d]) : s.modDie d f = s.modDie d g := by
  unfold State.modDie
  rw [same]

/-- Two changes of a die in a row are one. -/
theorem modDie_modDie (s : State) (d : Fin 8) (f g : Die → Die) : (s.modDie d f).modDie d g = s.modDie d fun x => g (f x) := by
  simp [State.modDie]

theorem modDie_id (s : State) (d : Fin 8) {f : Die → Die} (same : f s.dies[d] = s.dies[d]) : s.modDie d f = s := by
  unfold State.modDie
  rw [same, Fin.getElem_fin, Vector.set_getElem_self]

/-- With no context waiting at a pool nothing is looked at again. -/
theorem wakeWaits_idle {s : State} {d : Fin 8} (idle : s.dies[d].poolWaits = []) : s.wakeWaits d = s := by
  unfold State.wakeWaits
  rw [idle]
  exact modDie_id s d (by rw [← idle])

/-- A barrier is what its die holds, so a die that keeps its barriers names the same ones. -/
theorem barrierOf_congr {s u : State} (same : ∀ d : Fin 8, u.dies[d].barriers = s.dies[d].barriers) (h : Word) : u.barrierOf h = s.barrierOf h := by
  unfold State.barrierOf Die.barrier
  rw [same]

/-- The state in which a pool performs an operation that it has taken, with no context waiting. -/
def Machine.State.takeOp (s : State) (d : Fin 8) (rest : List BarOp) : State := s.modDie d fun x => { x with poolQ := rest, poolWaits := [] }

section Operations

variable {d : Fin 8} {s : State} {o : BarOp} {rest : List BarOp} (queue : s.dies[d].poolQ = o :: rest) (granted : o.granted = true)
  (idle : s.dies[d].poolWaits = []) (first : ∀ a, s.dies[d].arrivals.head? = some a → a.granted = true → o.reached ≤ a.reached)
include queue granted first

theorem poolNext_operation : s.dies[d].poolNext = some (.inl o) := by
  unfold Die.poolNext
  rw [queue, List.head?_cons, Option.filter_some_pos granted]
  cases arrival : s.dies[d].arrivals.head? with
  | none => rfl
  | some a =>
    cases reached : a.granted with
    | false => rw [Option.filter_some_neg (by simp [reached])]
    | true =>
      rw [Option.filter_some_pos reached]
      exact congrArg some (if_neg (Nat.not_lt.2 (first a arrival reached)))

include idle

omit granted first in
theorem takeOp_tail : s.modDie d (fun x => { x with poolQ := x.poolQ.tail }) = s.takeOp d rest :=
  modDie_congr (by rw [queue, ← idle]; rfl)

theorem execBarrierOperation_performs : execBarrierOperation ⟨d, .clean⟩ s = .next (((s.takeOp d rest).barPerform d o).wakeWaits d) := by
  unfold execBarrierOperation
  rw [poolNext_operation queue granted first]
  dsimp only
  rw [takeOp_tail queue idle, ite_self]

section Far

variable (far : o.tile.dieIx ≠ d)
include far

theorem execBarrierOperation_data : execBarrierOperation ⟨d, .data⟩ s = .next ((s.takeOp d rest).barPoison o) := by
  unfold execBarrierOperation
  rw [poolNext_operation queue granted first]
  dsimp only
  rw [takeOp_tail queue idle, if_neg far]

theorem execBarrierOperation_header : execBarrierOperation ⟨d, .header⟩ s = .next ((s.takeOp d rest).headerFault (some o.region)) := by
  unfold execBarrierOperation
  rw [poolNext_operation queue granted first]
  dsimp only
  rw [takeOp_tail queue idle, if_neg far]

end Far

end Operations

section Performs

variable {d : Fin 8} {s : State} {o : BarOp} {b : Barrier}

theorem barPerform_unnamed (named : ∀ r p, o.kind ≠ .alloc r p)
    (bad : s.barrierOf o.handle = none ∨ ∃ b, s.barrierOf o.handle = some b ∧ b.held ≠ some o.region) :
    s.barPerform d o = s.poolTrap o Cause.bargen o.handle := by
  unfold State.barPerform
  dsimp only
  split
  · next r p kind => exact absurd kind (named r p)
  · rcases bad with none | ⟨b, some, others⟩
    · rw [none]
    · simp only [some, others, ne_eq, not_false_eq_true, if_true]

section Named

variable (named : s.barrierOf o.handle = some b) (its : b.held = some o.region)
include named its

theorem barPerform_free (kind : o.kind = .free) : s.barPerform d o = (s.modDie (barDie o.handle) fun y => y.setBarrier (barIndex o.handle)
    (if b.ref = 1 then b.freed else { b with ref := b.ref - 1 }.settle)).poolDone o id := by
  simp [State.barPerform, kind, named, its]

theorem barPerform_ref (kind : o.kind = .ref) : s.barPerform d o = if b.ref = 65535 then s.poolTrap o Cause.barovf o.handle
    else (s.putBarrier o.handle { b with ref := b.ref + 1 }).poolDone o id := by
  simp [State.barPerform, kind, named, its]

theorem barPerform_init {n : Word} (kind : o.kind = .init n) : s.barPerform d o =
    if n = 0 ∨ 65535 < n.toNat ∨ b.arrived ≠ 0 ∨ b.bytes ≠ 0 then s.poolTrap o Cause.barovf o.handle
    else (s.putBarrier o.handle { b with expect := n.setWidth 16, err := 0, errId := 0 }).poolDone o id := by
  simp [State.barPerform, kind, named, its, or_assoc]

section Arrive

variable {r : Reg} {n : BitVec 16} (kind : o.kind = .arrive r n)
include kind

theorem barPerform_arrive_beyond (beyond : b.expect = 0#16 ∨ (b.expect.toNat : Int) < b.arrived.toNat + n.toInt) :
    s.barPerform d o = s.poolTrap o Cause.barovf o.handle := by
  rcases beyond with none | more
  · simp [State.barPerform, kind, named, its, none]
  · simp [State.barPerform, kind, named, its, more]

variable (expects : b.expect ≠ 0#16)
include expects

theorem barPerform_arrive {a : BitVec 16} (within : (b.arrived.toNat : Int) + n.toInt ≤ b.expect.toNat) (sum : (a.toNat : Int) = b.arrived.toNat + n.toInt) : s.barPerform d o =
    (s.putBarrier o.handle { b with arrived := a }).poolDone o fun c => c.setS r ((b.phase + 1).zeroExtend 64) := by
  have count : (BitVec.ofInt 64 (b.arrived.toNat + n.toInt)).setWidth 16 = a := by
    rw [← sum]
    simp
  have up : 0 ≤ (b.arrived.toNat : Int) + n.toInt := by omega
  simp [State.barPerform, kind, named, its, expects, Int.not_lt.2 within, up, count]

/-- A sum below 0 leaves a free value in ARRIVED (log entry 94). -/
theorem barPerform_arrive_below (below : (b.arrived.toNat : Int) + n.toInt < 0) : ∃ a : BitVec 16, s.barPerform d o =
    (State.putBarrier { s with frees := s.frees + 1 } o.handle { b with arrived := a }).poolDone o fun c =>
      c.setS r ((b.phase + 1).zeroExtend 64) := by
  have down : ¬ 0 ≤ (b.arrived.toNat : Int) + n.toInt := by omega
  have within : ¬ (b.expect.toNat : Int) < b.arrived.toNat + n.toInt := by omega
  refine ⟨s.freeWord.1.setWidth 16, ?_⟩
  simp [State.barPerform, kind, named, its, expects, within, down, State.freeWord]

end Arrive

theorem barPerform_exp {n : Word} (kind : o.kind = .exp n) : s.barPerform d o =
    if 2 ^ 47 - 1 < b.bytes + n.toNat then s.poolTrap o Cause.barovf o.handle
    else (s.putBarrier o.handle { b with bytes := b.bytes + n.toNat }).poolDone o id := by
  simp [State.barPerform, kind, named, its]

theorem barPerform_wait {p : BitVec 32} (kind : o.kind = .wait p) : s.barPerform d o =
    if b.reached p then s.observe o b 0 else s.modDie d fun x => { x with poolWaits := x.poolWaits ++ [o] } := by
  simp [State.barPerform, kind, named, its]

theorem barPerform_test {r : Reg} {p : BitVec 32} (kind : o.kind = .test r p) : s.barPerform d o =
    if b.reached p then s.observe o b r else s.poolDone o (·.setS r 0) := by
  simp [State.barPerform, kind, named, its]

end Named

/-- A changed barrier, and the reply: what an operation leaves where no context waits at the pool. -/
theorem setBarrier_poolDone (at_d : barDie o.handle = d) (idle : s.dies[d].poolWaits = []) (x : Barrier) (put : Ctx → Ctx) :
    (s.modDie (barDie o.handle) fun y => y.setBarrier (barIndex o.handle) x).poolDone o put =
      (s.modDie d fun y => { y.setBarrier (barIndex o.handle) x with poolWaits := [] }).modCtx o.tile o.ctx
        fun c => { put c with wait := .none }.retire := by
  subst at_d
  exact congrArg (State.poolDone · o put) (modDie_congr (by rw [← idle]; rfl))

section Alloc

variable {r p : Reg}

/-- The registers that the reply to a `baralloc` writes in a context: the handle, and whether it succeeded (R322, R328). -/
def Machine.Ctx.allocated (r p : Reg) (h ok : Word) (c : Ctx) : Ctx :=
  let c := (c.setS r h).setP p.toNat ok
  { c with landing := c.landing.filter fun l => !(l.2 == never && (allocRegs r p).contains l.1) }

variable (lives : s.opLives o = true)
include lives

theorem allocDone_lives (h ok : Word) : s.allocDone o r p h ok = s.modCtx o.tile o.ctx (·.allocated r p h ok) := by
  unfold State.allocDone
  rw [lives]
  rfl

theorem barAlloc_none (full : (∀ k < 4096, (s.dies[d].barrier k).held ≠ none) ∨
    2048 ≤ s.dies[d].barriers.countP fun b => b.2.held.isSome && b.2.held == some o.region) :
    s.barAlloc d o r p = s.modCtx o.tile o.ctx (·.allocated r p 0 0) := by
  unfold State.barAlloc
  dsimp only
  rw [lives]
  refine (if_pos ?_).trans (allocDone_lives lives 0 0)
  rw [if_pos rfl]
  simp only [Bool.or_eq_true, List.isEmpty_iff, List.filter_eq_nil_iff, List.mem_range, Option.isNone_iff_eq_none, decide_eq_true_eq]
  exact .inl full

theorem barAlloc_some {k0 : Nat} (inside : k0 < 4096) (free : (s.dies[d].barrier k0).held = none)
    (room : (s.dies[d].barriers.countP fun b => b.2.held.isSome && b.2.held == some o.region) < 2048) :
    ∃ k < 4096, (s.dies[d].barrier k).held = none ∧ s.barAlloc d o r p = (State.modDie { s with picks := s.picks + 1 } d
      (·.setBarrier k { Barrier.free with held := some o.region, gen := (s.dies[d].barrier k).gen, ref := 1 })).modCtx o.tile o.ctx
        (·.allocated r p (barHandle d.val k (s.dies[d].barrier k).gen) Word.ones) := by
  have listed : k0 ∈ (List.range 4096).filter fun k => (s.dies[d].barrier k).held.isNone :=
    List.mem_filter.2 ⟨List.mem_range.2 inside, Option.isNone_iff_eq_none.2 free⟩
  have chosen := List.mem_filter.1 (getElem?_pick_mem s listed)
  refine ⟨_, List.mem_range.1 chosen.1, Option.isNone_iff_eq_none.1 chosen.2, ?_⟩
  unfold State.barAlloc
  dsimp only
  rw [lives, if_pos rfl, if_neg]
  · refine allocDone_lives ?_ _ _
    exact lives
  · simp only [Bool.or_eq_true, List.isEmpty_iff, decide_eq_true_eq, Option.isNone_some, not_or, Nat.not_le]
    exact ⟨⟨List.ne_nil_of_mem listed, room⟩, Bool.false_ne_true⟩

end Alloc

end Performs

section Arrivals

variable {d : Fin 8} {s : State} {a : Arrival} {rest : List Arrival} (arrivals : s.dies[d].arrivals = a :: rest) (granted : a.granted = true)
  (first : ∀ o, s.dies[d].poolQ.head? = some o → o.granted = true → a.reached < o.reached)
include arrivals granted first

theorem poolNext_arrival : s.dies[d].poolNext = some (.inr a) := by
  unfold Die.poolNext
  rw [arrivals, List.head?_cons, Option.filter_some_pos granted]
  cases operation : s.dies[d].poolQ.head? with
  | none => rfl
  | some o =>
    cases reached : o.granted with
    | false => rw [Option.filter_some_neg (by simp [reached])]
    | true =>
      rw [Option.filter_some_pos reached]
      exact congrArg some (if_pos (first o operation reached))

/-- TRANSFER_ARRIVAL takes the first arrival; data that fail their parity make it one in error, unless it has a cause (R326, R399). -/
theorem execTransferArrival_takes {f : PacketFault} (readable : f ≠ .header) : execTransferArrival ⟨d, f⟩ s = .next
    ((s.modDie d fun x => { x with arrivals := rest }).arrivePool d
      { a with cause := if f = .data ∧ a.engine.1 ≠ d ∧ a.cause = 0 then Cause.poison else a.cause }) := by
  have taken : s.modDie d (fun x => { x with arrivals := x.arrivals.tail }) = s.modDie d fun x => { x with arrivals := rest } :=
    modDie_congr (by rw [arrivals]; rfl)
  unfold execTransferArrival
  rw [poolNext_arrival arrivals granted first]
  dsimp only
  rw [taken]
  by_cases near : a.engine.1 = d
  · simp [near]
  · cases f with
    | header => exact absurd rfl readable
    | data => simp [near]
    | clean => simp

end Arrivals

section Arrive

variable {d : Fin 8} {s : State} {a : Arrival}

theorem arrivePool_unnamed (none : s.barrierOf a.handle = none) : s.arrivePool d a = s.stale d := by
  unfold State.arrivePool
  rw [none]

/-- The bytes that are due less those that have come, with the error of the phase's first failure (R326). -/
theorem arrivePool_counts {b : Barrier} (named : s.barrierOf a.handle = some b) (least : -(2 ^ 47) ≤ b.bytes - a.bytes)
    (at_d : barDie a.handle = d) (idle : s.dies[d].poolWaits = []) : s.arrivePool d a = s.putBarrier a.handle { b with
      bytes := b.bytes - a.bytes
      err := if a.cause ≠ 0 ∧ b.err = 0 then a.cause else b.err
      errId := if a.cause ≠ 0 ∧ b.err = 0 then a.id else b.errId } := by
  have waits : (s.putBarrier a.handle { b with
      bytes := b.bytes - a.bytes
      err := if a.cause ≠ 0 ∧ b.err = 0 then a.cause else b.err
      errId := if a.cause ≠ 0 ∧ b.err = 0 then a.id else b.errId }).dies[d].poolWaits = [] := by
    rw [State.putBarrier, at_d, State.modDie_same]
    exact idle
  have blamed : (if a.cause ≠ 0 && b.err = 0 then { b with err := a.cause, errId := a.id } else b) = { b with
      err := if a.cause ≠ 0 ∧ b.err = 0 then a.cause else b.err
      errId := if a.cause ≠ 0 ∧ b.err = 0 then a.id else b.errId } := by
    by_cases fails : a.cause ≠ 0 ∧ b.err = 0
    · rw [if_pos (by simpa using fails), if_pos fails, if_pos fails]
    · rw [if_neg (by simpa using fails), if_neg fails, if_neg fails]
  unfold State.arrivePool
  rw [named]
  dsimp only
  rw [blamed]
  dsimp only
  rw [if_pos least]
  exact wakeWaits_idle waits

end Arrive

section Turn

variable {d : Fin 8} {s : State} {o : BarOp} {b : Barrier}

/-- Trap entry, or the fault of its region, leaves no context waiting at a pool where none waited. -/
theorem poolTrap_idle (idle : s.dies[d].poolWaits = []) (o : BarOp) (cause : BitVec 8) (info : Word) :
    (s.poolTrap o cause info).dies[d].poolWaits = [] :=
  LeavesWaits.trapIn s _ _ _ _ _ _ d idle

theorem observe_ok (ok : b.err = 0) (r : Reg) : s.observe o b r = s.poolDone o (·.setS r 1) := if_neg (not_not.2 ok)

theorem observe_error (bad : b.err ≠ 0) (r : Reg) : s.observe o b r = s.poolTrap o b.err b.errId := if_pos bad

theorem barPoison_traps (named : ∀ r p, o.kind ≠ .alloc r p) :
    s.barPoison o = State.poolTrap { s with frees := s.frees + 1 } o Cause.poison s.freeWord.1 := by
  unfold State.barPoison
  split
  · next r p kind => exact absurd kind (named r p)
  · rfl

theorem barrier_congr {x y : Die} (same : x.barriers = y.barriers) (k : Nat) : x.barrier k = y.barrier k := by
  unfold Die.barrier
  rw [same]

@[simp] theorem barrier_setBarrier_same (x : Die) (k : Nat) (b : Barrier) : (x.setBarrier k b).barrier k = b := by
  simp [Die.barrier, Die.setBarrier]

/-- A `barwait` that joins the waiters of a pool where none waited is looked at once more, and waits on (R328). -/
theorem wakeWaits_joined (idle : s.dies[d].poolWaits = [])
    (joins : s.barPerform d o = s.modDie d fun x => { x with poolWaits := x.poolWaits ++ [o] }) :
    (s.barPerform d o).wakeWaits d = s.modDie d fun x => { x with poolWaits := [o] } := by
  have back : (s.modDie d fun x => { x with poolWaits := x.poolWaits ++ [o] }).modDie d (fun x => { x with poolWaits := [] }) = s :=
    (modDie_modDie s d _ _).trans (modDie_id s d (by rw [← idle]))
  have waits : (s.modDie d fun x => { x with poolWaits := x.poolWaits ++ [o] }).dies[d].poolWaits = [o] := by
    rw [State.modDie_same, idle]
    rfl
  rw [joins]
  unfold State.wakeWaits
  dsimp only
  rw [waits, back, List.foldl_cons, List.foldl_nil, joins]
  exact modDie_congr (by rw [idle]; rfl)

theorem setBarrier_modCtx_at (k : Nat) (x : Barrier) (t : TileId) (c : Fin 4) (f : Ctx → Ctx) :
    ((s.modDie d (·.setBarrier k x)).modCtx t c f).dies[d] = s.dies[d].setBarrier k x :=
  State.modDie_same s d fun y => y.setBarrier k x

theorem putBarrier_poolDone_at (at_d : barDie o.handle = d) (x : Barrier) (put : Ctx → Ctx) :
    ((s.putBarrier o.handle x).poolDone o put).dies[d] = s.dies[d].setBarrier (barIndex o.handle) x.settle := by
  subst at_d
  exact setBarrier_modCtx_at _ _ _ _ _

end Turn

/-- Settles O34: a turn of a pool is `barPerform` or `arrivePool`, one equation per operation, and no context waits that would be looked at. -/
theorem barrierPools : Obligations.BarrierPools := by
  refine ⟨fun d s o rest queue granted idle first => ?operations, fun d s a rest f arrivals granted idle first readable => ?arrivals,
    fun b => ⟨settle_complete, settle_incomplete, fun p => decide_eq_true_iff⟩⟩
  case operations =>
    intro region u ends performs replies traps
    have takes : exec performs s = .next ((u.barPerform d o).wakeWaits d) := execBarrierOperation_performs queue granted idle first
    have waits : u.dies[d].poolWaits = [] := congrArg Die.poolWaits (State.modDie_same s d _)
    have barriers : ∀ e : Fin 8, u.dies[e].barriers = s.dies[e].barriers :=
      (Closes.modDie s d (f := fun x => { x with poolQ := rest, poolWaits := [] }) fun _ => rfl).barriers
    have same : ∀ h, u.barrierOf h = s.barrierOf h := barrierOf_congr barriers
    have turn : ∀ {v : State}, u.barPerform d o = v → v.dies[d].poolWaits = [] → exec performs s = .next v := by
      intro v e none
      rw [takes, e, wakeWaits_idle none]
    have trapping : ∀ {cause info}, u.barPerform d o = u.poolTrap o cause info → traps cause info := fun e =>
      ⟨_, turn e (poolTrap_idle waits _ _ _), rfl⟩
    have replying : ∀ {put : Ctx → Ctx}, u.barPerform d o = u.poolDone o put → replies put := fun e => ⟨_, turn e waits, rfl⟩
    refine ⟨fun at_d => ⟨fun b named its => ?named, fun others bad => trapping (barPerform_unnamed others (by simpa only [same] using bad))⟩,
      fun r p kind lives => ?alloc, fun far => ⟨fun others => ?poisoned, ⟨_, execBarrierOperation_header queue granted idle first far, rfl⟩⟩⟩
    case named =>
      replace named := (same o.handle).trans named
      have changed : ∀ x : Barrier, (u.modDie d fun y => { y.setBarrier (barIndex o.handle) x with poolWaits := [] }).dies[d].poolWaits = [] :=
        fun x => congrArg Die.poolWaits (State.modDie_same u d _)
      have ending : ∀ {x : Barrier} {put : Ctx → Ctx}, u.barPerform d o =
          (u.modDie (barDie o.handle) fun y => y.setBarrier (barIndex o.handle) x).poolDone o put →
            Completes performs s fun t => ends t x put :=
        fun e => ⟨_, turn (e.trans (setBarrier_poolDone at_d waits _ _)) (changed _), rfl⟩
      refine ⟨fun kind last => ending ?_, fun kind more => ending ?_, fun kind => ⟨fun full => trapping ?_, fun room => ending ?_⟩,
        fun n kind => ⟨fun bad => trapping ?_, fun some most none noBytes => ending ?_⟩,
        fun r n kind => ⟨fun beyond => trapping (barPerform_arrive_beyond named its kind beyond),
          fun a expects within sum => ending (barPerform_arrive named its kind expects within sum), fun expects below => ?_⟩,
        fun n kind => ⟨fun beyond => trapping ?_, fun within => ending ?_⟩,
        fun p kind => ⟨fun reached ok => replying ?_, fun reached bad => trapping ?_, fun unreached => ?_⟩,
        fun r p kind => ⟨fun reached ok => replying ?_, fun reached bad => trapping ?_, fun unreached => replying ?_⟩⟩
      · rw [barPerform_free named its kind, if_pos last]
      · rw [barPerform_free named its kind, if_neg more]
      · rw [barPerform_ref named its kind, if_pos full]
      · rw [barPerform_ref named its kind, if_neg room]; rfl
      · rw [barPerform_init named its kind, if_pos bad]
      · rw [barPerform_init named its kind, if_neg (by simp [show n ≠ 0#64 from some, most, none, noBytes])]; rfl
      · obtain ⟨a, e⟩ := barPerform_arrive_below named its kind expects below
        have at_pool := putBarrier_poolDone_at (s := { u with frees := u.frees + 1 }) at_d { b with arrived := a }
          (·.setS r ((b.phase + 1).zeroExtend 64))
        refine ⟨_, turn e (at_pool ▸ waits), a, ?_, rfl⟩
        exact (congrArg (Die.barrier · _) at_pool).trans (barrier_setBarrier_same _ _ _)
      · rw [barPerform_exp named its kind, if_pos beyond]
      · rw [barPerform_exp named its kind, if_neg (Int.not_lt.2 within)]; rfl
      · rw [barPerform_wait named its kind, if_pos reached, observe_ok ok]; rfl
      · rw [barPerform_wait named its kind, if_pos reached, observe_error bad]
      · refine ⟨_, takes.trans (congrArg _ (wakeWaits_joined waits ?_)), rfl⟩
        rw [barPerform_wait named its kind, unreached]; rfl
      · rw [barPerform_test named its kind, if_pos reached, observe_ok ok]
      · rw [barPerform_test named its kind, if_pos reached, observe_error bad]
      · rw [barPerform_test named its kind, unreached]; rfl
    case alloc =>
      have perform : u.barPerform d o = u.barAlloc d o r p := by rw [State.barPerform, kind]
      have lives : u.opLives o = true := beq_iff_eq.2 lives
      intro mine gets
      have all : ∀ k, u.dies[d].barrier k = s.dies[d].barrier k := barrier_congr (barriers d)
      have count : (u.dies[d].barriers.countP fun b => b.2.held.isSome && b.2.held == some o.region) = mine := by rw [barriers d]
      refine ⟨fun full => ⟨_, turn (perform.trans (barAlloc_none lives ?_)) waits, rfl⟩, fun k0 inside free room => ?_⟩
      · simpa only [all, count] using full
      · obtain ⟨k, below, unheld, e⟩ := barAlloc_some (p := p) (r := r) lives inside (by rw [all]; exact free) (count ▸ room)
        rw [all] at unheld e
        have at_pool : (u.barPerform d o).dies[d] = u.dies[d].setBarrier k
            { Barrier.free with held := region, gen := (s.dies[d].barrier k).gen, ref := 1 } := by
          rw [perform, e]
          exact setBarrier_modCtx_at (s := { u with picks := u.picks + 1 }) _ _ _ _ _
        refine ⟨_, turn rfl (at_pool ▸ waits), k, below, unheld, ?_, ?_⟩
        · exact (congrArg (Die.barrier · _) at_pool).trans (barrier_setBarrier_same _ _ _)
        · rw [perform, e]
          exact State.ctxAt_modCtx_same _ _ _ _
    case poisoned =>
      exact ⟨_, execBarrierOperation_data queue granted idle first far, _, barPoison_traps others⟩
  case arrivals =>
    intro cause u
    have takes := execTransferArrival_takes arrivals granted first readable
    have barriers : ∀ e : Fin 8, u.dies[e].barriers = s.dies[e].barriers :=
      (Closes.modDie s d (f := fun x => { x with arrivals := rest }) fun _ => rfl).barriers
    have same : ∀ h, u.barrierOf h = s.barrierOf h := barrierOf_congr barriers
    have waits : u.dies[d].poolWaits = [] := (congrArg Die.poolWaits (State.modDie_same s d _)).trans idle
    refine ⟨fun none => ⟨_, takes.trans (congrArg _ (arrivePool_unnamed ((same _).trans none))), rfl, rfl⟩, fun b named at_d least => ?_⟩
    refine ⟨_, takes.trans (congrArg _ (arrivePool_counts ((same _).trans named) least at_d waits)), rfl, ?_, ?_, rfl, rfl⟩
    · rw [State.putBarrier, at_d]
      exact (congrArg (Die.barrier · _) (State.modDie_same u d _)).trans (barrier_setBarrier_same _ _ _)
    · rw [State.putBarrier, at_d, State.modDie_same]
      exact congrArg Die.arrivals (State.modDie_same s d _)

end Sys2Proof

/-! Commands of nodes that the host list does not name (R425). -/

namespace Sys2Proof

open Sys2Proof.Machine

/-- A command of a node that the host list did not name when it arrived is answered DENIED and has no effect (R425). -/
theorem command_unlisted {s : State} {c : Cmd} {op : Nat} {x : CmdIn} (up : s.power ≠ .recovery)
    (found : s.hub.cmdsIn.find? (fun y => y.node == c.node) = some x) (unlisted : x.listed = false) (done : s.requestsDone x = true)
    (fields : recordFields x.record = c.record op) (inRecovery formed : Bool) (effect : State → State) :
    s.command c op inRecovery formed effect = .next (Answers (Taken s c) c op 5 []) := by
  simp [State.command, State.deny, Taken, found, fields, done, unlisted, up]
  rfl

/-- Every command of R420 is performed through the one check of R419 to R425. -/
theorem commands_checked (c : Cmd) (s : State) : ∀ p ∈ [
    (execQconfig c s, 0x01), (execDoorbell c s, 0x02), (execQread c s, 0x03), (execRootbase c s, 0x10), (execInval c s, 0x11),
      (execPageinit c s, 0x12), (execAccess c s, 0x13), (execTimeout c s, 0x14), (execNodeport c s, 0x15), (execLinkup c s, 0x16),
      (execRoutever c s, 0x17), (execDiestate c s, 0x20), (execClockstep c s, 0x21), (execRatio c s, 0x22), (execRepair c s, 0x23),
      (execThermal c s, 0x24), (execAttest c s, 0x25), (execFwstage c s, 0x26), (execHostlist c s, 0x27), (execKill c s, 0x30),
      (execPause c s, 0x31), (execEvict c s, 0x32), (execResume c s, 0x33), (execHalt c s, 0x34), (execRelease c s, 0x35),
      (execCtxrd c s, 0x36), (execCtxwr c s, 0x37), (execFaultq c s, 0x38), (execStale c s, 0x39), (execResolve c s, 0x40),
      (execCircuit c s, 0x41)],
    ∃ inRecovery formed effect, p.1 = s.command c p.2 inRecovery formed effect := by
  simp only [List.forall_mem_cons, List.not_mem_nil, false_imp_iff, implies_true, and_true]
  unfold execQconfig execInval execAccess execAttest execFwstage execHostlist execPause execEvict execResume execHalt execRelease
    execCtxrd execCtxwr execCircuit State.ctxCommand State.regionCommand
  and_intros
  iterate 25 · exact ⟨_, _, _, rfl⟩
  iterate 2 · split <;> exact ⟨_, _, _, rfl⟩ -- CTXRD and CTXWR look at their selector first
  iterate 4 · exact ⟨_, _, _, rfl⟩

/-- Settles O44: the check that every command passes comes before its arguments are looked at. -/
theorem unlistedNodesAreDenied : Obligations.UnlistedNodesAreDenied := by
  intro c s x up found unlisted done i op form fields
  obtain ⟨inRecovery, formed, effect, e⟩ := commands_checked c s _ (List.mem_map_of_mem (f := fun p => (exec p.1 s, p.2)) form)
  exact ⟨_, e.trans (command_unlisted up found unlisted done fields inRecovery formed effect), rfl⟩

/-! Commands of debug (R395-R397). -/

section ContextCommands

variable {s : State} {c : Cmd}

@[simp] theorem taken_tile (s : State) (c : Cmd) (t : TileId) : (Taken s c).tile t = s.tile t := by
  obtain ⟨l, e⟩ := taken_eq s c
  rw [e]
  rfl

@[simp] theorem taken_ctxAt (s : State) (c : Cmd) (t : TileId) (k : Fin 4) : (Taken s c).ctxAt t k = s.ctxAt t k := by
  rw [State.ctxAt, State.ctxAt, taken_tile]

@[simp] theorem taken_selects (s : State) (c : Cmd) (t : TileId) (k : Fin 4) (q : Selector) : (Taken s c).selects t k q = s.selects t k q := by
  unfold State.selects
  rw [taken_tile]

@[simp] theorem taken_select (s : State) (c : Cmd) (t : TileId) (k : Fin 4) (q : Selector) : (Taken s c).select t k q = s.select t k q := by
  obtain ⟨l, e⟩ := taken_eq s c
  rw [e]
  rfl

@[simp] theorem taken_circuits (s : State) (c : Cmd) : (Taken s c).hub.circuits = s.hub.circuits := by
  obtain ⟨l, e⟩ := taken_eq s c
  rw [e]

variable {r : Region} {k : Fin 4} (number : c.arg 0 < 2048) (gen : c.arg 1 < 256) (place : c.arg 2 < 2 ^ 16) (ctx : c.arg 3 = k.val)
  (named : s.regionNamed (c.arg 0) (c.arg 1) = some r) (free : s.regionWaits r = false) (holds : r.holdsTiles = true)
  (row : c.arg 2 / 2 ^ 9 < r.launch.rows) (col : c.arg 2 % 2 ^ 9 < r.launch.cols)
include number gen place ctx named free holds row col

/-- A command for a context of a region that holds its tiles, and for which no earlier command waits, has its effect there. -/
theorem ctxCommand_served {op : Nat} (served : Serves s c op) {formed : Bool} (good : formed = true) (effect : TileId → Fin 4 → State → State) :
    s.ctxCommand c op formed effect = .next (effect (r.tileAt (c.arg 2 / 2 ^ 9) (c.arg 2 % 2 ^ 9)) k (Taken s c)) := by
  have inside : c.arg 3 < 4 := ctx ▸ k.isLt
  refine (regionCommand_served served (namesRegion_of number gen) (by rw [good, decide_eq_true ⟨place, inside⟩]; rfl) _ named free).trans ?_
  dsimp only
  rw [if_neg (by simpa only [Bool.or_eq_true, decide_eq_true_eq, not_or, Nat.not_le] using ⟨row, col⟩), if_neg (by rw [holds]; decide)]
  have same : (⟨c.arg 3 % 4, Nat.mod_lt _ (by decide)⟩ : Fin 4) = k := Fin.ext (by rw [← Nat.mod_eq_of_lt k.isLt, ← ctx])
  rw [same]

/-- HALT of a context that runs or is parked (R395). -/
theorem execHalt_halts (served : Serves s c 0x34)
    (live : (s.ctxAt (r.tileAt (c.arg 2 / 2 ^ 9) (c.arg 2 % 2 ^ 9)) k).run = .running ∨ (s.ctxAt (r.tileAt (c.arg 2 / 2 ^ 9) (c.arg 2 % 2 ^ 9)) k).run = .parked) :
    let t := r.tileAt (c.arg 2 / 2 ^ 9) (c.arg 2 % 2 ^ 9)
    execHalt c s = .next (((Taken s c).modCtx t k fun y => { y with haltDue := some (c.node, c.tag) }).serveHalt t k (s.tile t).cycle.toNat) := by
  refine (ctxCommand_served number gen place ctx named free holds row col served rfl _).trans ?_
  dsimp only
  rw [taken_ctxAt, taken_tile]
  rcases live with run | run <;> rw [run]

theorem execHalt_disabled (served : Serves s c 0x34) (disabled : (s.ctxAt (r.tileAt (c.arg 2 / 2 ^ 9) (c.arg 2 % 2 ^ 9)) k).run = .disabled) :
    execHalt c s = .next (Answers (Taken s c) c 0x34 2 []) := by
  refine (ctxCommand_served number gen place ctx named free holds row col served rfl _).trans ?_
  dsimp only
  rw [taken_ctxAt, disabled]
  rfl

/-- RELEASE resumes its context (R397). -/
theorem execRelease_resumes (served : Serves s c 0x35) :
    execRelease c s = .next (Answers ((Taken s c).modCtx (r.tileAt (c.arg 2 / 2 ^ 9) (c.arg 2 % 2 ^ 9)) k Ctx.resume) c 0x35 0 []) :=
  ctxCommand_served number gen place ctx named free holds row col served rfl _

section Selected

variable {q : Selector} (selector : selectorOf c = some q)
include selector

theorem execCtxrd_reads (served : Serves s c 0x36) : let t := r.tileAt (c.arg 2 / 2 ^ 9) (c.arg 2 % 2 ^ 9)
    execCtxrd c s = .next (if (s.ctxAt t k).isHalted = true ∧ s.selects t k q = true then Answers (Taken s c) c 0x36 0 (s.select t k q)
      else Answers (Taken s c) c 0x36 2 []) := by
  unfold execCtxrd
  rw [selector]
  refine (ctxCommand_served number gen place ctx named free holds row col served rfl _).trans (congrArg _ ?_)
  rw [taken_ctxAt, taken_selects, taken_select, ← ite_not]
  congr 1
  simp [or_iff_not_imp_left]

theorem execCtxwr_writes (served : Serves s c 0x37) (accepts : q.accepts c.a[5] = true) : let t := r.tileAt (c.arg 2 / 2 ^ 9) (c.arg 2 % 2 ^ 9)
    execCtxwr c s = .next (if (s.ctxAt t k).isHalted = true ∧ s.selects t k q = true then
      Answers ((Taken s c).putSelected t k q c.a[5]) c 0x37 0 [] else Answers (Taken s c) c 0x37 2 []) := by
  unfold execCtxwr
  rw [selector]
  refine (ctxCommand_served number gen place ctx named free holds row col served accepts _).trans (congrArg _ ?_)
  rw [taken_ctxAt, taken_selects, ← ite_not]
  congr 1
  simp [or_iff_not_imp_left]

end Selected

end ContextCommands

/-- RESOLVE applies a decision at the loft (R376). -/
theorem execResolve_applies {s : State} {c : Cmd} (served : Serves s c 0x40) (number : c.arg 0 < 4096) (verdict : c.arg 2 ≤ 1) :
    execResolve c s = .next (Answers ((Taken s c).applyDecision (BitVec.ofNat 12 (c.arg 0)) c.a[1] (c.arg 2 == 1)) c 0x40 0 []) :=
  command_served served (decide_eq_true ⟨number, verdict⟩) _

/-! Circuits (R418, R420). -/

/-- The circuit that a command binds: its lanes and the other end as the command says, its ends on this side as they were. -/
def boundCircuit (c : Cmd) (p : Fin 32) (old : Option Circuit) : Circuit :=
  { port := p, lane := c.arg 2, lanes := c.arg 3, node := BitVec.ofNat 12 (c.arg 4), peer := c.arg 5, sink := old.bind (·.sink)
    source := old.bind (·.source), lastDie := old.bind (·.lastDie), cap := old.bind (·.cap)
    heldEntries := (old.map (·.heldEntries)).getD [], heldCredits := (old.map (·.heldCredits)).getD 0 }

section CircuitCommands

variable {s : State} {c : Cmd} (served : Serves s c 0x41) (numbered : c.arg 0 < 64)
include served numbered

/-- No lanes: the circuit is cleared. -/
theorem execCircuit_clears (none : c.arg 3 = 0) :
    execCircuit c s = .next (Answers (WithHub (Taken s c) fun h => { h with circuits := dropKey (c.arg 0) h.circuits }) c 0x41 0 []) := by
  simp only [execCircuit]
  rw [command_served served, if_pos none]
  · rfl
  · simp [numbered, none]

/-- Lanes that a port has: another circuit's are refused, others are bound. -/
theorem execCircuit_binds {p : Fin 32} (port : c.arg 1 = p.val) (width : c.arg 3 ∈ [1, 2, 4]) (placed : c.arg 2 % c.arg 3 = 0)
    (inside : c.arg 2 + c.arg 3 ≤ 8) (node : c.arg 4 < 4096) (peer : c.arg 5 < 64) :
    execCircuit c s = .next (if s.hub.circuits.any fun y => y.1 != c.arg 0 && y.2.shares p.val (c.arg 2) (c.arg 3) then Answers (Taken s c) c 0x41 2 []
      else Answers ((WithHub (Taken s c) fun h =>
        { h with circuits := putKey (c.arg 0) (boundCircuit c p (lookupKey (c.arg 0) s.hub.circuits)) h.circuits }).clearPort p) c 0x41 0 []) := by
  have some : c.arg 3 ≠ 0 := by rintro z; simp [z] at width
  have fits : c.arg 3 = 1 ∨ c.arg 3 = 2 ∨ c.arg 3 = 4 := by simpa using width
  have same : (⟨c.arg 1 % 32, Nat.mod_lt _ (by decide)⟩ : Fin 32) = p := Fin.ext (by rw [← Nat.mod_eq_of_lt p.isLt, ← port])
  simp only [execCircuit]
  rw [command_served served, if_neg some, same, port, ← taken_circuits s c]
  · rfl
  · simp [numbered, port, fits, placed, inside, node, peer]

end CircuitCommands

/-- Settles O48: a command served has its effect on the state from which its record has been taken; a command for a context finds the
context's tile in its region. -/
theorem debugBaleAndCircuitCommands : Obligations.DebugBaleAndCircuitCommands := by
  intro c s
  refine ⟨fun r k number gen place ctx named free holds row col => ⟨fun served live => ⟨_, execHalt_halts number gen place ctx named free holds row col served live, rfl⟩,
    fun served off => ⟨_, execHalt_disabled number gen place ctx named free holds row col served off, rfl⟩,
    fun served => ⟨_, execRelease_resumes number gen place ctx named free holds row col served, rfl⟩, fun q selector => ⟨fun halted selects => ?_, fun live => ?_⟩⟩,
    fun served number verdict => ⟨_, execResolve_applies served number verdict, rfl⟩,
    fun served number none => ⟨_, execCircuit_clears served number none, rfl⟩,
    fun p served numbered port width placed inside node peer => ?_⟩
  · exact ⟨fun served => ⟨_, execCtxrd_reads number gen place ctx named free holds row col selector served, if_pos ⟨halted, selects⟩⟩,
      fun served accepts => ⟨_, execCtxwr_writes number gen place ctx named free holds row col selector served accepts, if_pos ⟨halted, selects⟩⟩⟩
  · exact ⟨fun served => ⟨_, execCtxrd_reads number gen place ctx named free holds row col selector served, if_neg (mt And.left (by rw [live]; decide))⟩,
      fun served accepts => ⟨_, execCtxwr_writes number gen place ctx named free holds row col selector served accepts, if_neg (mt And.left (by rw [live]; decide))⟩⟩
  · have does := execCircuit_binds served numbered port width placed inside node peer
    have clash : (s.hub.circuits.any fun y => y.1 != c.arg 0 && y.2.shares p.val (c.arg 2) (c.arg 3)) = true ↔
        ∃ x ∈ s.hub.circuits, x.1 ≠ c.arg 0 ∧ x.2.port = p ∧ c.arg 2 < x.2.lane + x.2.lanes ∧ x.2.lane < c.arg 2 + c.arg 3 := by
      simp [List.any_eq_true, Circuit.shares, Fin.ext_iff]
    exact ⟨fun shares => ⟨_, does, if_pos (clash.mpr shares)⟩, fun clear => ⟨_, does, _, if_neg (mt clash.mp clear), rfl, rfl, rfl, BitVec.toNat_ofNat .. ▸ Nat.mod_eq_of_lt node, rfl, rfl, rfl⟩⟩

end Sys2Proof

/-! Bales: their instructions (R364-R377). -/

namespace Sys2Proof

open Sys2Proof.Machine

@[simp] theorem Hub.bale_modBale_same (h : Hub) (k : Nat) (f : Bale → Bale) : (h.modBale k f).bale k = f (h.bale k) := by
  simp [Hub.modBale, Hub.bale]

section OnRecord

variable {o : FmtQ} {s : State}

theorem onBale_named {b : Bale} (named : s.baleFor (s.getS o.s1) (s.regionOf s.here) = some b) (effect : Word → Bale → State → State) :
    s.onBale o effect = effect (s.getS o.s1) b s := by
  simp only [State.onBale, named]

theorem onBale_unnamed (unnamed : s.baleFor (s.getS o.s1) (s.regionOf s.here) = none) (effect : Word → Bale → State → State) :
    s.onBale o effect = s.trap Cause.bale (s.getS o.s1) := by
  simp only [State.onBale, unnamed]

end OnRecord

/-! Records given to a region (R364, R377). -/

/-- The records of a region that are in use. -/
def balesOf (h : Hub) (r : Region) : Nat := h.bales.countP fun p => p.2.st.isSome && p.2.region == r.number && p.2.rgen == r.gen

/-- The state in which a region has a record, whose handle the issuing context holds. -/
def openBaleAt (s : State) (o : FmtQ) (r : Region) (k : Nat) : State :=
  let gen := (s.hub.bale k).gen
  State.modCur { s with picks := s.picks + 1
                        hub := s.hub.modBale k fun _ => { Bale.free with gen := gen, st := some .opened, region := r.number, rgen := r.gen } } fun c =>
    ((c.setS o.d (baleHandle s.hub.node k gen)).setP o.s2.toNat Word.ones).retire

/-- The numbers of the free records. -/
def freeBales (h : Hub) : List Nat := (List.range 256).filter fun k => (h.bale k).st.isNone

theorem mem_freeBales {h : Hub} {k : Nat} : k ∈ freeBales h ↔ k < 256 ∧ (h.bale k).st = none := by
  simp [freeBales]

section Open

variable {g : Guard} {o : FmtQ} {s : State} (runs : Runs s g) {r : Region} (region : s.regionOf s.here = some r)
include runs region

theorem exec_blopen_refused (full : (∀ k < 256, (s.hub.bale k).st ≠ none) ∨ 64 ≤ balesOf s.hub r) :
    exec (.blopen g o) s = .next (s.modCur fun c => ((c.setS o.d 0).setP o.s2.toNat 0).retire) := by
  refine exec_issue runs rfl ?_
  have refuses : ((freeBales s.hub).isEmpty || decide (64 ≤ balesOf s.hub r)) = true := by
    rcases full with none | many
    · have empty : freeBales s.hub = [] := List.eq_nil_iff_forall_not_mem.2 fun k free => none k (mem_freeBales.1 free).1 (mem_freeBales.1 free).2
      rw [empty]
      rfl
    · simp [many]
  simp only [region]
  exact if_pos refuses

/-- One of the free records, with fewer than 64 of the region in use. -/
theorem exec_blopen_opens {k0 : Nat} (free : k0 ∈ freeBales s.hub) (few : balesOf s.hub r < 64) :
    ∃ k ∈ freeBales s.hub, exec (.blopen g o) s = .next (openBaleAt s o r k) := by
  refine ⟨_, getElem?_pick_mem s free, exec_issue runs rfl ?_⟩
  have gives : ¬ ((freeBales s.hub).isEmpty || decide (64 ≤ balesOf s.hub r)) = true := by
    have some : freeBales s.hub ≠ [] := List.ne_nil_of_mem free
    simp [few, some]
  simp only [region]
  exact if_neg gives

end Open

theorem openBaleAt_cur (s : State) (o : FmtQ) (r : Region) (k : Nat) : (openBaleAt s o r k).cur =
    ((s.cur.setS o.d (baleHandle s.hub.node k (s.hub.bale k).gen)).setP o.s2.toNat Word.ones).retire :=
  State.cur_modCur ..

theorem openBaleAt_memory (s : State) (o : FmtQ) (r : Region) (k : Nat) : MemorySame s (openBaleAt s o r k) :=
  (onlyContext_modCur { s with picks := s.picks + 1, hub := _ } _).2

/-! A record's instructions (R377). -/

section Record

variable {g : Guard} {o : FmtQ} {s : State} (runs : Runs s g)
include runs

section Named

variable {b : Bale} (named : s.baleFor (s.getS o.s1) (s.regionOf s.here) = some b)
include named

theorem exec_blseal : exec (.blseal g o) s = .next (if b.st ≠ some .opened then s.trap Cause.bale (s.getS o.s1)
    else State.retire { s with hub := s.hub.modBale (baleIndex (s.getS o.s1)) fun b => { b with st := some .sealed } }) :=
  exec_issue runs rfl (onBale_named named _)

theorem exec_blabort : exec (.blabort g o) s = .next (if b.st = some .opened || b.st = some .sealed
    then (s.decideAbort (baleIndex (s.getS o.s1)) 8 0).retire else s.retire) :=
  exec_issue runs rfl (onBale_named named _)

theorem exec_blwait : exec (.blwait g o) s =
    .next ((s.modCur fun c => { c with wait := .bale o.d (s.getS o.s1) }).wakeBale (baleIndex (s.getS o.s1))) :=
  exec_issue runs rfl (onBale_named named _)

theorem exec_blstat : exec (.blstat g o) s = .next (s.writeS o.d b.status) :=
  exec_issue runs rfl (onBale_named named _)

section Commit

variable (unfaulted : s.cur.psf = none)
include unfaulted

theorem exec_blcommit_opened (opened : b.st = some .opened) : exec (.blcommit g o) s = .next (s.trap Cause.bale (s.getS o.s1)) :=
  exec_issue runs rfl (by rw [afterStoreFault_none unfaulted, onBale_named named, if_pos opened])

variable (performed : s.cur.performed .fab = true)
include performed

theorem exec_blcommit_sealed (sealed : b.st = some .sealed) : exec (.blcommit g o) s =
    .next (State.modCur { s with hub := s.hub.modBale (baleIndex (s.getS o.s1)) fun b => { b with commitAsked := true } } fun c =>
      { c with wait := .commit o.d (s.getS o.s1) }) :=
  exec_issue runs rfl (by simp only [afterStoreFault_none unfaulted, onBale_named named, sealed, performed]; rfl)

theorem exec_blcommit_aborted (aborted : b.st = some .aborting ∨ b.st = some .aborted) :
    exec (.blcommit g o) s = .next (s.writeS o.d 0) := by
  refine exec_issue runs rfl ?_
  rw [afterStoreFault_none unfaulted, onBale_named named, performed]
  rcases aborted with st | st <;> rw [st] <;> rfl

theorem exec_blcommit_committed (committed : b.st = some .committing ∨ b.st = some .committed ∨ b.st = some .peerLost) :
    exec (.blcommit g o) s = .next (s.writeS o.d 1) := by
  refine exec_issue runs rfl ?_
  rw [afterStoreFault_none unfaulted, onBale_named named, performed]
  rcases committed with st | st | st <;> rw [st] <;> rfl

end Commit

end Named

end Record

/-! Tagged stores (R368, R369). -/

section TaggedStore

variable {o : FmtM} {s : State} {n : Nat} {data : BitVec 512}

theorem baleStore_unnamed (unnamed : s.baleFor (s.getS o.x) (s.regionOf s.here) = none) :
    s.baleStore o n data = s.trap Cause.bale (s.getS o.x) := by
  simp only [State.baleStore, unnamed]

variable {b : Bale} (named : s.baleFor (s.getS o.x) (s.regionOf s.here) = some b) (opened : b.st = some .opened)
include named opened

theorem baleStore_misaligned (misaligned : (s.cur.baseAddr o).toNat % n ≠ 0) : s.baleStore o n data = s.trapAt (s.cur.baseAddr o) Cause.align 0 := by
  simp [State.baleStore, named, opened, misaligned]

variable (aligned : (s.cur.baseAddr o).toNat % n = 0)
include aligned

/-- An address beyond the address space dooms the bale, then traps with a level that no rule gives (log entry 40). -/
theorem baleStore_beyond (beyond : 2 ^ 56 ≤ (s.cur.baseAddr o).toNat) : s.baleStore o n data =
    State.trapAt { s.doom s.here (s.getS o.x) with frees := (s.doom s.here (s.getS o.x)).frees + 1 } (s.cur.baseAddr o) Cause.xlate
      (xlateInfo 0 2 (s.doom s.here (s.getS o.x)).openLevel.1 2) := by
  simp only [State.baleStore, named, opened, aligned]
  rw [if_neg (by simp), if_neg (by simp), if_pos beyond, (openLevel_lt _).2]

variable (within : (s.cur.baseAddr o).toNat < 2 ^ 56)
include within

theorem baleStore_queued (room : s.cur.gq.length < 16) (acquired : s.cur.acqPending = false) :
    let a : GAccess := ⟨s.cur.nextAcc, .tagged (s.getS o.x) n, 0, (s.cur.baseAddr o).toNat, data, 0, 0, .tile, s.cur.pc, s.cur.mode == .user, .queued, 0, (0, 0), false⟩
    s.baleStore o n data = State.translateQueue 17 (s.modCur fun c =>
      { c with gq := c.gq ++ [a], nextAcc := c.nextAcc + 1, wait := Wait.access a.id }) s.here s.ctx := by
  simp only [State.baleStore, named, opened, aligned]
  rw [if_neg (by simp), if_neg (by simp), if_neg (Nat.not_le.2 within), afterAcquire_run _ acquired, State.enterQueue, if_neg (Nat.not_le.2 room)]
  rfl

end TaggedStore

@[simp] theorem State.doom_cur (s : State) (t : TileId) (h : Word) : (s.doom t h).cur = s.cur := by
  unfold State.doom
  split <;> rfl

@[simp] theorem State.doom_frees (s : State) (t : TileId) (h : Word) : (s.doom t h).frees = s.frees := by
  unfold State.doom
  split <;> rfl

/-- Settles O35: an instruction on a record goes by whether its handle names one and by the state of that. -/
theorem baleInstructions : Obligations.BaleInstructions := by
  refine ⟨fun g o s runs => ⟨fun r region => ⟨fun full => ⟨_, exec_blopen_refused runs region full, rfl⟩, fun k0 small free few => ?opens⟩,
    fun b named => ⟨fun opened => ⟨_, exec_blseal runs named, if_neg (not_not.2 opened)⟩,
      fun unfaulted sealed performed => ⟨_, exec_blcommit_sealed runs named unfaulted performed sealed, rfl⟩,
      fun unfaulted aborted performed => ⟨_, exec_blcommit_aborted runs named unfaulted performed aborted, wroteS_writeS _ _ _⟩,
      fun unfaulted committed performed => ⟨_, exec_blcommit_committed runs named unfaulted performed committed, wroteS_writeS _ _ _⟩,
      fun undecided => ⟨_, exec_blabort runs named, if_pos (by simpa using undecided)⟩,
      fun unopened unsealed => ⟨_, exec_blabort runs named, ?kept⟩, ⟨_, exec_blwait runs named, rfl⟩, ⟨_, exec_blstat runs named, wroteS_writeS _ _ _⟩⟩,
    fun untrapped => ⟨fun unnamed => ?unnamed, fun b named => ⟨fun unopened => ⟨_, exec_blseal runs named, ?unsealed⟩,
      fun opened unfaulted => ⟨_, exec_blcommit_opened runs named unfaulted opened, trapped_trap untrapped _ _ _⟩⟩⟩⟩,
    fun g o s runs => ?stores⟩
  case opens =>
    obtain ⟨k, chosen, does⟩ := exec_blopen_opens (o := o) runs region (mem_freeBales.2 ⟨small, free⟩) few
    obtain ⟨inRange, wasFree⟩ := mem_freeBales.1 chosen
    exact ⟨_, does, k, inRange, wasFree, Hub.bale_modBale_same _ _ _, openBaleAt_cur _ _ _ _, openBaleAt_memory _ _ _ _⟩
  case kept =>
    rw [if_neg (by simp [unopened, unsealed])]
    exact retired_retire s
  case unsealed =>
    rw [if_pos unopened]
    exact trapped_trap untrapped _ _ _
  case unnamed =>
    have traps {i : Instr} {effect : Word → Bale → State → State} (he : exec i s = .next (s.issue g (·.onBale o effect))) :
        Completes i s fun t => Trapped s t Cause.bale 0 (s.getS o.s1) :=
      ⟨_, exec_issue runs he (onBale_unnamed unnamed effect), trapped_trap untrapped _ _ _⟩
    exact ⟨traps rfl, traps rfl, traps rfl, traps rfl, fun unfaulted =>
      ⟨_, exec_issue runs rfl ((afterStoreFault_none unfaulted _).trans (onBale_unnamed unnamed _)), trapped_trap untrapped _ _ _⟩⟩
  case stores =>
    intro h va stores
    have each {i : Instr} {n : Nat} {data : BitVec 512} (he : exec i s = .next (s.baleStore o n data)) : stores i n data :=
      ⟨fun b named opened aligned within room acquired => ⟨_, he.trans (congrArg _ (baleStore_queued named opened aligned within room acquired)), rfl⟩,
        fun unnamed untrapped => ⟨_, he.trans (congrArg _ (baleStore_unnamed unnamed)), trapped_trap untrapped _ _ _⟩,
        fun b named opened misaligned untrapped => ⟨_, he.trans (congrArg _ (baleStore_misaligned named opened misaligned)), trapped_trap untrapped _ _ _⟩,
        fun b named opened aligned beyond untrapped => ⟨_, he.trans (congrArg _ (baleStore_beyond named opened aligned beyond)), _, (openLevel_lt _).1, by
          rw [State.doom_frees]
          exact trapped_trap (s := { s.doom s.here h with frees := s.frees + 1 }) ((congrArg Ctx.trapped (State.doom_cur s s.here h)).trans untrapped) _ _ _⟩⟩
    exact ⟨each (exec_issue runs rfl rfl), each (exec_issue runs rfl rfl)⟩

end Sys2Proof

/-! Dyfold ports: what a flit that is received changes (R405-R413). -/

namespace Sys2Proof

open Sys2Proof.Machine

/-! A port changed. -/

section ModPort

variable (h : Hub) (p : Fin 32) (f g : Port → Port)

@[simp] theorem Hub.ports_modPort_same : (h.modPort p f).ports[p] = f h.ports[p] := by simp [Hub.modPort]

theorem Hub.modPort_modPort : (h.modPort p f).modPort p g = h.modPort p fun x => g (f x) := by simp [Hub.modPort]

theorem Hub.modPort_congr {f g : Port → Port} (same : f h.ports[p] = g h.ports[p]) : h.modPort p f = h.modPort p g := by
  rw [Hub.modPort, Hub.modPort, same]

theorem withHub_congr {s : State} {f g : Hub → Hub} (same : f s.hub = g s.hub) : WithHub s f = WithHub s g := by
  rw [WithHub, WithHub, same]

/-- A port changed twice. -/
theorem withPort_withPort (s : State) {f g k : Port → Port} (twice : g (f s.hub.ports[p]) = k s.hub.ports[p]) :
    (WithHub (WithHub s fun h => h.modPort p f) fun h => h.modPort p g) = WithHub s fun h => h.modPort p k := by
  simp only [WithHub, Hub.modPort_modPort]
  rw [Hub.modPort_congr _ _ twice]

/-- Where a request stands and what a port holds are changed in either order. -/
theorem Hub.setPlace_modPort (e : OutFlit) (w : ReqPlace) : (h.modPort p f).setPlace e w = (h.setPlace e w).modPort p f := rfl

end ModPort

/-! A flit received (R410). -/

section Receive

variable {x : Port} {f : BitVec 512}

/-- A port that answers NAK with the number that it expects. -/
def nakBy (x : Port) : Port := { x with answers := x.answers ++ [(5, x.rxSeq)] }

/-- A port that has accepted a flit of the number expected, and answers ACK. -/
def acceptedBy (x : Port) (f : BitVec 512) : Port := { x with rxSeq := x.rxSeq + 1, answers := x.answers ++ [(4, flitSeq f)], rx := x.rx ++ [f] }

theorem Port.receive_failed (bad : headerGood f = false ∨ flitGood f = false) : x.receive f = nakBy x := by
  rw [Port.receive, if_pos (by simpa using bad)]
  rfl

section Good

variable (header : headerGood f = true) (body : flitGood f = true) (sequenced : flitKind f ∉ [0, 4, 5])
include header body sequenced

theorem Port.receive_good : x.receive f = if flitSeq f ≠ x.rxSeq then nakBy x else acceptedBy x f := by
  obtain ⟨idle, ack, nak⟩ : flitKind f ≠ 0 ∧ flitKind f ≠ 4 ∧ flitKind f ≠ 5 := by simpa using sequenced
  simp only [Port.receive, header, body]
  rfl

end Good

end Receive

section Arrival

variable {s : State} {p : Fin 32} {f : BitVec 512} (up : (s.hub.ports[p]).up = true) (carries : s.hub.flitLanes p = true ∨ flitKind f = 8)
include up carries

/-- A flit on a link that is up, over lanes that carry it. -/
theorem execFlitReceive_carried : execFlitReceive p f s = .next ((WithHub s fun h => h.modPort p (·.receive f)).absorb p) := by
  refine if_neg ?_
  rw [up]
  rcases carries with lanes | circuit
  · simp [lanes]
  · simp [circuit]

/-- A flit received as said. -/
theorem exec_flitReceive_as {g : Port → Port} (receives : (s.hub.ports[p]).receive f = g s.hub.ports[p]) :
    exec (.flitReceive p f) s = .next ((WithHub s fun h => h.modPort p g).absorb p) := by
  have same : (WithHub s fun h => h.modPort p (·.receive f)) = WithHub s fun h => h.modPort p g :=
    congrArg (fun hub => { s with hub := hub }) (Hub.modPort_congr _ _ receives)
  exact (execFlitReceive_carried up carries).trans (by rw [same])

end Arrival

/-! CTRL flits join to command records (R419). -/

/-- The only flit of a port, a CTRL flit of an open stream: its payload joins the stream's bytes, and 64 of them are a record. -/
theorem absorb_ctrl {s : State} {p : Fin 32} {f : BitVec 512} {r : StreamRec} (only : (s.hub.ports[p]).rx = [f]) (ctrl : flitKind f = 7)
    (open' : lookupKey (flitStream f) (s.hub.ports[p]).streams = some r) :
    let bs := (lookupKey (flitStream f) (s.hub.ports[p]).ctrl).getD [] ++ flitBytes f 8 (field f 16 6)
    let kept := fun (left : List Byte) => WithHub s fun h => h.modPort p fun x => { x with rx := [], ctrl := putKey (flitStream f) left x.ctrl }
    s.absorb p = if 64 ≤ bs.length then (kept (bs.drop 64)).commandIn r.srcNode (BitVec.ofNat 512 (ofBytes (bs.take 64))) else kept bs := by
  intro bs kept
  have one : s.absorb p = s.absorbOne p := by rw [State.absorb, only]; rfl
  rw [one]
  simp only [State.absorbOne, only, ctrl, open']
  by_cases whole : 64 ≤ bs.length <;> simp only [bs] at whole <;> simp only [bs, kept, WithHub, whole] <;> rfl

/-- A CTRL flit accepted by a port that holds no other flit. -/
theorem absorb_accepted {s : State} {p : Fin 32} {f : BitVec 512} {r : StreamRec} (none : (s.hub.ports[p]).rx = []) (ctrl : flitKind f = 7)
    (open' : lookupKey (flitStream f) (s.hub.ports[p]).streams = some r) :
    let bs := (lookupKey (flitStream f) (s.hub.ports[p]).ctrl).getD [] ++ flitBytes f 8 (field f 16 6)
    let kept := fun (left : List Byte) => WithHub s fun h => h.modPort p fun x =>
      { x with rxSeq := x.rxSeq + 1, answers := x.answers ++ [(4, flitSeq f)], ctrl := putKey (flitStream f) left x.ctrl }
    (WithHub s fun h => h.modPort p (acceptedBy · f)).absorb p =
      if 64 ≤ bs.length then (kept (bs.drop 64)).commandIn r.srcNode (BitVec.ofNat 512 (ofBytes (bs.take 64))) else kept bs := by
  intro bs kept
  have after : ((WithHub s fun h => h.modPort p (acceptedBy · f)).hub.ports[p]) = acceptedBy s.hub.ports[p] f := Hub.ports_modPort_same _ _ _
  have left (l : List Byte) : (WithHub (WithHub s fun h => h.modPort p (acceptedBy · f)) fun h => h.modPort p fun x =>
      { x with rx := [], ctrl := putKey (flitStream f) l x.ctrl }) = kept l :=
    withPort_withPort p s (by simp only [acceptedBy, none])
  have taken := absorb_ctrl (s := WithHub s fun h => h.modPort p (acceptedBy · f)) (f := f) (r := r) (by rw [after, acceptedBy, none]; rfl) ctrl
    (by rw [after]; exact open')
  simp only [left, after] at taken
  exact taken

/-! Flits acted on (R407, R410). -/

/-- The state whose port holds the flits behind its first. -/
def flitTaken (s : State) (p : Fin 32) (rest : List (BitVec 512)) : State := WithHub s fun h => h.modPort p fun x => { x with rx := rest }

/-- A port that does not hold a stream. -/
def withoutStream (k : Nat) (x : Port) : Port := { x with streams := dropKey k x.streams, ctrl := dropKey k x.ctrl }

theorem flitTaken_port (s : State) (p : Fin 32) (rest : List (BitVec 512)) :
    (flitTaken s p rest).hub.ports[p] = { s.hub.ports[p] with rx := rest } :=
  Hub.ports_modPort_same _ _ _

/-- A flit acted on after it has left its port, then the CTRL flits behind it. -/
theorem acts_onFlit {s : State} {p : Fin 32} {f : BitVec 512} {rest : List (BitVec 512)} (first : (s.hub.ports[p]).rx = f :: rest) {kind : Nat}
    (is : flitKind f = kind) {i : Instr} {act : BitVec 512 → State → State} (he : exec i s = .next (s.onFlit p kind act)) {u : State}
    (acts : act f (flitTaken s p rest) = u) : Completes i s fun t => t = u.absorb p :=
  ⟨_, he, (onFlit_takes act first is).trans (congrArg (State.absorb · p) acts)⟩

/-- An ACK at a port with no flit that waits for room. -/
theorem acked_idle {h : Hub} {p : Fin 32} {q : BitVec 12} (idle : (h.ports[p]).unsent = []) :
    h.acked p q = (h.modPort p fun x => { x with replay := x.replay.filter (fun e => e.1 != q), carried := x.carried.filter fun e => e.1 != q }).releaseHeld := by
  simp only [Hub.acked, Hub.ports_modPort_same, idle]

/-- An ACK that leaves room for the first flit that waits. -/
theorem acked_sends {h : Hub} {p : Fin 32} {q : BitVec 12} {g : OutFlit} {more : List OutFlit} (waits : (h.ports[p]).unsent = g :: more)
    (room : ((h.ports[p]).replay.filter fun e => e.1 != q).length < 512) :
    h.acked p q = Hub.releaseHeld ((((h.setPlace g (.sent p)).modPort p fun x => { x with
      replay := x.replay.filter (fun e => e.1 != q) ++ [(x.txSeq, 0)], carried := x.carried.filter (fun e => e.1 != q) ++ [(x.txSeq, g)]
      txSeq := x.txSeq + 1, unsent := more }).noteBale g.bale (g.node.getD 0) p)) := by
  simp only [Hub.acked, Hub.ports_modPort_same, waits]
  rw [if_neg (Nat.not_le.2 room), Hub.setPlace_modPort, Hub.modPort_modPort]

/-- A hello enters its port for its node in both versions of the table. -/
theorem lookupKey_entered (node : BitVec 12) (m : BitVec 32) (l : List ((Bool × BitVec 12) × BitVec 32)) (b : Bool) :
    let enter := fun (v : Bool) (l : List ((Bool × BitVec 12) × BitVec 32)) => putKey (v, node) ((lookupKey (v, node) l).getD 0 ||| m) l
    lookupKey (b, node) (enter true (enter false l)) = some ((lookupKey (b, node) l).getD 0 ||| m) := by
  have apart : (true, node) ≠ (false, node) := by simp
  cases b
  · simp [lookupKey_putKey_other apart.symm]
  · simp [lookupKey_putKey_other apart]

/-- Settles O49: a flit is received by its checks and its number; the first flit of a port is acted on by its KIND. -/
theorem portsReceiveFlits : Obligations.PortsReceiveFlits := by
  intro p s x given
  refine ⟨fun f up carries => ?receive, fun f rest first => ?act, fun node inc up => ?hello⟩
  case receive =>
    refine ⟨fun bad => ⟨_, exec_flitReceive_as up carries (g := nakBy) (Port.receive_failed bad), rfl⟩, fun header body sequenced => ?_⟩
    have accepts (number : flitSeq f = x.rxSeq) := exec_flitReceive_as up carries (g := (acceptedBy · f))
      ((Port.receive_good header body sequenced).trans (if_neg (not_not.2 number)))
    refine ⟨fun other => ⟨_, exec_flitReceive_as up carries (g := nakBy) ((Port.receive_good header body sequenced).trans (if_pos other)), rfl⟩,
      fun number => ⟨_, accepts number, rfl⟩, fun r number ctrl none open' => ⟨fun part => ?_, fun whole => ?_⟩⟩
    · exact ⟨_, accepts number, (absorb_accepted none ctrl open').trans (if_neg (Nat.not_le.2 part))⟩
    · exact ⟨_, accepts number, (absorb_accepted none ctrl open').trans (if_pos whole)⟩
  case act =>
    have acked {h : Hub} (acks : (s.hub.modPort p fun x => { x with rx := rest }).acked p (flitSeq f) = h) :
        WithHub (flitTaken s p rest) (·.acked p (flitSeq f)) = WithHub s fun _ => h :=
      congrArg (fun hub => { s with hub := hub }) acks
    have same : ((flitTaken s p rest).hub.ports[p]).replay = x.replay := by rw [flitTaken_port]
    refine ⟨fun is => ⟨fun idle => acts_onFlit first is rfl ((acked ?ackIdle).trans rfl), fun g more waits room => acts_onFlit first is rfl ((acked ?ackSends).trans rfl)⟩,
      fun is => ⟨fun few => acts_onFlit first is rfl ?again, fun many => acts_onFlit first is rfl ?down⟩,
      fun is => ⟨fun v met => acts_onFlit first is rfl ?opens, fun old => acts_onFlit first is rfl ?older⟩, fun is => acts_onFlit first is rfl (withPort_withPort p s rfl)⟩
    case ackIdle =>
      rw [acked_idle (by rw [Hub.ports_modPort_same]; exact idle), Hub.modPort_modPort]
      exact congrArg Hub.releaseHeld (Hub.modPort_congr _ _ rfl)
    case ackSends =>
      rw [acked_sends (by rw [Hub.ports_modPort_same]; exact waits) (by rw [Hub.ports_modPort_same]; exact room), Hub.setPlace_modPort, Hub.modPort_modPort]
      exact congrArg (fun h => Hub.releaseHeld (Hub.noteBale h g.bale (g.node.getD 0) p)) (Hub.modPort_congr _ _ rfl)
    case again =>
      have none : ¬ ((replayFrom (flitSeq f) x.replay).any fun e => decide (8 ≤ e.2)) = true := by
        simpa [replayFrom] using few
      simp only [same]
      rw [if_neg none]
      exact withPort_withPort p s rfl
    case down =>
      have some : ((replayFrom (flitSeq f) x.replay).any fun e => decide (8 ≤ e.2)) = true := by
        simpa [replayFrom] using many
      simp only [same]
      exact if_pos some
    case opens =>
      have met' : (flitTaken s p rest).meet (streamRecord f).srcNode (streamRecord f).incarn = some v := met
      simp only [met']
      rfl
    case older =>
      have old' : (flitTaken s p rest).meet (streamRecord f).srcNode (streamRecord f).incarn = none := old
      simp only [old']
      exact (withPort_withPort p (flitTaken s p rest) (f := withoutStream (flitStream f)) (g := fun x => { x with drops := x.drops + 1 })
        (k := fun x => { withoutStream (flitStream f) x with drops := x.drops + 1 }) rfl).trans (withPort_withPort p s rfl)
  case hello =>
    have does : exec (.hello p node inc) s = _ := if_neg (by rw [up]; decide)
    constructor
    · intro older
      refine ⟨_, does.trans ?_, rfl⟩
      rw [older]
      rfl
    · intro v met
      exact ⟨_, does.trans (by rw [met]), fun b => lookupKey_entered node (1 <<< p.val) v.hub.nodePorts b⟩

end Sys2Proof

/-! Which node a package is: nothing that happens at a slice, at a loft or as a region ends changes it (R412). -/

namespace Sys2Proof

open Sys2Proof.Machine

theorem Machine.Hub.SentFrom.node {g h : Hub} (e : g.SentFrom h) : g.node = h.node := by
  unfold Hub.SentFrom at e
  rw [e]

theorem Machine.Hub.sendPort_sentFrom (h : Hub) (p : Fin 32) : (h.sendPort p).SentFrom h := by
  unfold Hub.sendPort
  split <;> rfl

theorem Machine.Hub.sendCirc_sentFrom (h : Hub) (p : Fin 32) : (h.sendCirc p).SentFrom h := by
  unfold Hub.sendCirc
  split <;> rfl

theorem Machine.Hub.sendTo_sentFrom (h : Hub) (node : BitVec 12) (rid : Option Nat) (page : Option (BitVec 16 × Span))
    (bale : Option (BitVec 12 × Word)) (ver : Bool) : (h.sendTo node rid page bale ver).SentFrom h := h.giveFlit_sentFrom _

/-- A message, on a port's lanes, on a circuit's or in a node stream. -/
theorem Machine.Hub.sendMsg_sentFrom (h : Hub) (m : PeerMsg) (ver : Bool) : (h.sendMsg m none none ver).SentFrom h := by
  cases m with
  | hello p node incarnation => exact h.sendPort_sentFrom p
  | circ k e =>
    unfold Hub.sendMsg
    dsimp only
    split
    · exact h.sendCirc_sentFrom _
    · rfl
  | credits k n =>
    unfold Hub.sendMsg
    dsimp only
    split
    · split
      · exact h.sendPort_sentFrom _
      · exact h.giveFlit_sentFrom _
    · rfl
  | _ => exact h.sendTo_sentFrom _ _ _ _ _

section NodeKept

variable {s : State}

theorem node_foldl {α : Type} {f : State → α → State} (same : ∀ u a, (f u a).hub.node = u.hub.node) (l : List α) (s : State) :
    (l.foldl f s).hub.node = s.hub.node :=
  List.foldlRecOn (motive := fun u => u.hub.node = s.hub.node) l f rfl fun u kept a _ => (same u a).trans kept

@[simp] theorem node_tell (m : PeerMsg) (ver : Bool) : (s.tell m ver).hub.node = s.hub.node := (Hub.sendMsg_sentFrom _ _ _).node

@[simp] theorem node_respond (n : BitVec 12) (tag : BitVec 32) (op st : Nat) (r : List Word) : (s.respond n tag op st r).hub.node = s.hub.node :=
  (Hub.giveFlit_sentFrom _ _).node

@[simp] theorem node_notify (op : Nat) (args : List Word) : (s.notify op args).hub.node = s.hub.node := (Hub.giveFlit_sentFrom _ _).node

@[simp] theorem node_passOn (ds : List Nat) : (s.passOn ds).hub.node = s.hub.node := node_foldl (fun _ _ => by rfl) _ _

/-! What is written when a launch has ended (R100), and the closing of regions (R99-R103). -/

@[simp] theorem node_doneWritten (d : DoneOut) (failed : Bool) : (s.doneWritten d failed).hub.node = s.hub.node := by
  unfold State.doneWritten
  dsimp only
  split
  · exact node_notify _ _
  · rfl

@[simp] theorem node_writeDone (d : DoneOut) : (s.writeDone d).hub.node = s.hub.node := by
  unfold State.writeDone
  split
  · rfl
  · exact node_doneWritten _ _

theorem node_doneAction (l : Launch) (queue seq outcome cause info : Nat) (region : Option (Nat × BitVec 8)) :
    (s.doneAction l queue seq outcome cause info region).hub.node = s.hub.node := by
  unfold State.doneAction
  dsimp only
  split
  · rfl
  · split
    · exact node_notify _ _
    · split
      · exact node_notify _ _
      · split
        · exact node_tell _ _
        · exact node_writeDone _

@[simp] theorem node_freeRegion (r : Region) : (s.freeRegion r).hub.node = s.hub.node := by
  unfold State.freeRegion
  rw [node_passOn]
  split <;> rfl

@[simp] theorem node_closeOne (r : Region) : (s.closeOne r).hub.node = s.hub.node := by
  unfold State.closeOne
  split
  · dsimp only
    split <;> split
    · exact node_freeRegion _
    · rfl
    · exact (node_freeRegion _).trans (node_doneAction _ _ _ _ _ _ _)
    · exact node_doneAction _ _ _ _ _ _ _
  · rfl

@[simp] theorem node_settleClosing : s.settleClosing.hub.node = s.hub.node := node_foldl (fun _ _ => node_closeOne _) _ _

@[simp] theorem node_sendDecision (k : Nat) (commit : Bool) : (s.sendDecision k commit).hub.node = s.hub.node := by
  refine node_foldl (fun u p => ?_) _ s
  split
  · rfl
  · split
    · rfl
    · exact node_tell _ _

@[simp] theorem node_abortBale (k cause : Nat) (node : BitVec 12) : (s.abortBale k cause node).hub.node = s.hub.node := node_sendDecision k false

@[simp] theorem node_endBales (r : Region) : (s.endBales r).hub.node = s.hub.node := by
  refine node_foldl (fun u p => ?_) _ s
  dsimp only
  split
  · rfl
  · split
    · rfl
    · exact node_abortBale _ _ _
    · exact node_abortBale _ _ _
    · rfl
    · rfl
    · rfl

@[simp] theorem node_purgePeers (r : Region) : (s.purgePeers r).hub.node = s.hub.node := node_foldl (fun _ _ => node_tell _ _) _ _

@[simp] theorem node_beginClose (r : Region) (tiles : List TileId) (outcome : BitVec 8) : (s.beginClose r tiles outcome).hub.node = s.hub.node := by
  unfold State.beginClose
  extract_lets answered due halts halted theirs sinks counted away _ _ gated _ cleared
  have hAnswered : answered.hub.node = s.hub.node := by
    unfold answered
    split
    · exact node_respond _ _ _ _ _
    · exact node_respond _ _ _ _ _
    · rfl
  have hDue : due.hub.node = answered.hub.node := by
    unfold due
    split
    · exact node_respond _ _ _ _ _
    · rfl
  have hHalted : halted.hub.node = due.hub.node := node_foldl (fun _ _ => node_respond _ _ _ _ _) halts due
  have hCounted : counted.hub.node = halted.hub.node := by
    refine node_foldl (fun u e => ?_) sinks halted
    split
    · split <;> rfl
    · rfl
  have hCleared : cleared.hub.node = gated.hub.node := node_foldl (fun _ _ => by rfl) tiles gated
  exact hCleared.trans (hCounted.trans (hHalted.trans (hDue.trans hAnswered)))

@[simp] theorem node_killRegion (n : Nat) (outcome : BitVec 8) : (s.killRegion n outcome).hub.node = s.hub.node := by
  unfold State.killRegion
  split
  · rfl
  · extract_lets tiles mine ids dropped stale
    have hStale : stale.hub.node = dropped.hub.node := node_foldl (fun _ _ => by rfl) _ dropped
    rw [node_settleClosing, node_beginClose, node_purgePeers]
    exact (node_endBales _).trans hStale

@[simp] theorem node_regionFault (n : Nat) (f : FaultEntry) : (s.regionFault n f).hub.node = s.hub.node := by
  unfold State.regionFault
  split
  · rfl
  · dsimp only
    split
    · exact node_notify _ _
    · exact (node_killRegion _ _).trans (node_notify _ _)

theorem node_trapIn (t : TileId) (k : Fin 4) (cause : BitVec 8) (epc : BitVec 11) (eva einfo : Word) :
    (s.trapIn t k cause epc eva einfo).hub.node = s.hub.node := by
  unfold State.trapIn
  split
  · unfold State.tileFault
    split
    · rfl
    · exact node_regionFault _ _
  · rfl

/-! Accesses that perform at their slices, and what waited for a bale (R245, R294, R374). -/

theorem node_accFault (t : TileId) (k : Fin 4) (a : GAccess) (cause : BitVec 8) (va : Nat) (low : Word) :
    (s.accFault t k a cause va low).hub.node = s.hub.node := by
  unfold State.accFault
  extract_lets doomed dropped
  have hDropped : dropped.hub.node = s.hub.node := by
    show doomed.hub.node = s.hub.node
    unfold doomed
    split
    · unfold State.doom
      split <;> rfl
    · rfl
  split
  · exact (node_trapIn _ _ _ _ _ _).trans hDropped
  · exact hDropped

theorem node_loadAt (t : TileId) (k : Fin 4) (a : GAccess) (tgt : Target) (bad : Bool) : (s.loadAt t k a tgt bad).hub.node = s.hub.node := by
  unfold State.loadAt
  split
  · exact node_accFault _ _ _ _ _ _
  · split
    · exact node_accFault _ _ _ _ _ _
    · rfl

theorem node_hubWrite (w : HubWrite) : (s.hubWrite w).hub.node = s.hub.node := by
  unfold State.hubWrite
  dsimp only
  split <;> split
  · rfl
  · exact node_respond _ _ _ _ _
  · rfl
  · exact node_respond _ _ _ _ _

@[simp] theorem node_serveHub : s.serveHub.hub.node = s.hub.node := by
  unfold State.serveHub
  rw [node_settleClosing, node_foldl (fun _ _ => node_hubWrite _)]
  refine node_foldl (fun u d => ?_) _ s
  split
  · exact node_writeDone _
  · rfl

theorem node_refuseRequest (node : BitVec 12) (q : PeerRequest) (cause : BitVec 8) (reason mark : Nat) (number : Option Nat) :
    (s.refuseRequest node q cause reason mark number).hub.node = s.hub.node := by
  unfold State.refuseRequest
  split
  · cases number <;> rfl
  · split
    · exact node_tell _ _
    · rfl

theorem node_translateRequest (q : InReq) : (s.translateRequest q).hub.node = s.hub.node := by
  unfold State.translateRequest
  split
  · rfl
  · split
    · rfl
    · dsimp only
      split
      · exact node_refuseRequest _ _ _ _ _ _
      · rfl
      · rfl

theorem node_serveInbound (q : InReq) : (s.serveInbound q).hub.node = s.hub.node := by
  unfold State.serveInbound
  split
  · split
    · rfl
    · split
      · rfl
      · exact node_tell _ _
      · exact node_tell _ _
  · rfl

@[simp] theorem node_serveDeferred : s.serveDeferred.hub.node = s.hub.node := by
  unfold State.serveDeferred
  extract_lets translated loaded
  have hTranslated : translated.hub.node = s.hub.node := node_foldl (fun _ _ => node_translateRequest _) _ s
  have hLoaded : loaded.hub.node = translated.hub.node := by
    refine node_foldl (fun u p => node_foldl (fun u k => node_foldl (fun u a => ?_) _ u) _ u) _ translated
    split
    · split
      · exact node_loadAt _ _ _ _ _
      · rfl
    · rfl
  rw [node_serveHub, node_foldl (fun _ _ => node_serveInbound _)]
  exact hLoaded.trans hTranslated

end NodeKept

end Sys2Proof

/-! Lofts keep or refuse stores and apply decisions; coordinators decide (R365-R374). -/

namespace Sys2Proof

open Sys2Proof.Machine

/-! What reaches the loft (R366, R369, R371). -/

section Loft

variable {s : State} {k : Nat} {hub : Hub} {c : BitVec 12} {h : Word}

theorem loftTake_node {m : LoftMsg} (taken : s.hub.loftTake k = some (m, hub)) : hub.node = s.hub.node := by
  unfold Hub.loftTake at taken
  split at taken
  · cases taken
  · split at taken
    · cases taken
    · cases taken
      rfl

/-- A bale's entry, made where the loft has none. -/
def loftEntry (hub : Hub) (c : BitVec 12) (h : Word) : LoftBale := (hub.loftBale c h).getD ⟨c, h, [], none, false, []⟩

/-- A bale's entry after a store whose data may have an error: without room it is marked, and the store is dropped. -/
def loftStored (hub : Hub) (c : BitVec 12) (h : Word) (tgt : Target) (n : Nat) (data : BitVec 512) (page : Option (BitVec 16 × Span)) (bad : Bool) : LoftBale :=
  let b := loftEntry hub c h
  if ((hub.loftBale c h).isNone && 1024 ≤ hub.loftIndex) || 2 ^ 31 < hub.loftUsed + loftBytes n then { b with mark := some 4 }
  else { b with stores := b.stores ++ [(tgt, n, data, bad)], pages := (page.toList ++ b.pages).dedup }

section Store

variable {who : TileId × Fin 4} {tgt : Target} {n : Nat} {data : BitVec 512} {page : Option (BitVec 16 × Span)}
  (taken : s.hub.loftTake k = some (.store c h who tgt n data none page, hub)) (unmarked : (loftEntry hub c h).mark = none)
include taken unmarked

/-- A store that has come in whole or with an error in its data. -/
theorem exec_loftStoreArrive {f : PacketFault} (received : f ≠ .header) :
    exec (.loftStoreArrive ⟨k, f⟩) s = .next { s with hub := hub.putLoft (loftStored hub c h tgt n data page (f == .data)) } := by
  show execLoftStoreArrive ⟨k, f⟩ s = _
  simp only [loftStored, loftEntry] at unmarked ⊢
  simp only [execLoftStoreArrive, taken, received, unmarked, decide_false, Bool.false_and, Bool.false_eq_true, if_false]

theorem exec_loftStoreArrive_header (peer : c ≠ s.hub.node) :
    exec (.loftStoreArrive ⟨k, .header⟩) s = .next { s with hub := hub.putLoft { loftEntry hub c h with mark := some 10 } } := by
  show execLoftStoreArrive ⟨k, .header⟩ s = _
  simp only [loftEntry] at unmarked ⊢
  simp only [execLoftStoreArrive, taken, peer, unmarked, decide_false, Bool.and_false, Bool.false_eq_true, if_false]
  rfl

end Store

/-- The header of a store of a bale of this package fails (log entry 111). -/
theorem exec_loftStoreArrive_own {who : TileId × Fin 4} {tgt : Target} {n : Nat} {data : BitVec 512} {refuse : Option Nat}
    {page : Option (BitVec 16 × Span)} (taken : s.hub.loftTake k = some (.store s.hub.node h who tgt n data refuse page, hub))
    (lives : (s.hub.bale (baleIndex h)).st.isSome = true) (current : bits h 0 8 = (s.hub.bale (baleIndex h)).gen) :
    exec (.loftStoreArrive ⟨k, .header⟩) s =
      .next (State.regionFault { s with hub := hub } (s.hub.bale (baleIndex h)).region ⟨Cause.poison, 5, 0, 0, 0, 0⟩) := by
  show execLoftStoreArrive ⟨k, .header⟩ s = _
  simp only [execLoftStoreArrive, taken, lives, current, decide_true, Bool.and_true, if_true]
  rfl

section Seal

variable {count : Nat} (taken : s.hub.loftTake k = some (.seal c h count, hub))
include taken

theorem exec_sealArrive_unknown (unknown : hub.loftBale c h = none) :
    exec (.sealArrive k) s = .next (State.loftReply { s with hub := hub } c h (if count = 0 then .ready else .refuse 5)) := by
  show execSealArrive k s = _
  simp only [execSealArrive, taken, unknown]

variable {b : LoftBale} (known : hub.loftBale c h = some b)
include known

theorem exec_sealArrive_marked {cause : Nat} (marked : b.mark = some cause) :
    exec (.sealArrive k) s = .next (State.loftReply { s with hub := hub } c h (.refuse cause)) := by
  show execSealArrive k s = _
  simp only [execSealArrive, taken, known, marked]

/-- A bale without a mark is prepared when the SEAL's count matches. -/
theorem exec_sealArrive_unmarked (unmarked : b.mark = none) :
    exec (.sealArrive k) s = .next (if count ≠ b.stores.length then State.loftReply { s with hub := hub } c h (.refuse 5)
      else State.loftReply { s with hub := hub.putLoft { b with prepared := true } } c h .ready) := by
  show execSealArrive k s = _
  simp only [execSealArrive, taken, known, unmarked]
  split <;> rfl

end Seal

/-! Decisions applied (R372). -/

/-- The state in which a decision on an entry of the loft has been applied. -/
def decisionApplied (s : State) (b : LoftBale) (c : BitVec 12) (h : Word) (commit : Bool) : State :=
  State.serveDeferred { s with
    mem := if commit then b.stores.foldl (fun m p => m.storeAt p.1 p.2.1 p.2.2.1.toNat p.2.2.2) s.mem else s.mem
    hub := Hub.pruneBales { s.hub with loft := s.hub.loft.filter fun e => !(e.coord == c && e.handle == h) } }

theorem foldl_storeAt (stores : List (Target × Nat × BitVec 512 × Bool)) (s : State) :
    stores.foldl (fun s p => { s with mem := s.mem.storeAt p.1 p.2.1 p.2.2.1.toNat p.2.2.2 }) s =
      { s with mem := stores.foldl (fun m p => m.storeAt p.1 p.2.1 p.2.2.1.toNat p.2.2.2) s.mem } := by
  induction stores generalizing s with
  | nil => rfl
  | cons p rest ih => exact ih _

theorem applyDecision_known {b : LoftBale} (known : s.hub.loftBale c h = some b) (commit : Bool) :
    s.applyDecision c h commit = decisionApplied s b c h commit := by
  simp only [State.applyDecision, known, foldl_storeAt, decisionApplied]
  cases commit <;> rfl

@[simp] theorem decisionApplied_node (s : State) (b : LoftBale) (commit : Bool) : (decisionApplied s b c h commit).hub.node = s.hub.node :=
  node_serveDeferred

/-- The loft of this package tells its own coordinator, and a peer's by a message. -/
theorem exec_baleDecisionApply {commit : Bool} {b : LoftBale} (taken : s.hub.loftTake k = some (.decision c h commit, hub)) (known : hub.loftBale c h = some b) :
    let u := decisionApplied { s with hub := hub } b c h commit
    exec (.baleDecisionApply k) s = .next (if c = s.hub.node then { u with hub := { u.hub with baleDones := u.hub.baleDones ++ [h] } }
      else u.tell (.baleDone c h)) := by
  intro u
  show execBaleDecisionApply k s = _
  have node : u.hub.node = s.hub.node := (decisionApplied_node _ _ _).trans (loftTake_node taken)
  have applied : State.applyDecision { s with hub := hub } c h commit = u := applyDecision_known known commit
  simp only [execBaleDecisionApply, taken]
  rw [applied, node]
  split <;> rfl

end Loft

/-! The coordinator (R365, R371, R372). -/

section Coordinator

variable {s : State} {h : Word} (current : h = baleHandle s.hub.node (baleIndex h) (s.hub.bale (baleIndex h)).gen)
include current

/-- The state in which the SEALs of a bale have been sent. -/
def sealsSent (s : State) (h : Word) : State :=
  (s.hub.bale (baleIndex h)).counts.foldl (fun s p => if p.1 = s.hub.node then s.loftPut (.seal s.hub.node h p.2) else s.tell (.seal p.1 h p.2))
    { s with hub := s.hub.modBale (baleIndex h) fun b => { b with sealsSent := true } }

/-- A sealed bale none of whose stores to this package is still on its way to the loft. -/
theorem exec_sealSend (sealed : (s.hub.bale (baleIndex h)).st = some .sealed) (unsent : (s.hub.bale (baleIndex h)).sealsSent = false)
    (landed : ∀ j g who tgt n data why page, (j, LoftMsg.store s.hub.node g who tgt n data why page) ∈ s.hub.loftIn → g ≠ h) :
    exec (.sealSend h) s = .next (match (s.hub.bale (baleIndex h)).lost with
      | node :: _ => (sealsSent s h).decideAbort (baleIndex h) 6 node
      | [] => if (s.hub.bale (baleIndex h)).doom then (sealsSent s h).decideAbort (baleIndex h) 7 0 else sealsSent s h) := by
  show execSealSend h s = _
  unfold execSealSend
  dsimp only
  rw [if_neg]
  · rfl
  · rw [Bool.not_eq_true, Bool.or_eq_false_iff]
    refine ⟨by rw [unsent, sealed, ← current]; simp, List.any_eq_false.2 fun ⟨j, m⟩ mem => ?_⟩
    cases m with
    | store c g who tgt n data why page =>
      intro same
      obtain ⟨rfl, rfl⟩ : c = s.hub.node ∧ g = h := by simpa using same
      exact landed j g who tgt n data why page mem rfl
    | _ => exact Bool.false_ne_true

/-- An answer that has come: from a peer, or given by this package's own loft. -/
theorem exec_baleReply {node : BitVec 12} {r : BaleAnswer} (live : (s.hub.bale (baleIndex h)).st.isSome = true)
    (sent : (s.hub.bale (baleIndex h)).sealsSent = true ∨ r = .lost) (given : node = s.hub.node → (h, r) ∈ s.hub.baleAnswers) :
    exec (.baleReply h node r) s = .next (State.takeAnswer
      (if node = s.hub.node then { s with hub := { s.hub with baleAnswers := s.hub.baleAnswers.erase (h, r) } } else s) (baleIndex h) node r) := by
  show execBaleReply h node r s = _
  unfold execBaleReply
  dsimp only
  rw [if_neg, if_neg]
  · simp
  · simpa using given
  · rw [← current]
    rcases sent with sent | rfl
    · simp [sent, Option.isSome_iff_ne_none.1 live]
    · simp [Option.isSome_iff_ne_none.1 live]

/-- A commit asked for, to which nothing is opposed. -/
theorem exec_baleCommitDecision (sealed : (s.hub.bale (baleIndex h)).st = some .sealed) (sent : (s.hub.bale (baleIndex h)).sealsSent = true)
    (asked : (s.hub.bale (baleIndex h)).commitAsked = true) (sound : (s.hub.bale (baleIndex h)).doom = false)
    (ready : ∀ p ∈ (s.hub.bale (baleIndex h)).counts, p.1 ∈ (s.hub.bale (baleIndex h)).ready) :
    exec (.baleCommitDecision h) s = .next (State.settleBale (State.wakeCommit (State.sendDecision
      { s with hub := s.hub.modBale (baleIndex h) fun b => { b with st := some .committing } } (baleIndex h) true) h true) (baleIndex h)) := by
  show execBaleCommitDecision h s = _
  refine if_neg ?_
  rw [← current, sealed, sent, asked, sound]
  simpa using ready

omit current in
theorem exec_baleCommitDecision_opposed (opposed : (s.hub.bale (baleIndex h)).doom = true ∨ (s.hub.bale (baleIndex h)).commitAsked = false ∨
    ∃ p ∈ (s.hub.bale (baleIndex h)).counts, p.1 ∉ (s.hub.bale (baleIndex h)).ready) : exec (.baleCommitDecision h) s = .next s.stall := by
  show execBaleCommitDecision h s = _
  refine if_pos ?_
  have all : (s.hub.bale (baleIndex h)).doom = true ∨ (s.hub.bale (baleIndex h)).commitAsked = false ∨
      ((s.hub.bale (baleIndex h)).counts.all fun p => (s.hub.bale (baleIndex h)).ready.contains p.1) = false := by
    simpa using opposed
  rcases all with doomed | unasked | unready
  · simp [doomed]
  · simp [unasked]
  · rw [unready]
    simp

/-- A destination's DONE, counted once. -/
theorem exec_baleDoneReply {node : BitVec 12} (decided : (s.hub.bale (baleIndex h)).st = some .committing ∨ (s.hub.bale (baleIndex h)).st = some .aborting)
    (counted : ∃ p ∈ (s.hub.bale (baleIndex h)).counts, p.1 = node) (first : node ∉ (s.hub.bale (baleIndex h)).done)
    (given : node = s.hub.node → h ∈ s.hub.baleDones) :
    exec (.baleDoneReply h node) s = .next (
      let u := if node = s.hub.node then { s with hub := { s.hub with baleDones := s.hub.baleDones.erase h } } else s
      State.settleBale { u with hub := u.hub.modBale (baleIndex h) fun b => { b with done := b.done ++ [node] } } (baleIndex h)) := by
  have has : ((s.hub.bale (baleIndex h)).counts.any fun p => p.1 == node) = true := by simpa using counted
  show execBaleDoneReply h node s = _
  unfold execBaleDoneReply
  dsimp only
  rw [if_neg, if_neg]
  · simp
  · simpa using given
  · rw [← current, has]
    rcases decided with st | st <;> rw [st] <;> simp [first]

end Coordinator

/-- What an answer of a destination does to a sealed bale. -/
theorem takeAnswer_sealed {s : State} {k : Nat} {node : BitVec 12} (sealed : (s.hub.bale k).st = some .sealed) (counted : ∃ p ∈ (s.hub.bale k).counts, p.1 = node) :
    s.takeAnswer k node .ready = { s with hub := s.hub.modBale k fun b =>
      { b with ready := if b.ready.contains node then b.ready else b.ready ++ [node] } } ∧
    ∀ cause, s.takeAnswer k node (.refuse cause) = s.decideAbort k cause node := by
  have has : ((s.hub.bale k).counts.any fun p => p.1 == node) = true := by simpa using counted
  constructor
  · simp [State.takeAnswer, has, sealed]
  · intro cause
    simp [State.takeAnswer, has, sealed]

/-- Settles O36: what comes to a loft is taken by its mark, its room and its packet; a coordinator's step by its record. -/
theorem loftsAndCoordinators : Obligations.LoftsAndCoordinators := by
  refine ⟨fun k s hub m taken => ⟨?store, ?header, ?sealing, ?decision⟩, fun h s => ?coordinator⟩
  case coordinator =>
    intro k b current
    refine ⟨?seals, ?reply, fun node sealed counted => takeAnswer_sealed sealed counted,
      fun sealed sent asked sound ready => ⟨_, exec_baleCommitDecision current sealed sent asked sound ready, rfl⟩,
      exec_baleCommitDecision_opposed, ?done⟩
    case seals =>
      intro sealed unsent landed sent
      have sends := exec_sealSend current sealed unsent landed
      refine ⟨fun sound kept => ⟨_, sends, ?_⟩, fun doomed kept => ⟨_, sends, ?_⟩, fun node rest lost named some => ⟨_, sends, ?_⟩⟩
      · rw [kept, sound]
        rfl
      · rw [kept, doomed]
        rfl
      · rw [named, some]
        rfl
    case reply =>
      intro node r live sent
      refine ⟨fun peer => ⟨_, exec_baleReply current live sent fun own => absurd own peer, ?_⟩, fun own given => ⟨_, exec_baleReply current live sent fun _ => given, ?_⟩⟩
      · rw [if_neg peer]
      · rw [if_pos own]
    case done =>
      intro node decided counted first
      refine ⟨fun peer => ⟨_, exec_baleDoneReply current decided counted first fun own => absurd own peer, ?_⟩,
        fun own given => ⟨_, exec_baleDoneReply current decided counted first fun _ => given, ?_⟩⟩
      · rw [if_neg peer]
      · rw [if_pos own]
  case store =>
    rintro c h who tgt n data page rfl b entry unmarked full
    subst entry
    refine ⟨fun f received => ?_, fun peer => ⟨_, exec_loftStoreArrive_header taken unmarked peer, rfl, rfl⟩⟩
    have arrives := exec_loftStoreArrive taken unmarked received
    have isFull : (((hub.loftBale c h).isNone && decide (1024 ≤ hub.loftIndex)) || decide (2 ^ 31 < hub.loftUsed + loftBytes n)) = true ↔ full := by
      simp [full]
    constructor
    · intro yes
      refine ⟨_, arrives, rfl, ?_⟩
      rw [loftStored, if_pos (isFull.2 yes)]
      rfl
    · intro kept no
      refine ⟨_, arrives, rfl, ?_⟩
      rw [loftStored, if_neg (mt isFull.1 no)]
      rfl
  case header =>
    rintro h who tgt n data refuse page rfl record lives current
    exact ⟨_, exec_loftStoreArrive_own taken lives current, rfl⟩
  case sealing =>
    rintro c h count rfl
    refine ⟨fun b known unmarked same => ⟨_, exec_sealArrive_unmarked taken known unmarked, if_neg (not_not.2 same)⟩,
      fun b known unmarked other => ⟨_, exec_sealArrive_unmarked taken known unmarked, if_pos other⟩,
      fun b cause known marked => ⟨_, exec_sealArrive_marked taken known marked, rfl⟩,
      fun unknown => ⟨_, exec_sealArrive_unknown taken unknown, rfl⟩⟩
  case decision =>
    rintro c h commit b rfl known
    exact ⟨_, exec_baleDecisionApply taken known, _, rfl, rfl⟩

end Sys2Proof

/-! What the parts of a swap leave of a tile (R348, R351, R359): credits, sinks, beacons and the record of events change, nothing else. -/

namespace Sys2Proof

open Sys2Proof.Machine

/-- A tile apart from its channels' ends, its watches, what its counters have still to tell and its contexts' records of events. -/
def Machine.Tile.settled (x : Tile) : Tile :=
  { x with sources := [], sinks := [], watches := [], counters := x.counters.map Counter.told, ctxs := x.ctxs.map Ctx.unrecorded }

/-- The same, apart from its counters as well. -/
def Machine.Tile.uncounted (x : Tile) : Tile := { x.settled with counters := Vector.replicate 16 .cleared }

/-- Of every tile what a reading of it says is as before, and so is the place of issue. -/
structure KeepsTiles {α : Type} (p : Tile → α) (s u : State) : Prop where
  here : u.here = s.here
  ctx : u.ctx = s.ctx
  tile : ∀ t, p (u.tile t) = p (s.tile t)

namespace KeepsTiles

variable {α : Type} {p : Tile → α} {s u v : State}

theorem refl (s : State) : KeepsTiles p s s := ⟨rfl, rfl, fun _ => rfl⟩

theorem trans (h : KeepsTiles p s u) (k : KeepsTiles p u v) : KeepsTiles p s v :=
  ⟨k.here.trans h.here, k.ctx.trans h.ctx, fun t => (k.tile t).trans (h.tile t)⟩

/-- A change outside the tiles. -/
theorem frame (tiles : u.tiles = s.tiles := by rfl) (here : u.here = s.here := by rfl) (ctx : u.ctx = s.ctx := by rfl) : KeepsTiles p s u :=
  ⟨here, ctx, fun t => by rw [State.tile, State.tile, tiles]⟩

theorem foldl {ι : Type} {f : State → ι → State} (each : ∀ s a, KeepsTiles p s (f s a)) (l : List ι) (s : State) : KeepsTiles p s (l.foldl f s) :=
  List.foldlRecOn (motive := KeepsTiles p s) l f (refl s) fun _ h a _ => h.trans (each _ a)

theorem modTile (s : State) (t : TileId) {f : Tile → Tile} (same : ∀ x, p (f x) = p x := by exact fun _ => rfl) : KeepsTiles p s (s.modTile t f) := by
  refine ⟨rfl, rfl, fun j => ?_⟩
  by_cases h : j = t
  · subst h
    rw [State.tile_modTile_same, same]
  · rw [State.tile_modTile_other s h]

/-- What can be told from a reading is kept with it. -/
theorem of {β : Type} {q : Tile → β} (h : KeepsTiles p s u) (f : α → β) (reads : ∀ x, q x = f (p x)) : KeepsTiles q s u :=
  ⟨h.here, h.ctx, fun t => by rw [reads, h.tile, ← reads]⟩

end KeepsTiles

section Readings

variable {s u : State}

theorem KeepsTiles.uncounted (h : KeepsTiles Tile.settled s u) : KeepsTiles Tile.uncounted s u :=
  h.of (fun x => { x with counters := Vector.replicate 16 .cleared }) fun _ => rfl

/-- A part of the tile that neither reading leaves out. -/
theorem KeepsTiles.part {β : Type} (h : KeepsTiles Tile.uncounted s u) (q : Tile → β) (t : TileId) (blind : ∀ x, q x.uncounted = q x := by exact fun _ => rfl) :
    q (u.tile t) = q (s.tile t) := by
  rw [← blind, h.tile, blind]

/-- The issuing context, but for its record of events. -/
theorem KeepsTiles.cur (h : KeepsTiles Tile.uncounted s u) : u.cur.unrecorded = s.cur.unrecorded := by
  have same := congrArg (fun x : Tile => x.ctxs[s.ctx]) (h.tile s.here)
  simp only [Tile.uncounted, Tile.settled, Fin.getElem_fin, Vector.getElem_map] at same
  rw [State.cur, State.ctxAt, h.here, h.ctx]
  exact same

/-- A part of the issuing context's tile. -/
theorem KeepsTiles.curPart {β : Type} (h : KeepsTiles Tile.uncounted s u) (q : Tile → β) (blind : ∀ x, q x.uncounted = q x := by exact fun _ => rfl) :
    q u.curTile = q s.curTile := by
  rw [State.curTile, h.here]
  exact h.part q s.here blind

/-- What does not rest on the record of events is as it was in the issuing context. -/
theorem KeepsTiles.reads {β : Type} (h : KeepsTiles Tile.uncounted s u) (q : Ctx → β) (blind : ∀ c, q c.unrecorded = q c := by exact fun _ => rfl) :
    q u.cur = q s.cur := by
  rw [← blind, h.cur, blind]

/-- A counter's VALUE. -/
theorem KeepsTiles.value (h : KeepsTiles Tile.settled s u) (t : TileId) (g : Fin 16) : (u.counterAt t g).value = (s.counterAt t g).value := by
  have same := congrArg (fun x : Tile => (x.counters[g]).value) (h.tile t)
  simp only [Tile.settled, Fin.getElem_fin, Vector.getElem_map] at same
  exact same

end Readings

/-! Channels, contexts and beacons. -/

namespace KeepsTiles

variable (s : State) (t : TileId)

theorem modCtx (k : Fin 4) {f : Ctx → Ctx} (same : ∀ c, (f c).unrecorded = c.unrecorded) : KeepsTiles Tile.settled s (s.modCtx t k f) := by
  refine modTile s t fun x => ?_
  have ctxs : (x.setCtx k (f x.ctxs[k])).ctxs.map Ctx.unrecorded = x.ctxs.map Ctx.unrecorded := by
    refine Vector.ext fun i hi => ?_
    simp only [Tile.setCtx, Vector.getElem_map, Vector.getElem_set]
    split
    · next e => subst e; exact same _
    · rfl
  simp only [Tile.settled, ctxs]
  rfl

theorem recordLate (g : Fin 16) (cycles : Nat) (mark : BitVec 48) (id : Word) : KeepsTiles Tile.settled s (s.recordLate t g cycles mark id) := by
  unfold State.recordLate
  refine modCtx s t _ fun c => ?_
  unfold Ctx.event
  dsimp only
  split <;> rfl

theorem sendBeacon (g : Fin 16) : KeepsTiles Tile.settled s (s.sendBeacon t g none) := by
  obtain ⟨out, n, -, sent⟩ := sendBeacon_all s t g
  refine trans (modTile s t (f := (·.modCounter g Counter.told)) fun x => ?_) (sent ▸ frame)
  have counters : (x.modCounter g Counter.told).counters.map Counter.told = x.counters.map Counter.told := by
    refine Vector.ext fun i hi => ?_
    simp only [Tile.modCounter, Vector.getElem_map, Vector.getElem_set]
    split
    · next e => subst e; rfl
    · rfl
  simp only [Tile.settled, counters]
  rfl

theorem returnCredits (k n : Nat) : KeepsTiles Tile.settled s (s.returnCredits t k n) := by
  unfold State.returnCredits
  split
  · exact refl s
  · split
    · exact modTile s _
    · split
      · exact frame
      · split
        · exact frame
        · exact refl s
      · exact refl s

/-- The credits of channels set anew (R359). -/
theorem resetCredits : KeepsTiles Tile.settled s (s.resetCredits t) := by
  refine foldl (fun u k => ?_) _ s
  split
  · exact refl u
  · split
    · exact modTile u _
    · exact refl u

end KeepsTiles

/-! The copies exchanged (R351). -/

theorem joined_eq (x : Tile) : ∃ sinks, x.joined = { x with sinks := sinks } := by
  refine List.foldlRecOn (motive := fun y : Tile => ∃ sinks, y = { x with sinks := sinks }) (List.finRange 64) _ ⟨x.sinks, rfl⟩ fun y h k _ => ?_
  obtain ⟨sinks, rfl⟩ := h
  dsimp only
  split
  · exact ⟨_, rfl⟩
  · exact ⟨sinks, rfl⟩

/-- What an exchange leaves, and what it exchanges. -/
theorem exchange_eq (x : Tile) : x.exchange.cfg = x.cfgShadow.unpaired ∧ x.exchange.cfgShadow = x.cfg.unpaired ∧ x.exchange.store = x.storeShadow ∧
    x.exchange.storeShadow = x.store ∧ x.exchange.scratch = x.scratch ∧ x.exchange.reel = x.reel ∧ x.exchange.cycle = x.cycle ∧
    (∀ k : Fin 4, (x.exchange.ctxs[k]) = (x.ctxs[k]).configured x.cfgShadow.unpaired k) ∧
    ∀ g : Fin 16, (x.exchange.counters[g]).value = (x.counters[g]).value := by
  unfold Tile.exchange
  dsimp only
  obtain ⟨sinks, e⟩ := joined_eq { x with
    store := x.storeShadow, storeShadow := x.store, storeBad := x.storeBad.map otherStore, cfg := x.cfgShadow.unpaired, cfgShadow := x.cfg.unpaired
    sinks := x.sinks.map fun (p : Nat × Sink) => (p.1, p.2.swapped (x.cfgShadow.sinkCfg p.1).typed) }
  rw [e]
  refine ⟨rfl, rfl, rfl, rfl, rfl, rfl, rfl, fun k => ?_, fun g => ?_⟩
  · simp
  · simp

/-- The beacons that follow an exchange change nothing else (R240). -/
theorem exchangeTile_keeps (s : State) (t : TileId) : KeepsTiles Tile.settled (s.modTile t Tile.exchange) (s.exchangeTile t) := by
  unfold State.exchangeTile
  refine KeepsTiles.foldl (fun u g => ?_) _ _
  split
  · exact KeepsTiles.refl u
  · exact KeepsTiles.sendBeacon u t g

end Sys2Proof

/-! The instructions of reel mode (R356-R359). -/

namespace Sys2Proof

open Sys2Proof.Machine

section Reel

variable {g : Guard} {o : FmtQ} {s : State} (runs : Runs s g)
include runs

/-- `stsave` and `stload` in a band tile copy the ranges that its stage declares. -/
def copiedPieces (f : Reel) (b : TileReel) : List Piece :=
  match b.stage with
  | some st => statePieces (f.stateAt b st) b.ranges
  | none => []

omit runs in
theorem copyOp_band {b : TileReel} {r : Region} {f : Reel} (band : s.curTile.reel = some b) (region : s.regionOf s.here = some r) (reel : r.reel = some f)
    (save : Bool) : s.copyOp o save = (s.modCur fun c => { c with wait := .copy o.d save (copiedPieces f b) none 0 }).copyStep s.here s.ctx := by
  simp only [State.copyOp, band, region, Option.bind_some, reel]
  rfl

omit runs in
theorem copyOp_other (other : s.curTile.reel = none) (save : Bool) : s.copyOp o save = s.trapOpen Cause.ill := by
  simp only [State.copyOp, other]

theorem exec_stload_band {b : TileReel} {r : Region} {f : Reel} (band : s.curTile.reel = some b) (region : s.regionOf s.here = some r) (reel : r.reel = some f) :
    exec (.stload g o) s = .next ((s.modCur fun c => { c with wait := .copy o.d false (copiedPieces f b) none 0 }).copyStep s.here s.ctx) :=
  exec_issue runs rfl (copyOp_band band region reel false)

/-- `stsave` waits for the context's stores to scratch. -/
theorem exec_stsave_band {b : TileReel} {r : Region} {f : Reel} (band : s.curTile.reel = some b) (region : s.regionOf s.here = some r) (reel : r.reel = some f)
    (performed : s.cur.performed .tile = true) :
    exec (.stsave g o) s = .next ((s.modCur fun c => { c with wait := .copy o.d true (copiedPieces f b) none 0 }).copyStep s.here s.ctx) :=
  exec_issue runs rfl (by rw [performed, ← copyOp_band band region reel true]; simp)

theorem exec_copy_other (other : s.curTile.reel = none) : ∀ i ∈ [Instr.stsave g o, .stload g o], exec i s = .next (s.trapOpen Cause.ill) := by
  have saves : exec (.stsave g o) s = .next (s.trapOpen Cause.ill) :=
    exec_issue runs rfl (by rw [copyOp_other other, other]; rfl)
  have loads : exec (.stload g o) s = .next (s.trapOpen Cause.ill) := exec_issue runs rfl (copyOp_other other false)
  simpa using ⟨saves, loads⟩

/-- `scroll.q` (R356). -/
theorem exec_scrollQ {r : Region} {f : Reel} (region : s.regionOf s.here = some r) (reel : r.reel = some f) :
    exec (.scrollQ g o) s = .next (s.writeS o.d (BitVec.ofNat 64 (f.trains * 2 ^ 44 + f.train * 2 ^ 24 + (s.curTile.reel.bind (·.stage)).getD 0x1FFFFF))) :=
  exec_issue runs rfl (by simp only [region, Option.bind_some, reel]; rfl)

/-- What `scroll` reads from S(S1) and S(S2), with the accesses that the feeder's reads follow. -/
def scrollReel (s : State) (o : FmtQ) (r : Region) : Reel :=
  let v := (s.getS o.s2).toNat
  { descriptor := (s.getS o.s1).toNat, laid := false, skeins := 0, stateBase := 0, trainVa := 0, tstride := 0, stages := 0, tstate := 0
    trainBytes := 0, waveBytes := 0, engine := 0, actr := 0, arcs := [], b := natField v 13 6, h := natField v 7 6, w := natField v 0 7
    trains := natField v 32 20, issuer := (r.relative s.here, s.ctx, s.cur.nextAcc), heldSwap := [], train := 0, trainPos := 0, trainTail := 0
    entryCredits := 0 }

/-- Whether S(S2) gives a shape and a number of trains as R356 has them. -/
def scrollFormed (v : Nat) : Prop := natField v 52 12 = 0 ∧ natField v 19 13 = 0 ∧ natField v 32 20 ≠ 0

theorem exec_scroll {r : Region} (region : s.regionOf s.here = some r) (unfaulted : s.cur.psf = none) (aligned : (s.getS o.s1).toNat % 64 = 0)
    (formed : scrollFormed (s.getS o.s2).toNat)
    (outside : r.inBand (natField (s.getS o.s2).toNat 13 6) (natField (s.getS o.s2).toNat 7 6) (natField (s.getS o.s2).toNat 0 7) s.here = false)
    (first : r.reel = none) : exec (.scroll g o) s = .next (s.startReel r (scrollReel s o r)) := by
  obtain ⟨high, low, trains⟩ := formed
  refine exec_issue runs rfl ?_
  rw [afterStoreFault_none unfaulted]
  simp only [region]
  rw [if_neg (by simp [aligned]), if_neg (by simp [high, low, trains, outside, first])]
  rfl

end Reel

/-! `cfgw` (R358). -/

theorem readScratch_reads {s : State} {a size : Nat} (aligned : a % size = 0) (owned : s.curTile.owned s.ctx a size = true)
    (sound : s.curTile.scratchPoison s.ctx a size = false) (acquired : s.cur.acqPending = false) (put : Nat → State → State) :
    s.readScratch a size put = put (s.curTile.scratchRead s.ctx a size) s := by
  have passes : s.curTile.scratchCheck s.ctx size size 0 [a] = none := scratchCheck_none (by simpa using ⟨aligned, owned⟩)
  simp only [State.readScratch, passes, sound]
  exact afterAcquire_run _ acquired

/-- The bytes that `cfgw` has read, cut into CFG entries. -/
def cfgEntries (v b : Nat) : List (BitVec 256 × BitVec 4) := (List.range (32 / b)).map fun i => (BitVec.ofNat 256 (natField v (8 * b * i) (8 * b)), 7)

theorem exec_cfgw {g : Guard} {o : FmtQ} {s : State} (runs : Runs s g) (allowed : s.cur.mode = .supervisor) {e room b cap : Nat}
    (output : s.cur.port o.port = .output e) (opens : s.writePort s.here s.ctx o.port = some (room, b, cap)) (aligned : (s.getS o.s1).toNat % 32 = 0)
    (owned : s.curTile.owned s.ctx (s.getS o.s1).toNat 32 = true) (sound : s.curTile.scratchPoison s.ctx (s.getS o.s1).toNat 32 = false)
    (acquired : s.cur.acqPending = false) (unheld : s.cur.viaHeld o.port = false) (unforwarded : s.curTile.forwardPort s.ctx o.port = false)
    (undrained : s.curTile.drainPort s.ctx o.port = false) (fits : 32 / b ≤ room) :
    exec (.cfgw g o) s = .next (s.putPort s.here s.ctx o.port (cfgEntries (s.curTile.scratchRead s.ctx (s.getS o.s1).toNat 32) b)).retire := by
  refine (exec_supervised runs allowed rfl).trans (congrArg _ ?_)
  rw [readScratch_reads aligned owned sound acquired]
  simp only [output, opens]
  rw [if_neg (by simp [unheld, unforwarded]), if_neg (by simpa [undrained] using fits)]
  rfl

/-! `cfgswap` (R359). -/

/-- A tile as a forced swap finds it: its queues emptied, and what they held counted. -/
def discarded (was x : Tile) : Tile :=
  let n := was.discard.toNat + was.entriesHeld
  { x with discard := if 2 ^ 64 ≤ n then Word.ones else BitVec.ofNat 64 n, sinks := x.sinks.map fun p => (p.1, p.2.emptied) }

/-- The state in which the issuing context's tile has swapped. -/
def forcedSwap (s : State) : State :=
  let u := s.modCurTile (discarded s.curTile)
  let v := (u.exchangeTile u.here).modCur fun c => { c with run := .parked, retired := c.retired + 1 }
  v.resetCredits v.here

theorem exec_cfgswap {g : Guard} {o : FmtQ} {s : State} (allowed : s.cur.mode = .supervisor) (on : s.cur.guardOn g = true) (outside : s.curTile.reel = none)
    (idle : ∀ k : Fin 4, k = s.ctx ∨ (s.curTile.ctxs[k]).run = .parked ∨ (s.curTile.ctxs[k]).run = .disabled) (nothing : s.nothingOut s.here = true)
    (drained : s.curTile.drained = true) (taken : s.swapTaken s.here = true) : exec (.cfgswap g o) s = .next (forcedSwap s) := by
  have others : ((List.finRange 4).all fun k => k == s.ctx || (s.curTile.ctxs[k]).run == .parked || (s.curTile.ctxs[k]).run == .disabled) = true := by
    simpa [List.all_eq_true, or_assoc] using idle
  show execCfgswap g o s = _
  unfold execCfgswap
  rw [supervised_runs allowed, issueJump_runs on]
  dsimp only
  rw [if_neg (by simp [outside]), if_neg (by rw [others, nothing, drained]; decide), if_neg (by rw [taken]; decide)]
  rfl

theorem exec_cfgswap_band {g : Guard} {o : FmtQ} {s : State} (allowed : s.cur.mode = .supervisor) (on : s.cur.guardOn g = true)
    (band : s.curTile.reel ≠ none) : exec (.cfgswap g o) s = .next (s.trapOpen Cause.ill) := by
  show execCfgswap g o s = _
  exact congrArg Host.Outcome.next ((supervised_runs allowed _).trans ((issueJump_runs on _).trans (if_pos (Option.isSome_iff_ne_none.2 band))))

/-- Up to where its context parks, and after that, a forced swap leaves of a tile what its copies' exchange makes of it. -/
theorem forcedSwap_keeps (s : State) : ∃ u, KeepsTiles Tile.uncounted (s.modCurTile fun x => (discarded s.curTile x).exchange) u ∧
    KeepsTiles Tile.uncounted (u.modCur fun c => { c with run := .parked, retired := c.retired + 1 }) (forcedSwap s) := by
  refine ⟨(s.modCurTile (discarded s.curTile)).exchangeTile s.here, ?_, (KeepsTiles.resetCredits _ _).uncounted⟩
  have swaps := exchangeTile_keeps (s.modCurTile (discarded s.curTile)) s.here
  rw [State.modCurTile, State.modTile_modTile] at swaps
  exact swaps.uncounted

/-- A part of the tile that has swapped, apart from its contexts. -/
theorem forcedSwap_tile {β : Type} (s : State) (q : Tile → β) (blind : ∀ x, q x.uncounted = q x) (other : ∀ x k c, q (x.setCtx k c) = q x) :
    q (forcedSwap s).curTile = q (discarded s.curTile s.curTile).exchange := by
  obtain ⟨u, swaps, parks⟩ := forcedSwap_keeps s
  have parked : q (u.modCur fun c => { c with run := .parked, retired := c.retired + 1 }).curTile = q u.curTile := by
    exact (congrArg q (State.curTile_modCurTile u _)).trans (other _ _ _)
  rw [parks.curPart q blind, parked, swaps.curPart q blind, State.curTile_modCurTile]

/-- The issuing context parks where it is, and its `cfgswap` counts as retired. -/
theorem forcedSwap_cur (s : State) : (forcedSwap s).cur.run = .parked ∧ (forcedSwap s).cur.pc = s.cur.pc ∧ (forcedSwap s).cur.retired = s.cur.retired + 1 := by
  obtain ⟨u, swaps, parks⟩ := forcedSwap_keeps s
  have exchanged : (s.modCurTile fun x => (discarded s.curTile x).exchange).cur = s.cur.configured s.curTile.cfgShadow.unpaired s.ctx := by
    obtain ⟨-, -, -, -, -, -, -, ctxs, -⟩ := exchange_eq (discarded s.curTile s.curTile)
    exact (congrArg (fun x : Tile => x.ctxs[s.ctx]) (State.curTile_modCurTile s _)).trans (ctxs s.ctx)
  refine ⟨?_, ?_, ?_⟩
  · rw [parks.reads Ctx.run, State.cur_modCur]
  · rw [parks.reads Ctx.pc, State.cur_modCur, swaps.reads Ctx.pc, exchanged]
    rfl
  · rw [parks.reads Ctx.retired, State.cur_modCur, swaps.reads Ctx.retired, exchanged]
    rfl

/-- Settles O42: an instruction on reels by where it is issued and what its operands give; `cfgswap` by what its parts leave of a tile. -/
theorem reelInstructions : Obligations.ReelInstructions := by
  intro g o s runs
  refine ⟨fun r region unfaulted => ?scroll, fun r f region reel => ⟨_, exec_scrollQ runs region reel, wroteS_writeS _ _ _⟩,
    fun b r f band region reel => ⟨fun performed => ⟨_, exec_stsave_band runs band region reel performed, rfl⟩, ⟨_, exec_stload_band runs band region reel, rfl⟩⟩,
    fun other untrapped i mem => ⟨_, exec_copy_other runs other i mem, trapped_trapOpen untrapped _⟩, fun allowed => ⟨?cfgw, ?swap, fun band untrapped =>
      ⟨_, exec_cfgswap_band allowed runs.2 band, trapped_trapOpen untrapped _⟩⟩⟩
  case scroll =>
    intro v b h w aligned high low trains outside first
    exact ⟨_, exec_scroll runs region unfaulted aligned ⟨high, low, trains⟩ outside first, rfl⟩
  case cfgw =>
    intro e room b cap output opens a aligned owned sound acquired unheld unforwarded undrained fits
    exact ⟨_, exec_cfgw runs allowed output opens aligned owned sound acquired unheld unforwarded undrained fits, rfl⟩
  case swap =>
    intro outside idle nothing drained taken
    refine ⟨_, exec_cfgswap allowed runs.2 outside idle nothing drained taken, ?_⟩
    obtain ⟨cfg, shadow, store, storeShadow, scratch, -⟩ := exchange_eq (discarded s.curTile s.curTile)
    have tile {β : Type} (q : Tile → β) (blind : ∀ x, q x.uncounted = q x) (other : ∀ x k c, q (x.setCtx k c) = q x) :
        q (forcedSwap s).curTile = q (discarded s.curTile s.curTile).exchange := forcedSwap_tile s q blind other
    obtain ⟨run, pc, retired⟩ := forcedSwap_cur s
    exact ⟨(tile Tile.cfg (fun _ => rfl) fun _ _ _ => rfl).trans cfg, (tile Tile.cfgShadow (fun _ => rfl) fun _ _ _ => rfl).trans shadow,
      (tile Tile.store (fun _ => rfl) fun _ _ _ => rfl).trans store, (tile Tile.storeShadow (fun _ => rfl) fun _ _ _ => rfl).trans storeShadow,
      run, pc, retired, (tile Tile.scratch (fun _ => rfl) fun _ _ _ => rfl).trans scratch⟩

end Sys2Proof

/-! Regions that pause, are evicted and resume (R390-R394). -/

namespace Sys2Proof

open Sys2Proof.Machine

/-! The snapshot of a tile (R392). -/

section Snapshot

variable {s : State} {t : TileId} {r : Region} {ev : Option Nat} {node : BitVec 12} {tag : BitVec 32} (region : s.regionOf t = some r)
  (pausing : r.phase = .pausing ev node tag) (unsnapped : (s.tile t).snapped = false)
include region pausing unsnapped

omit unsnapped in
theorem pausing_of : s.pausing t = true := by simp only [State.pausing, region, Option.map_some, pausing]

/-- A tile that cannot snapshot yet stops issuing. -/
theorem exec_tileSnapshot_stops (busy : s.canSnapshot t = false) (going : (s.tile t).stopping = false) :
    exec (.tileSnapshot t) s = .next (s.modTile t fun x => { x with stopping := true }) := by
  show execTileSnapshot t s = _
  simp only [execTileSnapshot, pausing_of region pausing, unsnapped, busy, going]
  rfl

/-- The state in which a tile has snapshot, before MARK goes out of it. -/
def snapshotTaken (s : State) (t : TileId) : State :=
  let v := (s.dropWalkers [t] []).modTile t Tile.snapshot
  { v with dies := v.dies.map fun d => { d with poolWaits := d.poolWaits.filter fun o => o.tile ≠ t } }

theorem exec_tileSnapshot_snapshots (through : s.canSnapshot t = true) :
    exec (.tileSnapshot t) s = .next ((s.channelSources t).foldl (fun s e => s.launch t e ⟨0, 9, .direct⟩) (snapshotTaken s t)) := by
  show execTileSnapshot t s = _
  simp only [execTileSnapshot, pausing_of region pausing, unsnapped, through]
  rfl

end Snapshot

/-- A tile that has stopped starts no task. -/
theorem exec_dispatch_stopping {s : State} {t : TileId} (c : Fin 4) (stopping : (s.tile t).stopping = true) : exec (.dispatch t c) s = .next s.stall :=
  congrArg Host.Outcome.next (if_neg (by simp [stopping]))

/-! The end of a pause or an eviction (R391). -/

theorem tiles_purgePeers (s : State) (r : Region) : (s.purgePeers r).tiles = s.tiles :=
  List.foldlRecOn (motive := fun u : State => u.tiles = s.tiles) _ _ rfl fun _ kept _ _ => kept

/-- A region's requests, walks and beacons purged, and its transfers suspended (R260, R391). -/
def regionSuspended (s : State) (r : Region) : State :=
  let ids := (s.xfers.filter fun x => x.region == r.number && x.gen == r.gen).map (·.id)
  let v := (((s.dropWalkers r.tiles ids).purgePeers r).mapXfers r Transfer.suspended).forgetXfers r true
  { v with beacons := v.beacons.filter fun b => !r.tiles.contains b.tile, beaconsOut := v.beaconsOut.filter fun b => !r.tiles.contains b.tile }

theorem regionSuspended_tiles (s : State) (r : Region) : (regionSuspended s r).tiles = s.tiles := tiles_purgePeers _ r

theorem regionSuspended_beacons (s : State) (r : Region) : ∀ b ∈ (regionSuspended s r).beacons, b.tile ∉ r.tiles := by
  intro b mem
  have left := (List.mem_filter.1 mem).2
  simpa using left

section Complete

variable {s : State} {r : Region} {ev : Option Nat} {node : BitVec 12} {tag : BitVec 32} (region : s.region r.number = some r)
  (pausing : r.phase = .pausing ev node tag) (parts : ∀ t ∈ r.tiles, s.tilePart t = true) (engines : s.enginesDone r = true)
  (free : ∀ a, ev = some a → s.imageHeld (s.images r) a = false)
include region pausing parts engines free

/-- Once every part is complete the region is paused in place, or evicted, and the command answered. -/
theorem exec_snapshotComplete : exec (.snapshotComplete r.number) s = .next (match ev with
    | none => ((regionSuspended s r).modRegion r.number fun r => { r with phase := .paused }).respond node tag 0x31 0 []
    | some a => ((regionSuspended s r).evictTiles r a).respond node tag 0x32 0 []) := by
  have all : r.tiles.all s.tilePart = true := List.all_eq_true.2 parts
  show execSnapshotComplete r.number s = _
  unfold execSnapshotComplete
  simp only [region, pausing, all, engines]
  cases ev with
  | none => rfl
  | some a =>
    simp only [free a rfl]
    rfl

end Complete

/-! The restore (R394). -/

section Restore

variable {s : State} {r : Region} {save : Nat} {node : BitVec 12} {tag : BitVec 32} (region : s.region r.number = some r)
  (restoring : r.phase = .restoring save true node tag)
include region restoring

/-- An image that cannot be read back ends the region (R393). -/
theorem exec_regionRestore_bad (evicted : r.saved ≠ []) (free : s.imageHeld r.saved save = false) (bad : s.imageGood r save = false) :
    exec (.regionRestore r.number) s = .next (s.regionFault r.number ⟨Cause.poison, 4, 0, 0, 0, 0⟩) := by
  have away : r.saved.isEmpty = false := by simpa using evicted
  show execRegionRestore r.number s = _
  unfold execRegionRestore
  simp only [region, restoring, away, free, bad]
  rfl

/-- A region's tiles awake, each at the clock of its die, with the credits of their channels. -/
def regionAwake (s : State) (r : Region) : State :=
  r.tiles.foldl State.recredit (r.tiles.foldl (fun s t => s.modTile t (·.resumed s.dies[t.dieIx].clock)) s)

/-- The state in which a region that was paused in place runs again. -/
def regionResumed (s : State) (r : Region) : State :=
  let w := regionAwake s r
  let w := (w.modRegion r.number fun r => { r with phase := .running, reel := r.reel.map fun f => { f with
    entryCredits := if f.laid then 15 - ((w.tile (r.slotTile f 0 0 0)).sink 31).credited else 0 } }).resubmitAll r
  (r.tiles.foldl State.rewake (w.rewatch r)).forgetXfers r false

theorem exec_regionRestore_inPlace (kept : r.saved = []) :
    exec (.regionRestore r.number) s = .next ((regionResumed s r).respond node tag 0x33 0 []) := by
  show execRegionRestore r.number s = _
  unfold execRegionRestore
  simp only [region, restoring, kept]
  simp only [List.isEmpty_nil, Bool.not_true, Bool.false_and, Bool.false_eq_true, if_false, region]
  rfl

end Restore

/-- Settles O52, by the phase of the region and what of it is complete. -/
theorem regionsPauseAndResume : Obligations.RegionsPauseAndResume := by
  intro s
  refine ⟨fun t r ev node tag region pausing unsnapped => ⟨fun busy going => ?stops, fun through => ?snapshots⟩,
    fun t c stopping => exec_dispatch_stopping c stopping, fun r node tag ev region pausing parts engines free => ?complete,
    fun r save node tag region restoring => ⟨fun evicted free bad => ⟨_, exec_regionRestore_bad region restoring evicted free bad, rfl⟩,
      fun kept => ⟨_, exec_regionRestore_inPlace region restoring kept, rfl⟩⟩⟩
  case stops =>
    exact ⟨_, exec_tileSnapshot_stops region pausing unsnapped busy going, rfl, memorySame_modTile s t fun _ => rfl⟩
  case snapshots =>
    exact ⟨_, exec_tileSnapshot_snapshots region pausing unsnapped through, rfl⟩
  case complete =>
    refine ⟨_, exec_snapshotComplete region pausing parts engines free, regionSuspended s r, regionSuspended_tiles s r, regionSuspended_beacons s r, ?_, ?_⟩
    · rintro rfl
      rfl
    · rintro a rfl
      rfl

end Sys2Proof

/-! What arrives over Dyfold: requests, answers, circuits, and a bridge's replays (R399, R406-R418). -/

namespace Sys2Proof

open Sys2Proof.Machine

/-! Requests at ingress (R414, R415). -/

theorem noteBale_eq (h : Hub) (bale : Option (BitVec 12 × Word)) (node : BitVec 12) (p : Fin 32) :
    ∃ via, h.noteBale bale node p = { h with baleVia := via } := by
  unfold Hub.noteBale
  split
  · exact ⟨h.baleVia, rfl⟩
  · split
    · exact ⟨h.baleVia, rfl⟩
    · exact ⟨_, rfl⟩

section Refused

variable (s : State) (node : BitVec 12) {q : PeerRequest} (cause : BitVec 8) (reason mark : Nat)

theorem refuseRequest_tagged {tag : Nat} (tagged : requestTag q = some tag) :
    s.refuseRequest node q cause reason mark = s.tell (.answer node tag (.fail cause reason)) := by
  cases q <;> cases tagged <;> rfl

theorem refuseRequest_baleStore (h : Word) (va n : Nat) (data : BitVec 512) :
    s.refuseRequest node (.baleStore h va n data) cause reason mark =
      s.loftPut (.store node h (⟨0, 0, 0⟩, 0) (.hbm 0) n data (some mark) none) := rfl

end Refused

/-- Whether an entry of the access table names an address for a stream. -/
def accessNames (r : StreamRec) (e : AccessEntry) (va : Nat) : Prop := e.v = true ∧ e.srcNode = r.srcNode ∧ e.srcTenant = r.tenant ∧
  e.base / 2 ^ 16 ≤ va / 2 ^ 16 ∧ va / 2 ^ 16 < e.base / 2 ^ 16 + e.pages

theorem admits_iff {r : StreamRec} {e : AccessEntry} {va : Nat} : e.admits r.srcNode r.tenant va = true ↔ accessNames r e va := by
  simp [AccessEntry.admits, accessNames, and_assoc]

/-- The first number of a range at which something is found. -/
theorem findSome?_range_first {α : Type} {f : Nat → Option α} {i : Nat} {a : α} (found : f i = some a) (first : ∀ j < i, f j = none) {n : Nat} (bound : i < n) :
    (List.range n).findSome? f = some a := by
  induction n with
  | zero => exact absurd bound (Nat.not_lt_zero i)
  | succ n ih =>
    rw [List.range_succ, List.findSome?_append]
    rcases Nat.lt_or_eq_of_le (Nat.le_of_lt_succ bound) with below | rfl
    · rw [ih below]
      rfl
    · have none : (List.range i).findSome? f = none := List.findSome?_eq_none_iff.2 fun j mem => first j (List.mem_range.1 mem)
      simp [none, found]

section Admission

variable {h : Hub} {r : StreamRec} {va : Nat}

theorem admission_none (unnamed : ∀ i < 1024, ∀ e, lookupKey i h.access = some e → ¬ accessNames r e va) : h.admission r.srcNode r.tenant va = none := by
  refine List.findSome?_eq_none_iff.2 fun i mem => ?_
  have bound : i < 1024 := List.mem_range.1 mem
  split
  · next e entry => exact if_neg (mt admits_iff.1 (unnamed i bound e entry))
  · rfl

/-- The first entry that names the address decides. -/
theorem admission_first {i : Nat} {e : AccessEntry} (bound : i < 1024) (entry : lookupKey i h.access = some e) (named : accessNames r e va)
    (first : ∀ j < i, ∀ d, lookupKey j h.access = some d → ¬ accessNames r d va) : h.admission r.srcNode r.tenant va = some e := by
  refine findSome?_range_first ?_ (fun j below => ?_) bound
  · simp only [entry, admits_iff.2 named, if_true]
  · split
    · next d before => exact if_neg (mt admits_iff.1 (first j below d before))
    · rfl

end Admission

/-- The right that a request asks of an entry (R415). -/
def requestRight (e : AccessEntry) (q : PeerRequest) : Bool :=
  match q with
  | .read _ _ _ => e.rd
  | .write _ _ _ _ => e.w
  | .atomic _ _ _ _ _ _ | .call _ _ _ _ => e.a
  | _ => e.b

theorem grants_of_va {q : PeerRequest} {va : Nat} (addressed : requestVa q = some va) (e : AccessEntry) : e.grants q = requestRight e q := by
  cases q <;> cases addressed <;> rfl

section Ingress

variable {s : State} {r : StreamRec} {cls : Nat} {q : PeerRequest} {va : Nat} (addressed : requestVa q = some va)
include addressed

theorem ingress_unnamed (unnamed : s.hub.admission r.srcNode r.tenant va = none) :
    s.ingress r cls q = s.refuseRequest r.srcNode q Cause.perm 10 3 := by
  cases q <;> cases addressed <;> unfold State.ingress <;> simp only [requestVa] <;> rw [unnamed]

variable {e : AccessEntry} (named : s.hub.admission r.srcNode r.tenant va = some e)
include named

/-- What an entry does with a request that it names. -/
theorem ingress_named : s.ingress r cls q = if requestRight e q = false then s.refuseRequest r.srcNode q Cause.perm 10 3
    else if s.walkHeld e.locAsid va then s.deferWalk r cls e q
    else match s.mem.requestLeaf e.locAsid va q with
      | .error f => s.refuseRequest r.srcNode q f.1 f.2.1 f.2.2
      | .ok leaf => s.admitRequest r cls e.locTenant e.locAsid q (some (leaf.target va, leaf.wo, leaf.span)) := by
  rw [← grants_of_va addressed e]
  cases q <;> cases addressed <;> unfold State.ingress <;> simp only [requestVa] <;> rw [named] <;> simp only [Bool.not_eq_true'] <;> rfl

end Ingress

/-! What the walk of a request gives (R415). -/

section RequestLeaf

variable {g : Global} {asid : BitVec 16} {va : Nat} {q : PeerRequest}

theorem requestLeaf_poison {l : Nat} (walks : walk g asid va = .error (.poison l)) : g.requestLeaf asid va q = .error (Cause.poison, 0, 10) := by
  simp only [Global.requestLeaf, walks]

theorem requestLeaf_xlate {reason l : Nat} (walks : walk g asid va = .error (.xlate reason l)) :
    g.requestLeaf asid va q = .error (Cause.xlate, reason, 1) := by
  simp only [Global.requestLeaf, walks]

variable {leaf : Leaf} (walks : walk g asid va = .ok leaf)
include walks

theorem requestLeaf_remote (away : leaf.base.isRemote = true) : g.requestLeaf asid va q = .error (Cause.xlate, 1, 1) := by
  simp only [Global.requestLeaf, walks, away, if_true]

variable (near : leaf.base.isRemote = false)
include near

theorem requestLeaf_refused {reason : Nat} (refuses : leaf.refuses (requestAccess q) true = some reason) :
    g.requestLeaf asid va q = .error (Cause.perm, reason, 2) := by
  simp only [Global.requestLeaf, walks, near, refuses]
  rfl

theorem requestLeaf_ok (permits : leaf.refuses (requestAccess q) true = none) : g.requestLeaf asid va q = .ok leaf := by
  simp only [Global.requestLeaf, walks, near, permits]
  rfl

end RequestLeaf

/-- A request that is answered goes to where it performs, in the order of its arrival. -/
theorem admitRequest_tagged (s : State) (r : StreamRec) (cls : Nat) (tenant : BitVec 12) (asid : BitVec 16) {q : PeerRequest} {tag : Nat}
    (tagged : requestTag q = some tag) (at' : Target × Bool × Span) : s.admitRequest r cls tenant asid q (some at') = { s with
      nextSeq := s.nextSeq + 1
      hub := { s.hub with
        nextIn := s.hub.nextIn + 1
        inbound := s.hub.inbound ++ [{ n := s.hub.nextIn, node := r.srcNode, region := r.region, gen := r.gen, asid := asid, tenant := tenant, req := q
                                       tgt := at'.1, wo := at'.2.1, deferred := false, order := s.nextSeq, span := at'.2.2, cls := cls, unwalked := false }] } } := by
  cases q <;> cases tagged <;> rfl

/-! The first flit of a port a request, a circuit's credits or its entries (R406, R417, R418). -/

section FirstFlit

variable {s : State} {p : Fin 32} {f : BitVec 512} {rest : List (BitVec 512)} (first : (s.hub.ports[p]).rx = f :: rest)

/-- The state in which a request of a stream is looked at: its flit has left the port, and the port carries its bale's traffic. -/
def requestTaken (s : State) (p : Fin 32) (rest : List (BitVec 512)) (r : StreamRec) (q : PeerRequest) : State :=
  WithHub (flitTaken s p rest) fun h => h.noteBale (baleOf r.srcNode q) r.srcNode p

theorem requestTaken_hub (s : State) (p : Fin 32) (rest : List (BitVec 512)) (r : StreamRec) (q : PeerRequest) : ∃ via,
    (requestTaken s p rest r q).hub = { s.hub.modPort p fun x => { x with rx := rest } with baleVia := via } :=
  noteBale_eq _ _ _ _

theorem requestTaken_nextIn (s : State) (p : Fin 32) (rest : List (BitVec 512)) (r : StreamRec) (q : PeerRequest) :
    (requestTaken s p rest r q).hub.nextIn = s.hub.nextIn := by
  obtain ⟨via, hub⟩ := requestTaken_hub s p rest r q
  rw [hub]
  rfl

theorem requestTaken_inbound (s : State) (p : Fin 32) (rest : List (BitVec 512)) (r : StreamRec) (q : PeerRequest) :
    (requestTaken s p rest r q).hub.inbound = s.hub.inbound := by
  obtain ⟨via, hub⟩ := requestTaken_hub s p rest r q
  rw [hub]
  rfl

theorem requestTaken_walkHeld (s : State) (p : Fin 32) (rest : List (BitVec 512)) (r : StreamRec) (q : PeerRequest) (asid : BitVec 16) (va : Nat) :
    (requestTaken s p rest r q).walkHeld asid va = s.walkHeld asid va := by
  obtain ⟨via, hub⟩ := requestTaken_hub s p rest r q
  unfold State.walkHeld State.lineHeld
  rw [hub]
  rfl

theorem requestTaken_admission (s : State) (p : Fin 32) (rest : List (BitVec 512)) (r : StreamRec) (q : PeerRequest) (node tenant : BitVec 12) (va : Nat) :
    (requestTaken s p rest r q).hub.admission node tenant va = s.hub.admission node tenant va := by
  obtain ⟨via, hub⟩ := requestTaken_hub s p rest r q
  rw [hub]
  rfl

/-- A stream is open at the port after its flit has left it if it was before. -/
theorem headStream_taken (s : State) (p : Fin 32) (rest : List (BitVec 512)) (f : BitVec 512) :
    (flitTaken s p rest).headStream p f = (lookupKey (flitStream f) (s.hub.ports[p]).streams).filter fun r => r.ver == flitVer f := by
  rw [State.headStream, flitTaken_port]

include first

theorem dataFlit_open {r : StreamRec} (is : flitKind f = 2) (opened : lookupKey (flitStream f) (s.hub.ports[p]).streams = some r) (current : r.ver = flitVer f)
    (up : s.power ≠ .recovery) (q : PeerRequest) {v : State} (enters : (requestTaken s p rest r q).ingress r (flitClass f) q = v) :
    Completes (.dataFlit p q) s fun t => t = v.absorb p := by
  refine acts_onFlit first is rfl ?_
  have head : (flitTaken s p rest).headStream p f = some r := by
    rw [headStream_taken, opened]
    simp [current]
  simp only [head]
  exact (if_neg up).trans enters

theorem dataFlit_closed (is : flitKind f = 2) (q : PeerRequest)
    (closed : ∀ r, lookupKey (flitStream f) (s.hub.ports[p]).streams = some r → r.ver ≠ flitVer f) :
    Completes (.dataFlit p q) s fun t => t = (WithHub s fun h => h.modPort p fun x => { x with rx := rest, drops := x.drops + 1 }).absorb p := by
  refine acts_onFlit first is rfl ?_
  have head : (flitTaken s p rest).headStream p f = none := by
    rw [headStream_taken]
    refine Option.filter_eq_none_iff.2 fun r opened => ?_
    simpa using closed r opened
  simp only [head]
  exact withPort_withPort p s rfl

section Circuit

variable {k : Fin 64} {c : Circuit} (circuit : lookupKey k.val s.hub.circuits = some c)
include circuit

theorem creditFlit_source (is : flitKind f = 6) (n : Nat) {t : TileId} {e : Nat} (source : c.source = some (t, e)) : Completes (.creditFlit p k n) s fun v =>
    v = ((flitTaken s p rest).modTile t (·.modSource e fun y => { y with credits := y.credits + n })).absorb p := by
  refine acts_onFlit first is rfl ?_
  have circuit' : lookupKey k.val (flitTaken s p rest).hub.circuits = some c := circuit
  simp only [circuit', source]

theorem creditFlit_away (is : flitKind f = 6) (n : Nat) (sourceless : c.source = none) (away : s.endAway k.val false = true) :
    Completes (.creditFlit p k n) s fun v =>
      v = State.absorb (WithHub (flitTaken s p rest) fun h => h.modCircuit k.val fun c => { c with heldCredits := c.heldCredits + n }) p := by
  refine acts_onFlit first is rfl ?_
  have circuit' : lookupKey k.val (flitTaken s p rest).hub.circuits = some c := circuit
  have away' : (flitTaken s p rest).endAway k.val false = true := away
  simp only [circuit', sourceless, away', if_true]
  rfl

theorem circFlit_elsewhere (is : flitKind f = 8) (other : c.port ≠ p) :
    Completes (.circFlit p k) s fun w => w = (WithHub s fun h => h.modPort p fun x => { x with rx := rest, drops := x.drops + 1 }).absorb p := by
  refine acts_onFlit first is rfl ?_
  have circuit' : lookupKey k.val (flitTaken s p rest).hub.circuits = some c := circuit
  simp only [circuit']
  exact (if_pos other).trans (withPort_withPort p s rfl)

/-- How many entries a flit of a circuit holds, which is open (log entry 32). -/
def circCount (s : State) : Nat := (s.pick 6).1 + 1

omit first circuit in
theorem circCount_bounds (s : State) : 1 ≤ circCount s ∧ circCount s ≤ 6 :=
  ⟨Nat.succ_le_succ (Nat.zero_le _), Nat.mod_lt _ (by decide)⟩

theorem circFlit_sink (is : flitKind f = 8) (bound : c.port = p) {t : TileId} {j : Nat} (sink : c.sink = some (t, j)) : Completes (.circFlit p k) s fun w =>
    w = State.absorb (({ flitTaken s p rest with picks := s.picks + 1 } : State).modTile t
      (·.modSink j fun y => { y with inflight := y.inflight ++ circEntries f (circCount s) })) p := by
  refine acts_onFlit first is rfl ?_
  have circuit' : lookupKey k.val (flitTaken s p rest).hub.circuits = some c := circuit
  simp only [circuit', sink]
  exact if_neg (not_not.2 bound)

theorem circFlit_away (is : flitKind f = 8) (bound : c.port = p) (sinkless : c.sink = none) (away : s.endAway k.val true = true) :
    Completes (.circFlit p k) s fun w => w = State.absorb (WithHub { flitTaken s p rest with picks := s.picks + 1 } fun h =>
      h.modCircuit k.val fun c => { c with heldEntries := c.heldEntries ++ circEntries f (circCount s) }) p := by
  refine acts_onFlit first is rfl ?_
  have circuit' : lookupKey k.val (flitTaken s p rest).hub.circuits = some c := circuit
  have away' : ((flitTaken s p rest).pick 6).2.endAway k.val true = true := away
  simp only [circuit', sinkless]
  exact (if_neg (not_not.2 bound)).trans (if_pos away')

end Circuit

end FirstFlit

/-! Requests under way at another package (R409, R413, R416). -/

section Remote

variable {s : State}

/-- HOLD does not purge the request of a region that still is there, nor one that writes. -/
theorem happens_hold {rid : Nat} (stays : ∀ r, s.hub.remote.find? (fun q => q.rid == rid) = some r → r.writes = true ∨ s.askerGone r = false) :
    Happens (.hold rid) s fun t =>
      t = WithHub s fun h => { h with remote := h.remote.map fun r => if r.rid = rid then { r with held := true } else r } := by
  show ∃ t, execHold rid s = .next t ∧ _
  unfold execHold
  split
  · next unknown =>
    refine ⟨s, rfl, rfl, ?_⟩
    have same : s.hub.remote.map (fun r => if r.rid = rid then { r with held := true } else r) = s.hub.remote := by
      refine (List.map_congr_left fun r mem => if_neg ?_).trans (List.map_id' _)
      simpa using List.find?_eq_none.1 unknown r mem
    rw [WithHub, same]
  · next r found =>
    have keeps : ¬ (!r.writes && s.askerGone r) = true := by
      rcases stays r found with writes | there
      · simp [writes]
      · simp [there]
    exact ⟨_, if_neg keeps, rfl, rfl⟩

theorem remoteResponse_unknown {rid : Nat} (a : RemoteAnswer) (unknown : ∀ r ∈ s.hub.remote, r.rid ≠ rid) :
    Happens (.remoteResponse rid a) s fun t => t = s := by
  have none : s.hub.remote.find? (fun r => r.rid == rid) = none := List.find?_eq_none.2 fun r mem => by simpa using unknown r mem
  refine ⟨s, ?_, rfl, rfl⟩
  show execRemoteResponse rid a s = _
  simp only [execRemoteResponse, none]

variable {r : RemoteReq} (found : s.hub.remote.find? (fun q => q.rid == r.rid) = some r)
include found

theorem remoteResponse_sent (a : RemoteAnswer) {p : Fin 32} (sent : r.place = .sent p) :
    Completes (.remoteResponse r.rid a) s fun t => t = s.finishRemote r a := by
  refine ⟨_, ?_, rfl⟩
  show execRemoteResponse r.rid a s = _
  simp only [execRemoteResponse, found, sent]

theorem remoteResponse_early (a : RemoteAnswer) (early : ∀ p, r.place ≠ .sent p) : Happens (.remoteResponse r.rid a) s fun t => t = s := by
  refine ⟨s, ?_, rfl, rfl⟩
  show execRemoteResponse r.rid a s = _
  simp only [execRemoteResponse, found]

theorem exec_remoteTimeoutExpiry :
    exec (.remoteTimeoutExpiry r.rid) s = if s.timedOut r then .next (s.finishRemote r (.fail Cause.fabric 0)) else .next s.stall := by
  show execRemoteTimeoutExpiry r.rid s = _
  simp only [execRemoteTimeoutExpiry, found]
  rfl

end Remote

/-! A bridge's replays (R399). -/

section Bridge

variable {s : State} {b : Nat}

theorem bridgeDies_some (bridge : b < 10) : (bridgeDies b).isNone = false := by
  by_cases row : b < 6
  · simp [bridgeDies, row]
  · simp [bridgeDies, row, bridge]

/-- The replays of the flit at hand, the failed one among them: whether it is another flit than before is open (log entry 33). -/
def bridgeReplays (s : State) (b : Nat) : Nat := (if (s.pick 2).1 = 1 then 0 else (lookupKey b s.hub.bridges).getD 0) + 1

theorem bridgeReplays_cases (s : State) (b : Nat) : bridgeReplays s b = 1 ∨ bridgeReplays s b = (lookupKey b s.hub.bridges).getD 0 + 1 := by
  unfold bridgeReplays
  split
  · exact .inl rfl
  · exact .inr rfl

/-- A bridge's count with a pick made. -/
def bridgeCounts (s : State) (b n : Nat) : State := WithHub { s with picks := s.picks + 1 } fun h => { h with bridges := putKey b n h.bridges }

theorem exec_bridgeReplay_again (bridge : b < 10) (few : bridgeReplays s b < 16) :
    exec (.bridgeReplay b) s = .next (bridgeCounts s b (bridgeReplays s b)) := by
  show execBridgeReplay b s = _
  unfold execBridgeReplay
  exact (if_neg (by rw [bridgeDies_some bridge]; decide)).trans (if_pos few)

theorem exec_bridgeReplay_fault (bridge : b < 10) (many : ¬ bridgeReplays s b < 16) {v : State}
    (drops : v = WithHub { s with picks := s.picks + 1 } fun h => { h with bridges := dropKey b h.bridges }) : exec (.bridgeReplay b) s =
      .next ((v.entryRegions b ++ v.packetRegions b).dedup.foldl (fun s r => s.regionFault r ⟨Cause.fabric, 5, 0, 0, 0, 0⟩) v) := by
  subst drops
  show execBridgeReplay b s = _
  unfold execBridgeReplay
  exact (if_neg (by rw [bridgeDies_some bridge]; decide)).trans (if_neg many)

end Bridge

/-- Settles O50: a request is looked at in the state that its flit's leaving the port gives, whose access table, walks and bales are those before. -/
theorem dyfoldTrafficArrives : Obligations.DyfoldTrafficArrives := by
  intro s
  refine ⟨fun p f rest first => ?flit, fun rid stays => happens_hold stays, fun r found => ?remote, fun rid a unknown => remoteResponse_unknown a unknown,
    fun b bridge => ?bridge⟩
  case remote =>
    refine ⟨fun a p sent => remoteResponse_sent found a sent, fun a early => remoteResponse_early found a early, fun late => ⟨_, ?_, rfl⟩, fun early => ?_⟩
    · rw [exec_remoteTimeoutExpiry found, if_pos late]
    · rw [Stalls, exec_remoteTimeoutExpiry found, if_neg (by simp [early])]
  case bridge =>
    intro n u v
    refine ⟨fun few => ⟨_, exec_bridgeReplay_again bridge ?_, _, bridgeReplays_cases s b, rfl⟩, fun many => ?_⟩
    · rcases bridgeReplays_cases s b with one | next <;> omega
    · by_cases again : bridgeReplays s b < 16
      · have one : bridgeReplays s b = 1 := by
          rcases bridgeReplays_cases s b with one | next
          · exact one
          · omega
        exact ⟨_, exec_bridgeReplay_again bridge again, .inl (by rw [one]; rfl)⟩
      · exact ⟨_, exec_bridgeReplay_fault bridge again rfl, .inr rfl⟩
  case flit =>
    intro x u dropped
    refine ⟨fun is q => ⟨fun r opened current up => ?data, fun unopened => dataFlit_closed first is q fun r opened => absurd opened (by rw [unopened]; nofun),
        fun r opened other => dataFlit_closed first is q fun d same => ?other⟩,
      fun is k n c circuit => ⟨fun t e source => creditFlit_source first circuit is n source,
        fun sourceless away => creditFlit_away first circuit is n sourceless away⟩,
      fun is k c circuit => ⟨fun bound => ⟨fun t j sink => ?_, fun sinkless away => ?_⟩, fun other => circFlit_elsewhere first circuit is other⟩⟩
    case other =>
      obtain rfl : r = d := Option.some.inj (opened.symm.trans same)
      exact other
    case data =>
      intro w gives refused named
      have enters {v : State} (into : (requestTaken s p rest r q).ingress r (flitClass f) q = v) : gives v :=
        dataFlit_open first is opened current up q into
      have refuses {cause : BitVec 8} {reason mark : Nat}
          (into : (requestTaken s p rest r q).ingress r (flitClass f) q = (requestTaken s p rest r q).refuseRequest r.srcNode q cause reason mark) :
          refused cause reason mark :=
        ⟨fun tag tagged => enters (into.trans (refuseRequest_tagged _ _ _ _ _ tagged)), fun h va n data is => by
          subst is
          exact enters (into.trans (refuseRequest_baleStore _ _ _ _ _ h va n data))⟩
      refine ⟨?sealed, ?decision, ?purge, fun va addressed => ⟨fun unnamed => ?unnamed, fun i e bound entry names earlier => ?named⟩⟩
      case sealed => rintro h n rfl; exact enters rfl
      case decision => rintro h c rfl; exact enters rfl
      case purge => rintro n gen rfl; exact enters rfl
      case unnamed =>
        exact refuses (ingress_unnamed addressed ((requestTaken_admission ..).trans (admission_none unnamed)))
      case named =>
        intro right
        have looks := ingress_named (cls := flitClass f) addressed ((requestTaken_admission s p rest r q ..).trans (admission_first bound entry names earlier))
        rw [requestTaken_walkHeld] at looks
        refine ⟨fun lacks => refuses (looks.trans (if_pos lacks)), fun has held => ?deferred, fun has free => ?walks⟩
        case deferred =>
          exact enters (looks.trans ((if_neg (by rw [show requestRight e q = true from has]; decide)).trans (if_pos held)))
        case walks =>
          have walks := looks.trans ((if_neg (by rw [show requestRight e q = true from has]; decide)).trans (if_neg (by rw [free]; decide)))
          have fails {cause : BitVec 8} {reason mark : Nat} (error : s.mem.requestLeaf e.locAsid va q = .error (cause, reason, mark)) :
              refused cause reason mark := refuses (by rw [walks, show (requestTaken s p rest r q).mem = s.mem from rfl, error])
          refine ⟨fun l error => fails (requestLeaf_poison error), fun reason l error => fails (requestLeaf_xlate error), fun leaf ends =>
            ⟨fun away => fails (requestLeaf_remote ends away), fun near reason denies => fails (requestLeaf_refused ends near denies), fun near permits => ?admits⟩⟩
          have admits := walks
          rw [show (requestTaken s p rest r q).mem = s.mem from rfl, requestLeaf_ok ends near permits] at admits
          refine ⟨?_, ?_⟩
          · rintro h n data rfl
            exact enters admits
          · rintro ⟨tag, tagged⟩
            refine enters (admits.trans ((admitRequest_tagged _ _ _ _ _ tagged _).trans ?_))
            rw [requestTaken_nextIn, requestTaken_inbound]
            rfl
    · obtain ⟨least, most⟩ := circCount_bounds s
      obtain ⟨t, does, is⟩ := circFlit_sink first circuit is bound sink
      exact ⟨t, does, _, least, most, is⟩
    · obtain ⟨least, most⟩ := circCount_bounds s
      obtain ⟨t, does, is⟩ := circFlit_away first circuit is bound sinkless away
      exact ⟨t, does, _, least, most, is⟩

end Sys2Proof

/-! The reel laid, and its trains (R340, R344, R346). -/

namespace Sys2Proof

open Sys2Proof.Machine

/-! A region changed. -/

theorem region_modRegion {s : State} {n : Nat} {r : Region} (is : s.region n = some r) {f : Region → Region}
    (same : ∀ x, (f x).number = x.number ∧ (f x).inService = x.inService := by exact fun _ => ⟨rfl, rfl⟩) : (s.modRegion n f).region n = some (f r) := by
  have blind : (fun x : Region => x.number == n && x.inService) ∘ (fun x => if x.number = n && x.inService then f x else x) =
      fun x : Region => x.number == n && x.inService := by
    funext x
    obtain ⟨number, serves⟩ := same x
    by_cases h : (x.number = n && x.inService) = true
    · rw [Function.comp_apply, if_pos h, number, serves]
    · rw [Function.comp_apply, if_neg h]
  obtain ⟨number, serves⟩ : r.number = n ∧ r.inService = true := by simpa using List.find?_some is
  rw [State.region, State.modRegion, List.find?_map, blind, show s.regions.find? (fun x => x.number == n && x.inService) = some r from is]
  simp [number, serves]

/-! Credits of the reel's circuits (R340). -/

/-- A source's channel started with its capacity in credits. -/
def creditSource (s : State) (t : TileId) (e : Nat) : State :=
  match s.reelSinkOf t e with
  | some (u, k) =>
    let cap := (s.tile u).cfg.capacity k
    s.modTile t (·.modSource e fun _ => ⟨cap, 0⟩)
  | none => s

/-- The sources of a band tile's reel circuits. -/
def creditTile (s : State) (t : TileId) : State := ([30, 24, 25, 26, 27, 28, 29] : List Nat).foldl (fun s e => creditSource s t e) s

/-- Whether a source of a reel circuit holds its channel's capacity in credits. -/
def ReelCredited (t : TileId) (e : Nat) (s : State) : Prop :=
  ∀ k j, s.reelSinkOf t e = some (k, j) → (s.tile t).source e = ⟨(s.tile k).cfg.capacity j, 0⟩

/-- Where a reel circuit ends rests on the tiles' places in the reel and on the regions. -/
theorem reelSinkOf_congr {s u : State} (keeps : KeepsTiles Tile.uncounted s u) (regions : u.regions = s.regions) (t : TileId) (e : Nat) :
    u.reelSinkOf t e = s.reelSinkOf t e := by
  have region : u.regionOf t = s.regionOf t := by
    rw [State.regionOf, keeps.part (·.region) t]
    simp only [State.region, regions]
    rfl
  rw [State.reelSinkOf, keeps.part (·.reel) t, region]
  rfl

theorem creditSource_keeps (s : State) (t : TileId) (e : Nat) : KeepsTiles Tile.settled s (creditSource s t e) ∧ (creditSource s t e).regions = s.regions := by
  unfold creditSource
  split
  · exact ⟨KeepsTiles.modTile s t, rfl⟩
  · exact ⟨KeepsTiles.refl s, rfl⟩

/-- What a source's credits should be is not changed by other credits. -/
theorem reelCredited_iff (s : State) (t' : TileId) (e' : Nat) (t : TileId) (e : Nat) : ReelCredited t e (creditSource s t' e') ↔
    ∀ k j, s.reelSinkOf t e = some (k, j) → ((creditSource s t' e').tile t).source e = ⟨(s.tile k).cfg.capacity j, 0⟩ := by
  obtain ⟨keeps, regions⟩ := creditSource_keeps s t' e'
  unfold ReelCredited
  simp only [reelSinkOf_congr keeps.uncounted regions, keeps.uncounted.part (·.cfg)]

theorem reelCredited_creditSource_same (s : State) (t : TileId) (e : Nat) : ReelCredited t e (creditSource s t e) := by
  refine (reelCredited_iff s t e t e).2 fun k j ends => ?_
  simp [creditSource, ends]

theorem reelCredited_creditSource {s : State} {t : TileId} {e : Nat} (h : ReelCredited t e s) (t' : TileId) (e' : Nat) : ReelCredited t e (creditSource s t' e') := by
  by_cases same : t = t' ∧ e = e'
  · obtain ⟨rfl, rfl⟩ := same
    exact reelCredited_creditSource_same s t e
  · refine (reelCredited_iff s t' e' t e).2 fun k j ends => (Eq.trans ?_ (h k j ends))
    unfold creditSource
    split
    · by_cases tile : t = t'
      · subst tile
        rw [State.tile_modTile_same, source_modSource_other _ fun source => same ⟨rfl, source⟩]
      · rw [State.tile_modTile_other _ tile]
    · rfl

theorem reelCredited_creditTile {s : State} {t : TileId} {e : Nat} (h : ReelCredited t e s) (t' : TileId) : ReelCredited t e (creditTile s t') :=
  List.foldlRecOn (motive := ReelCredited t e) _ _ h fun _ h e' _ => reelCredited_creditSource h t' e'

theorem reelCredited_creditTile_same {e : Nat} (least : 24 ≤ e) (most : e < 31) (s : State) (t : TileId) : ReelCredited t e (creditTile s t) := by
  have mem : e ∈ ([30, 24, 25, 26, 27, 28, 29] : List Nat) := by
    simp only [List.mem_cons, List.not_mem_nil, or_false]
    omega
  exact foldl_establishes (I := fun _ => True) (P := ReelCredited t e) mem (fun _ _ _ _ => trivial) (fun s _ => reelCredited_creditSource_same s t e)
    (fun _ e' _ _ h => reelCredited_creditSource h t e') trivial

theorem creditTile_memory (s : State) (t : TileId) : MemorySame s (creditTile s t) := by
  refine memorySame_foldl _ (fun s e => ?_) _ s
  unfold creditSource
  split
  · exact memorySame_modTile s t fun _ => rfl
  · exact MemorySame.refl s

theorem creditTile_regions (s : State) (t : TileId) : (creditTile s t).regions = s.regions :=
  List.foldlRecOn (motive := fun u : State => u.regions = s.regions) _ _ rfl fun u h e _ => (creditSource_keeps u t e).2.trans h

/-! The reel laid (R340, R344). -/

/-- The sinks of a band tile that belong to the reel laid in both copies. -/
def reserveTile (f : Reel) (x : Tile) : Tile :=
  match x.reel with
  | none => x
  | some b => { x with cfg := x.cfg.reserve (f.capAt b), cfgShadow := x.cfgShadow.reserve (f.capAt b) }

/-- The region with its reel as it is laid, and the sinks of its band. -/
def reelReserved (s : State) (r : Region) (f : Reel) : State :=
  (r.bandTiles f).foldl (fun s t => s.modTile t (reserveTile f)) ((s.modRegion r.number fun r => { r with reel := some f }).forgetLines r.owner)

theorem reserveTile_scratch (f : Reel) (x : Tile) : (reserveTile f x).scratch = x.scratch := by
  unfold reserveTile
  split <;> rfl

theorem reelReserved_memory (s : State) (r : Region) (f : Reel) : MemorySame s (reelReserved s r f) :=
  MemorySame.trans (t := (s.modRegion r.number fun r => { r with reel := some f }).forgetLines r.owner) ⟨fun _ => rfl, fun _ => rfl, fun _ _ => rfl⟩
    (memorySame_foldl _ (fun s t => memorySame_modTile s t (reserveTile_scratch f)) _ _)

theorem reelReserved_regions (s : State) (r : Region) (f : Reel) :
    (reelReserved s r f).regions = (s.modRegion r.number fun r => { r with reel := some f }).regions :=
  List.foldlRecOn (motive := fun u : State => u.regions = (s.modRegion r.number fun r => { r with reel := some f }).regions) _ _ rfl fun _ h _ _ => h

/-- The reel of a descriptor and its arcs, as it is laid. -/
def laidReel (d : Reel) (arcs : List Arc) : Reel := { d with arcs := arcs, laid := true, entryCredits := 15 }

theorem layReel_ok {s u : State} {r : Region} {f : Reel} (lays : s.layReel r f = .ok u) : ∃ v d narc tab arcs, s.imageBytes r none f.descriptor 64 = .ok v ∧
    f.described v = some (d, narc, tab) ∧ s.readArcs r d tab narc = .ok arcs ∧
    u = (r.bandTiles d).foldl creditTile (reelReserved s r (laidReel d arcs)) := by
  unfold State.layReel at lays
  split at lays
  · cases lays
  · split at lays
    · cases lays
    · next v bytes =>
      split at lays
      · cases lays
      · next d narc tab described =>
        split at lays
        · cases lays
        · next arcs read =>
          dsimp only at lays
          split at lays
          · cases lays
          · exact ⟨v, d, narc, tab, arcs, bytes, described, read, (Except.ok.inj lays).symm⟩

/-- The laying of a reel: its fields, memory as before, and the credits of its circuits. -/
theorem layReel_lays {s u : State} {r : Region} {f : Reel} (region : s.region r.number = some r) (lays : s.layReel r f = .ok u) :
    ∃ v d narc tab arcs, s.imageBytes r none f.descriptor 64 = .ok v ∧ f.described v = some (d, narc, tab) ∧ s.readArcs r d tab narc = .ok arcs ∧
      (u.region r.number).bind (·.reel) = some (laidReel d arcs) ∧ MemorySame s u ∧
      ∀ t ∈ r.bandTiles d, ∀ e, 24 ≤ e → e < 31 → ReelCredited t e u := by
  obtain ⟨v, d, narc, tab, arcs, bytes, described, read, rfl⟩ := layReel_ok lays
  refine ⟨v, d, narc, tab, arcs, bytes, described, read, ?_, ?_, fun t mem e least most => ?_⟩
  · have regions : ((r.bandTiles d).foldl creditTile (reelReserved s r (laidReel d arcs))).regions =
        (s.modRegion r.number fun r => { r with reel := some (laidReel d arcs) }).regions :=
      List.foldlRecOn (motive := fun u : State => u.regions = (s.modRegion r.number fun r => { r with reel := some (laidReel d arcs) }).regions) _ _
        (reelReserved_regions s r _) fun u h t _ => (creditTile_regions u t).trans h
    have is : ((r.bandTiles d).foldl creditTile (reelReserved s r (laidReel d arcs))).region r.number = some { r with reel := some (laidReel d arcs) } := by
      rw [State.region, regions]
      exact region_modRegion region
    rw [is]
    rfl
  · exact (reelReserved_memory s r _).trans (memorySame_foldl _ creditTile_memory _ _)
  · exact foldl_establishes (I := fun _ => True) (P := ReelCredited t e) mem (fun _ _ _ _ => trivial) (fun s _ => reelCredited_creditTile_same least most s t)
      (fun _ t' _ _ h => reelCredited_creditTile h t') trivial

/-! The feeder (R344-R346). -/

section Feeder

variable {s : State} {r : Region} {f : Reel} (region : s.region r.number = some r) (reel : r.reel = some f) (runs : r.phase = .running)
include region reel runs

theorem exec_feederLoad {slot : Nat} {u : State} (bound : slot < f.b) (lays : f.laid = false → s.layReel r f = .ok u)
    (loads : f.laid = true → (r.slotTiles f slot).findSome? (s.loadAction r f) = some (.ok u)) :
    Completes (.feederLoad r.number slot) s fun t => t = u := by
  refine ⟨u, ?_, rfl⟩
  show execFeederLoad r.number slot s = _
  have feeds : (!r.feeds || decide (f.b ≤ slot)) = false := by simp [Region.feeds, runs, bound]
  simp only [execFeederLoad, region, reel, feeds]
  cases laid : f.laid
  · simp [lays laid]
  · simp [loads laid]

variable (laid : f.laid = true) (left : f.train < f.trains) (credit : 0 < f.entryCredits)
include laid left credit

omit region reel in
theorem feederTrainAppend_may : (!r.feeds || !f.laid || decide (f.trains ≤ f.train) || decide (f.entryCredits = 0)) = false := by
  simp [Region.feeds, runs, laid, left, Nat.pos_iff_ne_zero.1 credit]

theorem exec_feederTrainAppend_word (words : f.trainTail = 0) {v : Nat}
    (reads : s.imageBytes r none (f.trainVa + f.train * f.tstride + f.trainPos).toNat 8 = .ok v) (at' : 0 ≤ (f.trainVa : Int) + f.train * f.tstride + f.trainPos) :
    Completes (.feederTrainAppend r.number) s fun t =>
      let pos := f.trainPos + 8
      let eoi := pos = f.trainBytes ∨ (f.waveBytes ≠ 0 ∧ pos % f.waveBytes = 0)
      t = (s.appendEntryCircuit r f v 0 fun f => { f with trainPos := pos, trainTail := if eoi then 1 else 0 }).forgetLines r.owner := by
  refine ⟨_, ?_, rfl⟩
  show execFeederTrainAppend r.number s = _
  simp only [execFeederTrainAppend, region, reel, feederTrainAppend_may runs laid left credit, words, if_neg (not_lt.2 at'), reads]
  simp
  rfl

theorem exec_feederTrainAppend_eoi (tail : f.trainTail = 1) : exec (.feederTrainAppend r.number) s =
    .next (s.appendEntryCircuit r f 0 5 fun f => { f with trainTail := if f.trainPos = f.trainBytes then 2 else 0 }) := by
  show execFeederTrainAppend r.number s = _
  simp only [execFeederTrainAppend, region, reel, feederTrainAppend_may runs laid left credit, tail]
  rfl

theorem exec_feederTrainAppend_seam (tail : f.trainTail = 2) : exec (.feederTrainAppend r.number) s =
    .next (s.appendEntryCircuit r f 0 11 fun f => { f with train := f.train + 1, trainPos := 0, trainTail := 0 }) := by
  show execFeederTrainAppend r.number s = _
  simp only [execFeederTrainAppend, region, reel, feederTrainAppend_may runs laid left credit, tail]
  rfl

end Feeder

end Sys2Proof

/-! A tile's loads in reel mode (R345, R348). -/

namespace Sys2Proof

open Sys2Proof.Machine

/-! What the frames of a skein leave of a tile (R339, R342). -/

/-- The tile with another shadow copy. -/
structure ShadowOnly (x y : Tile) : Prop where
  reshadowed : ∃ cfg store bad, y = { x with cfgShadow := cfg, storeShadow := store, storeBad := bad }

namespace ShadowOnly

variable {x y z : Tile}

theorem refl (x : Tile) : ShadowOnly x x := ⟨_, _, _, rfl⟩

theorem trans (h : ShadowOnly x y) (k : ShadowOnly y z) : ShadowOnly x z := by
  obtain ⟨cfg, store, bad, rfl⟩ := h
  obtain ⟨cfg', store', bad', rfl⟩ := k
  exact ⟨cfg', store', bad', rfl⟩

/-- A part of the tile outside the shadow copy. -/
theorem part {β : Type} (h : ShadowOnly x y) (q : Tile → β)
    (blind : ∀ x cfg store bad, q { x with cfgShadow := cfg, storeShadow := store, storeBad := bad } = q x := by
    exact fun _ _ _ _ => rfl) : q y = q x := by
  obtain ⟨cfg, store, bad, rfl⟩ := h
  exact blind x cfg store bad

end ShadowOnly

theorem applyFrame_shadow {x y : Tile} {f : Frame} (shadow : f.shadow = true) (applies : x.applyFrame f = some y) : ShadowOnly x y := by
  have settings {g : Settings → Option Settings} (applies : (g x.cfgShadow).map (fun c => { x with cfgShadow := c }) = some y) : ShadowOnly x y := by
    obtain ⟨c, -, rfl⟩ := Option.map_eq_some_iff.1 applies
    exact ⟨_, _, _, rfl⟩
  unfold Tile.applyFrame at applies
  simp only [shadow, if_true] at applies
  split at applies
  · obtain ⟨w, -, rfl⟩ := Option.map_eq_some_iff.1 applies
    exact ⟨_, _, _, rfl⟩
  · exact settings applies
  · exact settings applies
  · split at applies
    · cases applies
    · exact settings applies
  · cases applies

theorem applySkein_shadow {x y : Tile} {f : Frame} {last : Bool} (applies : x.applySkein f last = some y) : ShadowOnly x y := by
  unfold Tile.applySkein at applies
  split at applies
  · cases applies
  · next shadow =>
    split at applies
    · cases applies
    · next z frame =>
      dsimp only at applies
      split at applies
      · cases applies
      · obtain rfl := Option.some.inj applies
        exact (applyFrame_shadow (by simpa using shadow) frame).trans ⟨_, _, _, rfl⟩

theorem loadFrames_shadow {s : State} {r : Region} {f : Reel} {b : TileReel} {last : Bool} {va n : Nat} {x y : Tile}
    (loads : s.loadFrames r f b last va n x = .ok y) : ShadowOnly x y := by
  induction n generalizing y with
  | zero =>
    obtain rfl := Except.ok.inj loads
    exact .refl x
  | succ n ih =>
    unfold State.loadFrames at loads
    split at loads
    · cases loads
    · next z before =>
      refine (ih before).trans ?_
      split at loads
      · cases loads
      · dsimp only at loads
        split at loads
        · cases loads
        · split at loads
          · obtain rfl := Except.ok.inj loads
            exact .refl z
          · split at loads
            · next applies =>
              obtain rfl := Except.ok.inj loads
              exact applySkein_shadow applies
            · cases loads

/-! A load begun (R345). -/

/-- A tile whose load of a stage, or of the empty configuration, has begun: the copy in use is as it was. -/
structure LoadBegun (s u : State) (t : TileId) (next : Option Nat) : Prop where
  memory : MemorySame s u
  cfg : (u.tile t).cfg = (s.tile t).cfg
  store : (u.tile t).store = (s.tile t).store
  reel : ∃ c : TileReel, (u.tile t).reel = some c ∧ c.loading = some next ∧ c.framesDone = true ∧ c.loads = []

theorem setTile_forget_memory {s : State} {t : TileId} {x : Tile} (scratch : x.scratch = (s.tile t).scratch) (owner : Nat) :
    MemorySame s ((s.setTile t x).forgetLines owner) :=
  MemorySame.trans (memorySame_modTile_of s t (f := fun _ => x) scratch) ⟨fun _ => rfl, fun _ => rfl, fun _ _ => rfl⟩

theorem loadStage_begun {s u : State} {r : Region} {f : Reel} {t : TileId} {b : TileReel} {stage : Nat} (loads : s.loadStage r f t b stage = .ok u) :
    LoadBegun s u t (some stage) := by
  unfold State.loadStage at loads
  split at loads
  · cases loads
  · split at loads
    · cases loads
    · split at loads
      · cases loads
      · next x frames =>
        split at loads
        · cases loads
        · dsimp only at loads
          split at loads
          · cases loads
          · obtain rfl := Except.ok.inj loads
            have shadow : ShadowOnly (s.tile t) x := ShadowOnly.trans ⟨_, _, _, rfl⟩ (loadFrames_shadow frames)
            have tile (y : Tile) : ((s.setTile t y).forgetLines r.owner).tile t = y := State.tile_setTile_same s t y
            refine ⟨setTile_forget_memory (by exact shadow.part (·.scratch)) _, ?_, ?_, ?_⟩
            · rw [tile]
              exact shadow.part (·.cfg)
            · rw [tile]
              exact shadow.part (·.store)
            · rw [tile]
              exact ⟨_, rfl, rfl, rfl, rfl⟩

theorem loadEmpty_begun (s : State) (f : Reel) (t : TileId) (b : TileReel) : LoadBegun s (s.modTile t fun x => x.loadEmpty f b) t none := by
  refine ⟨memorySame_modTile s t fun _ => rfl, ?_, ?_, ?_⟩ <;> rw [State.tile_modTile_same]
  · rfl
  · rfl
  · exact ⟨_, rfl, rfl, rfl, rfl⟩

/-! A piece asked for (R247, R345). -/

/-- A band tile's request for a slot of the feeder's engine made or met. -/
def orderSlot (n : Option Nat) (x : Tile) : Tile := { x with reel := x.reel.map fun b => { b with slotReq := n } }

theorem acceptPiece_load {s u : State} {t : TileId} {shadow out : Bool} {mark : Nat} {p : Piece} {id : Word}
    (accepts : s.acceptPiece t 0 .load shadow out mark p = some (id, u)) : MemorySame s u ∧ u.tile t = orderSlot none (s.tile t) := by
  unfold State.acceptPiece at accepts
  split at accepts
  · split at accepts
    · cases accepts
    · split at accepts
      · cases accepts
      · obtain rfl := congrArg Prod.snd (Option.some.inj accepts)
        exact ⟨MemorySame.trans (memorySame_modTile s t (f := orderSlot none) fun _ => rfl) ⟨fun _ => rfl, fun _ => rfl, fun _ _ => rfl⟩,
          State.tile_modTile_same s t (orderSlot none)⟩
  · cases accepts

theorem askPiece_load {s : State} {r : Region} {f : Reel} {t : TileId} {b : TileReel} (region : s.regionOf t = some r) (reel : r.reel = some f)
    (band : (s.tile t).reel = some b) (unasked : b.slotReq = none) :
    MemorySame s (s.askPiece t 0 .load) ∧ (s.askPiece t 0 .load).tile t = orderSlot (some s.nextSeq) (s.tile t) := by
  have none : (s.pieceOrder t 0 .load f.engine).isSome = false := by simp [State.pieceOrder, band, unasked]
  have asks : s.askPiece t 0 .load = { s.modTile t (orderSlot (some s.nextSeq)) with nextSeq := s.nextSeq + 1 } := by
    simp only [State.askPiece, region, Option.bind_some, reel, none]
    rfl
  rw [asks]
  exact ⟨MemorySame.trans (memorySame_modTile s t (f := orderSlot _) fun _ => rfl) ⟨fun _ => rfl, fun _ => rfl, fun _ _ => rfl⟩,
    State.tile_modTile_same s t (orderSlot _)⟩

/-- What a step of a tile's load changes of the tile's place in the reel. -/
def LoadGoesOn (b c : TileReel) (f : Reel) : Prop :=
  (b.loading = none ∧ b.toSave = [] ∧ c.loading = f.stageAt b.slot b.swaps ∧ c.loading ≠ none ∧ c.framesDone = true ∧ c.loads = []) ∨
    ∃ p rest, b.loading ≠ none ∧ b.segments = p :: rest ∧ c.loading = b.loading ∧
      ((c.segments = rest ∧ ∃ id, c.loads = b.loads ++ [id]) ∨
        (c.segments = b.segments ∧ c.loads = b.loads ∧ b.slotReq = none ∧ c.slotReq ≠ none))

theorem LoadBegun.goesOn {s u : State} {t : TileId} {f : Reel} {b : TileReel} {next : Option Nat} (h : LoadBegun s u t next)
    (idle : b.loading = none) (saved : b.toSave = []) (due : f.stageAt b.slot b.swaps = some next) : MemorySame s u ∧ ∃ c : TileReel, (u.tile t).reel = some c ∧ (u.tile t).cfg = (s.tile t).cfg ∧
      (u.tile t).store = (s.tile t).store ∧ LoadGoesOn b c f := by
  obtain ⟨c, reel, loading, frames, loads⟩ := h.reel
  exact ⟨h.memory, c, reel, h.cfg, h.store, .inl ⟨idle, saved, loading.trans due.symm, by rw [loading]; nofun, frames, loads⟩⟩

/-- A step of a tile's load: begun, or a segment asked for, or a slot for it (R345, R348). -/
theorem loadAction_goesOn {s u : State} {r : Region} {f : Reel} {t : TileId} (region : s.regionOf t = some r) (reel : r.reel = some f)
    (goes : s.loadAction r f t = some (.ok u)) : MemorySame s u ∧ ∃ b c : TileReel,
      (s.tile t).reel = some b ∧ (u.tile t).reel = some c ∧ (u.tile t).cfg = (s.tile t).cfg ∧ (u.tile t).store = (s.tile t).store ∧ LoadGoesOn b c f := by
  unfold State.loadAction at goes
  split at goes
  · cases goes
  · next b band =>
    suffices step : MemorySame s u ∧ ∃ c : TileReel, (u.tile t).reel = some c ∧ (u.tile t).cfg = (s.tile t).cfg ∧
        (u.tile t).store = (s.tile t).store ∧ LoadGoesOn b c f from ⟨step.1, b, step.2.imp fun _ is => ⟨band, is⟩⟩
    split at goes
    · next idle =>
      split at goes
      · cases goes
      · next next due =>
        split at goes
        · cases goes
        · next may =>
          have saved : b.toSave = [] := by
            simp only [Bool.or_eq_true, Bool.not_eq_true', not_or, Bool.not_eq_false, List.isEmpty_iff] at may
            exact may.1
          have does := Option.some.inj goes
          split at does
          · exact (loadStage_begun does).goesOn idle saved due
          · obtain rfl := Except.ok.inj does
            exact (loadEmpty_begun s f t b).goesOn idle saved due
    · next stage loading =>
      split at goes
      · cases goes
      · next p rest segments =>
        split at goes
        · next id v accepts =>
          obtain rfl := Except.ok.inj (Option.some.inj goes)
          obtain ⟨memory, tile⟩ := acceptPiece_load accepts
          refine ⟨memory.trans (memorySame_modTile v t fun _ => rfl), { b with slotReq := none, segments := rest, loads := b.loads ++ [id] }, ?_, ?_, ?_,
            .inr ⟨p, rest, by rw [loading]; nofun, segments, rfl, .inl ⟨rfl, id, rfl⟩⟩⟩
          · rw [State.tile_modTile_same, tile]
            simp [orderSlot, band]
          · rw [State.tile_modTile_same, tile]
            rfl
          · rw [State.tile_modTile_same, tile]
            rfl
        · split at goes
          · cases goes
          · next unasked =>
            obtain rfl := Except.ok.inj (Option.some.inj goes)
            have none : b.slotReq = none := by simpa using unasked
            obtain ⟨memory, tile⟩ := askPiece_load region reel band none
            refine ⟨memory, { b with slotReq := some s.nextSeq }, ?_, ?_, ?_,
              .inr ⟨p, rest, by rw [loading]; nofun, segments, rfl, .inr ⟨rfl, rfl, none, nofun⟩⟩⟩
            · rw [tile]
              simp [orderSlot, band]
            · rw [tile]
              rfl
            · rw [tile]
              rfl

end Sys2Proof

/-! SEAMs, swaps, and the states saved and restored (R347-R351). -/

namespace Sys2Proof

open Sys2Proof.Machine

/-! SEAMs (R347, R348). -/

section Forward

variable {s : State} {t : TileId} {r : Region} {f : Reel} {b : TileReel}

/-- SEAMs sent make the tile forward-ready. -/
theorem sendSeams_ready (s : State) (t : TileId) (owed : List Nat) {c : TileReel} (is : ((s.sendSeams t owed).tile t).reel = some c) : c.forwardReady = true := by
  unfold State.sendSeams at is
  dsimp only at is
  rw [State.tile_modTile_same] at is
  obtain ⟨b, -, rfl⟩ := Option.map_eq_some_iff.1 is
  rfl

variable (region : s.regionOf t = some r) (reel : r.reel = some f) (runs : r.phase = .running) (band : (s.tile t).reel = some b)
  (live : (s.tile t).snapped = false)
include region reel runs band live

/-- A live tile of a running reel sends the SEAMs that it owes, or those of its outputs once its train has passed, or waits. -/
theorem exec_forwardReady (staged : b.stage.isSome = true) : exec (.forwardReady t) s = .next (
    if b.forwardReady then (if b.seamsOwed.any (s.seamGoes t) then s.sendSeams t b.seamsOwed else s.stall)
    else if (if ((s.tile t).forwardInputs f b).isEmpty then s.feedSeam r f b else ((s.tile t).forwardInputs f b).all (s.tile t).sealed) && s.quiet t then
      s.sendSeams t (s.seamOutputs t f b)
    else s.stall) := by
  have may : ¬ (decide (r.phase ≠ .running) || (s.tile t).snapped || b.stage.isNone) = true := by
    simp [runs, live, Option.isNone_iff_eq_none, Option.isSome_iff_ne_none.1 staged]
  show execForwardReady t s = _
  simp only [execForwardReady, band, region, reel]
  rw [if_neg may]
  split
  · rfl
  · exact (apply_ite (fun u : State => (.next u : Result)) _ _ _).symm

end Forward

/-! A swap (R348, R351). -/

/-- The sinks whose SEAMs a swap takes. -/
def swapSeams (s : State) (t : TileId) (f : Reel) (b : TileReel) : List Nat :=
  if b.stage.isNone then [] else (s.tile t).forwardInputs f b ++ (s.tile t).cfg.boundSinks.filter (f.backward b)

/-- A tile before its copies are exchanged: its LATE written, and its SEAMs taken. -/
def swapPrepared (s : State) (t : TileId) (f : Reel) (b : TileReel) : State :=
  (swapSeams s t f b).foldl (fun s k => s.dropSeam t k) (s.writeHeldCycles t f b)

/-- What is to be saved of the stage that a tile has run. -/
def swapSaves (f : Reel) (b : TileReel) : List Piece :=
  match b.stage with
  | some st => statePieces (f.stateAt b st) b.ranges
  | none => []

/-- A tile's place in the reel after its swap. -/
def swappedReel (f : Reel) (b : TileReel) : TileReel := { b with
  half := !b.half, stage := b.loading.getD none, ranges := b.nextRanges, loading := none, framesDone := false, segments := []
  restoreDue := false, restores := [], nextRanges := [], loads := [], forwardReady := false, seamsOwed := []
  swaps := b.swaps + 1, heldSince := none, lateBy := none, toSave := swapSaves f b }

/-- A tile whose copies have been exchanged, and its place in the reel. -/
def swapExchanged (s : State) (t : TileId) (f : Reel) (b : TileReel) : State :=
  ((swapPrepared s t f b).exchangeTile t).modTile t fun x => { x with reel := some (swappedReel f b) }

/-- The empty configuration loaded where no stage is left for the slot (log entry 112). -/
def swapLoaded (s : State) (t : TileId) (f : Reel) (b : TileReel) : State :=
  let u := swapExchanged s t f b
  if f.stageAt b.slot (b.swaps + 1) = some none && (swapSaves f b).isEmpty && b.saves.all u.allRead then u.modTile t fun x => match x.reel with
    | some b => x.loadEmpty f b
    | none => x else u

/-- A slot's swap counted by its entry tile (R348). -/
def swapCounted (s : State) (t : TileId) (f : Reel) (b : TileReel) : State :=
  if b.row = 0 && b.col = 0 then
    let g := f.actr
    let was := ((s.tile t).counters[g]).value
    let v := BitVec.ofNat 48 (min (was.toNat + 1) (2 ^ 48 - 1))
    ((s.setCounter t g v true).reachMarks t g was).sendBeacon t g none
  else s

theorem swapTile_eq (s : State) (t : TileId) (r : Region) (f : Reel) (b : TileReel) :
    s.swapTile t r f b = swapCounted ((swapLoaded s t f b).slotCredits r f b t) t f b := rfl

namespace KeepsTiles

variable (s : State) (t : TileId)

theorem dropSeam (k : Nat) : KeepsTiles Tile.settled s (s.dropSeam t k) := by
  unfold State.dropSeam
  split
  · split
    · dsimp only
      split
      · exact (modTile s t).trans (returnCredits _ t k 1)
      · exact modTile s t
    · exact refl s
  · exact refl s

theorem writeHeldCycles (f : Reel) (b : TileReel) : KeepsTiles Tile.settled s (s.writeHeldCycles t f b) := by
  unfold State.writeHeldCycles
  split
  · exact modCtx s t _ fun _ => rfl
  · exact refl s

theorem swapPrepared (f : Reel) (b : TileReel) : KeepsTiles Tile.settled s (swapPrepared s t f b) :=
  (writeHeldCycles s t f b).trans (foldl (fun s k => dropSeam s t k) _ _)

theorem slotCredits (r : Region) (f : Reel) (b : TileReel) : KeepsTiles Tile.settled s (s.slotCredits r f b t) := by
  refine foldl (fun s u => foldl (fun s p => ?_) _ s) _ s
  split
  · exact modTile s u
  · exact refl s

theorem settled_watches (x : Tile) (w : List Watch) : ({ x with watches := w } : Tile).settled = x.settled := rfl

theorem reachMarks (g : Fin 16) (was : BitVec 48) : KeepsTiles Tile.settled s (s.reachMarks t g was) := by
  unfold State.reachMarks
  dsimp only
  generalize sortWatches _ = reached
  have recorded := foldl (fun s (w : Watch) => recordLate s t g 0 w.mark w.id) reached s
  refine recorded.trans ?_
  refine modTile _ t fun x => ?_
  exact settled_watches x _

theorem setCounter (g : Fin 16) (v : BitVec 48) (counts : Bool) : KeepsTiles Tile.uncounted s (s.setCounter t g v counts) := by
  by_cases same : v = (s.counterAt t g).value
  · rw [show s.setCounter t g v counts = s from if_pos same]
    exact refl s
  · obtain ⟨acc, n, -, sets⟩ := setCounter_changes counts same
    rw [sets]
    exact (frame (u := { s with frees := n })).trans (modTile _ t)

end KeepsTiles

/-- A count set leaves the tile's other counters. -/
theorem counterAt_setCounter_other {s : State} {t : TileId} {g a : Fin 16} (other : g ≠ a) (v : BitVec 48) (counts : Bool) :
    (s.setCounter t a v counts).counterAt t g = s.counterAt t g := by
  by_cases same : v = (s.counterAt t a).value
  · rw [show s.setCounter t a v counts = s from if_pos same]
  · obtain ⟨acc, n, -, sets⟩ := setCounter_changes counts same
    rw [sets]
    unfold State.counterAt
    rw [State.tile_modTile_same]
    have apart : a.val ≠ g.val := fun e => other (Fin.ext e.symm)
    simp [Tile.modCounter, apart]
    rfl

/-- A swap counted changes nothing but the one counter and what follows from it. -/
theorem swapCounted_keeps (s : State) (t : TileId) (f : Reel) (b : TileReel) : KeepsTiles Tile.uncounted s (swapCounted s t f b) := by
  unfold swapCounted
  split
  · exact ((KeepsTiles.setCounter s t _ _ _).trans (KeepsTiles.reachMarks _ t _ _).uncounted).trans (KeepsTiles.sendBeacon _ t _).uncounted
  · exact KeepsTiles.refl s

/-- The slot counter counts the swap of the slot's entry tile, up to its limit (R348). -/
theorem swapCounted_value (s : State) (t : TileId) (f : Reel) (b : TileReel) (g : Fin 16) : ((swapCounted s t f b).counterAt t g).value =
    if b.row = 0 ∧ b.col = 0 ∧ g = f.actr then BitVec.ofNat 48 (min ((s.counterAt t g).value.toNat + 1) (2 ^ 48 - 1)) else (s.counterAt t g).value := by
  unfold swapCounted
  split
  · next entry =>
    obtain ⟨row, col⟩ : b.row = 0 ∧ b.col = 0 := by simpa using entry
    rw [((KeepsTiles.reachMarks _ t _ _).trans (KeepsTiles.sendBeacon _ t _)).value t g]
    by_cases actr : g = f.actr
    · subst actr
      rw [if_pos ⟨row, col, rfl⟩]
      exact (setCounter_keeps s t f.actr _ true).2.2.1
    · rw [if_neg fun h => actr h.2.2, counterAt_setCounter_other actr]
  · next inner => rw [if_neg fun h => inner (by simp [h.1, h.2.1])]

/-- What of a tile is as a swap has it: its copies exchanged, and its counters' values as before. -/
structure Swapped (x y : Tile) : Prop where
  cfg : y.cfg = x.cfgShadow.unpaired
  store : y.store = x.storeShadow
  storeShadow : y.storeShadow = x.store
  values : ∀ g : Fin 16, (y.counters[g]).value = (x.counters[g]).value

theorem Swapped.withReel {x y : Tile} (h : Swapped x y) (c : Option TileReel) : Swapped x { y with reel := c } :=
  ⟨h.cfg, h.store, h.storeShadow, h.values⟩

theorem Swapped.loadEmpty {x y : Tile} (h : Swapped x y) (f : Reel) (b : TileReel) : Swapped x (y.loadEmpty f b) :=
  ⟨h.cfg, h.store, h.storeShadow, h.values⟩

theorem swapped_exchangeTile (s : State) (t : TileId) (f : Reel) (b : TileReel) :
    Swapped (s.tile t) (((swapPrepared s t f b).exchangeTile t).tile t) := by
  have prepared := KeepsTiles.swapPrepared s t f b
  have keeps := exchangeTile_keeps (swapPrepared s t f b) t
  obtain ⟨cfg, -, store, storeShadow, -, -, -, -, values⟩ := exchange_eq ((swapPrepared s t f b).tile t)
  refine ⟨?_, ?_, ?_, fun g => ?_⟩
  · rw [keeps.uncounted.part (·.cfg) t, State.tile_modTile_same, cfg, prepared.uncounted.part (·.cfgShadow) t]
  · rw [keeps.uncounted.part (·.store) t, State.tile_modTile_same, store, prepared.uncounted.part (·.storeShadow) t]
  · rw [keeps.uncounted.part (·.storeShadow) t, State.tile_modTile_same, storeShadow, prepared.uncounted.part (·.store) t]
  · refine (keeps.value t g).trans ?_
    rw [State.counterAt, State.tile_modTile_same, values g]
    exact prepared.value t g

theorem swapExchanged_tile (s : State) (t : TileId) (f : Reel) (b : TileReel) : (swapExchanged s t f b).tile t =
    { ((swapPrepared s t f b).exchangeTile t).tile t with reel := some (swappedReel f b) } :=
  State.tile_modTile_same _ _ _

/-- A tile's place in the reel after its swap, whether or not the empty configuration is loaded at once. -/
structure InPlace (f : Reel) (b c : TileReel) : Prop where
  half : c.half = !b.half
  stage : c.stage = b.loading.getD none
  ranges : c.ranges = b.nextRanges
  swaps : c.swaps = b.swaps + 1
  forwardReady : c.forwardReady = false
  heldSince : c.heldSince = none
  toSave : c.toSave = swapSaves f b

theorem swapLoaded_tile (s : State) (t : TileId) (f : Reel) (b : TileReel) :
    Swapped (s.tile t) ((swapLoaded s t f b).tile t) ∧ ∃ c, ((swapLoaded s t f b).tile t).reel = some c ∧ InPlace f b c := by
  have exchanged := swapped_exchangeTile s t f b
  have tile := swapExchanged_tile s t f b
  unfold swapLoaded
  dsimp only
  split
  · rw [State.tile_modTile_same, tile]
    exact ⟨(exchanged.withReel _).loadEmpty f _, _, rfl, rfl, rfl, rfl, rfl, rfl, rfl, rfl⟩
  · rw [tile]
    exact ⟨exchanged.withReel _, _, rfl, rfl, rfl, rfl, rfl, rfl, rfl, rfl⟩

/-- A swap: the copies exchanged, the tile's place in the reel, and its counters (R348, R351). -/
theorem swapTile_tile (s : State) (t : TileId) (r : Region) (f : Reel) (b : TileReel) :
    let y := (s.swapTile t r f b).tile t
    y.cfg = (s.tile t).cfgShadow.unpaired ∧ y.store = (s.tile t).storeShadow ∧ y.storeShadow = (s.tile t).store ∧
      (∃ c : TileReel, y.reel = some c ∧ c.half = !b.half ∧ c.stage = b.loading.getD none ∧ c.ranges = b.nextRanges ∧
        c.swaps = b.swaps + 1 ∧ c.forwardReady = false ∧ c.heldSince = none ∧ c.toSave = swapSaves f b) ∧
      ∀ g : Fin 16, (y.counters[g]).value = if b.row = 0 ∧ b.col = 0 ∧ g = f.actr then
        BitVec.ofNat 48 (min (((s.tile t).counters[g]).value.toNat + 1) (2 ^ 48 - 1)) else ((s.tile t).counters[g]).value := by
  obtain ⟨⟨cfg, store, storeShadow, values⟩, c, is, place⟩ := swapLoaded_tile s t f b
  have credits := KeepsTiles.slotCredits (swapLoaded s t f b) t r f b
  have keeps := credits.uncounted.trans (swapCounted_keeps _ t f b)
  rw [swapTile_eq]
  refine ⟨(keeps.part (·.cfg) t).trans cfg, (keeps.part (·.store) t).trans store, (keeps.part (·.storeShadow) t).trans storeShadow,
    ⟨c, (keeps.part (·.reel) t).trans is, place.half, place.stage, place.ranges, place.swaps, place.forwardReady, place.heldSince, place.toSave⟩,
    fun g => (swapCounted_value _ t f b g).trans ?_⟩
  rw [credits.value t g, State.counterAt, values g]

section Swap

variable {s : State} {t : TileId} {r : Region} {f : Reel} {b : TileReel} (region : s.regionOf t = some r) (reel : r.reel = some f) (runs : r.phase = .running)
  (band : (s.tile t).reel = some b) (live : (s.tile t).snapped = false) (laid : f.laid = true) (ready : s.swapReady t f b = true)
include region reel runs band live laid ready

theorem exec_reelSwap : exec (.reelSwap t) s =
    if !s.loaded b then .next (if b.stage.isSome && b.heldSince.isNone then s.holdReady t r f b else s.stall)
    else if !(s.tile t).drained || !b.seamsOwed.isEmpty then .next s.stall
    else match (b.loading.bind id).bind (s.badStage r f b.slot) with
      | some u => .next (s.reelFault r Cause.ill (r.placeOf u) none none)
      | none => .next (s.swapTile t r f b) := by
  have may : ¬ (decide (r.phase ≠ .running) || (s.tile t).snapped || !f.laid || !s.swapReady t f b) = true := by
    simp [runs, live, laid, ready]
  show execReelSwap t s = _
  simp only [execReelSwap, band, region, reel]
  exact (if_neg may).trans rfl

section Loaded

variable (loaded : s.loaded b = true) (drained : (s.tile t).drained = true) (sent : b.seamsOwed = [])
include loaded drained sent

theorem exec_reelSwap_bad {k : TileId} (bad : (b.loading.bind id).bind (s.badStage r f b.slot) = some k) :
    exec (.reelSwap t) s = .next (s.reelFault r Cause.ill (r.placeOf k) none none) := by
  rw [exec_reelSwap region reel runs band live laid ready]
  rw [if_neg (by simp [loaded]), if_neg (by simp [drained, sent]), bad]

theorem exec_reelSwap_swaps (good : (b.loading.bind id).bind (s.badStage r f b.slot) = none) : exec (.reelSwap t) s = .next (s.swapTile t r f b) := by
  rw [exec_reelSwap region reel runs band live laid ready]
  rw [if_neg (by simp [loaded]), if_neg (by simp [drained, sent]), good]

end Loaded

theorem exec_reelSwap_holds (unloaded : s.loaded b = false) (staged : b.stage.isSome = true) (first : b.heldSince = none) :
    exec (.reelSwap t) s = .next (s.holdReady t r f b) := by
  rw [exec_reelSwap region reel runs band live laid ready]
  simp [unloaded, staged, first]

end Swap

/-- A tile that is held is so from its cycle on (R349). -/
theorem holdReady_since {s : State} {t : TileId} {b : TileReel} (band : (s.tile t).reel = some b) (r : Region) (f : Reel) :
    ∃ c : TileReel, ((s.holdReady t r f b).tile t).reel = some c ∧ c.heldSince = some (s.tile t).cycle.toNat := by
  unfold State.holdReady
  extract_lets n first open' u late mark v
  have held : ∃ c : TileReel, (v.tile t).reel = some c ∧ c.heldSince = some (s.tile t).cycle.toNat := by
    refine ⟨{ b with heldSince := some (s.tile t).cycle.toNat, lateBy := if late then some ((s.tile t).recorder f.actr, mark) else none }, ?_, rfl⟩
    have band' : (u.tile t).reel = some b := band
    simp only [v, State.tile_modTile_same, band', Option.map_some]
    rfl
  split
  · obtain ⟨c, is, since⟩ := held
    exact ⟨c, ((KeepsTiles.recordLate v t _ _ _ _).uncounted.part (·.reel) t).trans is, since⟩
  · exact held

/-! States saved and restored (R350). -/

section Pieces

variable {s : State} {t : TileId} {b : TileReel} (band : (s.tile t).reel = some b) {p : Piece} {rest : List Piece} {id : Word} {u : State}
include band

theorem exec_stateSave (copied : s.copyPieces t true = s) (due : b.toSave = p :: rest) (accepts : s.acceptPiece t 0 .save true true 0 p = some (id, u)) :
    exec (.stateSave t) s = .next (u.modTile t fun x => { x with reel := x.reel.map fun b => { b with toSave := rest, saves := b.saves ++ [id] } }) := by
  show execStateSave t s = _
  simp only [execStateSave, copied, band, due, accepts]

theorem exec_stateRestore {r : Region} {f : Reel} (region : s.regionOf t = some r) (reel : r.reel = some f) (copied : s.copyPieces t false = s) {stage : Nat}
    (loading : b.loading = some (some stage)) (segments : b.segments = []) (begun : b.restoreDue = false) (due : b.restores = p :: rest)
    (accepts : s.acceptPiece t 0 .load true false (b.swaps + 1) p = some (id, u)) : exec (.stateRestore t) s =
      .next (u.modTile t fun x => { x with reel := x.reel.map fun b => { b with restoreDue := false, restores := rest, loads := b.loads ++ [id] } }) := by
  show execStateRestore t s = _
  simp [execStateRestore, copied, band, region, loading, reel, segments, begun, due, accepts]

end Pieces

/-- Settles O43: each happening of a reel in the state that its conditions describe. -/
theorem reelHappenings : Obligations.ReelHappenings := by
  intro s r f region reel runs
  refine ⟨fun slot u bound lays loads => exec_feederLoad region reel runs bound lays loads,
    fun u lays => layReel_lays region lays,
    fun t u at' goes => loadAction_goesOn at' reel goes, fun laid left credit => ?trains, fun t b at' band live => ?tile⟩
  case trains =>
    exact ⟨fun words v reads above => exec_feederTrainAppend_word region reel runs laid left credit words reads above,
      fun tail => ⟨_, exec_feederTrainAppend_eoi region reel runs laid left credit tail, rfl⟩,
      fun tail => ⟨_, exec_feederTrainAppend_seam region reel runs laid left credit tail, rfl⟩⟩
  case tile =>
    intro x
    refine ⟨fun staged unready quiet seams => ?ready, fun staged ready goes => ?owed,
      fun laid ready => ⟨fun loaded drained sent => ⟨fun k bad => ?bad, fun good => ?swaps⟩,
      fun unloaded staged first => ?held⟩, fun p rest id u copied due accepts => ⟨_, exec_stateSave band copied due accepts, rfl⟩,
      fun stage p rest id u copied loading segments begun due accepts =>
        ⟨_, exec_stateRestore band at' reel copied loading segments begun due accepts, rfl⟩⟩
    case ready =>
      refine ⟨s.sendSeams t (s.seamOutputs t f b), ?_, rfl, fun c => sendSeams_ready s t _⟩
      rw [exec_forwardReady at' reel runs band live staged, if_neg (by simp [unready]), if_pos (by simpa [quiet] using seams)]
    case owed =>
      refine ⟨s.sendSeams t b.seamsOwed, ?_, rfl⟩
      rw [exec_forwardReady at' reel runs band live staged, if_pos ready, if_pos (by simpa using goes)]
    case bad => exact ⟨_, exec_reelSwap_bad at' reel runs band live laid ready loaded drained sent bad, rfl⟩
    case swaps => exact ⟨_, exec_reelSwap_swaps at' reel runs band live laid ready loaded drained sent good, rfl, swapTile_tile s t r f b⟩
    case held => exact ⟨_, exec_reelSwap_holds at' reel runs band live laid ready unloaded staged first, rfl, holdReady_since band r f⟩

end Sys2Proof
